-- ==== Sys2Proof/Word.lean ====
section
/-! DEFINITION. The word types of the cube: registers are 64 bits, instruction words 32 bits, memory is
bytes (spec 00 R6, 10 R200, 10 R211). -/

namespace Sys2Proof

/-- A 64-bit register value (g registers, counters, system registers: 10 R211). -/
abbrev Word := BitVec 64

/-- A 32-bit instruction word (10 R200). -/
abbrev IWord := BitVec 32

/-- One byte of memory, of a tile peck or of a vector register. -/
abbrev Byte := BitVec 8

/-- A sparse table: keys strictly rising, one value a key; a key that is not listed has the table's default. -/
abbrev Tbl (α : Type) := List (Nat × α)

end Sys2Proof
end

