-- ==== Sys2Proof/Config.lean ====
section
/-! DEFINITION. What one silicon revision or one run fixes and the spec leaves open: constants without a body, so
that no proof can rest on a value (notes/assumptions names each). -/

namespace Sys2Proof

/-- The die stepping and metal version that `ident` reports (11 R234). -/
opaque Config.revision : BitVec 16

/-- The lease counts that pass in the n-th step; the spec fixes no relation of steps to time (00 R9). -/
opaque Config.elapsed : Nat → Nat

/-- The number from which the set of a line in its L2 slice is taken; the spec gives ways and capacity and no index
function (02 R29, R30). -/
opaque Config.l2Index : Nat → Nat
/-- The same for the fast-tier slice of the line's vault. -/
opaque Config.fastIndex : Nat → Nat

/-- The difference that the n-th comparison of a slice's lease-clock copy with the reference finds (05 R106). -/
opaque Config.skewOf : Nat → Int

/-- The core whose turn it is in the n-th step, and whether a due step goes first; the spec fixes no interleaving of
the cores and units (00 R9). -/
opaque Config.turn : Nat → Nat

/-- FREE VALUE. Have the requests for one line that are due at several ports of its slice arrived in one cycle (03 R70; log entry
120)? Asked with the step's number. -/
opaque Config.contested : Nat → Bool

/-- Values of registers that the spec leaves open: the n-th such value (07 R166: what a migrating context does not
carry). -/
opaque Config.freeWord : Nat → Word

/-- Values of mask registers that the spec leaves open (07 R166). -/
opaque Config.freeMask : Nat → BitVec 256

/-- The lease counts that the n-th near-bank burst, or what is left of one, takes (08 R181). -/
opaque Config.burst : Nat → Nat

/-- The lease counts from the end of a bound to the point at which a burst pauses: the command in progress, and one more where
that ends its row group, take at most 64 ns each (08 R181). -/
opaque Config.safePoint : Nat → Nat

/-- The 32 bytes of the n-th identity or attestation value that the fuse block or the hash of firmware
fixes (17 R357). -/
opaque Config.fuse : Nat → BitVec 256

/-- The cubes of a multicast group, whose acknowledgements the source awaits: the fabric manager's trees reach them, and no
register of the source names them (06 R144). -/
opaque Config.groupCubes : Nat → List Nat

/-- The throttle level that the governor's n-th sample sets: the spec gives its aim, not its rule (17 R363). -/
opaque Config.throttle : Nat → Nat

/-- The return code (0 Success, 1 Invalid Input, 2 Unsupported, else Busy) and payload with which the mailbox answers an
opcode of the CXL specification, which the spec names and does not describe (17 R360). -/
opaque Config.cxlAnswer : Nat → List Byte → Nat × List Byte

/-- The answer to an MCTP control message, which the spec leaves to DSP0236 (17 R361). -/
opaque Config.mctpControl : List Byte → List Byte

end Sys2Proof
end

