-- ==== Sys2Proof/Machine/Table.lean ====
section
/-! DEFINITION. Sparse tables: the one representation of every indexed store of the cube (memory, register
files, tables of entries), held as sorted association lists. -/

namespace Sys2Proof

/-- The value of key `k`, or `d` when the table lists none. -/
def tblGet {α : Type} : Tbl α → Nat → α → α
  | [], _, d => d
  | (a, b) :: r, k, d => if k = a then b else tblGet r k d

/-- The table with key `k` at `v`; keys stay strictly rising. -/
def tblSet {α : Type} : Tbl α → Nat → α → Tbl α
  | [], k, v => [(k, v)]
  | (a, b) :: r, k, v =>
    if k < a then (k, v) :: (a, b) :: r
    else if k = a then (k, v) :: r
    else (a, b) :: tblSet r k v

/-- The table without key `k`. -/
def tblDel {α : Type} : Tbl α → Nat → Tbl α
  | [], _ => []
  | (a, b) :: r, k => if k = a then tblDel r k else (a, b) :: tblDel r k

/-- The value of key `k` of a store of bit vectors whose unlisted keys read 0. -/
def memGet {n : Nat} (m : Tbl (BitVec n)) (k : Nat) : BitVec n := tblGet m k 0#n

/-- A write to a store of bit vectors: writing 0, which is what an unlisted key reads as, removes the entry,
so equal stores are equal lists. -/
def memSet {n : Nat} (m : Tbl (BitVec n)) (k : Nat) (v : BitVec n) : Tbl (BitVec n) :=
  if v = 0#n then tblDel m k else tblSet m k v

/-- Keys rise strictly from above `lo`, and no entry is 0. -/
def memSorted {n : Nat} : Nat → Tbl (BitVec n) → Bool
  | _, [] => true
  | lo, (a, b) :: r => decide (lo ≤ a) && decide (b ≠ 0#n) && memSorted (a + 1) r

/-- The canonical form of memory: addresses strictly rising, no entry equal to 0, which an unlisted address
reads as. -/
def Memory.wf {n : Nat} (m : Tbl (BitVec n)) : Bool := memSorted 0 m

/-- `k` bytes from address `a` upward. -/
def memRead (m : Tbl Byte) (a : Nat) : Nat → List Byte
  | 0 => []
  | k + 1 => memGet m a :: memRead m (a + 1) k

/-- The bytes written from address `a` upward. -/
def memWrite (m : Tbl Byte) (a : Nat) : List Byte → Tbl Byte
  | [] => m
  | b :: r => memWrite (memSet m a b) (a + 1) r

end Sys2Proof
end

