-- ==== Sys2Proof/Machine/Bits.lean ====
section
/-! DEFINITION. Bit fields, sign extension and byte order (spec 00 R6: multi-byte values are little-endian),
and the integer helpers of 09 R187 and R188. -/

namespace Sys2Proof

/-- Bits `[hi:lo]` of a number (00 R6, Table 0.4). -/
def bitsOf (x hi lo : Nat) : Nat := (x / 2 ^ lo) % 2 ^ (hi + 1 - lo)

/-- Bit `i` of a number. -/
def bitOf (x i : Nat) : Bool := (x / 2 ^ i) % 2 == 1

/-- 1 for true. -/
def b2n (b : Bool) : Nat := if b then 1 else 0

/-- The field `v` of `len` bits placed at bit `lo`. -/
def putBits (v lo len : Nat) : Nat := (v % 2 ^ len) * 2 ^ lo

/-- The little-endian value of a list of bytes. -/
def ofBytes : List Byte → Nat
  | [] => 0
  | b :: r => b.toNat + 256 * ofBytes r

/-- The `k` low bytes of a value, least significant first. -/
def toBytes (x : Nat) : Nat → List Byte
  | 0 => []
  | k + 1 => BitVec.ofNat 8 x :: toBytes (x / 256) k

/-- The value read as a two's complement number of `n` bits. -/
def signedOf (n x : Nat) : Int :=
  let y := x % 2 ^ n
  if 2 * y < 2 ^ n then (y : Int) else (y : Int) - (2 ^ n : Nat)

/-- `wrap_nN` of an integer, as a natural number (09 R187). -/
def wrapN (n : Nat) (x : Int) : Nat := (x % ((2 ^ n : Nat) : Int)).toNat

/-- `sat_iN` (09 R187). -/
def satI (n : Nat) (x : Int) : Int :=
  min (max x (-(2 ^ (n - 1) : Nat))) ((2 ^ (n - 1) : Nat) - 1)

/-- `sat_nN` (09 R187). -/
def satN (n : Nat) (x : Int) : Int := min (max x 0) ((2 ^ n : Nat) - 1)

/-- Sign extension of the low `n` bits to 64 bits. -/
def sext64 (n : Nat) (x : Nat) : Word := BitVec.ofInt 64 (signedOf n x)

/-- Zero extension of the low `n` bits to 64 bits. -/
def zext64 (n : Nat) (x : Nat) : Word := BitVec.ofNat 64 (x % 2 ^ n)

/-- The quotient of 09 R188 as the bits of an N-bit value: truncation toward zero, all ones for a zero divisor. -/
def divInt (n : Nat) (a b : Int) : Nat :=
  if b = 0 then 2 ^ n - 1 else wrapN n (Int.tdiv a b)

/-- The remainder of 09 R188: the sign of the dividend; the dividend for a zero divisor. -/
def remInt (n : Nat) (a b : Int) : Nat :=
  if b = 0 then wrapN n a else wrapN n (Int.tmod a b)

/-- Number of one bits among the low `k` bits. -/
def popCount (x : Nat) : Nat → Nat
  | 0 => 0
  | k + 1 => x % 2 + popCount (x / 2) k

/-- Leading zeros of a `k`-bit value. -/
def leadZeros (x : Nat) : Nat → Nat
  | 0 => 0
  | k + 1 => if bitOf x k then 0 else leadZeros x k + 1

/-- Trailing zeros of a `k`-bit value; `k` when it is 0. -/
def trailZeros (x : Nat) : Nat → Nat
  | 0 => 0
  | k + 1 => if x % 2 == 1 then 0 else trailZeros (x / 2) k + 1

/-- The first set bit of a `k`-bit mask at or above `i`. -/
def firstBit (x i : Nat) : Nat → Option Nat
  | 0 => none
  | k + 1 => if bitOf x i then some i else firstBit x (i + 1) k

/-- ceil(a / b) for b > 0. -/
def ceilDiv (a b : Nat) : Nat := (a + b - 1) / b

/-- xor of the `w`-bit pieces of x, over `k` pieces (05 R95 fold6, fold8; R101 foldH). -/
def foldXor (w : Nat) (x : Nat) : Nat → Nat
  | 0 => 0
  | k + 1 => (x % 2 ^ w) ^^^ foldXor w (x / 2 ^ w) k

/-- The naturals `i` to `i + k - 1`. -/
def countUp (i : Nat) : Nat → List Nat
  | 0 => []
  | k + 1 => i :: countUp (i + 1) k

/-- The element at position `i`, or `d`. -/
def nthD {α : Type} : List α → Nat → α → α
  | [], _, d => d
  | a :: _, 0, _ => a
  | _ :: r, i + 1, d => nthD r i d

/-- The list with position `i` replaced. -/
def setNth {α : Type} : List α → Nat → α → List α
  | [], _, _ => []
  | _ :: r, 0, v => v :: r
  | a :: r, i + 1, v => a :: setNth r i v

/-- The bytes with `new` written over position `i` upward. -/
def overlay (old : List Byte) (i : Nat) (new : List Byte) : List Byte :=
  old.take i ++ new ++ old.drop (i + new.length)

/-- 64-bit words of a byte list, least significant byte first; the list is taken as padded with zeros. -/
def wordsOf (bs : List Byte) (k : Nat) : List Nat :=
  (countUp 0 k).map fun i => ofBytes ((bs.drop (8 * i)).take 8)

/-- The bytes of a list of 64-bit words. -/
def bytesOfWords (ws : List Nat) : List Byte := ws.flatMap fun w => toBytes w 8

end Sys2Proof
end

