-- ==== Sys2Proof/Syntax.lean ====
section
/-! DEFINITION. The instructions and steps of the cube: one constructor of `Instr` per row of the opcode table
(10 Tables 10.7 to 10.9 for the instruction words; 95 and the chapters for the steps of the units), and the
records that the steps carry. -/

namespace Sys2Proof

/-- An operand specifier (10 Table 10.6). -/
inductive Opd where
  | g (i : BitVec 4)
  | q (i : BitVec 3)
  | link (i : BitVec 2)
  | z
  | lit
  | res (hi : Bool)
  deriving DecidableEq, Repr

/-- The 5-bit code of an operand specifier. -/
def Opd.code : Opd → BitVec 5
  | .g i => 0#1 ++ i
  | .q i => 2#2 ++ i
  | .link i => 6#3 ++ i
  | .z => 28#5
  | .lit => 29#5
  | .res false => 30#5
  | .res true => 31#5

/-- The operand specifier of a 5-bit code. -/
def Opd.ofCode (c : BitVec 5) : Opd :=
  if c.toNat < 16 then .g (c.extractLsb' 0 4)
  else if c.toNat < 24 then .q (c.extractLsb' 0 3)
  else if c.toNat < 28 then .link (c.extractLsb' 0 2)
  else if c.toNat = 28 then .z
  else if c.toNat = 29 then .lit
  else .res (c.toNat == 31)

/-- Does the specifier name a queue (codes 16 to 27)? -/
def Opd.isQueue : Opd → Bool
  | .q _ => true
  | .link _ => true
  | _ => false

/-- Type codes (10 Table 10.4). -/
inductive Ty where
  | i8 | i16 | i32 | i64 | n8 | n16 | n32 | n64 | f32 | bf16 | c4
  deriving DecidableEq, Repr

/-- The 4-bit code of a type. -/
def Ty.code : Ty → BitVec 4
  | .i8 => 0#4 | .i16 => 1#4 | .i32 => 2#4 | .i64 => 3#4 | .n8 => 4#4 | .n16 => 5#4 | .n32 => 6#4
  | .n64 => 7#4 | .f32 => 8#4 | .bf16 => 9#4 | .c4 => 10#4

/-- The type of a 4-bit code; 11 to 15 are reserved. -/
def Ty.ofCode (c : BitVec 4) : Option Ty :=
  match c.toNat with
  | 0 => some .i8 | 1 => some .i16 | 2 => some .i32 | 3 => some .i64 | 4 => some .n8 | 5 => some .n16
  | 6 => some .n32 | 7 => some .n64 | 8 => some .f32 | 9 => some .bf16 | 10 => some .c4
  | _ => none

/-- What every instruction's words carry beside its operands: the predicate and the literal (10 R200, R207). -/
structure Hd where
  pneg : Bool
  pred : BitVec 3
  lit : Option (BitVec 64)
  deriving DecidableEq, Repr

/-- The extended words of loads and stores (10 Table 10.5): W1 displacement, W2 hint. -/
structure MemExt where
  disp : BitVec 32
  hint : BitVec 2
  deriving DecidableEq, Repr

/-- The flags of an engine command's W2 (10 Table 10.5). -/
structure EFlags where
  acq : Bool
  rel : Bool
  scope : BitVec 2
  deriving DecidableEq, Repr

/-- A counter operand (10 Table 10.9): memory counter at g(i), or local counter lc(i). -/
inductive Ctr where
  | mem (i : BitVec 4)
  | lc (i : BitVec 4)
  deriving DecidableEq, Repr

/-- The extended words of an atomic (12 R254, R257). -/
structure AOp where
  ty : Ty
  m : Bool
  x1 : BitVec 6
  x2 : BitVec 6
  core : BitVec 20
  deriving DecidableEq, Repr

/-- The extended words of a vector instruction (10 Table 10.3, 13 Table 13.1). -/
structure VOp where
  x1 : BitVec 6
  x2 : BitVec 6
  x3 : BitVec 6
  x4 : BitVec 6
  msk : BitVec 3
  ty : Ty
  rnd : BitVec 2
  bs : Bool
  sat : Bool
  part : BitVec 2
  hint : BitVec 2
  sc : BitVec 2
  deriving DecidableEq, Repr

/-- The extended words of an mma (13 Table 13.6). -/
structure MOp where
  x1 : BitVec 6
  x2 : BitVec 6
  x3 : BitVec 6
  x4 : BitVec 6
  ty : Ty
  spn : Bool
  sav : Bool
  sbv : Bool
  sh : BitVec 6
  srow : BitVec 10
  deriving DecidableEq, Repr

/-- The extended words of an accumulator instruction (13 R287). -/
structure AccOp where
  x1 : BitVec 6
  x2 : BitVec 6
  ty : Ty
  rnd : BitVec 2
  par : Bool
  zr : Bool
  deriving DecidableEq, Repr

/-- The extended words of `kload` (13 R281). -/
structure KOp where
  x1 : BitVec 6
  x2 : BitVec 6
  ty : Ty
  src : Bool
  deriving DecidableEq, Repr

/-! The records that the steps of the units carry. Addresses, numbers of cores, ports, slices and identifiers
are natural numbers; register contents are words. -/

/-- What kind of agent issues a request (03 R57, R75; 05 R95). -/
inductive AKind where
  | thread | streamer | engine | taskUnit | host | walker | home | unit
  deriving DecidableEq, Repr

/-- An agent: its kind, its global core number (for a unit of a cube, cube * 256), its unit number and, for a
thread, the context. -/
structure Agent where
  kind : AKind
  core : Nat
  idx : Nat
  deriving DecidableEq, Repr

/-- The target of a directed atomic (12 R257). -/
structure DirTo where
  core : Nat
  handle : Nat
  entry : Nat
  lc : Nat
  deriving DecidableEq, Repr

/-- Who answers for a failure: the issuer's origin core and context and its start number (16 R342). -/
structure Origin where
  core : Nat
  ctx : Nat
  start : Nat
  deriving DecidableEq, Repr

/-- A near-bank command (14 R313 to R316): kind 0 `nb.comb`, 1 `nb.fill`, 2 `nb.red`, its eight descriptor
words, and the flags. -/
structure NbCmd where
  kind : Nat
  words : List Nat
  acq : Bool
  rel : Bool
  scope : Nat
  status : Nat := 0
  vault : Nat := 0
  deriving DecidableEq, Repr

/-- What an access does at its home. -/
inductive Act where
  | load (size pol hint : Nat)
  | store (pol hint : Nat) (data : List Byte)
  | fetch
  | atomic (op form : Nat) (ty : Ty) (v cmp : Nat) (merge : Bool) (dir : Option DirTo)
  | counter (op v : Nat)
  | watch (target : Nat)
  | unwatch (id : Nat)
  | notice (read : Bool) (write : Bool)
  | maint (flush : Bool) (size : Nat)
  | translate (cls : Nat)
  | red (rop stream cidx : Nat) (data : List Byte)
  | nb (c : NbCmd)
  | wb (mask dirty : Nat) (data : List Byte)
  deriving DecidableEq, Repr

/-- A further contributor of a merged request (06 R124, R143): its source cube, class, SEQ and SAG, and its
bit in a
stream's mask. -/
structure Contrib where
  cube : Nat
  cls : Nat
  seq : Nat
  sag : Nat
  bit : Nat
  deriving DecidableEq, Repr

/-- An access before and after translation: the issuer, its request number, the virtual address, and, once
translated, the physical address, the map version and the attributes that travel with it. `tagSet` counts the region tags that
its check has installed, `room` tells how many more its context can count (04 R87), `counted` that migration counting has seen
it (05 R113), `turn` that it has waited at its section and is served (05 R97), and `under` gives the words, as its core
owns them dirty, that a narrower store lies in (03 Table 3.7). `arrived` tells that its home slice has accepted it (03 R70). -/
structure Req where
  who : Agent
  id : Nat
  org : Origin
  space : Nat
  va : Nat
  task : Bool
  act : Act
  rdet : Bool := false
  tag : Nat := 0
  readCk : Bool := false
  writeCk : Bool := false
  pa : Nat := 0
  ver : Nat := 0
  pin : Bool := false
  compute : Bool := false
  exp : Option Nat := none
  age : Nat := 0
  redirects : Nat := 0
  waits : Nat := 0
  fresh : Bool := false
  noInstall : Bool := false
  cube : Nat := 0
  at_ : Nat := 0
  miss : Bool := false
  known : List (Nat × Bool) := []
  swept : Bool := false
  spared : Bool := false
  e2e : Option (Nat × Nat × Nat) := none
  others : List Contrib := []
  mflags : Nat := 0
  dest : Nat := 0
  local_ : Nat := 0
  words : Nat := 0
  tagSet : Nat := 0
  room : Nat := 4194303
  counted : Bool := false
  turn : Bool := false
  served : Bool := false
  under : List Byte := []
  probe : Bool := false
  direct : Bool := false
  reseq : Option (Nat × Nat × Nat) := none
  again : Bool := false
  arrived : Bool := false
  deriving DecidableEq, Repr

/-- How an answer ends a request: success, or a trap cause with its INFO1 and INFO2 (16 Table 16.2). -/
inductive Status where
  | ok
  | fail (cause info1 info2 : Nat)
  deriving DecidableEq, Repr

/-- An answer to a request: line data for FILL, words for DATA, NOCACHE and GRANT, the count of
acknowledgements to expect, and the flags an atomic raised (03 Table 3.6). `mask` gives the words of the line
that `data` (128 bytes) holds; `dirty` those handed over dirty; `tagSet` counts the region tags installed (04 R87). -/
structure Ans where
  who : Agent
  id : Nat
  st : Status
  mask : Nat
  data : List Byte
  dirty : Nat
  n : Nat
  value : Nat
  flags : Nat
  tagSet : Nat
  deriving DecidableEq, Repr

/-- A message from home to a sharer or registrant about a line or a word (03 Table 3.6). `agent` is the sharer
or registrant, `vline` its virtual line, `word` the word, `writer` who awaits the acknowledgement, and `req` the
request that a forward serves. -/
structure CohMsg where
  agent : Nat
  host : Bool
  space : Nat
  vline : Nat
  line : Nat
  word : Nat
  writer : Agent
  wid : Nat
  home : Nat
  deriving DecidableEq, Repr

/-- NACK-REDIRECT (01 R18): the reason 1 OLD_VERSION, 2 NEWER_VERSION, 3 MOVING, 4 NOT_HOME; others as 06
Table 6.7 numbers them. -/
structure NackMsg where
  who : Agent
  id : Nat
  reason : Nat
  ver : Nat
  hint : Option Nat
  e2e : Option (Nat × Nat × Nat) := none
  deriving DecidableEq, Repr

/-- A race-tracking entry (04 Table 4.5): the word, its writer's tag and its readers' tags. -/
structure RaceEnt where
  line : Nat
  word : Nat
  wtag : Option Nat
  rtags : List Nat
  deriving DecidableEq, Repr

/-- A watch on a counter (08 R173): the address, the target, who is notified and under which number. -/
structure Watch where
  local_ : Nat
  target : Nat
  who : Agent
  id : Nat
  deriving DecidableEq, Repr

/-- The state of one line that a move carries (01 R22, 04 R93). -/
structure LineMove where
  src : Nat
  from_ : Nat
  to_ : Nat
  data : List Byte
  poison : Bool
  races : List RaceEnt
  watches : List Watch
  job : Nat
  deriving DecidableEq, Repr

/-- A liveness query for a region tag, and its answer (04 R84); of a sweep (04 R86), `line` names the slice. -/
structure CheckMsg where
  tag : Nat
  home : Nat
  line : Nat
  live : Bool
  e2e : Option (Nat × Nat × Nat) := none
  sweep : Bool := false
  deriving DecidableEq, Repr

/-- A failure item for an issuer's error record, or, with `queue`, of the cube's queue alone (16 R341, R342,
Table 16.4).
Context 99 stands for no issuing context. -/
structure ErrItem where
  org : Origin
  source : Nat
  code : Nat
  space : Nat
  addr : Nat
  hcube : Nat
  local_ : Nat
  ident : Nat
  detail : Nat
  queue : Bool := false
  deriving DecidableEq, Repr

/-- A thread that migrates (07 Table 7.8): its 20 words, the address of its access, the core and context it
left, the
physical address it goes to, how often it has migrated, its origin's start number, and the g register that `migrate` has
written. -/
structure MigCtx where
  words : List Nat
  va : Nat
  fromCore : Nat
  fromCtx : Nat
  pa : Nat
  migrations : Nat
  start : Nat
  dreg : Option Nat
  relScope : Nat := 0
  deriving DecidableEq, Repr

/-- An arrival at a core's inbox (14 Table 14.7): kind 1 message, 2 handler notice, 3 migrating thread.
`waiter` is the
context, and the number, of the `replay` that waits for its slot. -/
structure Arrival where
  kind : Nat
  src : Nat
  par : Bool
  len : Nat
  tag : Nat
  hnd : Nat
  space : Nat
  tile : Nat
  body : List Nat
  acq : Option Nat
  org : Origin
  ident : Nat
  mig : Option MigCtx
  waiter : Option (Nat × Nat)
  deriving DecidableEq, Repr

/-- A launch wake (07 R157): the words of the launch block, the issuer's space and ACQ scope. -/
structure LaunchMsg where
  who : Agent
  id : Nat
  org : Origin
  space : Nat
  words : List Nat
  acq : Option Nat
  deriving DecidableEq, Repr

/-- A task packet or job card on its way to a task unit (07 Tables 7.4, 7.6). -/
structure TaskMsg where
  who : Agent
  id : Nat
  org : Origin
  job : Bool
  words : List Nat
  acq : Option Nat
  e2e : Option (Nat × Nat × Nat) := none
  deriving DecidableEq, Repr

/-- What the completion of a thread's start does (07 R152). -/
inductive StartRec where
  | none
  | launch (key : Nat)
  | task (seq : Nat)
  | chunk (cctr count space seq : Nat) (org : Origin)
  | handler (par : Bool)
  | spill
  deriving DecidableEq, Repr

/-- A thread to be started (07 R155): its start number of Table 7.1, entry, stage, class, space, registers, the
accumulators and group it asks for, its completion record, and the context reserved for it. -/
structure StartReq where
  kind : Nat
  entry : Nat
  stage : Nat
  cls : Nat
  space : Nat
  regs : List Nat
  group : Option Nat
  accs : Nat
  acq : Option Nat
  record : StartRec
  ctx : Option Nat
  deriving DecidableEq, Repr

/-- An exit notice to the origin context (07 R152, R167). -/
structure ExitNote where
  core : Nat
  ctx : Nat
  start : Nat
  deriving DecidableEq, Repr

/-- One of the `total` rows of delivery `id` to a tile of a target core (13 R288), with what follows when all
have been
written. -/
structure RowMsg where
  core : Nat
  handle : Nat
  row : Nat
  data : List Byte
  lcv : Bool
  lc : Nat
  tag : Nat
  hnd : Nat
  src : Nat
  par : Bool
  space : Nat
  org : Origin
  id : Nat
  total : Nat
  deriving DecidableEq, Repr

/-- A directed atomic's value for its target (12 R257). -/
structure DirVal where
  dir : DirTo
  value : Nat
  org : Origin
  space : Nat
  deriving DecidableEq, Repr

/-- A multicast (06 R144, 14 R304): its group and group sequence number, and where each cube writes the row. -/
structure McastMsg where
  group : Nat
  seq : Nat
  core : Nat
  handle : Nat
  row : Nat
  lcv : Bool
  lc : Nat
  data : List Byte
  who : Agent
  id : Nat
  org : Origin
  space : Nat
  deriving DecidableEq, Repr

/-- A read or write of a copy engine (14 R295): at a home, the request `req`; at a tile of a core, the byte
ranges to
read, or the bytes to write, by offset in the tile's linear order. `slot` is the slot of a ring that the command has
taken, `turn` tells that a write that waited for one is served. -/
structure CopyMsg where
  who : Agent
  id : Nat
  req : Option Req := none
  core : Nat := 0
  handle : Nat := 0
  slot : Option Nat := none
  reads : List (Nat × Nat) := []
  pieces : List (Nat × List Byte) := []
  turn : Bool := false
  e2e : Option (Nat × Nat × Nat) := none
  deriving DecidableEq, Repr

/-- A query of a streamer or vault (14 R298, R316): the command serial, or the thread asked about. -/
structure Query where
  who : Agent
  id : Nat
  vault : Nat
  serial : Nat
  org : Origin
  near : Bool
  e2e : Option (Nat × Nat × Nat) := none
  deriving DecidableEq, Repr

/-- A copy command on its way to a streamer (14 R294): its sixteen descriptor words and flags. -/
structure CopyCmd where
  who : Agent
  id : Nat
  org : Origin
  kind : Nat
  space : Nat
  task : Bool
  words : List Nat
  acq : Bool
  rel : Bool
  scope : Nat
  vault : Nat := 0
  e2e : Option (Nat × Nat × Nat) := none
  deriving DecidableEq, Repr

/-- A follow-on `mma` handed to its core (14 R299): its streamer and command serial, the global core, and the
word of
Table 14.5. -/
structure FollowMsg where
  who : Agent
  serial : Nat
  core : Nat
  word : Nat
  e2e : Option (Nat × Nat × Nat) := none
  deriving DecidableEq, Repr

/-- A suspension or resumption on its way to a core (11 R236, 16 R344 to R348): op 0 `suspend.l`,
1 `suspend.f`, 2 `resume`. -/
structure SuspMsg where
  who : Agent
  id : Nat
  op : Nat
  core : Nat
  group : Bool
  slot : Nat
  image : Nat
  space : Nat
  task : Bool
  phase : Nat
  deriving DecidableEq, Repr

/-- A report of a unit: which job, and whether it went well (04 R93, 02 R56, 01 R22). -/
structure Report where
  job : Nat
  part : Nat
  ok : Bool
  deriving DecidableEq, Repr

/-- A page move or a frame zeroing in progress (04 R93, 02 R56, 11 R238, R239): kind 0 a move, 1 a zeroing, 2
the part
of a zeroing that one cube does, 3 the move of one line at its home. `parts` counts what is awaited or, of a move,
gives the phase; `home` and `hid` name the cube and number of the job that a part reports to; `ask` is the issuer of a move
that waits for its acceptance elsewhere. -/
structure FrameJob where
  id : Nat
  kind : Nat
  frame : Nat
  dest : Nat
  leaf : Nat
  bytes : Nat
  next : Nat
  parts : Nat
  lost : Bool
  ctr : Nat
  desc : Nat
  space : Nat
  task : Bool
  org : Origin
  who : Agent
  home : Nat
  hid : Nat
  ask : Option Query := none
  deriving DecidableEq, Repr

/-- What a packet carries, in the terms of the units that exchange it (06 Table 6.4). The layouts of message
bodies are not in the spec beyond the header fields, so a body is held as the message it stands for. -/
inductive Msg where
  | req (r : Req)
  | fill (a : Ans)
  | data (a : Ans)
  | grant (a : Ans)
  | ackWt (a : Ans)
  | nocache (a : Ans)
  | inv (m : CohMsg)
  | invAck (m : CohMsg)
  | fwdRead (m : CohMsg) (r : Req)
  | fwdOwn (m : CohMsg) (r : Req)
  | revoke (m : CohMsg)
  | revokeWb (m : CohMsg)
  | rwbData (m : CohMsg) (value : Option Nat)
  | wbAck (m : CohMsg)
  | nack (n : NackMsg)
  | satisfied (who : Agent) (id value : Nat)
  | dropped (who : Agent) (id : Nat)
  | check (c : CheckMsg)
  | checkAnswer (c : CheckMsg)
  | tagfree (core : Nat) (tags : List Nat)
  | holdTransfer (m : LineMove)
  | holdComplete (r : Report)
  | lineInstall (m : LineMove)
  | lineConfirm (r : Report)
  | frameZero (r : Report)
  | launch (m : LaunchMsg)
  | exitNote (e : ExitNote)
  | arrival (core : Nat) (a : Arrival)
  | migrate (m : MigCtx)
  | task (t : TaskMsg)
  | mcast (m : McastMsg)
  | row (r : RowMsg)
  | dirVal (d : DirVal)
  | follow (m : FollowMsg)
  | copyCmd (c : CopyCmd)
  | copyRead (c : CopyMsg)
  | copyWrite (c : CopyMsg)
  | errItem (e : ErrItem)
  | susp (m : SuspMsg)
  | job (j : FrameJob)
  | query (q : Query)
  | retAck
  | mcAck (group : Nat)
  | mcNack (group : Nat)
  | remoteLost (who : Agent) (id cube : Nat) (transit : Bool)
  | hostLost (m : CohMsg) (kind : Nat) (r : Option Req)
  | done (who : Agent) (id value : Nat) (st : Status)
  | none
  deriving DecidableEq, Repr

/-- A packet (06 Table 6.2); `good` tells whether its ECHK matches (R128): the CRC-32C itself is not kept, for
the bytes of most
bodies are not in the spec. -/
structure Packet where
  at_ : Nat := 0
  pt : Nat
  cls : Nat
  hop : Nat
  len : Nat
  dst : Nat
  src : Nat
  sag : Nat
  seq : Nat
  ver : Nat
  tr : Bool
  age : Nat
  rty : Bool
  mrg : Bool
  op : Nat
  pin : Bool
  pa : Nat
  opx : Nat
  aux : Nat
  contribs : List Contrib
  msg : Msg
  good : Bool
  deriving DecidableEq, Repr

/-- A flit (06 R122, R123): the header flit holds the packet, body flits count it off, each whole or corrupted
on its way. -/
inductive Flit where
  | head (p : Packet)
  | body (whole : Bool)
  | stomp
  | idle
  | back (n : Nat)
  | lreplay (n : Nat)
  | credit (l : List (Nat × Nat))
  | limits (l : List Nat)
  | limitAck
  | fence
  | fenceAck
  | hello (cube port : Nat) (set : Bool)
  | helloAck (cube port : Nat) (set : Bool)
  | reserved (t : Nat)
  deriving DecidableEq, Repr

/-- A bundle of eight flits (06 R120, R122): its number and whether its tag is good. -/
structure Bundle where
  num : Nat
  good : Bool
  flits : List Flit
  deriving DecidableEq, Repr

/-- The instructions and steps: one constructor per row of the opcode table. -/
inductive Instr where
  /-- R220: 64-bit add. -/
  | add (h : Hd) (d : Opd) (a : Opd) (b : Opd)
  /-- R220: 64-bit subtract. -/
  | sub (h : Hd) (d : Opd) (a : Opd) (b : Opd)
  /-- R220: 64-bit multiply, low bits. -/
  | mul (h : Hd) (d : Opd) (a : Opd) (b : Opd)
  /-- R220: Signed 64-bit multiply, high half. -/
  | mulhI64 (h : Hd) (d : Opd) (a : Opd) (b : Opd)
  /-- R220: Unsigned 64-bit multiply, high half. -/
  | mulhN64 (h : Hd) (d : Opd) (a : Opd) (b : Opd)
  /-- R220: Signed 64-bit division under R188. -/
  | divI64 (h : Hd) (d : Opd) (a : Opd) (b : Opd)
  /-- R220: Unsigned 64-bit division under R188. -/
  | divN64 (h : Hd) (d : Opd) (a : Opd) (b : Opd)
  /-- R220: Signed 64-bit remainder. -/
  | remI64 (h : Hd) (d : Opd) (a : Opd) (b : Opd)
  /-- R220: Unsigned 64-bit remainder. -/
  | remN64 (h : Hd) (d : Opd) (a : Opd) (b : Opd)
  /-- R220: Signed 64-bit minimum. -/
  | minI64 (h : Hd) (d : Opd) (a : Opd) (b : Opd)
  /-- R220: Unsigned 64-bit minimum. -/
  | minN64 (h : Hd) (d : Opd) (a : Opd) (b : Opd)
  /-- R220: Signed 64-bit maximum. -/
  | maxI64 (h : Hd) (d : Opd) (a : Opd) (b : Opd)
  /-- R220: Unsigned 64-bit maximum. -/
  | maxN64 (h : Hd) (d : Opd) (a : Opd) (b : Opd)
  /-- R220: Scaled add a + b × 1. -/
  | addsX1 (h : Hd) (d : Opd) (a : Opd) (b : Opd)
  /-- R220: Scaled add a + b × 2. -/
  | addsX2 (h : Hd) (d : Opd) (a : Opd) (b : Opd)
  /-- R220: Scaled add a + b × 4. -/
  | addsX4 (h : Hd) (d : Opd) (a : Opd) (b : Opd)
  /-- R220: Scaled add a + b × 8. -/
  | addsX8 (h : Hd) (d : Opd) (a : Opd) (b : Opd)
  /-- R220: 32-bit add, sign- or zero-extended by EXT. -/
  | add32 (h : Hd) (e : Bool) (d : Opd) (a : Opd) (b : Opd)
  /-- R220: 32-bit subtract, extended by EXT. -/
  | sub32 (h : Hd) (e : Bool) (d : Opd) (a : Opd) (b : Opd)
  /-- R220: 32-bit multiply, extended by EXT. -/
  | mul32 (h : Hd) (e : Bool) (d : Opd) (a : Opd) (b : Opd)
  /-- R220: Signed 32-bit multiply, high half. -/
  | mulhI32 (h : Hd) (d : Opd) (a : Opd) (b : Opd)
  /-- R220: Unsigned 32-bit multiply, high half. -/
  | mulhN32 (h : Hd) (d : Opd) (a : Opd) (b : Opd)
  /-- R220: Signed 32-bit division. -/
  | divI32 (h : Hd) (d : Opd) (a : Opd) (b : Opd)
  /-- R220: Unsigned 32-bit division. -/
  | divN32 (h : Hd) (d : Opd) (a : Opd) (b : Opd)
  /-- R220: Signed 32-bit remainder. -/
  | remI32 (h : Hd) (d : Opd) (a : Opd) (b : Opd)
  /-- R220: Unsigned 32-bit remainder. -/
  | remN32 (h : Hd) (d : Opd) (a : Opd) (b : Opd)
  /-- R220: Signed 32-bit minimum. -/
  | minI32 (h : Hd) (d : Opd) (a : Opd) (b : Opd)
  /-- R220: Unsigned 32-bit minimum. -/
  | minN32 (h : Hd) (d : Opd) (a : Opd) (b : Opd)
  /-- R220: Signed 32-bit maximum. -/
  | maxI32 (h : Hd) (d : Opd) (a : Opd) (b : Opd)
  /-- R220: Unsigned 32-bit maximum. -/
  | maxN32 (h : Hd) (d : Opd) (a : Opd) (b : Opd)
  /-- R222: Bitwise and. -/
  | and (h : Hd) (d : Opd) (a : Opd) (b : Opd)
  /-- R222: Bitwise or. -/
  | or (h : Hd) (d : Opd) (a : Opd) (b : Opd)
  /-- R222: Bitwise exclusive or. -/
  | xor (h : Hd) (d : Opd) (a : Opd) (b : Opd)
  /-- R222: A and not B. -/
  | andn (h : Hd) (d : Opd) (a : Opd) (b : Opd)
  /-- R222: Shift left by B[5:0]. -/
  | shl (h : Hd) (d : Opd) (a : Opd) (b : Opd)
  /-- R222: Logical shift right. -/
  | shr (h : Hd) (d : Opd) (a : Opd) (b : Opd)
  /-- R222: Arithmetic shift right. -/
  | sha (h : Hd) (d : Opd) (a : Opd) (b : Opd)
  /-- R222: Rotate left. -/
  | rol (h : Hd) (d : Opd) (a : Opd) (b : Opd)
  /-- R222: Count leading zeros. -/
  | clz (h : Hd) (d : Opd) (a : Opd)
  /-- R222: Count trailing zeros. -/
  | ctz (h : Hd) (d : Opd) (a : Opd)
  /-- R222: Count one bits. -/
  | popc (h : Hd) (d : Opd) (a : Opd)
  /-- R222: Move A to D. -/
  | mov (h : Hd) (d : Opd) (a : Opd)
  /-- R223: Bit-field extract. -/
  | bfx (h : Hd) (d : Opd) (a : Opd) (b : Opd)
  /-- R223: Bit-field insert into D. -/
  | bfi (h : Hd) (d : Opd) (a : Opd) (b : Opd)
  /-- R222: Sign-extend from 8 bits. -/
  | sextI8 (h : Hd) (d : Opd) (a : Opd)
  /-- R222: Sign-extend from 16 bits. -/
  | sextI16 (h : Hd) (d : Opd) (a : Opd)
  /-- R222: Sign-extend from 32 bits. -/
  | sextI32 (h : Hd) (d : Opd) (a : Opd)
  /-- R222: Zero-extend from 8 bits. -/
  | zextN8 (h : Hd) (d : Opd) (a : Opd)
  /-- R222: Zero-extend from 16 bits. -/
  | zextN16 (h : Hd) (d : Opd) (a : Opd)
  /-- R222: Zero-extend from 32 bits. -/
  | zextN32 (h : Hd) (d : Opd) (a : Opd)
  /-- R222: Select A when cN is true, otherwise B. -/
  | sel (h : Hd) (c : BitVec 3) (d : Opd) (a : Opd) (b : Opd)
  /-- R221: Add a sign-extended immediate. -/
  | addImm (h : Hd) (d : Opd) (a : Opd) (imm : BitVec 10)
  /-- R221: And with an immediate. -/
  | andImm (h : Hd) (d : Opd) (a : Opd) (imm : BitVec 10)
  /-- R221: Or with an immediate. -/
  | orImm (h : Hd) (d : Opd) (a : Opd) (imm : BitVec 10)
  /-- R221: Exclusive or with an immediate. -/
  | xorImm (h : Hd) (d : Opd) (a : Opd) (imm : BitVec 10)
  /-- R221: Shift left by an immediate count. -/
  | shlImm (h : Hd) (d : Opd) (a : Opd) (imm : BitVec 6)
  /-- R221: Logical shift right by an immediate count. -/
  | shrImm (h : Hd) (d : Opd) (a : Opd) (imm : BitVec 6)
  /-- R221: Arithmetic shift right by an immediate count. -/
  | shaImm (h : Hd) (d : Opd) (a : Opd) (imm : BitVec 6)
  /-- R221: Load a sign-extended immediate. -/
  | li (h : Hd) (d : Opd) (imm : BitVec 10)
  /-- R224: Signed integer compare into a predicate. -/
  | cmpSigned (h : Hd) (w : BitVec 2) (c : BitVec 3) (d : BitVec 3) (a : Opd) (b : Opd)
  /-- R224: Unsigned integer compare into a predicate. -/
  | cmpUnsigned (h : Hd) (w : BitVec 2) (c : BitVec 3) (d : BitVec 3) (a : Opd) (b : Opd)
  /-- R224: Float compare into a predicate. -/
  | cmpFloat (h : Hd) (bf : Bool) (c : BitVec 3) (d : BitVec 3) (a : Opd) (b : Opd)
  /-- R225: Predicate and. -/
  | pand (h : Hd) (d : BitVec 3) (a : BitVec 3) (b : BitVec 3)
  /-- R225: Predicate or. -/
  | por (h : Hd) (d : BitVec 3) (a : BitVec 3) (b : BitVec 3)
  /-- R225: Predicate exclusive or. -/
  | pxor (h : Hd) (d : BitVec 3) (a : BitVec 3) (b : BitVec 3)
  /-- R225: Predicate not. -/
  | pnot (h : Hd) (d : BitVec 3) (a : BitVec 3)
  /-- R226: Branch to PC + 4 × OFF. -/
  | br (h : Hd) (off : BitVec 20)
  /-- R226: Call to an offset, linking g15. -/
  | callOffset (h : Hd) (off : BitVec 20)
  /-- R226: Decrement gD and branch while nonzero. -/
  | loop (h : Hd) (d : Opd) (off : BitVec 15)
  /-- R226: Jump to A. -/
  | jmp (h : Hd) (a : Opd)
  /-- R226: Call to a register target, linking D. -/
  | callReg (h : Hd) (d : Opd) (a : Opd)
  /-- R226: Return to A. -/
  | ret (h : Hd) (a : Opd)
   /-- R152: End the thread after a system-scope release, freeing tiles, leaving the group and doing
  completion work. -/
  | exit (h : Hd)
  /-- R228: Make the thread not ready for one cycle. -/
  | yield (h : Hd)
  /-- R228: No operation. -/
  | nop (h : Hd)
  /-- R229: Pop a queue entry if readable, otherwise return B. -/
  | qtry (h : Hd) (d : Opd) (a : Opd) (b : Opd)
  /-- R229: Return a queue's readable and free counts. -/
  | qcount (h : Hd) (d : Opd) (a : Opd)
  /-- R229: Return the oldest readable entry without popping. -/
  | qpeek (h : Hd) (d : Opd) (a : Opd)
  /-- R242: Load a byte, half, word or double word under a policy. -/
  | ld (h : Hd) (w : BitVec 2) (sx : Bool) (pol : BitVec 2) (d : Opd) (a : Opd) (b : BitVec 5) (x : Option MemExt)
  /-- R242: Store under a policy. -/
  | st (h : Hd) (w : BitVec 2) (pol : BitVec 2) (d : Opd) (a : Opd) (b : BitVec 5) (x : Option MemExt)
  /-- R242: Indexed load. -/
  | ldx (h : Hd) (w : BitVec 2) (sx : Bool) (pol : BitVec 2) (d : Opd) (a : Opd) (b : Opd) (x : Option MemExt)
  /-- R242: Indexed store. -/
  | stx (h : Hd) (w : BitVec 2) (pol : BitVec 2) (d : Opd) (a : Opd) (b : Opd) (x : Option MemExt)
  /-- R255: Atomic add at home, integer or float, non-returning, returning or directed. -/
  | aadd (h : Hd) (form : BitVec 2) (d : Opd) (a : Opd) (b : Opd) (v : AOp)
  /-- R255: Atomic minimum at home. -/
  | amin (h : Hd) (form : BitVec 2) (d : Opd) (a : Opd) (b : Opd) (v : AOp)
  /-- R255: Atomic maximum at home. -/
  | amax (h : Hd) (form : BitVec 2) (d : Opd) (a : Opd) (b : Opd) (v : AOp)
  /-- R255: Atomic and at home. -/
  | aand (h : Hd) (form : BitVec 2) (d : Opd) (a : Opd) (b : Opd) (v : AOp)
  /-- R255: Atomic or at home. -/
  | aor (h : Hd) (form : BitVec 2) (d : Opd) (a : Opd) (b : Opd) (v : AOp)
  /-- R255: Atomic exclusive or at home. -/
  | axor (h : Hd) (form : BitVec 2) (d : Opd) (a : Opd) (b : Opd) (v : AOp)
  /-- R255: Atomic swap at home. -/
  | aswap (h : Hd) (form : BitVec 2) (d : Opd) (a : Opd) (b : Opd) (v : AOp)
  /-- R255: Atomic compare-and-swap at home. -/
  | acas (h : Hd) (form : BitVec 2) (d : Opd) (a : Opd) (b : Opd) (v : AOp)
  /-- R251: Release, then add to a memory or local counter. -/
  | cadd (h : Hd) (scope : BitVec 2) (c : Ctr) (b : Opd)
  /-- R251: Fetch-and-add a counter with release and acquire. -/
  | cfadd (h : Hd) (scope : BitVec 2) (d : Opd) (c : Ctr) (b : Opd)
  /-- R252: Block until a counter reaches a target, with an optional limit. -/
  | cwait (h : Hd) (scope : BitVec 2) (lim : BitVec 5) (c : Ctr) (b : Opd) (x : Option (BitVec 32))
  /-- R251: Set a predicate when a counter has reached a target. -/
  | cpoll (h : Hd) (scope : BitVec 2) (d : BitVec 3) (c : Ctr) (b : Opd)
  /-- R251: Read a counter with acquire. -/
  | cread (h : Hd) (scope : BitVec 2) (d : Opd) (c : Ctr)
  /-- R246: Acquire fence at a scope. -/
  | fenceAcq (h : Hd) (scope : BitVec 2)
  /-- R246: Release fence at a scope. -/
  | fenceRel (h : Hd) (scope : BitVec 2)
  /-- R246: Acquire-release fence. -/
  | fenceAr (h : Hd) (scope : BitVec 2)
  /-- R246: Sequentially consistent fence. -/
  | fenceSc (h : Hd) (scope : BitVec 2)
  /-- R248: Release owned words of a range and write its dirty home lines to the dense tier. -/
  | clean (h : Hd) (a : Opd) (b : Opd)
  /-- R248: Release owned words and clear V on a range's near-cache lines. -/
  | inval (h : Hd) (a : Opd) (b : Opd)
  /-- R248: Clean and drop a range at every level. -/
  | flush (h : Hd) (a : Opd) (b : Opd)
  /-- R248: Prefetch a range with a hint and warm translations. -/
  | pref (h : Hd) (hint : BitVec 2) (a : Opd) (b : Opd)
  /-- R248: Release the owned words of a range to home. -/
  | ownrel (h : Hd) (a : Opd) (b : Opd)
  /-- R230: Read a system register. -/
  | sysrd (h : Hd) (d : Opd) (na : BitVec 5) (nb : BitVec 5)
  /-- R230: Write a system register. -/
  | syswr (h : Hd) (d : Opd) (na : BitVec 5) (nb : BitVec 5)
  /-- R232: Raise SVC with INFO0 := A. -/
  | svc (h : Hd) (a : Opd)
  /-- R232: Raise BREAK with INFO0 := A. -/
  | brk (h : Hd) (a : Opd)
  /-- R338: Return from a trap to TRAP_PC with the saved mode. -/
  | eret (h : Hd)
  /-- R236: Light-suspend a target group or context. -/
  | suspendL (h : Hd) (d : Opd) (a : Opd)
  /-- R345: Fully suspend a target into a save image and free its resources. -/
  | suspendF (h : Hd) (d : Opd) (a : Opd) (b : Opd)
  /-- R348: Resume a suspended target, restoring from the save image when fully suspended. -/
  | resume (h : Hd) (d : Opd) (a : Opd) (b : Opd)
  /-- R233: Block until LEASE_NOW reaches a target. -/
  | leasewait (h : Hd) (d : Opd) (a : Opd)
  /-- R233: Read LEASE_NOW. -/
  | rdclk (h : Hd) (d : Opd)
  /-- R234: Read an identity word. -/
  | ident (h : Hd) (d : Opd) (a : Opd)
  /-- R235: Wait for stores, invalidate the instruction cache and refetch. -/
  | ifence (h : Hd)
  /-- R116: Resolve a pending fault by REPLAY or FATAL. -/
  | fltDone (h : Hd) (d : Opd) (a : Opd) (b : Opd)
  /-- R238: Start a page move from a descriptor. -/
  | pmove (h : Hd) (d : Opd) (a : Opd)
  /-- R239: Start zeroing a frame with a completion counter. -/
  | pzero (h : Hd) (d : Opd) (a : Opd) (b : Opd)
  /-- R271: Vector element add. -/
  | vadd (h : Hd) (a : Opd) (v : VOp)
  /-- R271: Vector element subtract. -/
  | vsub (h : Hd) (a : Opd) (v : VOp)
  /-- R271: Vector element multiply. -/
  | vmul (h : Hd) (a : Opd) (v : VOp)
  /-- R271: Vector element minimum. -/
  | vmin (h : Hd) (a : Opd) (v : VOp)
  /-- R271: Vector element maximum. -/
  | vmax (h : Hd) (a : Opd) (v : VOp)
  /-- R271: Vector fused multiply-add. -/
  | vfma (h : Hd) (a : Opd) (v : VOp)
  /-- R271: Vector absolute value. -/
  | vabs (h : Hd) (v : VOp)
  /-- R271: Vector negate. -/
  | vneg (h : Hd) (v : VOp)
  /-- R272: Vector reciprocal. -/
  | vrcp (h : Hd) (v : VOp)
  /-- R272: Vector reciprocal square root. -/
  | vrsqrt (h : Hd) (v : VOp)
  /-- R272: Vector power of two. -/
  | vexp2 (h : Hd) (v : VOp)
  /-- R272: Vector base-2 logarithm. -/
  | vlog2 (h : Hd) (v : VOp)
  /-- R273: Vector conversion between types with part selection. -/
  | vcvt (h : Hd) (t : Ty) (v : VOp)
  /-- R274: Vector bitwise and. -/
  | vand (h : Hd) (a : Opd) (v : VOp)
  /-- R274: Vector bitwise or. -/
  | vor (h : Hd) (a : Opd) (v : VOp)
  /-- R274: Vector bitwise exclusive or. -/
  | vxor (h : Hd) (a : Opd) (v : VOp)
  /-- R274: Vector shift left. -/
  | vshl (h : Hd) (a : Opd) (v : VOp)
  /-- R274: Vector logical shift right. -/
  | vshr (h : Hd) (a : Opd) (v : VOp)
  /-- R274: Vector arithmetic shift right. -/
  | vsha (h : Hd) (a : Opd) (v : VOp)
  /-- R274: Vector compare into a mask. -/
  | vcmp (h : Hd) (cond : BitVec 3) (a : Opd) (v : VOp)
  /-- R274: Vector select by a mask. -/
  | vsel (h : Hd) (a : Opd) (v : VOp)
  /-- R275: Reduce enabled elements by addition. -/
  | vredAdd (h : Hd) (d : Opd) (v : VOp)
  /-- R275: Reduce enabled elements by maximum. -/
  | vredMax (h : Hd) (d : Opd) (v : VOp)
  /-- R275: Reduce enabled elements by minimum. -/
  | vredMin (h : Hd) (d : Opd) (v : VOp)
  /-- R276: Inclusive running sum from a scalar start. -/
  | vscan (h : Hd) (a : Opd) (v : VOp)
  /-- R277: Vector permute by index register. -/
  | vperm (h : Hd) (v : VOp)
  /-- R277: Broadcast a scalar to every element. -/
  | vbcast (h : Hd) (a : Opd) (v : VOp)
  /-- R277: Extract one element to a scalar. -/
  | vext (h : Hd) (d : Opd) (b : Opd) (v : VOp)
  /-- R277: Insert a scalar into one element. -/
  | vins (h : Hd) (a : Opd) (b : Opd) (v : VOp)
  /-- R278: Load a vector register from a tile row. -/
  | vldT (h : Hd) (a : Opd) (b : Opd) (v : VOp)
  /-- R278: Store a vector register into a tile row. -/
  | vstT (h : Hd) (a : Opd) (b : Opd) (v : VOp)
  /-- R280: Contiguous vector load from memory. -/
  | vld (h : Hd) (a : Opd) (b : Opd) (v : VOp)
  /-- R280: Contiguous vector store to memory. -/
  | vst (h : Hd) (a : Opd) (b : Opd) (v : VOp)
  /-- R280: Vector gather by indices. -/
  | vgath (h : Hd) (a : Opd) (v : VOp)
  /-- R280: Vector scatter by indices. -/
  | vscat (h : Hd) (a : Opd) (v : VOp)
  /-- R282: Expand C4 codes through a codebook. -/
  | vcb (h : Hd) (v : VOp)
  /-- R269: Claim vector blocks through the claim queue. -/
  | vclaim (h : Hd) (a : Opd)
  /-- R269: Try to take vector blocks without waiting. -/
  | vtry (h : Hd) (a : Opd)
  /-- R269: Return the most recently claimed blocks. -/
  | vyield (h : Hd) (a : Opd)
  /-- R260: Allocate a tile handle with a shape. -/
  | talloc (h : Hd) (d : Opd) (a : Opd) (t : BitVec 6)
  /-- R261: Free a tile. -/
  | tfree (h : Hd) (t : BitVec 6)
  /-- R262: Read a tile table entry word. -/
  | tinfo (h : Hd) (d : Opd) (b : Opd) (t : BitVec 6)
  /-- R262: Zero tile rows on the sequencer and set them FULL. -/
  | tzero (h : Hd) (a : Opd) (b : Opd) (t : BitVec 6)
  /-- R262: Set tile rows EMPTY. -/
  | tempty (h : Hd) (a : Opd) (b : Opd) (t : BitVec 6)
  /-- R263: Take the ring slot at TAIL. -/
  | rpush (h : Hd) (d : Opd) (t : BitVec 6)
  /-- R263: Pop the ring slot at HEAD. -/
  | rpop (h : Hd) (d : Opd) (t : BitVec 6)
  /-- R263: Wait for a ring condition with a limit. -/
  | rwait (h : Hd) (a : Opd) (b : Opd) (t : BitVec 6)
  /-- R263: Read a ring's state word. -/
  | rstate (h : Hd) (d : Opd) (t : BitVec 6)
  /-- R284: BF16 matrix multiply-accumulate into an FP32 accumulator. -/
  | mmaBf16 (h : Hd) (a : Opd) (b : Opd) (v : MOp)
  /-- R284: INT8 matrix multiply-accumulate, or with C4 codes under an INT8 codebook. -/
  | mmaI8 (h : Hd) (a : Opd) (b : Opd) (v : MOp)
  /-- R284: BF16 by codebook matrix multiply into FP32. -/
  | mmaCb (h : Hd) (a : Opd) (b : Opd) (v : MOp)
  /-- R284: Sparse matrix multiply, 24-of-48 or 12-of-48. -/
  | mmaSp (h : Hd) (a : Opd) (b : Opd) (v : MOp)
  /-- R287: Zero an accumulator. -/
  | azero (h : Hd) (v : AccOp)
  /-- R287: Load an accumulator from tile rows. -/
  | aload (h : Hd) (a : Opd) (v : AccOp)
  /-- R287: Store an accumulator into tile rows. -/
  | astore (h : Hd) (a : Opd) (v : AccOp)
  /-- R288: Send an accumulator's rows to a tile on a target core and start a handler. -/
  | adrain (h : Hd) (a : Opd) (b : Opd) (v : AccOp)
  /-- R281: Load a codebook register from memory or a tile. -/
  | kload (h : Hd) (a : Opd) (b : Opd) (v : KOp)
  /-- R294: Send a strided copy command to a streamer. -/
  | cpy (h : Hd) (d : Opd) (a : Opd) (x : Option EFlags)
  /-- R299: Copy into a tile followed by a handed-off mma. -/
  | cpyMma (h : Hd) (d : Opd) (a : Opd) (x : Option EFlags)
  /-- R300: Copy as reducing contributions to destination blocks. -/
  | cpyr (h : Hd) (d : Opd) (a : Opd) (x : Option EFlags)
  /-- R298: Query a copy command's state. -/
  | cpystat (h : Hd) (d : Opd) (a : Opd)
  /-- R305: Send a task packet to its footprint's home cube. -/
  | spawn (h : Hd) (d : Opd) (a : Opd) (x : Option EFlags)
  /-- R306: Send a job card to a cube. -/
  | job (h : Hd) (d : Opd) (a : Opd) (b : Opd) (x : Option EFlags)
  /-- R307: Send a launch wake to a range of cubes. -/
  | launch (h : Hd) (d : Opd) (a : Opd) (x : Option EFlags)
  /-- R308: Send a message that starts a handler on a target core. -/
  | send (h : Hd) (a : Opd) (b : Opd) (f : EFlags) (par : Bool) (nw : BitVec 4) (target : BitVec 20)
  /-- R310: Re-inject an arrival record through the loop-back port. -/
  | replay (h : Hd) (a : Opd)
  /-- R309: Move the oldest inbox slot to an arrival record in memory. -/
  | mpop (h : Hd) (d : Opd) (a : Opd)
  /-- R311: Set or clear roam mode. -/
  | roam (h : Hd) (d : Opd) (a : Opd)
  /-- R312: Depart to the home cube of an address when roaming. -/
  | migrate (h : Hd) (d : Opd) (a : Opd)
  /-- R304: Multicast a vector register to a tile row on a group of cubes. -/
  | nmcast (h : Hd) (a : Opd) (b : Opd) (f : EFlags) (vs : BitVec 6) (t : BitVec 6)
  /-- R303: Send a vector register as a reducing contribution to a block. -/
  | nred (h : Hd) (a : Opd) (f : EFlags) (vs : BitVec 6) (rop : BitVec 3) (stream : BitVec 13) (cidx : BitVec 6)
  /-- R314: Near-bank combine across banks of a stone. -/
  | nbComb (h : Hd) (a : Opd) (x : Option EFlags)
  /-- R314: Near-bank pattern fill. -/
  | nbFill (h : Hd) (a : Opd) (x : Option EFlags)
  /-- R314: Near-bank segmented reduction. -/
  | nbRed (h : Hd) (a : Opd) (x : Option EFlags)
  /-- R316: Query a vault's near-bank state for the thread. -/
  | nbStat (h : Hd) (d : Opd) (a : Opd)
  /-- R320: Configure a routing engine and take ownership. -/
  | xcfg (h : Hd) (d : Opd) (a : Opd) (b : Opd)
  /-- R322: Start a routing run. -/
  | xroute (h : Hd) (d : Opd) (a : Opd) (b : Opd) (x : Option EFlags)
  /-- R331: Start a combine run. -/
  | xcombine (h : Hd) (d : Opd) (a : Opd) (b : Opd) (x : Option EFlags)
  /-- R332: Read a routing engine's state word. -/
  | xstat (h : Hd) (d : Opd) (a : Opd) (b : Opd)
  /-- R328: Resume an engine paused on a turn wait. -/
  | xresume (h : Hd) (d : Opd) (a : Opd)
  /-- R329: Abort a running or paused engine. -/
  | xabort (h : Hd) (d : Opd) (a : Opd)
   /-- R355: At reset, walker hart 0 runs the boot ROM, which verifies an image slot, loads firmware, brings
  up the ports and clusters and starts firmware. -/
  | cubeReset
  /-- R15: MAP_CMD operation READ copies slot INDEX into MAP_D0 to MAP_D2. -/
  | mapRead
   /-- R15: MAP_CMD operation WRITE installs the staging words in slot INDEX atomically after the R13 checks,
  or is refused with an error code. -/
  | mapWrite
   /-- R15: MAP_CMD operation BEGIN turns the partner slot RETIRING and installs the new layout as RESTRIPING
  with the next version, in one atomic step. -/
  | mapBegin
   /-- R22: MAP_CMD operation HOLD sets MOVING on a RESTRIPING slot and, at the old home of the granule,
  starts the holding work with BUSY raised. -/
  | mapHold
  /-- R15: MAP_CMD operation STEP advances WMARK by one and clears MOVING, unless refused. -/
  | mapStep
   /-- R15: MAP_CMD operation FINISH makes a fully moved RESTRIPING slot ACTIVE with the next version and
  empties its partner. -/
  | mapFinish
  /-- R15: MAP_CMD operation LIST_READ copies cube-list entry INDEX into MAP_D0[11:0]. -/
  | mapListRead
   /-- R15: MAP_CMD operation LIST_WRITE installs a cube number in list entry INDEX unless a non-EMPTY slot
  covers it. -/
  | mapListWrite
   /-- R22: The new home receives a held granule's race-tracking entries and counter watches and installs them
  in free entries, waiting for freed entries when full. -/
  | holdTransferInstall
  /-- R22: When the new home confirms every transferred entry installed, the old home clears MAP_STAT.BUSY. -/
  | holdComplete
   /-- R67: A home slice accepts a request for a line and performs its row of the home transition table,
  sending the messages it names in one slice step. -/
  | req
   /-- R139: A source receiving a NACK acts by its reason: redirect, back-off, translate again, send its split
  contribution, or resend on GAP. -/
  | nack
   /-- R19: After waiting 1,024 lease counts on MOVING, NEWER_VERSION, NO_ROUTE or BUSY, the source resolves
  the address again and resends. -/
  | backoffExpiry
  /-- R67: An agent receives line data with a per-word valid mask and fills its near cache. -/
  | fill
   /-- R67: An agent receives the requested words from home or from a registrant, with their dirty state on a
  handover. -/
  | data
  /-- R69: An agent receives registration of words and adds n to ACKBAL, and may write the word at once. -/
  | grant
  /-- R69: An agent receives completion of a write-through store and adds n to ACKBAL. -/
  | ackWt
  /-- R73: An agent receives requested words that it must not allocate. -/
  | nocache
  /-- R67: A sharer clears V on every COPY word of the named line and sends INV_ACK to the writer. -/
  | inv
  /-- R69: A writer decreases ACKBAL by one, or a home collects an acknowledgement for a pending atomic. -/
  | invAck
  /-- R67: A registrant sends DATA with its current value to the requester and keeps its state. -/
  | fwdRead
  /-- R67: A registrant hands its word with its value and dirty bit to the requester and clears its copy. -/
  | fwdOwn
   /-- R67: A registrant clears the word in its cache or write-back buffer, discarding a dirty value, and
  sends INV_ACK. -/
  | revoke
  /-- R68: A registrant returns its word's value by RWB_DATA and keeps the word as COPY. -/
  | revokeWb
   /-- R72: Home takes a returned value, frees the registration and lets the waiting atomic or request
  proceed. -/
  | rwbData
   /-- R71: Home takes written-back words that are still registered to the sender, discards the others, and
  sends WB_ACK. -/
  | wb
  /-- R63: A core frees the write-back buffer entry named. -/
  | wbAck
  /-- R63: An eviction and its fill that waited for a full write-back buffer proceed once an entry is freed. -/
  | wbBufferRetry
   /-- R74: A home whose forward or revocation meets REMOTE_LOST clears the registration, poisons the line,
  records an error and answers the waiting request. -/
  | remoteLostAtHome
   /-- R255: Home revokes and invalidates as needed and performs an atomic on the word in one slice step,
  answering or acknowledging. -/
  | atomicAtHome
   /-- R251: A counter add, fetch-add, read or poll is performed at the counter's home in home order, testing
  watches. -/
  | counterOpAtHome
   /-- R173: A watch registration reaches the counter's home and is compared with the value, or waits for a
  free watch entry. -/
  | watchRegistration
  /-- R173: A registration waiting for a free watch entry is installed when one frees. -/
  | watchRegistrationRetry
  /-- R173: Notice SATISFIED arrives at a waiting task, thread cwait or routing engine, with acquire meaning. -/
  | satisfied
   /-- R173: Notice DROPPED arrives when a frame-zero drops a watch, refusing the task, failing the cwait or
  ending the expert. -/
  | dropped
  /-- R84: Home checks a first read served from a COPY word and returns the word's current value. -/
  | regionReadNotice
  /-- R84: Home checks a first access served from an owned word and answers without data. -/
  | regionNotice
  /-- R84: A core answers whether a region tag's context and serial are still open. -/
  | check
  /-- R84: Home receives a liveness answer and completes the waiting race check. -/
  | checkAnswer
  /-- R87: A context receives up to eight freed tags and subtracts them from TCL or TCH. -/
  | tagfree
   /-- R86: The background sweep checks every race-tracking entry and spill record, drops non-live tags and
  frees empty entries. -/
  | sweepPass
   /-- R87: A boundary that would change SERIAL[15] proceeds once its requests are answered and the entered
  half's tag count is 0. -/
  | boundarySerialWait
  /-- R93: The new frame's home installs a moved line's data, tags and watches and confirms. -/
  | pmoveLineInstall
   /-- R93: The old home receives confirmation, replaces the line with a stub and the move proceeds to the
  next line or finishes. -/
  | pmoveLineConfirm
   /-- R239: A vault's frame-zero engine finishes its part of a frame and reports; once all parts report, the
  counter is added. -/
  | frameZeroReport
  /-- R97: A section looks up a virtual access, serving it from a live entry or merging or allocating a walk. -/
  | sectionLookup
  /-- R102: A free walker context takes the oldest waiting walk and starts its routine. -/
  | walkDispatch
   /-- R104: A routine's write to nwdone ends the walk MAPPED, UNMAPPED or MALFORMED, setting A and D by
  atomic and installing the result. -/
  | nwdone
  /-- R102: A walk still running 1,048,576 mesh cycles after it started ends MALFORMED. -/
  | walkTimeout
   /-- R118: A fault waiting for a pending slot, queue room or attachment room proceeds and its walk is
  repeated. -/
  | faultWaitRetry
  /-- R106: Every 1,024 counts a slice compares its lease-clock copy with the die reference. -/
  | leaseSkewCheck
   /-- R106: Loss of the lease reference drops every section's entries, restricts leases to 0 and sets REFLOST
  and REPLACE. -/
  | referenceLost
  /-- R106: The lease reference returns and sections grant leases again. -/
  | referenceReturn
  /-- R113: Every DECAY grains every migration count is halved. -/
  | migrationDecay
  /-- R121: After 2 ms of PRBS31, the port begins the block stream for block lock. -/
  | laneLock
  /-- R121: A receiver gains block lock on both lanes and its end starts sending bundles and HELLOs. -/
  | blockLock
  /-- R121: Every 1,024 link cycles during exchange a port sends HELLO. -/
  | helloInterval
  /-- R121: A port with SET = 1 receiving a good HELLO records the peer and answers HELLO_ACK. -/
  | hello
  /-- R121: A port that has sent and received HELLO_ACK enters UP. -/
  | helloAck
  /-- R121: A port not UP 10 ms after entering TRAINING turns its lanes off and goes DOWN. -/
  | trainingTimeout
   /-- R134: A receiver checks a bundle's tag, acknowledging it with BACK or discarding, stomping and sending
  LREPLAY on failure. -/
  | bundleReceive
  /-- R134: A receiver of STOMP discards the partial packet, frees its slots and forwards STOMP if needed. -/
  | stompFlit
  /-- R134: A sender frees replay-buffer packets covered by the acknowledged bundle number. -/
  | back
   /-- R134: A sender resends from the oldest incomplete packet's HEAD in new bundles numbered from the failed
  one. -/
  | lreplay
  /-- R130: A sender regains flit slots on the named channels. -/
  | credit
  /-- R130: Every 1,024 link cycles a receiver sets channel targets and announces lowered limits. -/
  | limitPeriod
  /-- R130: A sender takes new channel limits and answers LIMIT_ACK. -/
  | limits
  /-- R130: A receiver announces a second LIMITS raising channels within the 3,072 slots. -/
  | limitAck
   /-- R146: A FENCING port whose queue and replay buffer are empty and credits returned sends FENCE or
  FENCE_ACK. -/
  | fenceDrained
  /-- R146: An UP port receiving FENCE enters FENCING. -/
  | fenceMsg
  /-- R146: Receiving FENCE_ACK makes both ends FENCED. -/
  | fenceAck
   /-- R132: A router forwards a packet for another cube by its route alternatives and hop level, or answers
  NACK NO_ROUTE. -/
  | packetForward
   /-- R128: A destination commits a whole packet whose ECHK matches, applying the duplicate window, or
  discards it. -/
  | packetCommit
  /-- R137: A source receives a response and delivers it to the issuing agent by (destination, class, SEQ). -/
  | resp
  /-- R137: A source receives an acknowledgement ending its request, or a home frees a retained response. -/
  | ack
   /-- R138: A request unanswered for TIMER counts is resent with RTY = 1, or fails REMOTE_LOST after RLIM
  resends. -/
  | retryTimeout
  /-- R134: A port that receives no flit for 4,096 link cycles is lost. -/
  | linkSilenceTimeout
  /-- R145: A port's lanes lose lock, making the port lost or, when FENCED or ISOLATED, DOWN. -/
  | laneLockLost
   /-- R146: Writing PORT_CTL.MODE = ENABLE acts on the port by its state, starting training where Table 6.11
  gives. -/
  | portEnable
  /-- R146: Writing PORT_CTL.MODE = FENCE moves an UP port to FENCING. -/
  | portFence
   /-- R146: Writing PORT_CTL.MODE = DISABLE turns the port's lanes off, acting as lost first when UP or
  FENCING. -/
  | portDisable
   /-- R143: An applying home takes a reducing contribution against the block's applied mask, applying,
  discarding or splitting it. -/
  | redApply
   /-- R144: A receiving router copies a multicast to its group ports and local cube, which performs each
  group sequence once and acknowledges. -/
  | mcast
  /-- R301: A reducing-stream entry with no contribution for 4 × (RLIM + 1) × TIMER counts is freed. -/
  | streamEntryIdle
   /-- R157: A selected core receives a launch wake and starts all its threads of the launch together, or adds
  CCTR when it starts none. -/
  | launchWake
  /-- R154: A start waiting for contexts, a group slot or accumulators proceeds once they are free. -/
  | startWaitRetry
   /-- R152: An origin context receives a migrated thread's exit notice, does its completion work and becomes
  FREE. -/
  | exitNotice
   /-- R160: A message, handler notice, migrating thread or replayed record takes an inbox slot, or is held
  when the inbox is full. -/
  | inboxArrival
  /-- R164: An arrival held at the port takes an inbox slot once one frees. -/
  | inboxHeldRetry
   /-- R161: An inbox message is moved into a FREE context and its handler starts, serialising PAR = 0
  handlers. -/
  | handlerStart
  /-- R164: With all inbox slots taken, EN = 1 and context 31 FREE, the spill thread starts. -/
  | spillWake
   /-- R166: A migrating context is placed on a core of the home vault's cluster and resumes at the same
  instruction. -/
  | migratingContextArrival
   /-- R168: A claim at the head of the claim queue is served, all blocks at once and zeroed, when enough
  blocks are free. -/
  | vclaimServe
   /-- R171: The task unit accepts one task packet or job card per mesh cycle, refusing it or giving it a pool
  entry and sequence number. -/
  | taskAdmission
   /-- R175: In a mesh cycle with a free placement slot, the task unit chooses a ready queue head and core,
  reserving resources, or deals a job chunk. -/
  | taskDecision
   /-- R172: When every footprint copy has completed, the task's thread starts and its pool entry and
  placement slot are freed. -/
  | taskDispatch
   /-- R179: A sequencer step starts once every peck it reads is FULL and retires with its effect and ring
  pops. -/
  | sequencerStep
   /-- R299: A handed-off mma runs on the destination core's sequencer at the next idle point, then the copy's
  completion steps follow. -/
  | followOnMma
   /-- R315: A vault accepts a near-bank command into its channel FIFO, drops overlapping cached lines and
  holds conflicting accesses. -/
  | nbCommandAccept
  /-- R181: A near-bank burst starts when it receives one of the 768 combine grants. -/
  | combineGrant
   /-- R181: When the oldest ordinary request has waited BOUND × 10 ns, the burst pauses at a safe point and
  waiting requests are served. -/
  | vaultBoundExpiry
  /-- R181: After the waiting ordinary requests are served, the paused burst resumes. -/
  | burstResume
  /-- R315: A completed or rejected near-bank command writes its completion record and adds its counter. -/
  | nbBurstComplete
  /-- R316: A vault answers an nb.stat query with the thread's outstanding count and last status. -/
  | nbStatQuery
  /-- R45: A read stalled on an EMPTY peck completes in the first cycle after a write sets the peck FULL. -/
  | peckReadWake
  /-- R46: A thread read stalled on EMPTY pecks for LIMIT × 1,024 cycles raises FILL_WAIT_EXPIRED. -/
  | fillWaitExpired
   /-- R48: A producer waiting at a full ring, or a pop waiting at an empty ring, is served once occupancy
  changes. -/
  | ringTakeRetry
  /-- R149: A thread blocked on an empty or full queue issues once entries or room appear, in blocking order. -/
  | queueWake
  /-- R252: A cwait limit expires first, cancelling the watch and raising WAIT_EXPIRED. -/
  | waitExpired
  /-- R263: An rwait limit expires before its condition holds, raising RING_WAIT_EXPIRED. -/
  | ringWaitExpired
  /-- R233: LEASE_NOW reaches a leasewait target and the thread resumes with D := LEASE_NOW. -/
  | leasewaitReturn
   /-- R257: A target core writes a directed atomic's old value into the tile entry and adds 1 to the named
  local counter. -/
  | directedAtomicValue
   /-- R288: A target core writes an accumulator drain row into its tile; after the last row it adds the
  counter and takes a handler notice. -/
  | drainRow
  /-- R296: A streamer accepts a copy command into its 32-entry queue and answers its id, or answers full. -/
  | copyCommand
  /-- R296: A queued copy starts reading once every write of earlier commands of the streamer is performed. -/
  | copyStart
  /-- R295: A copy chunk ends, its bytes read and written or failed with a status. -/
  | copyChunk
  /-- R295: A home serves a copy read as a wt load with hint dflt. -/
  | copyRead
  /-- R295: A home performs a copy write as a wt store with hint dflt. -/
  | copyWrite
  /-- R298: A streamer answers a cpystat query with the command's state, status and bytes done. -/
  | cpystatQuery
  /-- R323: A routing engine finishes reading every choice and counts n[e] per expert. -/
  | engineCount
   /-- R324: A routing engine obtains an expert's base by fill and turn counter operations, one expert at a
  time in ranked mode. -/
  | engineOffsetExpert
  /-- R328: A ranked turn wait reaches TURNLIM, cancels the watch and pauses the engine with cause 2. -/
  | turnWaitExpired
   /-- R325: A routing engine issues a token's row copies, return-map writes and drop appends in SCATTER or
  combines a token in COMBINE. -/
  | engineTokenIssue
  /-- R325: A token's writes and drop appends have all been performed or failed, advancing the cursor. -/
  | tokenSettled
   /-- R339: A pending LEASE_SKEW is taken at the context's next instruction boundary at which it is ACTIVE
  with HELD = 0. -/
  | leaseSkewDelivery
   /-- R342: An origin core receives an item for an issuer's error record, writes the area record if valid,
  and writes the queue record. -/
  | errorRecordItem
  /-- R344: A suspend or resume request reaches the target core and is applied in arrival order. -/
  | suspensionRequest
  /-- R343: An uncorrectable error in a DRAM or SRAM line poisons the line at its home and writes a record. -/
  | uncorrectableError
  /-- R364: A corrected error is counted, and more than 1,024 in one grain sets the ECC replace cause. -/
  | correctedError
   /-- R365: A vault fails by lost training or repeated uncorrectable errors and thereafter poisons reads and
  drops writes. -/
  | vaultFailure
  /-- R75: A host read taking a line exclusive is handled as an own load of its 16 words. -/
  | hostReadExclusive
  /-- R75: A host read taking a line shared is handled as a wi load adding the port as sharer. -/
  | hostReadShared
  /-- R75: A host read without caching is handled as a wt load. -/
  | hostReadNocache
  /-- R75: A host write is handled as a wt store, or dropped when its address has no home. -/
  | hostWrite
  /-- R75: A host write-back or clean eviction is handled as WB. -/
  | hostWriteback
   /-- R352: A host that does not answer a back-invalidation snoop within 1 ms is treated as a lost
  registrant. -/
  | snoopTimeout
   /-- R353: A doorbell write snapshots the slot's packet, releases prior host writes and presents the packet
  to the task unit. -/
  | doorbell
  /-- R353: The task unit's answer sets the slot's RESULT and sends MSI-X vector 2 when enabled. -/
  | doorbellResult
  /-- R362: Cluster c is powered 20 × c µs after the first cluster, releasing waiting wakes and dispatches. -/
  | clusterPowerUp
  /-- R363: Every 10 µs the governor measures draw and adjusts issue rates to hold the cap. -/
  | governorSample
  /-- R363: A sensor crossing a threshold sets or clears HOT or TRIP and halves or stops issue. -/
  | thermalThreshold
   /-- R357: A firmware-mode write of FW_VER.MINVER burns the fused minimum if the value is above MINVER and
  at most VER. -/
  | minverBurn
  /-- R230: A write to a system register with no behaviour of its own updates its writable fields. -/
  | registerWrite
  /-- R360: Mailbox command GET_STATUS returns BOOT_STAT, FW_VER, HEALTH and PWR_STAT. -/
  | mboxGetStatus
  /-- R360: Mailbox command GET_KEY returns the identity public key. -/
  | mboxGetKey
  /-- R359: Mailbox command ATTEST returns the signed attestation report for a nonce. -/
  | mboxAttest
  /-- R360: Mailbox command IMAGE_ERASE erases a flash slot to all ones. -/
  | mboxImageErase
  /-- R360: Mailbox command IMAGE_WRITE programs bytes into a flash slot. -/
  | mboxImageWrite
  /-- R360: Mailbox command IMAGE_ACTIVATE checks a slot and, on success, selects it and resets the cube. -/
  | mboxImageActivate
  /-- R360: Mailbox command SET_CAP writes PWR_CAP.WATTS, clamped. -/
  | mboxSetCap
  /-- R360: The mailbox carries the commands the CXL specification requires of a Type 3 memory device. -/
  | mboxCxlCommand
  /-- R361: The cube answers MCTP control messages as an endpoint. -/
  | mctpControl
  /-- R361: Novisar MCTP message GET_STATUS returns the status registers. -/
  | mctpGetStatus
  /-- R361: Novisar MCTP message GET_ERROR returns a kept error record and the newest index. -/
  | mctpGetError
  /-- R361: Novisar MCTP message GET_KEY returns the public key. -/
  | mctpGetKey
  /-- R361: Novisar MCTP message ATTEST returns the report for a nonce. -/
  | mctpAttest
  /-- R361: Novisar MCTP message SET_CAP writes the power cap. -/
  | mctpSetCap
  /-- R361: Novisar MCTP message IMAGE_ERASE erases a slot. -/
  | mctpImageErase
  /-- R361: Novisar MCTP message IMAGE_WRITE programs a slot. -/
  | mctpImageWrite
  /-- R361: Novisar MCTP message IMAGE_ACTIVATE checks and selects a slot and resets. -/
  | mctpImageActivate
   /-- R209: A thread issues an instruction word whose MAJ, LEN, FN, type or reserved fields are unassigned,
  and it raises ILLEGAL_ENCODING precisely with no other effect. -/
  | illegalEncoding
   /-- R102: A walker hart context executes one RV64IMC instruction of its walk routine, including
  global-physical loads and the nw* control-register accesses. -/
  | walkerHartInstruction
   /-- R353: A host write to the packet bytes of an injection-aperture slot stores them, or is discarded while
  the slot's RESULT reads 2^64 − 2. -/
  | slotPacketWrite
  deriving DecidableEq, Repr

/-- A step that is due, with what it carries: one constructor per step of a unit. The step itself is `Ev.instr`,
and it finds what it carries in the state. -/
inductive Ev where
  | cubeReset
  | mapRead
  | mapWrite
  | mapBegin
  | mapHold
  | mapStep
  | mapFinish
  | mapListRead
  | mapListWrite
  | holdTransferInstall (m : LineMove)
  | holdComplete (r : Report)
  | req (r : Req)
  | nack (n : NackMsg)
  | backoffExpiry (n : NackMsg)
  | fill (a : Ans)
  | data (a : Ans)
  | grant (a : Ans)
  | ackWt (a : Ans)
  | nocache (a : Ans)
  | inv (m : CohMsg)
  | invAck (m : CohMsg)
  | fwdRead (m : CohMsg) (r : Req)
  | fwdOwn (m : CohMsg) (r : Req)
  | revoke (m : CohMsg)
  | revokeWb (m : CohMsg)
  | rwbData (m : CohMsg) (value : Option Nat)
  | wb (r : Req)
  | wbAck (m : CohMsg)
  | wbBufferRetry (core : Nat)
  | remoteLostAtHome (m : CohMsg) (kind : Nat) (r : Option Req)
  | atomicAtHome (r : Req)
  | counterOpAtHome (r : Req)
  | watchRegistration (r : Req)
  | watchRegistrationRetry (slice : Nat)
  | satisfied (who : Agent) (id value : Nat)
  | dropped (who : Agent) (id : Nat)
  | regionReadNotice (r : Req)
  | regionNotice (r : Req)
  | check (c : CheckMsg)
  | checkAnswer (c : CheckMsg)
  | tagfree (core : Nat) (tags : List Nat)
  | sweepPass (slice : Nat)
  | boundarySerialWait (core ctx : Nat)
  | pmoveLineInstall (m : LineMove)
  | pmoveLineConfirm (r : Report)
  | frameZeroReport (r : Report)
  | sectionLookup (r : Req)
  | walkDispatch
  | nwdone (walk code : Nat) (pte paddr size info level : Nat)
  | walkTimeout (walk : Nat)
  | faultWaitRetry
  | leaseSkewCheck (slice : Nat)
  | referenceLost
  | referenceReturn
  | migrationDecay
  | laneLock (port : Nat)
  | blockLock (port : Nat)
  | helloInterval (port epoch : Nat)
  | hello (port cube peer : Nat) (set : Bool)
  | helloAck (port cube peer : Nat) (set : Bool)
  | trainingTimeout (port epoch : Nat)
  | bundleReceive (port : Nat) (b : Bundle)
  | stompFlit (port : Nat)
  | back (port num : Nat)
  | lreplay (port num : Nat)
  | credit (port : Nat) (l : List (Nat × Nat))
  | limitPeriod (port epoch : Nat)
  | limits (port : Nat) (l : List Nat)
  | limitAck (port : Nat)
  | fenceDrained (port : Nat)
  | fenceMsg (port : Nat)
  | fenceAck (port : Nat)
  | packetForward (port : Option Nat) (p : Packet)
  | packetCommit (port : Nat) (p : Packet)
  | resp (p : Packet)
  | ack (p : Packet)
  | retryTimeout (dest cls seq sent : Nat)
  | linkSilenceTimeout (port epoch : Nat)
  | laneLockLost (port : Nat)
  | portEnable (port : Nat)
  | portFence (port : Nat)
  | portDisable (port : Nat)
  | redApply (r : Req)
  | mcast (m : McastMsg) (hop : Nat) (alone : Bool)
  | streamEntryIdle (stream : Nat)
  | launchWake (m : LaunchMsg)
  | startWaitRetry (core : Nat)
  | exitNotice (e : ExitNote)
  | inboxArrival (core : Nat) (a : Arrival)
  | inboxHeldRetry (core : Nat)
  | handlerStart (core : Nat)
  | spillWake (core : Nat)
  | migratingContextArrival (m : Option MigCtx)
  | vclaimServe (core : Nat)
  | taskAdmission (input : Nat) (t : Option TaskMsg)
  | taskDecision
  | taskDispatch (seq : Nat)
  | sequencerStep (core : Nat)
  | followOnMma (core : Nat) (m : Option FollowMsg)
  | nbCommandAccept (r : Req) (c : NbCmd)
  | combineGrant (vault bgroup : Nat)
  | vaultBoundExpiry (vault : Nat)
  | burstResume (vault : Nat)
  | nbBurstComplete (vault : Nat)
  | nbStatQuery (q : Query)
  | peckReadWake (core : Nat)
  | fillWaitExpired (core ctx id : Nat)
  | ringTakeRetry (core handle : Nat)
  | queueWake (core queue : Nat)
  | waitExpired (core ctx id : Nat)
  | ringWaitExpired (core ctx id : Nat)
  | leasewaitReturn (core ctx : Nat)
  | directedAtomicValue (d : DirVal)
  | drainRow (r : RowMsg)
  | copyCommand (c : CopyCmd)
  | copyStart (vault : Nat)
  | copyChunk (vault serial : Nat)
  | copyRead (c : CopyMsg)
  | copyWrite (c : CopyMsg)
  | cpystatQuery (q : Query)
  | engineCount (engine : Nat)
  | engineOffsetExpert (engine : Nat)
  | turnWaitExpired (engine id : Nat)
  | engineTokenIssue (engine : Nat)
  | tokenSettled (engine token : Nat)
  | leaseSkewDelivery (core ctx : Nat)
  | errorRecordItem (e : ErrItem)
  | suspensionRequest (m : SuspMsg)
  | uncorrectableError (line : Nat)
  | correctedError (line : Nat)
  | vaultFailure (vault : Nat)
  | hostReadExclusive (off : Nat)
  | hostReadShared (off : Nat)
  | hostReadNocache (off : Nat)
  | hostWrite (off : Nat) (data : List Byte)
  | hostWriteback (off : Nat) (dirty : Bool) (data : List Byte)
  | snoopTimeout (id : Nat)
  | doorbell (slot value : Nat)
  | doorbellResult (slot value : Nat)
  | clusterPowerUp (cluster : Nat)
  | governorSample (watts stack logic : Nat)
  | thermalThreshold (stack logic : Nat)
  | minverBurn (value : Nat)
  | registerWrite (num value : Nat)
  | mboxGetStatus (body : List Byte)
  | mboxGetKey (body : List Byte)
  | mboxAttest (body : List Byte)
  | mboxImageErase (body : List Byte)
  | mboxImageWrite (body : List Byte)
  | mboxImageActivate (body : List Byte)
  | mboxSetCap (body : List Byte)
  | mboxCxlCommand (opcode : Nat) (body : List Byte)
  | mctpControl (body : List Byte)
  | mctpGetStatus (body : List Byte)
  | mctpGetError (body : List Byte)
  | mctpGetKey (body : List Byte)
  | mctpAttest (body : List Byte)
  | mctpSetCap (body : List Byte)
  | mctpImageErase (body : List Byte)
  | mctpImageWrite (body : List Byte)
  | mctpImageActivate (body : List Byte)
  | illegalEncoding (w0 w1 w2 : IWord)
  | walkerHartInstruction (hart : Nat)
  | slotPacketWrite (slot word value : Nat)
  deriving DecidableEq, Repr

/-- The step of the opcode table that a due step is. -/
def Ev.instr : Ev → Instr
  | .cubeReset => .cubeReset
  | .mapRead => .mapRead
  | .mapWrite => .mapWrite
  | .mapBegin => .mapBegin
  | .mapHold => .mapHold
  | .mapStep => .mapStep
  | .mapFinish => .mapFinish
  | .mapListRead => .mapListRead
  | .mapListWrite => .mapListWrite
  | .holdTransferInstall _ => .holdTransferInstall
  | .holdComplete _ => .holdComplete
  | .req _ => .req
  | .nack _ => .nack
  | .backoffExpiry _ => .backoffExpiry
  | .fill _ => .fill
  | .data _ => .data
  | .grant _ => .grant
  | .ackWt _ => .ackWt
  | .nocache _ => .nocache
  | .inv _ => .inv
  | .invAck _ => .invAck
  | .fwdRead _ _ => .fwdRead
  | .fwdOwn _ _ => .fwdOwn
  | .revoke _ => .revoke
  | .revokeWb _ => .revokeWb
  | .rwbData _ _ => .rwbData
  | .wb _ => .wb
  | .wbAck _ => .wbAck
  | .wbBufferRetry _ => .wbBufferRetry
  | .remoteLostAtHome _ _ _ => .remoteLostAtHome
  | .atomicAtHome _ => .atomicAtHome
  | .counterOpAtHome _ => .counterOpAtHome
  | .watchRegistration _ => .watchRegistration
  | .watchRegistrationRetry _ => .watchRegistrationRetry
  | .satisfied _ _ _ => .satisfied
  | .dropped _ _ => .dropped
  | .regionReadNotice _ => .regionReadNotice
  | .regionNotice _ => .regionNotice
  | .check _ => .check
  | .checkAnswer _ => .checkAnswer
  | .tagfree _ _ => .tagfree
  | .sweepPass _ => .sweepPass
  | .boundarySerialWait _ _ => .boundarySerialWait
  | .pmoveLineInstall _ => .pmoveLineInstall
  | .pmoveLineConfirm _ => .pmoveLineConfirm
  | .frameZeroReport _ => .frameZeroReport
  | .sectionLookup _ => .sectionLookup
  | .walkDispatch => .walkDispatch
  | .nwdone _ _ _ _ _ _ _ => .nwdone
  | .walkTimeout _ => .walkTimeout
  | .faultWaitRetry => .faultWaitRetry
  | .leaseSkewCheck _ => .leaseSkewCheck
  | .referenceLost => .referenceLost
  | .referenceReturn => .referenceReturn
  | .migrationDecay => .migrationDecay
  | .laneLock _ => .laneLock
  | .blockLock _ => .blockLock
  | .helloInterval _ _ => .helloInterval
  | .hello _ _ _ _ => .hello
  | .helloAck _ _ _ _ => .helloAck
  | .trainingTimeout _ _ => .trainingTimeout
  | .bundleReceive _ _ => .bundleReceive
  | .stompFlit _ => .stompFlit
  | .back _ _ => .back
  | .lreplay _ _ => .lreplay
  | .credit _ _ => .credit
  | .limitPeriod _ _ => .limitPeriod
  | .limits _ _ => .limits
  | .limitAck _ => .limitAck
  | .fenceDrained _ => .fenceDrained
  | .fenceMsg _ => .fenceMsg
  | .fenceAck _ => .fenceAck
  | .packetForward _ _ => .packetForward
  | .packetCommit _ _ => .packetCommit
  | .resp _ => .resp
  | .ack _ => .ack
  | .retryTimeout _ _ _ _ => .retryTimeout
  | .linkSilenceTimeout _ _ => .linkSilenceTimeout
  | .laneLockLost _ => .laneLockLost
  | .portEnable _ => .portEnable
  | .portFence _ => .portFence
  | .portDisable _ => .portDisable
  | .redApply _ => .redApply
  | .mcast _ _ _ => .mcast
  | .streamEntryIdle _ => .streamEntryIdle
  | .launchWake _ => .launchWake
  | .startWaitRetry _ => .startWaitRetry
  | .exitNotice _ => .exitNotice
  | .inboxArrival _ _ => .inboxArrival
  | .inboxHeldRetry _ => .inboxHeldRetry
  | .handlerStart _ => .handlerStart
  | .spillWake _ => .spillWake
  | .migratingContextArrival _ => .migratingContextArrival
  | .vclaimServe _ => .vclaimServe
  | .taskAdmission _ _ => .taskAdmission
  | .taskDecision => .taskDecision
  | .taskDispatch _ => .taskDispatch
  | .sequencerStep _ => .sequencerStep
  | .followOnMma _ _ => .followOnMma
  | .nbCommandAccept _ _ => .nbCommandAccept
  | .combineGrant _ _ => .combineGrant
  | .vaultBoundExpiry _ => .vaultBoundExpiry
  | .burstResume _ => .burstResume
  | .nbBurstComplete _ => .nbBurstComplete
  | .nbStatQuery _ => .nbStatQuery
  | .peckReadWake _ => .peckReadWake
  | .fillWaitExpired _ _ _ => .fillWaitExpired
  | .ringTakeRetry _ _ => .ringTakeRetry
  | .queueWake _ _ => .queueWake
  | .waitExpired _ _ _ => .waitExpired
  | .ringWaitExpired _ _ _ => .ringWaitExpired
  | .leasewaitReturn _ _ => .leasewaitReturn
  | .directedAtomicValue _ => .directedAtomicValue
  | .drainRow _ => .drainRow
  | .copyCommand _ => .copyCommand
  | .copyStart _ => .copyStart
  | .copyChunk _ _ => .copyChunk
  | .copyRead _ => .copyRead
  | .copyWrite _ => .copyWrite
  | .cpystatQuery _ => .cpystatQuery
  | .engineCount _ => .engineCount
  | .engineOffsetExpert _ => .engineOffsetExpert
  | .turnWaitExpired _ _ => .turnWaitExpired
  | .engineTokenIssue _ => .engineTokenIssue
  | .tokenSettled _ _ => .tokenSettled
  | .leaseSkewDelivery _ _ => .leaseSkewDelivery
  | .errorRecordItem _ => .errorRecordItem
  | .suspensionRequest _ => .suspensionRequest
  | .uncorrectableError _ => .uncorrectableError
  | .correctedError _ => .correctedError
  | .vaultFailure _ => .vaultFailure
  | .hostReadExclusive _ => .hostReadExclusive
  | .hostReadShared _ => .hostReadShared
  | .hostReadNocache _ => .hostReadNocache
  | .hostWrite _ _ => .hostWrite
  | .hostWriteback _ _ _ => .hostWriteback
  | .snoopTimeout _ => .snoopTimeout
  | .doorbell _ _ => .doorbell
  | .doorbellResult _ _ => .doorbellResult
  | .clusterPowerUp _ => .clusterPowerUp
  | .governorSample _ _ _ => .governorSample
  | .thermalThreshold _ _ => .thermalThreshold
  | .minverBurn _ => .minverBurn
  | .registerWrite _ _ => .registerWrite
  | .mboxGetStatus _ => .mboxGetStatus
  | .mboxGetKey _ => .mboxGetKey
  | .mboxAttest _ => .mboxAttest
  | .mboxImageErase _ => .mboxImageErase
  | .mboxImageWrite _ => .mboxImageWrite
  | .mboxImageActivate _ => .mboxImageActivate
  | .mboxSetCap _ => .mboxSetCap
  | .mboxCxlCommand _ _ => .mboxCxlCommand
  | .mctpControl _ => .mctpControl
  | .mctpGetStatus _ => .mctpGetStatus
  | .mctpGetError _ => .mctpGetError
  | .mctpGetKey _ => .mctpGetKey
  | .mctpAttest _ => .mctpAttest
  | .mctpSetCap _ => .mctpSetCap
  | .mctpImageErase _ => .mctpImageErase
  | .mctpImageWrite _ => .mctpImageWrite
  | .mctpImageActivate _ => .mctpImageActivate
  | .illegalEncoding _ _ _ => .illegalEncoding
  | .walkerHartInstruction _ => .walkerHartInstruction
  | .slotPacketWrite _ _ _ => .slotPacketWrite

end Sys2Proof
end

