-- ==== Sys2Proof/WellFormed.lean ====
section
/-! DEFINITION. When an instruction is well formed: what the decoder accepts and the encoder writes (10 R202 to
R209 and the ILLEGAL_ENCODING rules of the entries of 11 to 15). -/

namespace Sys2Proof

/-- The predicate and literal rules: (!c0) is illegal, and a literal must be named by an operand specifier
(10 R205, R207). -/
def hdOk (h : Hd) (specs : List Opd) : Bool :=
  !(h.pred == 0#3 && h.pneg) && (h.lit.isNone || specs.contains .lit)

/-- Register numbers that Table 11.5 and 17 R349 assign; the number is B:A (11 R230). -/
def sysNumOk (nb na : BitVec 5) : Bool :=
  let n := nb.toNat * 32 + na.toNat
  decide (n ≤ 0x00B) || decide (0x040 ≤ n ∧ n ≤ 0x043) || decide (0x080 ≤ n ∧ n ≤ 0x085) ||
  decide (0x088 ≤ n ∧ n ≤ 0x08B) || decide (0x090 ≤ n ∧ n ≤ 0x095) || decide (0x098 ≤ n ∧ n ≤ 0x09B) ||
  decide (0x0A0 ≤ n ∧ n ≤ 0x0A8) || decide (0x0B0 ≤ n ∧ n ≤ 0x0B2) || decide (0x0B8 ≤ n ∧ n ≤ 0x0B9) ||
  decide (0x0C0 ≤ n ∧ n ≤ 0x0C3) || decide (0x100 ≤ n ∧ n ≤ 0x102) || decide (0x108 ≤ n ∧ n ≤ 0x10A) ||
  decide (0x110 ≤ n ∧ n ≤ 0x111) || n == 0x118 || decide (0x120 ≤ n ∧ n ≤ 0x126)

/-- The queue tests: A names a queue, D is g0 to g15 or z (11 R229). -/
def qtryOk (d a : Opd) : Bool :=
  a.isQueue && (match d with | .g _ => true | .z => true | _ => false)

/-- Is it a float type? -/
def Ty.isFloat : Ty → Bool
  | .f32 => true
  | .bf16 => true
  | _ => false

/-- Is it an integer type? -/
def Ty.isInt : Ty → Bool
  | .f32 => false
  | .bf16 => false
  | .c4 => false
  | _ => true

/-- Is it a signed integer type? -/
def Ty.isSigned : Ty → Bool
  | .i8 => true | .i16 => true | .i32 => true | .i64 => true
  | _ => false

/-- Element width in bytes (13 R265); packed codes count as bytes. -/
def Ty.width : Ty → Nat
  | .i8 => 1 | .n8 => 1 | .i16 => 2 | .n16 => 2 | .bf16 => 2 | .i32 => 4 | .n32 => 4 | .f32 => 4
  | .i64 => 8 | .n64 => 8 | .c4 => 1

/-- Atomic forms and types (12 R254, Table 12.4); `op` is 0 `aadd` to 7 `acas`. -/
def atomOk (op : Nat) (form : BitVec 2) (d : Opd) (v : AOp) : Bool :=
  (v.ty == .i32 || v.ty == .n32 || v.ty == .i64 || v.ty == .n64 || (op == 0 && v.ty.isFloat)) &&
  (!v.m || (form == 0#2 && op == 0 && v.ty.isFloat)) &&
  (form == 0#2 || form == 1#2 || (form == 2#2 && op != 7)) &&
  (if form == 2#2 then decide (v.x2.toNat ≤ 15)
   else v.x1 == 0#6 && v.x2 == 0#6 && v.core == 0#20) &&
  (form != 0#2 || op == 7 || d == .g 0#4)

/-- The vector fields that an instruction does not use are 0 (10 R202, 13 R266): one flag per field used. -/
def vUses (v : VOp) (x1 x2 x3 x4 msk rnd bs sat part hint sc : Bool) : Bool :=
  (x1 || v.x1 == 0#6) && (x2 || v.x2 == 0#6) && (x3 || v.x3 == 0#6) && (x4 || v.x4 == 0#6) &&
  (msk || v.msk == 0#3) && (rnd || v.rnd == 0#2) && (bs || !v.bs) && (sat || !v.sat) &&
  (part || v.part == 0#2) && (hint || v.hint == 0#2) && (sc || v.sc == 0#2) && v.ty != .c4

/-- With BS the second source is operand A and X3 is reserved; without it A is reserved (13 Table 13.1). -/
def bsOk (a : Opd) (v : VOp) : Bool := if v.bs then v.x3 == 0#6 else a == .g 0#4

/-- `vadd`, `vsub`, `vmul`, and `vfma` with X4. -/
def vArith (a : Opd) (v : VOp) (x4 : Bool) : Bool :=
  vUses v true true true x4 true v.ty.isFloat true v.ty.isInt false false false && bsOk a v
/-- `vmin`, `vmax`. -/
def vMinMax (a : Opd) (v : VOp) : Bool :=
  vUses v true true true false true false true false false false false && bsOk a v
/-- `vabs`, `vneg`. -/
def vSign (v : VOp) : Bool := vUses v true true false false true false false v.ty.isInt false false false
/-- `vrcp`, `vrsqrt`, `vexp2`, `vlog2`. -/
def vFun (v : VOp) : Bool :=
  vUses v true true false false true true false false false false false && v.ty.isFloat
/-- `vcvt` to type `t` (13 R273). -/
def vCvt (t : Ty) (v : VOp) : Bool :=
  vUses v true true false false true
    ((t.isFloat || v.ty.isFloat) && !(t == .f32 && v.ty == .bf16)) false (t.isInt && v.ty.isInt && decide (t.width < v.ty.width)) true false false &&
  t != .c4 && t != v.ty &&
  decide (v.part.toNat * min (256 / t.width) (256 / v.ty.width) < max (256 / t.width) (256 / v.ty.width))
/-- The logic and shift instructions (13 R274). -/
def vLogic (a : Opd) (v : VOp) : Bool :=
  vUses v true true true false true false true false false false false && bsOk a v && v.ty.isInt
/-- `vcmp`: X1 is a mask, COND 0 to 5. -/
def vCmp (a : Opd) (cond : BitVec 3) (v : VOp) : Bool :=
  vUses v true true true false true false true false false false false && bsOk a v &&
  decide (v.x1.toNat ≤ 7) && decide (cond.toNat ≤ 5)
/-- `vsel`: X4 is a mask. -/
def vSelOk (a : Opd) (v : VOp) : Bool :=
  vUses v true true true true true false true false false false false && bsOk a v && decide (v.x4.toNat ≤ 7)
/-- The reductions (13 R275): of floats, the sum rounds, and of BF16 the root. -/
def vRed (add : Bool) (v : VOp) : Bool :=
  vUses v false true false false true (v.ty.isFloat && (add || v.ty == .bf16)) false v.ty.isInt false false false
/-- `vscan` (13 R276). -/
def vScan (v : VOp) : Bool :=
  vUses v true true false false true v.ty.isFloat false v.ty.isInt false false false
/-- `vperm` (13 R277). -/
def vPerm (v : VOp) : Bool := vUses v true true true false true false false false false false false
/-- `vbcast` (13 R277). -/
def vBcast (v : VOp) : Bool := vUses v true false false false true false false false false false false
/-- `vext` (13 R277). -/
def vExt (v : VOp) : Bool := vUses v false true false false false false false false false false false
/-- `vins` (13 R277). -/
def vIns (v : VOp) : Bool := vUses v true false false false false false false false false false false
/-- `vld.t`, `vst.t` (13 R278). -/
def vTile (v : VOp) : Bool := vUses v true true false false true false false false false false false
/-- `vld`, `vst` (13 R279). -/
def vMem (v : VOp) : Bool := vUses v true false false false true false false false true true false
/-- `vgath`, `vscat` (13 R279). -/
def vIdx (v : VOp) : Bool := vUses v true false true false true false false false true true true
/-- `vcb` (13 R282). -/
def vCb (v : VOp) : Bool :=
  vUses v true true true false true false false false true false false && decide (v.x3.toNat ≤ 7) &&
  (v.ty == .bf16 || (v.ty == .i8 && decide (v.part.toNat ≤ 1)))

/-- What every mma shares: an accumulator number, no scale fields without a scale (13 R284). -/
def mBase (v : MOp) : Bool :=
  decide (v.x1.toNat ≤ 7) && (v.sav || v.sbv || (v.sh == 0#6 && v.srow == 0#10))
/-- `mma.bf16`. -/
def mBf16 (v : MOp) : Bool := mBase v && v.ty == .bf16 && v.x4 == 0#6 && !v.spn
/-- `mma.i8` and `mma.i8.c4`. -/
def mI8 (v : MOp) : Bool :=
  mBase v && !v.spn && !v.sav && !v.sbv &&
  ((v.ty == .i8 && v.x4 == 0#6) || (v.ty == .c4 && decide (v.x4.toNat ≤ 7)))
/-- `mma.cb`. -/
def mCb (v : MOp) : Bool := mBase v && v.ty == .c4 && decide (v.x4.toNat ≤ 7) && !v.spn
/-- `mma.sp`. -/
def mSp (v : MOp) : Bool :=
  mBase v && v.x4 == 0#6 && (v.ty == .bf16 || (v.ty == .i8 && !v.sav && !v.sbv))

/-- The row formats of 13 Table 13.7. -/
def accTy (t : Ty) : Bool := t == .f32 || t == .i32 || t == .bf16 || t == .i8
/-- `azero`: X1 only. -/
def accZero (v : AccOp) : Bool :=
  decide (v.x1.toNat ≤ 7) && v.x2 == 0#6 && v.ty == .i8 && v.rnd == 0#2 && !v.par && !v.zr
/-- `aload`. -/
def accLoad (v : AccOp) : Bool :=
  decide (v.x1.toNat ≤ 7) && accTy v.ty && v.rnd == 0#2 && !v.par && !v.zr
/-- `astore`. -/
def accStore (v : AccOp) : Bool := decide (v.x1.toNat ≤ 7) && accTy v.ty && !v.par
/-- `adrain`. -/
def accDrain (v : AccOp) : Bool := decide (v.x1.toNat ≤ 7) && accTy v.ty

/-- `kload` (13 R281). -/
def kOk (b : Opd) (v : KOp) : Bool :=
  decide (v.x1.toNat ≤ 7) && (v.ty == .bf16 || v.ty == .i8) && (v.src || (v.x2 == 0#6 && b == .g 0#4))

/-- REL must be 0 where the instruction's row says "ACQ only" (14 R290). -/
def noRel (x : Option EFlags) : Bool :=
  match x with
  | some f => !f.rel
  | none => true

/-- Well-formed instructions: those that have an encoding, with every field at a value the encoding admits. -/
def Instr.wf : Instr → Bool
  | .add h d a b => hdOk h [d, a, b]
  | .sub h d a b => hdOk h [d, a, b]
  | .mul h d a b => hdOk h [d, a, b]
  | .mulhI64 h d a b => hdOk h [d, a, b]
  | .mulhN64 h d a b => hdOk h [d, a, b]
  | .divI64 h d a b => hdOk h [d, a, b]
  | .divN64 h d a b => hdOk h [d, a, b]
  | .remI64 h d a b => hdOk h [d, a, b]
  | .remN64 h d a b => hdOk h [d, a, b]
  | .minI64 h d a b => hdOk h [d, a, b]
  | .minN64 h d a b => hdOk h [d, a, b]
  | .maxI64 h d a b => hdOk h [d, a, b]
  | .maxN64 h d a b => hdOk h [d, a, b]
  | .addsX1 h d a b => hdOk h [d, a, b]
  | .addsX2 h d a b => hdOk h [d, a, b]
  | .addsX4 h d a b => hdOk h [d, a, b]
  | .addsX8 h d a b => hdOk h [d, a, b]
  | .add32 h _ d a b => hdOk h [d, a, b]
  | .sub32 h _ d a b => hdOk h [d, a, b]
  | .mul32 h _ d a b => hdOk h [d, a, b]
  | .mulhI32 h d a b => hdOk h [d, a, b]
  | .mulhN32 h d a b => hdOk h [d, a, b]
  | .divI32 h d a b => hdOk h [d, a, b]
  | .divN32 h d a b => hdOk h [d, a, b]
  | .remI32 h d a b => hdOk h [d, a, b]
  | .remN32 h d a b => hdOk h [d, a, b]
  | .minI32 h d a b => hdOk h [d, a, b]
  | .minN32 h d a b => hdOk h [d, a, b]
  | .maxI32 h d a b => hdOk h [d, a, b]
  | .maxN32 h d a b => hdOk h [d, a, b]
  | .and h d a b => hdOk h [d, a, b]
  | .or h d a b => hdOk h [d, a, b]
  | .xor h d a b => hdOk h [d, a, b]
  | .andn h d a b => hdOk h [d, a, b]
  | .shl h d a b => hdOk h [d, a, b]
  | .shr h d a b => hdOk h [d, a, b]
  | .sha h d a b => hdOk h [d, a, b]
  | .rol h d a b => hdOk h [d, a, b]
  | .clz h d a => hdOk h [d, a]
  | .ctz h d a => hdOk h [d, a]
  | .popc h d a => hdOk h [d, a]
  | .mov h d a => hdOk h [d, a]
  | .bfx h d a b => hdOk h [d, a, b]
  | .bfi h d a b => hdOk h [d, a, b]
  | .sextI8 h d a => hdOk h [d, a]
  | .sextI16 h d a => hdOk h [d, a]
  | .sextI32 h d a => hdOk h [d, a]
  | .zextN8 h d a => hdOk h [d, a]
  | .zextN16 h d a => hdOk h [d, a]
  | .zextN32 h d a => hdOk h [d, a]
  | .sel h c d a b => hdOk h [d, a, b] && c != 0#3
  | .addImm h d a _ => hdOk h [d, a] && h.lit.isNone
  | .andImm h d a _ => hdOk h [d, a] && h.lit.isNone
  | .orImm h d a _ => hdOk h [d, a] && h.lit.isNone
  | .xorImm h d a _ => hdOk h [d, a] && h.lit.isNone
  | .shlImm h d a _ => hdOk h [d, a] && h.lit.isNone
  | .shrImm h d a _ => hdOk h [d, a] && h.lit.isNone
  | .shaImm h d a _ => hdOk h [d, a] && h.lit.isNone
  | .li h d _ => hdOk h [d] && h.lit.isNone
  | .cmpSigned h _ c _ a b => hdOk h [a, b] && decide (c.toNat ≤ 5)
  | .cmpUnsigned h _ c _ a b => hdOk h [a, b] && decide (c.toNat ≤ 5)
  | .cmpFloat h _ c _ a b => hdOk h [a, b] && decide (c.toNat ≤ 5)
  | .pand h _ _ _ => hdOk h [] && h.lit.isNone
  | .por h _ _ _ => hdOk h [] && h.lit.isNone
  | .pxor h _ _ _ => hdOk h [] && h.lit.isNone
  | .pnot h _ _ => hdOk h [] && h.lit.isNone
  | .br h _ => hdOk h [] && h.lit.isNone
  | .callOffset h _ => hdOk h [] && h.lit.isNone
  | .loop h d _ => hdOk h [d] && h.lit.isNone
  | .jmp h a => hdOk h [a]
  | .callReg h d a => hdOk h [d, a]
  | .ret h a => hdOk h [a]
  | .exit h => hdOk h []
  | .yield h => hdOk h []
  | .nop h => hdOk h []
  | .qtry h d a b => hdOk h [d, a, b] && (qtryOk d a && !b.isQueue)
  | .qcount h d a => hdOk h [d, a] && qtryOk d a
  | .qpeek h d a => hdOk h [d, a] && qtryOk d a
  | .ld h w sx _ d a _ _ => hdOk h [d, a] && (!(sx && w == 3#2))
  | .st h _ _ d a _ _ => hdOk h [d, a]
  | .ldx h w sx _ d a b _ => hdOk h [d, a, b] && (!(sx && w == 3#2))
  | .stx h _ _ d a b _ => hdOk h [d, a, b]
  | .aadd h form d a b v => hdOk h [d, a, b] && atomOk 0 form d v
  | .amin h form d a b v => hdOk h [d, a, b] && atomOk 1 form d v
  | .amax h form d a b v => hdOk h [d, a, b] && atomOk 2 form d v
  | .aand h form d a b v => hdOk h [d, a, b] && atomOk 3 form d v
  | .aor h form d a b v => hdOk h [d, a, b] && atomOk 4 form d v
  | .axor h form d a b v => hdOk h [d, a, b] && atomOk 5 form d v
  | .aswap h form d a b v => hdOk h [d, a, b] && atomOk 6 form d v
  | .acas h form d a b v => hdOk h [d, a, b] && atomOk 7 form d v
  | .cadd h _ _ b => hdOk h [b]
  | .cfadd h _ d _ b => hdOk h [d, b]
  | .cwait h _ lim _ b x => hdOk h [b] && ((x.isNone || lim == 0#5))
  | .cpoll h _ _ _ b => hdOk h [b]
  | .cread h _ d _ => hdOk h [d]
  | .fenceAcq h _ => hdOk h []
  | .fenceRel h _ => hdOk h []
  | .fenceAr h _ => hdOk h []
  | .fenceSc h _ => hdOk h []
  | .clean h a b => hdOk h [a, b]
  | .inval h a b => hdOk h [a, b]
  | .flush h a b => hdOk h [a, b]
  | .pref h _ a b => hdOk h [a, b]
  | .ownrel h a b => hdOk h [a, b]
  | .sysrd h d na nb => hdOk h [d] && h.lit.isNone && sysNumOk nb na
  | .syswr h d na nb => hdOk h [d] && h.lit.isNone && sysNumOk nb na
  | .svc h a => hdOk h [a]
  | .brk h a => hdOk h [a]
  | .eret h => hdOk h []
  | .suspendL h d a => hdOk h [d, a]
  | .suspendF h d a b => hdOk h [d, a, b]
  | .resume h d a b => hdOk h [d, a, b]
  | .leasewait h d a => hdOk h [d, a]
  | .rdclk h d => hdOk h [d]
  | .ident h d a => hdOk h [d, a]
  | .ifence h => hdOk h []
  | .fltDone h d a b => hdOk h [d, a, b]
  | .pmove h d a => hdOk h [d, a]
  | .pzero h d a b => hdOk h [d, a, b]
  | .vadd h a v => hdOk h [a] && vArith a v false
  | .vsub h a v => hdOk h [a] && vArith a v false
  | .vmul h a v => hdOk h [a] && vArith a v false
  | .vmin h a v => hdOk h [a] && vMinMax a v
  | .vmax h a v => hdOk h [a] && vMinMax a v
  | .vfma h a v => hdOk h [a] && vArith a v true
  | .vabs h v => hdOk h [] && vSign v
  | .vneg h v => hdOk h [] && vSign v
  | .vrcp h v => hdOk h [] && vFun v
  | .vrsqrt h v => hdOk h [] && vFun v
  | .vexp2 h v => hdOk h [] && vFun v
  | .vlog2 h v => hdOk h [] && vFun v
  | .vcvt h t v => hdOk h [] && vCvt t v
  | .vand h a v => hdOk h [a] && vLogic a v
  | .vor h a v => hdOk h [a] && vLogic a v
  | .vxor h a v => hdOk h [a] && vLogic a v
  | .vshl h a v => hdOk h [a] && vLogic a v
  | .vshr h a v => hdOk h [a] && vLogic a v
  | .vsha h a v => hdOk h [a] && vLogic a v
  | .vcmp h cond a v => hdOk h [a] && vCmp a cond v
  | .vsel h a v => hdOk h [a] && vSelOk a v
  | .vredAdd h d v => hdOk h [d] && vRed true v
  | .vredMax h d v => hdOk h [d] && vRed false v
  | .vredMin h d v => hdOk h [d] && vRed false v
  | .vscan h a v => hdOk h [a] && vScan v
  | .vperm h v => hdOk h [] && vPerm v
  | .vbcast h a v => hdOk h [a] && vBcast v
  | .vext h d b v => hdOk h [d, b] && vExt v
  | .vins h a b v => hdOk h [a, b] && vIns v
  | .vldT h a b v => hdOk h [a, b] && vTile v
  | .vstT h a b v => hdOk h [a, b] && vTile v
  | .vld h a b v => hdOk h [a, b] && vMem v
  | .vst h a b v => hdOk h [a, b] && vMem v
  | .vgath h a v => hdOk h [a] && vIdx v
  | .vscat h a v => hdOk h [a] && vIdx v
  | .vcb h v => hdOk h [] && vCb v
  | .vclaim h a => hdOk h [a]
  | .vtry h a => hdOk h [a]
  | .vyield h a => hdOk h [a]
  | .talloc h d a _ => hdOk h [d, a]
  | .tfree h _ => hdOk h []
  | .tinfo h d b _ => hdOk h [d, b]
  | .tzero h a b _ => hdOk h [a, b]
  | .tempty h a b _ => hdOk h [a, b]
  | .rpush h d _ => hdOk h [d]
  | .rpop h d _ => hdOk h [d]
  | .rwait h a b _ => hdOk h [a, b]
  | .rstate h d _ => hdOk h [d]
  | .mmaBf16 h a b v => hdOk h [a, b] && mBf16 v
  | .mmaI8 h a b v => hdOk h [a, b] && mI8 v
  | .mmaCb h a b v => hdOk h [a, b] && mCb v
  | .mmaSp h a b v => hdOk h [a, b] && mSp v
  | .azero h v => hdOk h [] && accZero v
  | .aload h a v => hdOk h [a] && accLoad v
  | .astore h a v => hdOk h [a] && accStore v
  | .adrain h a b v => hdOk h [a, b] && accDrain v
  | .kload h a b v => hdOk h [a, b] && kOk b v
  | .cpy h d a _ => hdOk h [d, a]
  | .cpyMma h d a _ => hdOk h [d, a]
  | .cpyr h d a _ => hdOk h [d, a]
  | .cpystat h d a => hdOk h [d, a]
  | .spawn h d a x => hdOk h [d, a] && noRel x
  | .job h d a b x => hdOk h [d, a, b] && noRel x
  | .launch h d a x => hdOk h [d, a] && noRel x
  | .send h a b f _ _ _ => hdOk h [a, b] && !f.rel
  | .replay h a => hdOk h [a]
  | .mpop h d a => hdOk h [d, a]
  | .roam h d a => hdOk h [d, a]
  | .migrate h d a => hdOk h [d, a]
  | .nmcast h a b f _ _ => hdOk h [a, b] && !f.rel
  | .nred h a f _ rop _ _ => hdOk h [a] && (!f.rel && rop != 7#3)
  | .nbComb h a _ => hdOk h [a]
  | .nbFill h a _ => hdOk h [a]
  | .nbRed h a _ => hdOk h [a]
  | .nbStat h d a => hdOk h [d, a]
  | .xcfg h d a b => hdOk h [d, a, b]
  | .xroute h d a b _ => hdOk h [d, a, b]
  | .xcombine h d a b _ => hdOk h [d, a, b]
  | .xstat h d a b => hdOk h [d, a, b]
  | .xresume h d a => hdOk h [d, a]
  | .xabort h d a => hdOk h [d, a]
  | .cubeReset => true
  | .mapRead => true
  | .mapWrite => true
  | .mapBegin => true
  | .mapHold => true
  | .mapStep => true
  | .mapFinish => true
  | .mapListRead => true
  | .mapListWrite => true
  | .holdTransferInstall => true
  | .holdComplete => true
  | .req => true
  | .nack => true
  | .backoffExpiry => true
  | .fill => true
  | .data => true
  | .grant => true
  | .ackWt => true
  | .nocache => true
  | .inv => true
  | .invAck => true
  | .fwdRead => true
  | .fwdOwn => true
  | .revoke => true
  | .revokeWb => true
  | .rwbData => true
  | .wb => true
  | .wbAck => true
  | .wbBufferRetry => true
  | .remoteLostAtHome => true
  | .atomicAtHome => true
  | .counterOpAtHome => true
  | .watchRegistration => true
  | .watchRegistrationRetry => true
  | .satisfied => true
  | .dropped => true
  | .regionReadNotice => true
  | .regionNotice => true
  | .check => true
  | .checkAnswer => true
  | .tagfree => true
  | .sweepPass => true
  | .boundarySerialWait => true
  | .pmoveLineInstall => true
  | .pmoveLineConfirm => true
  | .frameZeroReport => true
  | .sectionLookup => true
  | .walkDispatch => true
  | .nwdone => true
  | .walkTimeout => true
  | .faultWaitRetry => true
  | .leaseSkewCheck => true
  | .referenceLost => true
  | .referenceReturn => true
  | .migrationDecay => true
  | .laneLock => true
  | .blockLock => true
  | .helloInterval => true
  | .hello => true
  | .helloAck => true
  | .trainingTimeout => true
  | .bundleReceive => true
  | .stompFlit => true
  | .back => true
  | .lreplay => true
  | .credit => true
  | .limitPeriod => true
  | .limits => true
  | .limitAck => true
  | .fenceDrained => true
  | .fenceMsg => true
  | .fenceAck => true
  | .packetForward => true
  | .packetCommit => true
  | .resp => true
  | .ack => true
  | .retryTimeout => true
  | .linkSilenceTimeout => true
  | .laneLockLost => true
  | .portEnable => true
  | .portFence => true
  | .portDisable => true
  | .redApply => true
  | .mcast => true
  | .streamEntryIdle => true
  | .launchWake => true
  | .startWaitRetry => true
  | .exitNotice => true
  | .inboxArrival => true
  | .inboxHeldRetry => true
  | .handlerStart => true
  | .spillWake => true
  | .migratingContextArrival => true
  | .vclaimServe => true
  | .taskAdmission => true
  | .taskDecision => true
  | .taskDispatch => true
  | .sequencerStep => true
  | .followOnMma => true
  | .nbCommandAccept => true
  | .combineGrant => true
  | .vaultBoundExpiry => true
  | .burstResume => true
  | .nbBurstComplete => true
  | .nbStatQuery => true
  | .peckReadWake => true
  | .fillWaitExpired => true
  | .ringTakeRetry => true
  | .queueWake => true
  | .waitExpired => true
  | .ringWaitExpired => true
  | .leasewaitReturn => true
  | .directedAtomicValue => true
  | .drainRow => true
  | .copyCommand => true
  | .copyStart => true
  | .copyChunk => true
  | .copyRead => true
  | .copyWrite => true
  | .cpystatQuery => true
  | .engineCount => true
  | .engineOffsetExpert => true
  | .turnWaitExpired => true
  | .engineTokenIssue => true
  | .tokenSettled => true
  | .leaseSkewDelivery => true
  | .errorRecordItem => true
  | .suspensionRequest => true
  | .uncorrectableError => true
  | .correctedError => true
  | .vaultFailure => true
  | .hostReadExclusive => true
  | .hostReadShared => true
  | .hostReadNocache => true
  | .hostWrite => true
  | .hostWriteback => true
  | .snoopTimeout => true
  | .doorbell => true
  | .doorbellResult => true
  | .clusterPowerUp => true
  | .governorSample => true
  | .thermalThreshold => true
  | .minverBurn => true
  | .registerWrite => true
  | .mboxGetStatus => true
  | .mboxGetKey => true
  | .mboxAttest => true
  | .mboxImageErase => true
  | .mboxImageWrite => true
  | .mboxImageActivate => true
  | .mboxSetCap => true
  | .mboxCxlCommand => true
  | .mctpControl => true
  | .mctpGetStatus => true
  | .mctpGetError => true
  | .mctpGetKey => true
  | .mctpAttest => true
  | .mctpSetCap => true
  | .mctpImageErase => true
  | .mctpImageWrite => true
  | .mctpImageActivate => true
  | .illegalEncoding => true
  | .walkerHartInstruction => true
  | .slotPacketWrite => true

end Sys2Proof
end

