-- ==== Sys2Proof/Decode.lean ====
section
/-! DEFINITION. The decoder, total on any words and rejecting by name (10 R200 to R210), and after it the encoder,
written from the same tables. A rejected encoding takes the ILLEGAL_ENCODING trap (the step of that name). -/

namespace Sys2Proof

/-- Why an encoding is not an instruction (10 R209). -/
inductive Reject where
  /-- MAJ is unassigned. -/
  | major
  /-- LEN is not allowed for MAJ. -/
  | length
  /-- FN, or a subfield of it, is unassigned. -/
  | function
  /-- PRED = 0 with PNEG = 1 (R207). -/
  | predicate
  /-- A reserved field is nonzero. -/
  | reserved
  /-- A literal that no operand specifier names (R205). -/
  | literal
  /-- A type code the instruction does not accept (R203). -/
  | type
  /-- A register field, option or operand the instruction does not accept. -/
  | option
  deriving DecidableEq, Repr

/-- The fields of an instruction's words (10 Tables 10.1 to 10.3): words an instruction does not have are 0. -/
structure Parts where
  len : BitVec 2
  maj : BitVec 6
  pred : BitVec 3
  pneg : Bool
  d : BitVec 5
  a : BitVec 5
  b : BitVec 5
  fn : BitVec 5
  w1 : BitVec 32
  w2 : BitVec 32
  lit : BitVec 64
  deriving DecidableEq, Repr

/-- The words' fields; LEN says which later words there are and what they hold (10 Table 10.1). -/
def splitWords (ws : List IWord) : Parts :=
  let w := nthD ws 0 0#32
  let l := w.extractLsb' 0 2
  let ext := l.getLsbD 1
  let k := if ext then 3 else 1
  { len := l, maj := w.extractLsb' 2 6, pred := w.extractLsb' 8 3, pneg := w.getLsbD 11,
    d := w.extractLsb' 12 5, a := w.extractLsb' 17 5, b := w.extractLsb' 22 5, fn := w.extractLsb' 27 5,
    w1 := if ext then nthD ws 1 0#32 else 0#32,
    w2 := if ext then nthD ws 2 0#32 else 0#32,
    lit := if l.getLsbD 0 then nthD ws (k + 1) 0#32 ++ nthD ws k 0#32 else 0#64 }

/-- The candidate if the check holds, else the reason. -/
def guardR (c : Bool) (r : Reject) (x : Except Reject Instr) : Except Reject Instr :=
  if c then x else .error r

/-- Predicate and literal of the words. -/
def hd (p : Parts) : Hd :=
  { pneg := p.pneg, pred := p.pred, lit := if p.len.getLsbD 0 then some p.lit else none }

/-- A literal is named by some operand specifier (R205). -/
def litOk (p : Parts) (specs : List (BitVec 5)) : Bool := !p.len.getLsbD 0 || specs.contains 29#5

/-- The counter field (Table 10.9). -/
def ctrOf (c : BitVec 5) : Ctr := if c.getLsbD 4 then .lc (c.extractLsb' 0 4) else .mem (c.extractLsb' 0 4)

/-- The type of a code, or the rejection. -/
def withTy (inRange : Bool) (c : BitVec 5) (k : Ty → Except Reject Instr) : Except Reject Instr :=
  match (if inRange then Ty.ofCode (c.extractLsb' 0 4) else none) with
  | some t => k t
  | none => .error .function

/-- TYPE of W1, or the rejection (R203). -/
def withW1Ty (p : Parts) (k : Ty → Except Reject Instr) : Except Reject Instr :=
  match Ty.ofCode (p.w1.extractLsb' 0 4) with
  | some t => k t
  | none => .error .type

/-- The extended words of loads and stores. -/
def withMem (p : Parts) (k : Option MemExt → Except Reject Instr) : Except Reject Instr :=
  if p.len.getLsbD 1 then
    guardR (p.w2.extractLsb' 2 30 == 0#30) .reserved (k (some ⟨p.w1, p.w2.extractLsb' 0 2⟩))
  else k none

/-- The extended words of `cwait`. -/
def withCw (p : Parts) (k : Option (BitVec 32) → Except Reject Instr) : Except Reject Instr :=
  if p.len.getLsbD 1 then guardR (p.w1 == 0#32) .reserved (k (some p.w2)) else k none

/-- Engine flags of a W2. -/
def eFlagsOf (w : BitVec 32) : EFlags := ⟨w.getLsbD 0, w.getLsbD 1, w.extractLsb' 2 2⟩

/-- The extended words of an engine command. -/
def withE (p : Parts) (k : Option EFlags → Except Reject Instr) : Except Reject Instr :=
  if p.len.getLsbD 1 then
    guardR (p.w1 == 0#32 && p.w2.extractLsb' 4 28 == 0#28) .reserved (k (some (eFlagsOf p.w2)))
  else k none

/-- The extended words of an atomic: X3, X4 and MSK are reserved, and W2[11:0]. -/
def withAT (p : Parts) (k : AOp → Except Reject Instr) : Except Reject Instr :=
  guardR (p.w1.extractLsb' 5 15 == 0#15 && p.w2.extractLsb' 0 12 == 0#12) .reserved <| withW1Ty p fun t =>
  k ⟨t, p.w1.getLsbD 4, p.w1.extractLsb' 26 6, p.w1.extractLsb' 20 6, p.w2.extractLsb' 12 20⟩

/-- The extended words of a vector instruction. -/
def withV (p : Parts) (k : VOp → Except Reject Instr) : Except Reject Instr :=
  guardR (!p.w1.getLsbD 4 && p.w2.extractLsb' 10 22 == 0#22) .reserved <| withW1Ty p fun t =>
  k { x1 := p.w1.extractLsb' 26 6, x2 := p.w1.extractLsb' 20 6, x3 := p.w1.extractLsb' 14 6,
      x4 := p.w1.extractLsb' 8 6, msk := p.w1.extractLsb' 5 3, ty := t,
      rnd := p.w2.extractLsb' 0 2, bs := p.w2.getLsbD 2, sat := p.w2.getLsbD 3,
      part := p.w2.extractLsb' 4 2, hint := p.w2.extractLsb' 6 2, sc := p.w2.extractLsb' 8 2 }

/-- The extended words of a tile or ring instruction: only X1. -/
def withT (p : Parts) (k : BitVec 6 → Except Reject Instr) : Except Reject Instr :=
  guardR (p.w1.extractLsb' 0 26 == 0#26 && p.w2 == 0#32) .reserved (k (p.w1.extractLsb' 26 6))

/-- The extended words of an mma: MSK and M are reserved. -/
def withM (p : Parts) (k : MOp → Except Reject Instr) : Except Reject Instr :=
  guardR (p.w1.extractLsb' 4 4 == 0#4 && p.w2.extractLsb' 21 11 == 0#11 && p.w2.extractLsb' 0 2 == 0#2) .reserved <|
  withW1Ty p fun t =>
  k { x1 := p.w1.extractLsb' 26 6, x2 := p.w1.extractLsb' 20 6, x3 := p.w1.extractLsb' 14 6,
      x4 := p.w1.extractLsb' 8 6, ty := t, spn := p.w2.getLsbD 2, sav := p.w2.getLsbD 3, sbv := p.w2.getLsbD 4,
      sh := p.w2.extractLsb' 5 6, srow := p.w2.extractLsb' 11 10 }

/-- The extended words of an accumulator instruction. -/
def withA (p : Parts) (k : AccOp → Except Reject Instr) : Except Reject Instr :=
  guardR (p.w1.extractLsb' 4 16 == 0#16 && p.w2.extractLsb' 4 28 == 0#28) .reserved <| withW1Ty p fun t =>
  k { x1 := p.w1.extractLsb' 26 6, x2 := p.w1.extractLsb' 20 6, ty := t, rnd := p.w2.extractLsb' 0 2,
      par := p.w2.getLsbD 2, zr := p.w2.getLsbD 3 }

/-- The extended words of `kload`. -/
def withK (p : Parts) (k : KOp → Except Reject Instr) : Except Reject Instr :=
  guardR (p.w1.extractLsb' 4 16 == 0#16 && p.w2.extractLsb' 1 31 == 0#31) .reserved <| withW1Ty p fun t =>
  k { x1 := p.w1.extractLsb' 26 6, x2 := p.w1.extractLsb' 20 6, ty := t, src := p.w2.getLsbD 0 }

/-- The extended words of `send` (14 Table 14.1). -/
def withS (p : Parts) (k : EFlags → Bool → BitVec 4 → BitVec 20 → Except Reject Instr) : Except Reject Instr :=
  guardR (p.w1 == 0#32 && p.w2.extractLsb' 4 3 == 0#3) .reserved
    (k (eFlagsOf p.w2) (p.w2.getLsbD 7) (p.w2.extractLsb' 8 4) (p.w2.extractLsb' 12 20))

/-- The extended words of `nmcast`. -/
def withNM (p : Parts) (k : EFlags → BitVec 6 → BitVec 6 → Except Reject Instr) : Except Reject Instr :=
  guardR (p.w1.extractLsb' 0 20 == 0#20 && p.w2.extractLsb' 4 28 == 0#28) .reserved
    (k (eFlagsOf p.w2) (p.w1.extractLsb' 26 6) (p.w1.extractLsb' 20 6))

/-- The extended words of `nred`. -/
def withNR (p : Parts) (k : EFlags → BitVec 6 → BitVec 3 → BitVec 13 → BitVec 6 → Except Reject Instr) :
    Except Reject Instr :=
  guardR (p.w1.extractLsb' 0 26 == 0#26 && p.w2.extractLsb' 7 4 == 0#4 && p.w2.extractLsb' 30 2 == 0#2) .reserved
    (k (eFlagsOf p.w2) (p.w1.extractLsb' 26 6) (p.w2.extractLsb' 4 3) (p.w2.extractLsb' 11 13)
      (p.w2.extractLsb' 24 6))

/-- The instructions of MAJ 0x01. -/
def dec01 (p : Parts) : Except Reject Instr :=
  match p.fn.toNat with
  | 0 => guardR (litOk p [p.d, p.a, p.b]) .literal (.ok (.add (hd p) (Opd.ofCode p.d) (Opd.ofCode p.a) (Opd.ofCode p.b)))
  | 1 => guardR (litOk p [p.d, p.a, p.b]) .literal (.ok (.sub (hd p) (Opd.ofCode p.d) (Opd.ofCode p.a) (Opd.ofCode p.b)))
  | 2 => guardR (litOk p [p.d, p.a, p.b]) .literal (.ok (.mul (hd p) (Opd.ofCode p.d) (Opd.ofCode p.a) (Opd.ofCode p.b)))
  | 3 => guardR (litOk p [p.d, p.a, p.b]) .literal (.ok (.mulhI64 (hd p) (Opd.ofCode p.d) (Opd.ofCode p.a) (Opd.ofCode p.b)))
  | 4 => guardR (litOk p [p.d, p.a, p.b]) .literal (.ok (.mulhN64 (hd p) (Opd.ofCode p.d) (Opd.ofCode p.a) (Opd.ofCode p.b)))
  | 5 => guardR (litOk p [p.d, p.a, p.b]) .literal (.ok (.divI64 (hd p) (Opd.ofCode p.d) (Opd.ofCode p.a) (Opd.ofCode p.b)))
  | 6 => guardR (litOk p [p.d, p.a, p.b]) .literal (.ok (.divN64 (hd p) (Opd.ofCode p.d) (Opd.ofCode p.a) (Opd.ofCode p.b)))
  | 7 => guardR (litOk p [p.d, p.a, p.b]) .literal (.ok (.remI64 (hd p) (Opd.ofCode p.d) (Opd.ofCode p.a) (Opd.ofCode p.b)))
  | 8 => guardR (litOk p [p.d, p.a, p.b]) .literal (.ok (.remN64 (hd p) (Opd.ofCode p.d) (Opd.ofCode p.a) (Opd.ofCode p.b)))
  | 9 => guardR (litOk p [p.d, p.a, p.b]) .literal (.ok (.minI64 (hd p) (Opd.ofCode p.d) (Opd.ofCode p.a) (Opd.ofCode p.b)))
  | 10 => guardR (litOk p [p.d, p.a, p.b]) .literal (.ok (.minN64 (hd p) (Opd.ofCode p.d) (Opd.ofCode p.a) (Opd.ofCode p.b)))
  | 11 => guardR (litOk p [p.d, p.a, p.b]) .literal (.ok (.maxI64 (hd p) (Opd.ofCode p.d) (Opd.ofCode p.a) (Opd.ofCode p.b)))
  | 12 => guardR (litOk p [p.d, p.a, p.b]) .literal (.ok (.maxN64 (hd p) (Opd.ofCode p.d) (Opd.ofCode p.a) (Opd.ofCode p.b)))
  | 13 => guardR (litOk p [p.d, p.a, p.b]) .literal (.ok (.addsX1 (hd p) (Opd.ofCode p.d) (Opd.ofCode p.a) (Opd.ofCode p.b)))
  | 14 => guardR (litOk p [p.d, p.a, p.b]) .literal (.ok (.addsX2 (hd p) (Opd.ofCode p.d) (Opd.ofCode p.a) (Opd.ofCode p.b)))
  | 15 => guardR (litOk p [p.d, p.a, p.b]) .literal (.ok (.addsX4 (hd p) (Opd.ofCode p.d) (Opd.ofCode p.a) (Opd.ofCode p.b)))
  | 16 => guardR (litOk p [p.d, p.a, p.b]) .literal (.ok (.addsX8 (hd p) (Opd.ofCode p.d) (Opd.ofCode p.a) (Opd.ofCode p.b)))
  | _ => .error .function

/-- The instructions of MAJ 0x02. -/
def dec02 (p : Parts) : Except Reject Instr :=
  match p.fn.toNat with
  | 0 | 16 => guardR (litOk p [p.d, p.a, p.b]) .literal (.ok (.add32 (hd p) (p.fn.getLsbD 4) (Opd.ofCode p.d) (Opd.ofCode p.a) (Opd.ofCode p.b)))
  | 1 | 17 => guardR (litOk p [p.d, p.a, p.b]) .literal (.ok (.sub32 (hd p) (p.fn.getLsbD 4) (Opd.ofCode p.d) (Opd.ofCode p.a) (Opd.ofCode p.b)))
  | 2 | 18 => guardR (litOk p [p.d, p.a, p.b]) .literal (.ok (.mul32 (hd p) (p.fn.getLsbD 4) (Opd.ofCode p.d) (Opd.ofCode p.a) (Opd.ofCode p.b)))
  | 3 => guardR (litOk p [p.d, p.a, p.b]) .literal (.ok (.mulhI32 (hd p) (Opd.ofCode p.d) (Opd.ofCode p.a) (Opd.ofCode p.b)))
  | 20 => guardR (litOk p [p.d, p.a, p.b]) .literal (.ok (.mulhN32 (hd p) (Opd.ofCode p.d) (Opd.ofCode p.a) (Opd.ofCode p.b)))
  | 5 => guardR (litOk p [p.d, p.a, p.b]) .literal (.ok (.divI32 (hd p) (Opd.ofCode p.d) (Opd.ofCode p.a) (Opd.ofCode p.b)))
  | 22 => guardR (litOk p [p.d, p.a, p.b]) .literal (.ok (.divN32 (hd p) (Opd.ofCode p.d) (Opd.ofCode p.a) (Opd.ofCode p.b)))
  | 7 => guardR (litOk p [p.d, p.a, p.b]) .literal (.ok (.remI32 (hd p) (Opd.ofCode p.d) (Opd.ofCode p.a) (Opd.ofCode p.b)))
  | 24 => guardR (litOk p [p.d, p.a, p.b]) .literal (.ok (.remN32 (hd p) (Opd.ofCode p.d) (Opd.ofCode p.a) (Opd.ofCode p.b)))
  | 9 => guardR (litOk p [p.d, p.a, p.b]) .literal (.ok (.minI32 (hd p) (Opd.ofCode p.d) (Opd.ofCode p.a) (Opd.ofCode p.b)))
  | 26 => guardR (litOk p [p.d, p.a, p.b]) .literal (.ok (.minN32 (hd p) (Opd.ofCode p.d) (Opd.ofCode p.a) (Opd.ofCode p.b)))
  | 11 => guardR (litOk p [p.d, p.a, p.b]) .literal (.ok (.maxI32 (hd p) (Opd.ofCode p.d) (Opd.ofCode p.a) (Opd.ofCode p.b)))
  | 28 => guardR (litOk p [p.d, p.a, p.b]) .literal (.ok (.maxN32 (hd p) (Opd.ofCode p.d) (Opd.ofCode p.a) (Opd.ofCode p.b)))
  | _ => .error .function

/-- The instructions of MAJ 0x03. -/
def dec03 (p : Parts) : Except Reject Instr :=
  match p.fn.toNat with
  | 0 => guardR (litOk p [p.d, p.a, p.b]) .literal (.ok (.and (hd p) (Opd.ofCode p.d) (Opd.ofCode p.a) (Opd.ofCode p.b)))
  | 1 => guardR (litOk p [p.d, p.a, p.b]) .literal (.ok (.or (hd p) (Opd.ofCode p.d) (Opd.ofCode p.a) (Opd.ofCode p.b)))
  | 2 => guardR (litOk p [p.d, p.a, p.b]) .literal (.ok (.xor (hd p) (Opd.ofCode p.d) (Opd.ofCode p.a) (Opd.ofCode p.b)))
  | 3 => guardR (litOk p [p.d, p.a, p.b]) .literal (.ok (.andn (hd p) (Opd.ofCode p.d) (Opd.ofCode p.a) (Opd.ofCode p.b)))
  | 4 => guardR (litOk p [p.d, p.a, p.b]) .literal (.ok (.shl (hd p) (Opd.ofCode p.d) (Opd.ofCode p.a) (Opd.ofCode p.b)))
  | 5 => guardR (litOk p [p.d, p.a, p.b]) .literal (.ok (.shr (hd p) (Opd.ofCode p.d) (Opd.ofCode p.a) (Opd.ofCode p.b)))
  | 6 => guardR (litOk p [p.d, p.a, p.b]) .literal (.ok (.sha (hd p) (Opd.ofCode p.d) (Opd.ofCode p.a) (Opd.ofCode p.b)))
  | 7 => guardR (litOk p [p.d, p.a, p.b]) .literal (.ok (.rol (hd p) (Opd.ofCode p.d) (Opd.ofCode p.a) (Opd.ofCode p.b)))
  | 8 => guardR (p.b == 0#5) .reserved <| guardR (litOk p [p.d, p.a]) .literal (.ok (.clz (hd p) (Opd.ofCode p.d) (Opd.ofCode p.a)))
  | 9 => guardR (p.b == 0#5) .reserved <| guardR (litOk p [p.d, p.a]) .literal (.ok (.ctz (hd p) (Opd.ofCode p.d) (Opd.ofCode p.a)))
  | 10 => guardR (p.b == 0#5) .reserved <| guardR (litOk p [p.d, p.a]) .literal (.ok (.popc (hd p) (Opd.ofCode p.d) (Opd.ofCode p.a)))
  | 11 => guardR (p.b == 0#5) .reserved <| guardR (litOk p [p.d, p.a]) .literal (.ok (.mov (hd p) (Opd.ofCode p.d) (Opd.ofCode p.a)))
  | 12 => guardR (litOk p [p.d, p.a, p.b]) .literal (.ok (.bfx (hd p) (Opd.ofCode p.d) (Opd.ofCode p.a) (Opd.ofCode p.b)))
  | 13 => guardR (litOk p [p.d, p.a, p.b]) .literal (.ok (.bfi (hd p) (Opd.ofCode p.d) (Opd.ofCode p.a) (Opd.ofCode p.b)))
  | 14 => guardR (p.b == 0#5) .reserved <| guardR (litOk p [p.d, p.a]) .literal (.ok (.sextI8 (hd p) (Opd.ofCode p.d) (Opd.ofCode p.a)))
  | 15 => guardR (p.b == 0#5) .reserved <| guardR (litOk p [p.d, p.a]) .literal (.ok (.sextI16 (hd p) (Opd.ofCode p.d) (Opd.ofCode p.a)))
  | 16 => guardR (p.b == 0#5) .reserved <| guardR (litOk p [p.d, p.a]) .literal (.ok (.sextI32 (hd p) (Opd.ofCode p.d) (Opd.ofCode p.a)))
  | 17 => guardR (p.b == 0#5) .reserved <| guardR (litOk p [p.d, p.a]) .literal (.ok (.zextN8 (hd p) (Opd.ofCode p.d) (Opd.ofCode p.a)))
  | 18 => guardR (p.b == 0#5) .reserved <| guardR (litOk p [p.d, p.a]) .literal (.ok (.zextN16 (hd p) (Opd.ofCode p.d) (Opd.ofCode p.a)))
  | 19 => guardR (p.b == 0#5) .reserved <| guardR (litOk p [p.d, p.a]) .literal (.ok (.zextN32 (hd p) (Opd.ofCode p.d) (Opd.ofCode p.a)))
  | 25 | 26 | 27 | 28 | 29 | 30 | 31 => guardR (litOk p [p.d, p.a, p.b]) .literal (.ok (.sel (hd p) (p.fn.extractLsb' 0 3) (Opd.ofCode p.d) (Opd.ofCode p.a) (Opd.ofCode p.b)))
  | _ => .error .function

/-- The instructions of MAJ 0x08. -/
def dec08 (p : Parts) : Except Reject Instr :=
  guardR (litOk p [p.d, p.a]) .literal (.ok (.addImm (hd p) (Opd.ofCode p.d) (Opd.ofCode p.a) (p.fn ++ p.b)))

/-- The instructions of MAJ 0x09. -/
def dec09 (p : Parts) : Except Reject Instr :=
  guardR (litOk p [p.d, p.a]) .literal (.ok (.andImm (hd p) (Opd.ofCode p.d) (Opd.ofCode p.a) (p.fn ++ p.b)))

/-- The instructions of MAJ 0x0A. -/
def dec0A (p : Parts) : Except Reject Instr :=
  guardR (litOk p [p.d, p.a]) .literal (.ok (.orImm (hd p) (Opd.ofCode p.d) (Opd.ofCode p.a) (p.fn ++ p.b)))

/-- The instructions of MAJ 0x0B. -/
def dec0B (p : Parts) : Except Reject Instr :=
  guardR (litOk p [p.d, p.a]) .literal (.ok (.xorImm (hd p) (Opd.ofCode p.d) (Opd.ofCode p.a) (p.fn ++ p.b)))

/-- The instructions of MAJ 0x0C. -/
def dec0C (p : Parts) : Except Reject Instr :=
  guardR (p.fn.extractLsb' 1 4 == 0#4) .reserved <| guardR (litOk p [p.d, p.a]) .literal (.ok (.shlImm (hd p) (Opd.ofCode p.d) (Opd.ofCode p.a) ((p.fn ++ p.b).extractLsb' 0 6)))

/-- The instructions of MAJ 0x0D. -/
def dec0D (p : Parts) : Except Reject Instr :=
  guardR (p.fn.extractLsb' 1 4 == 0#4) .reserved <| guardR (litOk p [p.d, p.a]) .literal (.ok (.shrImm (hd p) (Opd.ofCode p.d) (Opd.ofCode p.a) ((p.fn ++ p.b).extractLsb' 0 6)))

/-- The instructions of MAJ 0x0E. -/
def dec0E (p : Parts) : Except Reject Instr :=
  guardR (p.fn.extractLsb' 1 4 == 0#4) .reserved <| guardR (litOk p [p.d, p.a]) .literal (.ok (.shaImm (hd p) (Opd.ofCode p.d) (Opd.ofCode p.a) ((p.fn ++ p.b).extractLsb' 0 6)))

/-- The instructions of MAJ 0x0F. -/
def dec0F (p : Parts) : Except Reject Instr :=
  guardR (p.a == 0#5) .reserved <| guardR (litOk p [p.d]) .literal (.ok (.li (hd p) (Opd.ofCode p.d) (p.fn ++ p.b)))

/-- The instructions of MAJ 0x10. -/
def dec10 (p : Parts) : Except Reject Instr :=
  guardR (p.d.extractLsb' 3 2 == 0#2) .reserved <| guardR (litOk p [p.a, p.b]) .literal (guardR (decide ((p.fn.extractLsb' 0 3).toNat ≤ 5)) .option (.ok (.cmpSigned (hd p) (p.fn.extractLsb' 3 2) (p.fn.extractLsb' 0 3) (p.d.extractLsb' 0 3) (Opd.ofCode p.a) (Opd.ofCode p.b))))

/-- The instructions of MAJ 0x11. -/
def dec11 (p : Parts) : Except Reject Instr :=
  guardR (p.d.extractLsb' 3 2 == 0#2) .reserved <| guardR (litOk p [p.a, p.b]) .literal (guardR (decide ((p.fn.extractLsb' 0 3).toNat ≤ 5)) .option (.ok (.cmpUnsigned (hd p) (p.fn.extractLsb' 3 2) (p.fn.extractLsb' 0 3) (p.d.extractLsb' 0 3) (Opd.ofCode p.a) (Opd.ofCode p.b))))

/-- The instructions of MAJ 0x12. -/
def dec12 (p : Parts) : Except Reject Instr :=
  guardR (p.d.extractLsb' 3 2 == 0#2 && !p.fn.getLsbD 4) .reserved <| guardR (litOk p [p.a, p.b]) .literal (guardR (decide ((p.fn.extractLsb' 0 3).toNat ≤ 5)) .option (.ok (.cmpFloat (hd p) (p.fn.getLsbD 3) (p.fn.extractLsb' 0 3) (p.d.extractLsb' 0 3) (Opd.ofCode p.a) (Opd.ofCode p.b))))

/-- The instructions of MAJ 0x13. -/
def dec13 (p : Parts) : Except Reject Instr :=
  match p.fn.toNat with
  | 0 => guardR (p.d.extractLsb' 3 2 == 0#2 && p.a.extractLsb' 3 2 == 0#2 && p.b.extractLsb' 3 2 == 0#2) .reserved <| guardR (litOk p []) .literal (.ok (.pand (hd p) (p.d.extractLsb' 0 3) (p.a.extractLsb' 0 3) (p.b.extractLsb' 0 3)))
  | 1 => guardR (p.d.extractLsb' 3 2 == 0#2 && p.a.extractLsb' 3 2 == 0#2 && p.b.extractLsb' 3 2 == 0#2) .reserved <| guardR (litOk p []) .literal (.ok (.por (hd p) (p.d.extractLsb' 0 3) (p.a.extractLsb' 0 3) (p.b.extractLsb' 0 3)))
  | 2 => guardR (p.d.extractLsb' 3 2 == 0#2 && p.a.extractLsb' 3 2 == 0#2 && p.b.extractLsb' 3 2 == 0#2) .reserved <| guardR (litOk p []) .literal (.ok (.pxor (hd p) (p.d.extractLsb' 0 3) (p.a.extractLsb' 0 3) (p.b.extractLsb' 0 3)))
  | 3 => guardR (p.d.extractLsb' 3 2 == 0#2 && p.a.extractLsb' 3 2 == 0#2 && p.b == 0#5) .reserved <| guardR (litOk p []) .literal (.ok (.pnot (hd p) (p.d.extractLsb' 0 3) (p.a.extractLsb' 0 3)))
  | _ => .error .function

/-- The instructions of MAJ 0x14. -/
def dec14 (p : Parts) : Except Reject Instr :=
  guardR (litOk p []) .literal (.ok (.br (hd p) (p.fn ++ p.b ++ p.a ++ p.d)))

/-- The instructions of MAJ 0x15. -/
def dec15 (p : Parts) : Except Reject Instr :=
  guardR (litOk p []) .literal (.ok (.callOffset (hd p) (p.fn ++ p.b ++ p.a ++ p.d)))

/-- The instructions of MAJ 0x16. -/
def dec16 (p : Parts) : Except Reject Instr :=
  guardR (litOk p [p.d]) .literal (.ok (.loop (hd p) (Opd.ofCode p.d) (p.fn ++ p.b ++ p.a)))

/-- The instructions of MAJ 0x17. -/
def dec17 (p : Parts) : Except Reject Instr :=
  match p.fn.toNat with
  | 0 => guardR (p.d == 0#5 && p.b == 0#5) .reserved <| guardR (litOk p [p.a]) .literal (.ok (.jmp (hd p) (Opd.ofCode p.a)))
  | 1 => guardR (p.b == 0#5) .reserved <| guardR (litOk p [p.d, p.a]) .literal (.ok (.callReg (hd p) (Opd.ofCode p.d) (Opd.ofCode p.a)))
  | 2 => guardR (p.d == 0#5 && p.b == 0#5) .reserved <| guardR (litOk p [p.a]) .literal (.ok (.ret (hd p) (Opd.ofCode p.a)))
  | 3 => guardR (p.d == 0#5 && p.a == 0#5 && p.b == 0#5) .reserved <| guardR (litOk p []) .literal (.ok (.exit (hd p)))
  | 4 => guardR (p.d == 0#5 && p.a == 0#5 && p.b == 0#5) .reserved <| guardR (litOk p []) .literal (.ok (.yield (hd p)))
  | 5 => guardR (p.d == 0#5 && p.a == 0#5 && p.b == 0#5) .reserved <| guardR (litOk p []) .literal (.ok (.nop (hd p)))
  | 6 => guardR (litOk p [p.d, p.a, p.b]) .literal (guardR (qtryOk (Opd.ofCode p.d) (Opd.ofCode p.a) && !(Opd.ofCode p.b).isQueue) .option (.ok (.qtry (hd p) (Opd.ofCode p.d) (Opd.ofCode p.a) (Opd.ofCode p.b))))
  | 7 => guardR (p.b == 0#5) .reserved <| guardR (litOk p [p.d, p.a]) .literal (guardR (qtryOk (Opd.ofCode p.d) (Opd.ofCode p.a)) .option (.ok (.qcount (hd p) (Opd.ofCode p.d) (Opd.ofCode p.a))))
  | 8 => guardR (p.b == 0#5) .reserved <| guardR (litOk p [p.d, p.a]) .literal (guardR (qtryOk (Opd.ofCode p.d) (Opd.ofCode p.a)) .option (.ok (.qpeek (hd p) (Opd.ofCode p.d) (Opd.ofCode p.a))))
  | _ => .error .function

/-- The instructions of MAJ 0x18. -/
def dec18 (p : Parts) : Except Reject Instr :=
  guardR (litOk p [p.d, p.a]) .literal <| withMem p fun x => 
        guardR (!((p.fn.getLsbD 2) && (p.fn.extractLsb' 3 2) == 3#2)) .option (.ok (.ld (hd p) (p.fn.extractLsb' 3 2) (p.fn.getLsbD 2) (p.fn.extractLsb' 0 2) (Opd.ofCode p.d) (Opd.ofCode p.a) p.b x))

/-- The instructions of MAJ 0x19. -/
def dec19 (p : Parts) : Except Reject Instr :=
  guardR (!p.fn.getLsbD 2) .reserved <| guardR (litOk p [p.d, p.a]) .literal <| withMem p fun x => 
        .ok (.st (hd p) (p.fn.extractLsb' 3 2) (p.fn.extractLsb' 0 2) (Opd.ofCode p.d) (Opd.ofCode p.a) p.b x)

/-- The instructions of MAJ 0x1A. -/
def dec1A (p : Parts) : Except Reject Instr :=
  guardR (litOk p [p.d, p.a, p.b]) .literal <| withMem p fun x => 
        guardR (!((p.fn.getLsbD 2) && (p.fn.extractLsb' 3 2) == 3#2)) .option (.ok (.ldx (hd p) (p.fn.extractLsb' 3 2) (p.fn.getLsbD 2) (p.fn.extractLsb' 0 2) (Opd.ofCode p.d) (Opd.ofCode p.a) (Opd.ofCode p.b) x))

/-- The instructions of MAJ 0x1B. -/
def dec1B (p : Parts) : Except Reject Instr :=
  guardR (!p.fn.getLsbD 2) .reserved <| guardR (litOk p [p.d, p.a, p.b]) .literal <| withMem p fun x => 
        .ok (.stx (hd p) (p.fn.extractLsb' 3 2) (p.fn.extractLsb' 0 2) (Opd.ofCode p.d) (Opd.ofCode p.a) (Opd.ofCode p.b) x)

/-- The instructions of MAJ 0x1C. -/
def dec1C (p : Parts) : Except Reject Instr :=
  match (p.fn.extractLsb' 0 3).toNat with
  | 0 => guardR (litOk p [p.d, p.a, p.b]) .literal <| withAT p fun v => 
        guardR (atomOk 0 (p.fn.extractLsb' 3 2) (Opd.ofCode p.d) v) .option (.ok (.aadd (hd p) (p.fn.extractLsb' 3 2) (Opd.ofCode p.d) (Opd.ofCode p.a) (Opd.ofCode p.b) v))
  | 1 => guardR (litOk p [p.d, p.a, p.b]) .literal <| withAT p fun v => 
        guardR (atomOk 1 (p.fn.extractLsb' 3 2) (Opd.ofCode p.d) v) .option (.ok (.amin (hd p) (p.fn.extractLsb' 3 2) (Opd.ofCode p.d) (Opd.ofCode p.a) (Opd.ofCode p.b) v))
  | 2 => guardR (litOk p [p.d, p.a, p.b]) .literal <| withAT p fun v => 
        guardR (atomOk 2 (p.fn.extractLsb' 3 2) (Opd.ofCode p.d) v) .option (.ok (.amax (hd p) (p.fn.extractLsb' 3 2) (Opd.ofCode p.d) (Opd.ofCode p.a) (Opd.ofCode p.b) v))
  | 3 => guardR (litOk p [p.d, p.a, p.b]) .literal <| withAT p fun v => 
        guardR (atomOk 3 (p.fn.extractLsb' 3 2) (Opd.ofCode p.d) v) .option (.ok (.aand (hd p) (p.fn.extractLsb' 3 2) (Opd.ofCode p.d) (Opd.ofCode p.a) (Opd.ofCode p.b) v))
  | 4 => guardR (litOk p [p.d, p.a, p.b]) .literal <| withAT p fun v => 
        guardR (atomOk 4 (p.fn.extractLsb' 3 2) (Opd.ofCode p.d) v) .option (.ok (.aor (hd p) (p.fn.extractLsb' 3 2) (Opd.ofCode p.d) (Opd.ofCode p.a) (Opd.ofCode p.b) v))
  | 5 => guardR (litOk p [p.d, p.a, p.b]) .literal <| withAT p fun v => 
        guardR (atomOk 5 (p.fn.extractLsb' 3 2) (Opd.ofCode p.d) v) .option (.ok (.axor (hd p) (p.fn.extractLsb' 3 2) (Opd.ofCode p.d) (Opd.ofCode p.a) (Opd.ofCode p.b) v))
  | 6 => guardR (litOk p [p.d, p.a, p.b]) .literal <| withAT p fun v => 
        guardR (atomOk 6 (p.fn.extractLsb' 3 2) (Opd.ofCode p.d) v) .option (.ok (.aswap (hd p) (p.fn.extractLsb' 3 2) (Opd.ofCode p.d) (Opd.ofCode p.a) (Opd.ofCode p.b) v))
  | 7 => guardR (litOk p [p.d, p.a, p.b]) .literal <| withAT p fun v => 
        guardR (atomOk 7 (p.fn.extractLsb' 3 2) (Opd.ofCode p.d) v) .option (.ok (.acas (hd p) (p.fn.extractLsb' 3 2) (Opd.ofCode p.d) (Opd.ofCode p.a) (Opd.ofCode p.b) v))
  | _ => .error .function

/-- The instructions of MAJ 0x1D. -/
def dec1D (p : Parts) : Except Reject Instr :=
  match (p.fn.extractLsb' 0 3).toNat with
  | 0 => guardR (p.d == 0#5) .reserved <| guardR (litOk p [p.b]) .literal (guardR (!p.len.getLsbD 1) .length <| .ok (.cadd (hd p) (p.fn.extractLsb' 3 2) (ctrOf p.a) (Opd.ofCode p.b)))
  | 1 => guardR (litOk p [p.d, p.b]) .literal (guardR (!p.len.getLsbD 1) .length <| .ok (.cfadd (hd p) (p.fn.extractLsb' 3 2) (Opd.ofCode p.d) (ctrOf p.a) (Opd.ofCode p.b)))
  | 2 => guardR (litOk p [p.b]) .literal <| withCw p fun x => 
        guardR (((x.isNone || p.d == 0#5))) .option (.ok (.cwait (hd p) (p.fn.extractLsb' 3 2) p.d (ctrOf p.a) (Opd.ofCode p.b) x))
  | 3 => guardR (p.d.extractLsb' 3 2 == 0#2) .reserved <| guardR (litOk p [p.b]) .literal (guardR (!p.len.getLsbD 1) .length <| .ok (.cpoll (hd p) (p.fn.extractLsb' 3 2) (p.d.extractLsb' 0 3) (ctrOf p.a) (Opd.ofCode p.b)))
  | 4 => guardR (p.b == 0#5) .reserved <| guardR (litOk p [p.d]) .literal (guardR (!p.len.getLsbD 1) .length <| .ok (.cread (hd p) (p.fn.extractLsb' 3 2) (Opd.ofCode p.d) (ctrOf p.a)))
  | _ => .error .function

/-- The instructions of MAJ 0x1E. -/
def dec1E (p : Parts) : Except Reject Instr :=
  match p.fn.toNat with
  | 0 | 1 | 2 | 3 => guardR (p.d == 0#5 && p.a == 0#5 && p.b == 0#5) .reserved <| guardR (litOk p []) .literal (.ok (.fenceAcq (hd p) (p.fn.extractLsb' 0 2)))
  | 4 | 5 | 6 | 7 => guardR (p.d == 0#5 && p.a == 0#5 && p.b == 0#5) .reserved <| guardR (litOk p []) .literal (.ok (.fenceRel (hd p) (p.fn.extractLsb' 0 2)))
  | 8 | 9 | 10 | 11 => guardR (p.d == 0#5 && p.a == 0#5 && p.b == 0#5) .reserved <| guardR (litOk p []) .literal (.ok (.fenceAr (hd p) (p.fn.extractLsb' 0 2)))
  | 12 | 13 | 14 | 15 => guardR (p.d == 0#5 && p.a == 0#5 && p.b == 0#5) .reserved <| guardR (litOk p []) .literal (.ok (.fenceSc (hd p) (p.fn.extractLsb' 0 2)))
  | 16 => guardR (p.d == 0#5) .reserved <| guardR (litOk p [p.a, p.b]) .literal (.ok (.clean (hd p) (Opd.ofCode p.a) (Opd.ofCode p.b)))
  | 17 => guardR (p.d == 0#5) .reserved <| guardR (litOk p [p.a, p.b]) .literal (.ok (.inval (hd p) (Opd.ofCode p.a) (Opd.ofCode p.b)))
  | 18 => guardR (p.d == 0#5) .reserved <| guardR (litOk p [p.a, p.b]) .literal (.ok (.flush (hd p) (Opd.ofCode p.a) (Opd.ofCode p.b)))
  | 19 => guardR (p.d.extractLsb' 2 3 == 0#3) .reserved <| guardR (litOk p [p.a, p.b]) .literal (.ok (.pref (hd p) (p.d.extractLsb' 0 2) (Opd.ofCode p.a) (Opd.ofCode p.b)))
  | 20 => guardR (p.d == 0#5) .reserved <| guardR (litOk p [p.a, p.b]) .literal (.ok (.ownrel (hd p) (Opd.ofCode p.a) (Opd.ofCode p.b)))
  | _ => .error .function

/-- The instructions of MAJ 0x1F. -/
def dec1F (p : Parts) : Except Reject Instr :=
  match p.fn.toNat with
  | 0 => guardR (p.len == 0#2) .reserved <| guardR (litOk p [p.d]) .literal (guardR (sysNumOk p.b p.a) .option (.ok (.sysrd (hd p) (Opd.ofCode p.d) p.a p.b)))
  | 1 => guardR (p.len == 0#2) .reserved <| guardR (litOk p [p.d]) .literal (guardR (sysNumOk p.b p.a) .option (.ok (.syswr (hd p) (Opd.ofCode p.d) p.a p.b)))
  | 2 => guardR (p.d == 0#5 && p.b == 0#5) .reserved <| guardR (litOk p [p.a]) .literal (.ok (.svc (hd p) (Opd.ofCode p.a)))
  | 3 => guardR (p.d == 0#5 && p.b == 0#5) .reserved <| guardR (litOk p [p.a]) .literal (.ok (.brk (hd p) (Opd.ofCode p.a)))
  | 4 => guardR (p.d == 0#5 && p.a == 0#5 && p.b == 0#5) .reserved <| guardR (litOk p []) .literal (.ok (.eret (hd p)))
  | 5 => guardR (p.b == 0#5) .reserved <| guardR (litOk p [p.d, p.a]) .literal (.ok (.suspendL (hd p) (Opd.ofCode p.d) (Opd.ofCode p.a)))
  | 6 => guardR (litOk p [p.d, p.a, p.b]) .literal (.ok (.suspendF (hd p) (Opd.ofCode p.d) (Opd.ofCode p.a) (Opd.ofCode p.b)))
  | 7 => guardR (litOk p [p.d, p.a, p.b]) .literal (.ok (.resume (hd p) (Opd.ofCode p.d) (Opd.ofCode p.a) (Opd.ofCode p.b)))
  | 8 => guardR (p.b == 0#5) .reserved <| guardR (litOk p [p.d, p.a]) .literal (.ok (.leasewait (hd p) (Opd.ofCode p.d) (Opd.ofCode p.a)))
  | 9 => guardR (p.a == 0#5 && p.b == 0#5) .reserved <| guardR (litOk p [p.d]) .literal (.ok (.rdclk (hd p) (Opd.ofCode p.d)))
  | 10 => guardR (p.b == 0#5) .reserved <| guardR (litOk p [p.d, p.a]) .literal (.ok (.ident (hd p) (Opd.ofCode p.d) (Opd.ofCode p.a)))
  | 11 => guardR (p.d == 0#5 && p.a == 0#5 && p.b == 0#5) .reserved <| guardR (litOk p []) .literal (.ok (.ifence (hd p)))
  | 12 => guardR (litOk p [p.d, p.a, p.b]) .literal (.ok (.fltDone (hd p) (Opd.ofCode p.d) (Opd.ofCode p.a) (Opd.ofCode p.b)))
  | 13 => guardR (p.b == 0#5) .reserved <| guardR (litOk p [p.d, p.a]) .literal (.ok (.pmove (hd p) (Opd.ofCode p.d) (Opd.ofCode p.a)))
  | 14 => guardR (litOk p [p.d, p.a, p.b]) .literal (.ok (.pzero (hd p) (Opd.ofCode p.d) (Opd.ofCode p.a) (Opd.ofCode p.b)))
  | _ => .error .function

/-- The instructions of MAJ 0x20. -/
def dec20 (p : Parts) : Except Reject Instr :=
  match p.fn.toNat with
  | 0 => guardR (p.d == 0#5 && p.b == 0#5) .reserved <| guardR (litOk p [p.a]) .literal <| withV p fun v => 
        guardR (vArith (Opd.ofCode p.a) v false) .option (.ok (.vadd (hd p) (Opd.ofCode p.a) v))
  | 1 => guardR (p.d == 0#5 && p.b == 0#5) .reserved <| guardR (litOk p [p.a]) .literal <| withV p fun v => 
        guardR (vArith (Opd.ofCode p.a) v false) .option (.ok (.vsub (hd p) (Opd.ofCode p.a) v))
  | 2 => guardR (p.d == 0#5 && p.b == 0#5) .reserved <| guardR (litOk p [p.a]) .literal <| withV p fun v => 
        guardR (vArith (Opd.ofCode p.a) v false) .option (.ok (.vmul (hd p) (Opd.ofCode p.a) v))
  | 3 => guardR (p.d == 0#5 && p.b == 0#5) .reserved <| guardR (litOk p [p.a]) .literal <| withV p fun v => 
        guardR (vMinMax (Opd.ofCode p.a) v) .option (.ok (.vmin (hd p) (Opd.ofCode p.a) v))
  | 4 => guardR (p.d == 0#5 && p.b == 0#5) .reserved <| guardR (litOk p [p.a]) .literal <| withV p fun v => 
        guardR (vMinMax (Opd.ofCode p.a) v) .option (.ok (.vmax (hd p) (Opd.ofCode p.a) v))
  | 5 => guardR (p.d == 0#5 && p.b == 0#5) .reserved <| guardR (litOk p [p.a]) .literal <| withV p fun v => 
        guardR (vArith (Opd.ofCode p.a) v true) .option (.ok (.vfma (hd p) (Opd.ofCode p.a) v))
  | _ => .error .function

/-- The instructions of MAJ 0x21. -/
def dec21 (p : Parts) : Except Reject Instr :=
  match p.fn.toNat with
  | 0 => guardR (p.d == 0#5 && p.a == 0#5 && p.b == 0#5) .reserved <| guardR (litOk p []) .literal <| withV p fun v => 
        guardR (vSign v) .option (.ok (.vabs (hd p) v))
  | 1 => guardR (p.d == 0#5 && p.a == 0#5 && p.b == 0#5) .reserved <| guardR (litOk p []) .literal <| withV p fun v => 
        guardR (vSign v) .option (.ok (.vneg (hd p) v))
  | 2 => guardR (p.d == 0#5 && p.a == 0#5 && p.b == 0#5) .reserved <| guardR (litOk p []) .literal <| withV p fun v => 
        guardR (vFun v) .option (.ok (.vrcp (hd p) v))
  | 3 => guardR (p.d == 0#5 && p.a == 0#5 && p.b == 0#5) .reserved <| guardR (litOk p []) .literal <| withV p fun v => 
        guardR (vFun v) .option (.ok (.vrsqrt (hd p) v))
  | 4 => guardR (p.d == 0#5 && p.a == 0#5 && p.b == 0#5) .reserved <| guardR (litOk p []) .literal <| withV p fun v => 
        guardR (vFun v) .option (.ok (.vexp2 (hd p) v))
  | 5 => guardR (p.d == 0#5 && p.a == 0#5 && p.b == 0#5) .reserved <| guardR (litOk p []) .literal <| withV p fun v => 
        guardR (vFun v) .option (.ok (.vlog2 (hd p) v))
  | _ => .error .function

/-- The instructions of MAJ 0x22. -/
def dec22 (p : Parts) : Except Reject Instr :=
  guardR (p.d == 0#5 && p.a == 0#5 && p.b == 0#5) .reserved <| withTy (p.fn.toNat < 16) p.fn fun t => guardR (litOk p []) .literal <| withV p fun v => 
        guardR (vCvt t v) .option (.ok (.vcvt (hd p) t v))

/-- The instructions of MAJ 0x23. -/
def dec23 (p : Parts) : Except Reject Instr :=
  match p.fn.toNat with
  | 0 => guardR (p.d == 0#5 && p.b == 0#5) .reserved <| guardR (litOk p [p.a]) .literal <| withV p fun v => 
        guardR (vLogic (Opd.ofCode p.a) v) .option (.ok (.vand (hd p) (Opd.ofCode p.a) v))
  | 1 => guardR (p.d == 0#5 && p.b == 0#5) .reserved <| guardR (litOk p [p.a]) .literal <| withV p fun v => 
        guardR (vLogic (Opd.ofCode p.a) v) .option (.ok (.vor (hd p) (Opd.ofCode p.a) v))
  | 2 => guardR (p.d == 0#5 && p.b == 0#5) .reserved <| guardR (litOk p [p.a]) .literal <| withV p fun v => 
        guardR (vLogic (Opd.ofCode p.a) v) .option (.ok (.vxor (hd p) (Opd.ofCode p.a) v))
  | 3 => guardR (p.d == 0#5 && p.b == 0#5) .reserved <| guardR (litOk p [p.a]) .literal <| withV p fun v => 
        guardR (vLogic (Opd.ofCode p.a) v) .option (.ok (.vshl (hd p) (Opd.ofCode p.a) v))
  | 4 => guardR (p.d == 0#5 && p.b == 0#5) .reserved <| guardR (litOk p [p.a]) .literal <| withV p fun v => 
        guardR (vLogic (Opd.ofCode p.a) v) .option (.ok (.vshr (hd p) (Opd.ofCode p.a) v))
  | 5 => guardR (p.d == 0#5 && p.b == 0#5) .reserved <| guardR (litOk p [p.a]) .literal <| withV p fun v => 
        guardR (vLogic (Opd.ofCode p.a) v) .option (.ok (.vsha (hd p) (Opd.ofCode p.a) v))
  | _ => .error .function

/-- The instructions of MAJ 0x24. -/
def dec24 (p : Parts) : Except Reject Instr :=
  match p.fn.toNat with
  | 0 | 1 | 2 | 3 | 4 | 5 => guardR (p.d == 0#5 && p.b == 0#5) .reserved <| guardR (litOk p [p.a]) .literal <| withV p fun v => 
        guardR (vCmp (Opd.ofCode p.a) (p.fn.extractLsb' 0 3) v) .option (.ok (.vcmp (hd p) (p.fn.extractLsb' 0 3) (Opd.ofCode p.a) v))
  | 8 => guardR (p.d == 0#5 && p.b == 0#5) .reserved <| guardR (litOk p [p.a]) .literal <| withV p fun v => 
        guardR (vSelOk (Opd.ofCode p.a) v) .option (.ok (.vsel (hd p) (Opd.ofCode p.a) v))
  | _ => .error .function

/-- The instructions of MAJ 0x25. -/
def dec25 (p : Parts) : Except Reject Instr :=
  match p.fn.toNat with
  | 0 => guardR (p.a == 0#5 && p.b == 0#5) .reserved <| guardR (litOk p [p.d]) .literal <| withV p fun v => 
        guardR (vRed true v) .option (.ok (.vredAdd (hd p) (Opd.ofCode p.d) v))
  | 1 => guardR (p.a == 0#5 && p.b == 0#5) .reserved <| guardR (litOk p [p.d]) .literal <| withV p fun v => 
        guardR (vRed false v) .option (.ok (.vredMax (hd p) (Opd.ofCode p.d) v))
  | 2 => guardR (p.a == 0#5 && p.b == 0#5) .reserved <| guardR (litOk p [p.d]) .literal <| withV p fun v => 
        guardR (vRed false v) .option (.ok (.vredMin (hd p) (Opd.ofCode p.d) v))
  | 3 => guardR (p.d == 0#5 && p.b == 0#5) .reserved <| guardR (litOk p [p.a]) .literal <| withV p fun v => 
        guardR (vScan v) .option (.ok (.vscan (hd p) (Opd.ofCode p.a) v))
  | _ => .error .function

/-- The instructions of MAJ 0x26. -/
def dec26 (p : Parts) : Except Reject Instr :=
  match p.fn.toNat with
  | 0 => guardR (p.d == 0#5 && p.a == 0#5 && p.b == 0#5) .reserved <| guardR (litOk p []) .literal <| withV p fun v => 
        guardR (vPerm v) .option (.ok (.vperm (hd p) v))
  | 1 => guardR (p.d == 0#5 && p.b == 0#5) .reserved <| guardR (litOk p [p.a]) .literal <| withV p fun v => 
        guardR (vBcast v) .option (.ok (.vbcast (hd p) (Opd.ofCode p.a) v))
  | 2 => guardR (p.a == 0#5) .reserved <| guardR (litOk p [p.d, p.b]) .literal <| withV p fun v => 
        guardR (vExt v) .option (.ok (.vext (hd p) (Opd.ofCode p.d) (Opd.ofCode p.b) v))
  | 3 => guardR (p.d == 0#5) .reserved <| guardR (litOk p [p.a, p.b]) .literal <| withV p fun v => 
        guardR (vIns v) .option (.ok (.vins (hd p) (Opd.ofCode p.a) (Opd.ofCode p.b) v))
  | _ => .error .function

/-- The instructions of MAJ 0x27. -/
def dec27 (p : Parts) : Except Reject Instr :=
  match p.fn.toNat with
  | 0 => guardR (p.d == 0#5) .reserved <| guardR (litOk p [p.a, p.b]) .literal <| withV p fun v => 
        guardR (vTile v) .option (.ok (.vldT (hd p) (Opd.ofCode p.a) (Opd.ofCode p.b) v))
  | 1 => guardR (p.d == 0#5) .reserved <| guardR (litOk p [p.a, p.b]) .literal <| withV p fun v => 
        guardR (vTile v) .option (.ok (.vstT (hd p) (Opd.ofCode p.a) (Opd.ofCode p.b) v))
  | _ => .error .function

/-- The instructions of MAJ 0x28. -/
def dec28 (p : Parts) : Except Reject Instr :=
  match p.fn.toNat with
  | 0 => guardR (p.d == 0#5) .reserved <| guardR (litOk p [p.a, p.b]) .literal <| withV p fun v => 
        guardR (vMem v) .option (.ok (.vld (hd p) (Opd.ofCode p.a) (Opd.ofCode p.b) v))
  | 1 => guardR (p.d == 0#5) .reserved <| guardR (litOk p [p.a, p.b]) .literal <| withV p fun v => 
        guardR (vMem v) .option (.ok (.vst (hd p) (Opd.ofCode p.a) (Opd.ofCode p.b) v))
  | 2 => guardR (p.d == 0#5 && p.b == 0#5) .reserved <| guardR (litOk p [p.a]) .literal <| withV p fun v => 
        guardR (vIdx v) .option (.ok (.vgath (hd p) (Opd.ofCode p.a) v))
  | 3 => guardR (p.d == 0#5 && p.b == 0#5) .reserved <| guardR (litOk p [p.a]) .literal <| withV p fun v => 
        guardR (vIdx v) .option (.ok (.vscat (hd p) (Opd.ofCode p.a) v))
  | _ => .error .function

/-- The instructions of MAJ 0x29. -/
def dec29 (p : Parts) : Except Reject Instr :=
  match p.fn.toNat with
  | 0 => guardR (p.d == 0#5 && p.a == 0#5 && p.b == 0#5) .reserved <| guardR (litOk p []) .literal <| withV p fun v => 
        guardR (vCb v) .option (.ok (.vcb (hd p) v))
  | _ => .error .function

/-- The instructions of MAJ 0x2F. -/
def dec2F (p : Parts) : Except Reject Instr :=
  match p.fn.toNat with
  | 0 => guardR (p.d == 0#5 && p.b == 0#5) .reserved <| guardR (litOk p [p.a]) .literal (.ok (.vclaim (hd p) (Opd.ofCode p.a)))
  | 1 => guardR (p.d == 0#5 && p.b == 0#5) .reserved <| guardR (litOk p [p.a]) .literal (.ok (.vtry (hd p) (Opd.ofCode p.a)))
  | 2 => guardR (p.d == 0#5 && p.b == 0#5) .reserved <| guardR (litOk p [p.a]) .literal (.ok (.vyield (hd p) (Opd.ofCode p.a)))
  | _ => .error .function

/-- The instructions of MAJ 0x30. -/
def dec30 (p : Parts) : Except Reject Instr :=
  match p.fn.toNat with
  | 0 => guardR (p.b == 0#5) .reserved <| guardR (litOk p [p.d, p.a]) .literal <| withT p fun t => 
        .ok (.talloc (hd p) (Opd.ofCode p.d) (Opd.ofCode p.a) t)
  | 1 => guardR (p.d == 0#5 && p.a == 0#5 && p.b == 0#5) .reserved <| guardR (litOk p []) .literal <| withT p fun t => 
        .ok (.tfree (hd p) t)
  | 2 => guardR (p.a == 0#5) .reserved <| guardR (litOk p [p.d, p.b]) .literal <| withT p fun t => 
        .ok (.tinfo (hd p) (Opd.ofCode p.d) (Opd.ofCode p.b) t)
  | 3 => guardR (p.d == 0#5) .reserved <| guardR (litOk p [p.a, p.b]) .literal <| withT p fun t => 
        .ok (.tzero (hd p) (Opd.ofCode p.a) (Opd.ofCode p.b) t)
  | 4 => guardR (p.d == 0#5) .reserved <| guardR (litOk p [p.a, p.b]) .literal <| withT p fun t => 
        .ok (.tempty (hd p) (Opd.ofCode p.a) (Opd.ofCode p.b) t)
  | _ => .error .function

/-- The instructions of MAJ 0x31. -/
def dec31 (p : Parts) : Except Reject Instr :=
  match p.fn.toNat with
  | 0 => guardR (p.a == 0#5 && p.b == 0#5) .reserved <| guardR (litOk p [p.d]) .literal <| withT p fun t => 
        .ok (.rpush (hd p) (Opd.ofCode p.d) t)
  | 1 => guardR (p.a == 0#5 && p.b == 0#5) .reserved <| guardR (litOk p [p.d]) .literal <| withT p fun t => 
        .ok (.rpop (hd p) (Opd.ofCode p.d) t)
  | 2 => guardR (p.d == 0#5) .reserved <| guardR (litOk p [p.a, p.b]) .literal <| withT p fun t => 
        .ok (.rwait (hd p) (Opd.ofCode p.a) (Opd.ofCode p.b) t)
  | 3 => guardR (p.a == 0#5 && p.b == 0#5) .reserved <| guardR (litOk p [p.d]) .literal <| withT p fun t => 
        .ok (.rstate (hd p) (Opd.ofCode p.d) t)
  | _ => .error .function

/-- The instructions of MAJ 0x32. -/
def dec32 (p : Parts) : Except Reject Instr :=
  match p.fn.toNat with
  | 0 => guardR (p.d == 0#5) .reserved <| guardR (litOk p [p.a, p.b]) .literal <| withM p fun v => 
        guardR (mBf16 v) .option (.ok (.mmaBf16 (hd p) (Opd.ofCode p.a) (Opd.ofCode p.b) v))
  | 1 => guardR (p.d == 0#5) .reserved <| guardR (litOk p [p.a, p.b]) .literal <| withM p fun v => 
        guardR (mI8 v) .option (.ok (.mmaI8 (hd p) (Opd.ofCode p.a) (Opd.ofCode p.b) v))
  | 2 => guardR (p.d == 0#5) .reserved <| guardR (litOk p [p.a, p.b]) .literal <| withM p fun v => 
        guardR (mCb v) .option (.ok (.mmaCb (hd p) (Opd.ofCode p.a) (Opd.ofCode p.b) v))
  | 3 => guardR (p.d == 0#5) .reserved <| guardR (litOk p [p.a, p.b]) .literal <| withM p fun v => 
        guardR (mSp v) .option (.ok (.mmaSp (hd p) (Opd.ofCode p.a) (Opd.ofCode p.b) v))
  | _ => .error .function

/-- The instructions of MAJ 0x33. -/
def dec33 (p : Parts) : Except Reject Instr :=
  match p.fn.toNat with
  | 0 => guardR (p.d == 0#5 && p.a == 0#5 && p.b == 0#5) .reserved <| guardR (litOk p []) .literal <| withA p fun v => 
        guardR (accZero v) .option (.ok (.azero (hd p) v))
  | 1 => guardR (p.d == 0#5 && p.b == 0#5) .reserved <| guardR (litOk p [p.a]) .literal <| withA p fun v => 
        guardR (accLoad v) .option (.ok (.aload (hd p) (Opd.ofCode p.a) v))
  | 2 => guardR (p.d == 0#5 && p.b == 0#5) .reserved <| guardR (litOk p [p.a]) .literal <| withA p fun v => 
        guardR (accStore v) .option (.ok (.astore (hd p) (Opd.ofCode p.a) v))
  | 3 => guardR (p.d == 0#5) .reserved <| guardR (litOk p [p.a, p.b]) .literal <| withA p fun v => 
        guardR (accDrain v) .option (.ok (.adrain (hd p) (Opd.ofCode p.a) (Opd.ofCode p.b) v))
  | _ => .error .function

/-- The instructions of MAJ 0x34. -/
def dec34 (p : Parts) : Except Reject Instr :=
  match p.fn.toNat with
  | 0 => guardR (p.d == 0#5) .reserved <| guardR (litOk p [p.a, p.b]) .literal <| withK p fun v => 
        guardR (kOk (Opd.ofCode p.b) v) .option (.ok (.kload (hd p) (Opd.ofCode p.a) (Opd.ofCode p.b) v))
  | _ => .error .function

/-- The instructions of MAJ 0x36. -/
def dec36 (p : Parts) : Except Reject Instr :=
  match p.fn.toNat with
  | 0 => guardR (p.b == 0#5) .reserved <| guardR (litOk p [p.d, p.a]) .literal <| withE p fun x => 
        .ok (.cpy (hd p) (Opd.ofCode p.d) (Opd.ofCode p.a) x)
  | 1 => guardR (p.b == 0#5) .reserved <| guardR (litOk p [p.d, p.a]) .literal <| withE p fun x => 
        .ok (.cpyMma (hd p) (Opd.ofCode p.d) (Opd.ofCode p.a) x)
  | 2 => guardR (p.b == 0#5) .reserved <| guardR (litOk p [p.d, p.a]) .literal <| withE p fun x => 
        .ok (.cpyr (hd p) (Opd.ofCode p.d) (Opd.ofCode p.a) x)
  | 3 => guardR (p.b == 0#5) .reserved <| guardR (litOk p [p.d, p.a]) .literal (guardR (!p.len.getLsbD 1) .length <| .ok (.cpystat (hd p) (Opd.ofCode p.d) (Opd.ofCode p.a)))
  | _ => .error .function

/-- The instructions of MAJ 0x37. -/
def dec37 (p : Parts) : Except Reject Instr :=
  match p.fn.toNat with
  | 0 => guardR (p.b == 0#5) .reserved <| guardR (litOk p [p.d, p.a]) .literal <| withE p fun x => 
        guardR (noRel x) .option (.ok (.spawn (hd p) (Opd.ofCode p.d) (Opd.ofCode p.a) x))
  | 1 => guardR (litOk p [p.d, p.a, p.b]) .literal <| withE p fun x => 
        guardR (noRel x) .option (.ok (.job (hd p) (Opd.ofCode p.d) (Opd.ofCode p.a) (Opd.ofCode p.b) x))
  | 2 => guardR (p.b == 0#5) .reserved <| guardR (litOk p [p.d, p.a]) .literal <| withE p fun x => 
        guardR (noRel x) .option (.ok (.launch (hd p) (Opd.ofCode p.d) (Opd.ofCode p.a) x))
  | _ => .error .function

/-- The instructions of MAJ 0x38. -/
def dec38 (p : Parts) : Except Reject Instr :=
  match p.fn.toNat with
  | 0 => guardR (p.d == 0#5) .reserved <| guardR (litOk p [p.a, p.b]) .literal <| guardR (p.len.getLsbD 1) .length <| withS p fun f par nw target => 
        guardR (!f.rel) .option (.ok (.send (hd p) (Opd.ofCode p.a) (Opd.ofCode p.b) f par nw target))
  | 1 => guardR (p.d == 0#5 && p.b == 0#5) .reserved <| guardR (litOk p [p.a]) .literal (guardR (!p.len.getLsbD 1) .length <| .ok (.replay (hd p) (Opd.ofCode p.a)))
  | 2 => guardR (p.b == 0#5) .reserved <| guardR (litOk p [p.d, p.a]) .literal (guardR (!p.len.getLsbD 1) .length <| .ok (.mpop (hd p) (Opd.ofCode p.d) (Opd.ofCode p.a)))
  | _ => .error .function

/-- The instructions of MAJ 0x39. -/
def dec39 (p : Parts) : Except Reject Instr :=
  match p.fn.toNat with
  | 0 => guardR (p.b == 0#5) .reserved <| guardR (litOk p [p.d, p.a]) .literal (guardR (!p.len.getLsbD 1) .length <| .ok (.roam (hd p) (Opd.ofCode p.d) (Opd.ofCode p.a)))
  | 1 => guardR (p.b == 0#5) .reserved <| guardR (litOk p [p.d, p.a]) .literal (guardR (!p.len.getLsbD 1) .length <| .ok (.migrate (hd p) (Opd.ofCode p.d) (Opd.ofCode p.a)))
  | _ => .error .function

/-- The instructions of MAJ 0x3A. -/
def dec3A (p : Parts) : Except Reject Instr :=
  match p.fn.toNat with
  | 0 => guardR (p.d == 0#5) .reserved <| guardR (litOk p [p.a, p.b]) .literal <| guardR (p.len.getLsbD 1) .length <| withNM p fun f vs t => 
        guardR (!f.rel) .option (.ok (.nmcast (hd p) (Opd.ofCode p.a) (Opd.ofCode p.b) f vs t))
  | 1 => guardR (p.d == 0#5 && p.b == 0#5) .reserved <| guardR (litOk p [p.a]) .literal <| guardR (p.len.getLsbD 1) .length <| withNR p fun f vs rop stream cidx => 
        guardR (!f.rel && rop != 7#3) .option (.ok (.nred (hd p) (Opd.ofCode p.a) f vs rop stream cidx))
  | _ => .error .function

/-- The instructions of MAJ 0x3B. -/
def dec3B (p : Parts) : Except Reject Instr :=
  match p.fn.toNat with
  | 0 => guardR (p.d == 0#5 && p.b == 0#5) .reserved <| guardR (litOk p [p.a]) .literal <| withE p fun x => 
        .ok (.nbComb (hd p) (Opd.ofCode p.a) x)
  | 1 => guardR (p.d == 0#5 && p.b == 0#5) .reserved <| guardR (litOk p [p.a]) .literal <| withE p fun x => 
        .ok (.nbFill (hd p) (Opd.ofCode p.a) x)
  | 2 => guardR (p.d == 0#5 && p.b == 0#5) .reserved <| guardR (litOk p [p.a]) .literal <| withE p fun x => 
        .ok (.nbRed (hd p) (Opd.ofCode p.a) x)
  | 3 => guardR (p.b == 0#5) .reserved <| guardR (litOk p [p.d, p.a]) .literal (guardR (!p.len.getLsbD 1) .length <| .ok (.nbStat (hd p) (Opd.ofCode p.d) (Opd.ofCode p.a)))
  | _ => .error .function

/-- The instructions of MAJ 0x3C. -/
def dec3C (p : Parts) : Except Reject Instr :=
  match p.fn.toNat with
  | 0 => guardR (litOk p [p.d, p.a, p.b]) .literal (guardR (!p.len.getLsbD 1) .length <| .ok (.xcfg (hd p) (Opd.ofCode p.d) (Opd.ofCode p.a) (Opd.ofCode p.b)))
  | 1 => guardR (litOk p [p.d, p.a, p.b]) .literal <| withE p fun x => 
        .ok (.xroute (hd p) (Opd.ofCode p.d) (Opd.ofCode p.a) (Opd.ofCode p.b) x)
  | 2 => guardR (litOk p [p.d, p.a, p.b]) .literal <| withE p fun x => 
        .ok (.xcombine (hd p) (Opd.ofCode p.d) (Opd.ofCode p.a) (Opd.ofCode p.b) x)
  | 3 => guardR (litOk p [p.d, p.a, p.b]) .literal (guardR (!p.len.getLsbD 1) .length <| .ok (.xstat (hd p) (Opd.ofCode p.d) (Opd.ofCode p.a) (Opd.ofCode p.b)))
  | 4 => guardR (p.b == 0#5) .reserved <| guardR (litOk p [p.d, p.a]) .literal (guardR (!p.len.getLsbD 1) .length <| .ok (.xresume (hd p) (Opd.ofCode p.d) (Opd.ofCode p.a)))
  | 5 => guardR (p.b == 0#5) .reserved <| guardR (litOk p [p.d, p.a]) .literal (guardR (!p.len.getLsbD 1) .length <| .ok (.xabort (hd p) (Opd.ofCode p.d) (Opd.ofCode p.a)))
  | _ => .error .function

/-- The lengths Table 10.7 allows a MAJ; none for an unassigned one. -/
def lenOk (maj len : Nat) : Bool :=
  match maj with
  | 1 | 2 | 3 | 16 | 17 | 18 | 23 | 30 | 31 | 47 => decide (len ≤ 1)
  | 8 | 9 | 10 | 11 | 12 | 13 | 14 | 15 | 19 | 20 | 21 | 22 => len == 0
  | 24 | 25 | 26 | 27 | 29 | 54 | 55 | 56 | 57 | 58 | 59 | 60 => true
  | 28 | 32 | 33 | 34 | 35 | 36 | 37 | 38 | 39 | 40 | 41 | 48 | 49 | 50 | 51 | 52 => decide (2 ≤ len)
  | _ => false

/-- Is the major opcode assigned (10 Table 10.7)? -/
def majOk (maj : Nat) : Bool := (lenOk maj 0 || lenOk maj 2)

/-- The instruction of the parts of its words, or why there is none (10 R209). -/
def build (p : Parts) : Except Reject Instr :=
  guardR (majOk p.maj.toNat) .major <| guardR (lenOk p.maj.toNat p.len.toNat) .length <|
  guardR (!(p.pred == 0#3 && p.pneg)) .predicate <|
  match p.maj.toNat with
  | 0x01 => dec01 p
  | 0x02 => dec02 p
  | 0x03 => dec03 p
  | 0x08 => dec08 p
  | 0x09 => dec09 p
  | 0x0A => dec0A p
  | 0x0B => dec0B p
  | 0x0C => dec0C p
  | 0x0D => dec0D p
  | 0x0E => dec0E p
  | 0x0F => dec0F p
  | 0x10 => dec10 p
  | 0x11 => dec11 p
  | 0x12 => dec12 p
  | 0x13 => dec13 p
  | 0x14 => dec14 p
  | 0x15 => dec15 p
  | 0x16 => dec16 p
  | 0x17 => dec17 p
  | 0x18 => dec18 p
  | 0x19 => dec19 p
  | 0x1A => dec1A p
  | 0x1B => dec1B p
  | 0x1C => dec1C p
  | 0x1D => dec1D p
  | 0x1E => dec1E p
  | 0x1F => dec1F p
  | 0x20 => dec20 p
  | 0x21 => dec21 p
  | 0x22 => dec22 p
  | 0x23 => dec23 p
  | 0x24 => dec24 p
  | 0x25 => dec25 p
  | 0x26 => dec26 p
  | 0x27 => dec27 p
  | 0x28 => dec28 p
  | 0x29 => dec29 p
  | 0x2F => dec2F p
  | 0x30 => dec30 p
  | 0x31 => dec31 p
  | 0x32 => dec32 p
  | 0x33 => dec33 p
  | 0x34 => dec34 p
  | 0x36 => dec36 p
  | 0x37 => dec37 p
  | 0x38 => dec38 p
  | 0x39 => dec39 p
  | 0x3A => dec3A p
  | 0x3B => dec3B p
  | 0x3C => dec3C p
  | _ => .error .major

/-- The instruction that a list of words begins with; words past its end are not looked at. -/
def decode (ws : List IWord) : Except Reject Instr := build (splitWords ws)

/-! The encoder. -/

/-- The 5-bit counter field. -/
def Ctr.code : Ctr → BitVec 5
  | .mem i => 0#1 ++ i
  | .lc i => 1#1 ++ i

/-- The layout of W1 (Table 10.3). -/
def w1Pack (x1 x2 x3 x4 : BitVec 6) (msk : BitVec 3) (m : Bool) (ty : BitVec 4) : BitVec 32 :=
  x1 ++ x2 ++ x3 ++ x4 ++ msk ++ BitVec.ofBool m ++ ty

/-- The low bits of an engine W2. -/
def eW2 (f : EFlags) : BitVec 32 := 0#28 ++ f.scope ++ BitVec.ofBool f.rel ++ BitVec.ofBool f.acq

/-- W1 and W2 of loads and stores. -/
def memWords (m : MemExt) : BitVec 32 × BitVec 32 := (m.disp, 0#30 ++ m.hint)

/-- W1 and W2 of an atomic. -/
def atWords (v : AOp) : BitVec 32 × BitVec 32 :=
  (w1Pack v.x1 v.x2 0 0 0 v.m v.ty.code, v.core ++ 0#12)

/-- W1 and W2 of a vector instruction. -/
def vWords (v : VOp) : BitVec 32 × BitVec 32 :=
  (w1Pack v.x1 v.x2 v.x3 v.x4 v.msk false v.ty.code,
   0#22 ++ v.sc ++ v.hint ++ v.part ++ BitVec.ofBool v.sat ++ BitVec.ofBool v.bs ++ v.rnd)

/-- W1 and W2 of an mma. -/
def mWords (v : MOp) : BitVec 32 × BitVec 32 :=
  (w1Pack v.x1 v.x2 v.x3 v.x4 0 false v.ty.code,
   0#11 ++ v.srow ++ v.sh ++ BitVec.ofBool v.sbv ++ BitVec.ofBool v.sav ++ BitVec.ofBool v.spn ++ 0#2)

/-- W1 and W2 of an accumulator instruction. -/
def accWords (v : AccOp) : BitVec 32 × BitVec 32 :=
  (w1Pack v.x1 v.x2 0 0 0 false v.ty.code,
   0#28 ++ BitVec.ofBool v.zr ++ BitVec.ofBool v.par ++ v.rnd)

/-- W1 and W2 of `kload`. -/
def kWords (v : KOp) : BitVec 32 × BitVec 32 :=
  (w1Pack v.x1 v.x2 0 0 0 false v.ty.code, 0#31 ++ BitVec.ofBool v.src)

/-- W2 of `send`. -/
def sW2 (f : EFlags) (par : Bool) (nw : BitVec 4) (target : BitVec 20) : BitVec 32 :=
  target ++ nw ++ BitVec.ofBool par ++ 0#3 ++ f.scope ++ BitVec.ofBool f.rel ++ BitVec.ofBool f.acq

/-- W2 of `nred`. -/
def nrW2 (f : EFlags) (rop : BitVec 3) (stream : BitVec 13) (cidx : BitVec 6) : BitVec 32 :=
  0#2 ++ cidx ++ stream ++ 0#4 ++ rop ++ f.scope ++ BitVec.ofBool f.rel ++ BitVec.ofBool f.acq

/-- The parts of an instruction with predicate and literal `h` and extended words `ext`. -/
def partsOf (h : Hd) (ext : Option (BitVec 32 × BitVec 32)) (maj : BitVec 6) (fn d a b : BitVec 5) : Parts :=
  { len := BitVec.ofBool ext.isSome ++ BitVec.ofBool h.lit.isSome, maj := maj, pred := h.pred, pneg := h.pneg,
    d := d, a := a, b := b, fn := fn, w1 := (ext.getD (0#32, 0#32)).1, w2 := (ext.getD (0#32, 0#32)).2,
    lit := h.lit.getD 0#64 }

/-- The parts of an instruction's words, by the same tables; none for a step of a unit, which has no words. -/
def encParts : Instr → Option Parts
  | .add h d a b => some (partsOf h none 0x01#6 0#5 d.code a.code b.code)
  | .sub h d a b => some (partsOf h none 0x01#6 1#5 d.code a.code b.code)
  | .mul h d a b => some (partsOf h none 0x01#6 2#5 d.code a.code b.code)
  | .mulhI64 h d a b => some (partsOf h none 0x01#6 3#5 d.code a.code b.code)
  | .mulhN64 h d a b => some (partsOf h none 0x01#6 4#5 d.code a.code b.code)
  | .divI64 h d a b => some (partsOf h none 0x01#6 5#5 d.code a.code b.code)
  | .divN64 h d a b => some (partsOf h none 0x01#6 6#5 d.code a.code b.code)
  | .remI64 h d a b => some (partsOf h none 0x01#6 7#5 d.code a.code b.code)
  | .remN64 h d a b => some (partsOf h none 0x01#6 8#5 d.code a.code b.code)
  | .minI64 h d a b => some (partsOf h none 0x01#6 9#5 d.code a.code b.code)
  | .minN64 h d a b => some (partsOf h none 0x01#6 10#5 d.code a.code b.code)
  | .maxI64 h d a b => some (partsOf h none 0x01#6 11#5 d.code a.code b.code)
  | .maxN64 h d a b => some (partsOf h none 0x01#6 12#5 d.code a.code b.code)
  | .addsX1 h d a b => some (partsOf h none 0x01#6 13#5 d.code a.code b.code)
  | .addsX2 h d a b => some (partsOf h none 0x01#6 14#5 d.code a.code b.code)
  | .addsX4 h d a b => some (partsOf h none 0x01#6 15#5 d.code a.code b.code)
  | .addsX8 h d a b => some (partsOf h none 0x01#6 16#5 d.code a.code b.code)
  | .add32 h e d a b => some (partsOf h none 0x02#6 (BitVec.ofBool e ++ 0#4) d.code a.code b.code)
  | .sub32 h e d a b => some (partsOf h none 0x02#6 (BitVec.ofBool e ++ 1#4) d.code a.code b.code)
  | .mul32 h e d a b => some (partsOf h none 0x02#6 (BitVec.ofBool e ++ 2#4) d.code a.code b.code)
  | .mulhI32 h d a b => some (partsOf h none 0x02#6 3#5 d.code a.code b.code)
  | .mulhN32 h d a b => some (partsOf h none 0x02#6 20#5 d.code a.code b.code)
  | .divI32 h d a b => some (partsOf h none 0x02#6 5#5 d.code a.code b.code)
  | .divN32 h d a b => some (partsOf h none 0x02#6 22#5 d.code a.code b.code)
  | .remI32 h d a b => some (partsOf h none 0x02#6 7#5 d.code a.code b.code)
  | .remN32 h d a b => some (partsOf h none 0x02#6 24#5 d.code a.code b.code)
  | .minI32 h d a b => some (partsOf h none 0x02#6 9#5 d.code a.code b.code)
  | .minN32 h d a b => some (partsOf h none 0x02#6 26#5 d.code a.code b.code)
  | .maxI32 h d a b => some (partsOf h none 0x02#6 11#5 d.code a.code b.code)
  | .maxN32 h d a b => some (partsOf h none 0x02#6 28#5 d.code a.code b.code)
  | .and h d a b => some (partsOf h none 0x03#6 0#5 d.code a.code b.code)
  | .or h d a b => some (partsOf h none 0x03#6 1#5 d.code a.code b.code)
  | .xor h d a b => some (partsOf h none 0x03#6 2#5 d.code a.code b.code)
  | .andn h d a b => some (partsOf h none 0x03#6 3#5 d.code a.code b.code)
  | .shl h d a b => some (partsOf h none 0x03#6 4#5 d.code a.code b.code)
  | .shr h d a b => some (partsOf h none 0x03#6 5#5 d.code a.code b.code)
  | .sha h d a b => some (partsOf h none 0x03#6 6#5 d.code a.code b.code)
  | .rol h d a b => some (partsOf h none 0x03#6 7#5 d.code a.code b.code)
  | .clz h d a => some (partsOf h none 0x03#6 8#5 d.code a.code 0#5)
  | .ctz h d a => some (partsOf h none 0x03#6 9#5 d.code a.code 0#5)
  | .popc h d a => some (partsOf h none 0x03#6 10#5 d.code a.code 0#5)
  | .mov h d a => some (partsOf h none 0x03#6 11#5 d.code a.code 0#5)
  | .bfx h d a b => some (partsOf h none 0x03#6 12#5 d.code a.code b.code)
  | .bfi h d a b => some (partsOf h none 0x03#6 13#5 d.code a.code b.code)
  | .sextI8 h d a => some (partsOf h none 0x03#6 14#5 d.code a.code 0#5)
  | .sextI16 h d a => some (partsOf h none 0x03#6 15#5 d.code a.code 0#5)
  | .sextI32 h d a => some (partsOf h none 0x03#6 16#5 d.code a.code 0#5)
  | .zextN8 h d a => some (partsOf h none 0x03#6 17#5 d.code a.code 0#5)
  | .zextN16 h d a => some (partsOf h none 0x03#6 18#5 d.code a.code 0#5)
  | .zextN32 h d a => some (partsOf h none 0x03#6 19#5 d.code a.code 0#5)
  | .sel h c d a b => some (partsOf h none 0x03#6 (3#2 ++ c) d.code a.code b.code)
  | .addImm h d a imm => some (partsOf h none 0x08#6 (imm.extractLsb' 5 5) d.code a.code (imm.extractLsb' 0 5))
  | .andImm h d a imm => some (partsOf h none 0x09#6 (imm.extractLsb' 5 5) d.code a.code (imm.extractLsb' 0 5))
  | .orImm h d a imm => some (partsOf h none 0x0A#6 (imm.extractLsb' 5 5) d.code a.code (imm.extractLsb' 0 5))
  | .xorImm h d a imm => some (partsOf h none 0x0B#6 (imm.extractLsb' 5 5) d.code a.code (imm.extractLsb' 0 5))
  | .shlImm h d a imm => some (partsOf h none 0x0C#6 (0#4 ++ imm.extractLsb' 5 1) d.code a.code (imm.extractLsb' 0 5))
  | .shrImm h d a imm => some (partsOf h none 0x0D#6 (0#4 ++ imm.extractLsb' 5 1) d.code a.code (imm.extractLsb' 0 5))
  | .shaImm h d a imm => some (partsOf h none 0x0E#6 (0#4 ++ imm.extractLsb' 5 1) d.code a.code (imm.extractLsb' 0 5))
  | .li h d imm => some (partsOf h none 0x0F#6 (imm.extractLsb' 5 5) d.code 0#5 (imm.extractLsb' 0 5))
  | .cmpSigned h w c d a b => some (partsOf h none 0x10#6 (w ++ c) (0#2 ++ d) a.code b.code)
  | .cmpUnsigned h w c d a b => some (partsOf h none 0x11#6 (w ++ c) (0#2 ++ d) a.code b.code)
  | .cmpFloat h bf c d a b => some (partsOf h none 0x12#6 (0#1 ++ BitVec.ofBool bf ++ c) (0#2 ++ d) a.code b.code)
  | .pand h d a b => some (partsOf h none 0x13#6 0#5 (0#2 ++ d) (0#2 ++ a) (0#2 ++ b))
  | .por h d a b => some (partsOf h none 0x13#6 1#5 (0#2 ++ d) (0#2 ++ a) (0#2 ++ b))
  | .pxor h d a b => some (partsOf h none 0x13#6 2#5 (0#2 ++ d) (0#2 ++ a) (0#2 ++ b))
  | .pnot h d a => some (partsOf h none 0x13#6 3#5 (0#2 ++ d) (0#2 ++ a) 0#5)
  | .br h off => some (partsOf h none 0x14#6 (off.extractLsb' 15 5) (off.extractLsb' 0 5) (off.extractLsb' 5 5) (off.extractLsb' 10 5))
  | .callOffset h off => some (partsOf h none 0x15#6 (off.extractLsb' 15 5) (off.extractLsb' 0 5) (off.extractLsb' 5 5) (off.extractLsb' 10 5))
  | .loop h d off => some (partsOf h none 0x16#6 (off.extractLsb' 10 5) d.code (off.extractLsb' 0 5) (off.extractLsb' 5 5))
  | .jmp h a => some (partsOf h none 0x17#6 0#5 0#5 a.code 0#5)
  | .callReg h d a => some (partsOf h none 0x17#6 1#5 d.code a.code 0#5)
  | .ret h a => some (partsOf h none 0x17#6 2#5 0#5 a.code 0#5)
  | .exit h => some (partsOf h none 0x17#6 3#5 0#5 0#5 0#5)
  | .yield h => some (partsOf h none 0x17#6 4#5 0#5 0#5 0#5)
  | .nop h => some (partsOf h none 0x17#6 5#5 0#5 0#5 0#5)
  | .qtry h d a b => some (partsOf h none 0x17#6 6#5 d.code a.code b.code)
  | .qcount h d a => some (partsOf h none 0x17#6 7#5 d.code a.code 0#5)
  | .qpeek h d a => some (partsOf h none 0x17#6 8#5 d.code a.code 0#5)
  | .ld h w sx pol d a b x => some (partsOf h (x.map memWords) 0x18#6 (w ++ BitVec.ofBool sx ++ pol) d.code a.code b)
  | .st h w pol d a b x => some (partsOf h (x.map memWords) 0x19#6 (w ++ 0#1 ++ pol) d.code a.code b)
  | .ldx h w sx pol d a b x => some (partsOf h (x.map memWords) 0x1A#6 (w ++ BitVec.ofBool sx ++ pol) d.code a.code b.code)
  | .stx h w pol d a b x => some (partsOf h (x.map memWords) 0x1B#6 (w ++ 0#1 ++ pol) d.code a.code b.code)
  | .aadd h form d a b v => some (partsOf h (some (atWords v)) 0x1C#6 (form ++ 0#3) d.code a.code b.code)
  | .amin h form d a b v => some (partsOf h (some (atWords v)) 0x1C#6 (form ++ 1#3) d.code a.code b.code)
  | .amax h form d a b v => some (partsOf h (some (atWords v)) 0x1C#6 (form ++ 2#3) d.code a.code b.code)
  | .aand h form d a b v => some (partsOf h (some (atWords v)) 0x1C#6 (form ++ 3#3) d.code a.code b.code)
  | .aor h form d a b v => some (partsOf h (some (atWords v)) 0x1C#6 (form ++ 4#3) d.code a.code b.code)
  | .axor h form d a b v => some (partsOf h (some (atWords v)) 0x1C#6 (form ++ 5#3) d.code a.code b.code)
  | .aswap h form d a b v => some (partsOf h (some (atWords v)) 0x1C#6 (form ++ 6#3) d.code a.code b.code)
  | .acas h form d a b v => some (partsOf h (some (atWords v)) 0x1C#6 (form ++ 7#3) d.code a.code b.code)
  | .cadd h scope c b => some (partsOf h none 0x1D#6 (scope ++ 0#3) 0#5 c.code b.code)
  | .cfadd h scope d c b => some (partsOf h none 0x1D#6 (scope ++ 1#3) d.code c.code b.code)
  | .cwait h scope lim c b x => some (partsOf h (x.map fun l => (0#32, l)) 0x1D#6 (scope ++ 2#3) lim c.code b.code)
  | .cpoll h scope d c b => some (partsOf h none 0x1D#6 (scope ++ 3#3) (0#2 ++ d) c.code b.code)
  | .cread h scope d c => some (partsOf h none 0x1D#6 (scope ++ 4#3) d.code c.code 0#5)
  | .fenceAcq h scope => some (partsOf h none 0x1E#6 (0#3 ++ scope) 0#5 0#5 0#5)
  | .fenceRel h scope => some (partsOf h none 0x1E#6 (1#3 ++ scope) 0#5 0#5 0#5)
  | .fenceAr h scope => some (partsOf h none 0x1E#6 (2#3 ++ scope) 0#5 0#5 0#5)
  | .fenceSc h scope => some (partsOf h none 0x1E#6 (3#3 ++ scope) 0#5 0#5 0#5)
  | .clean h a b => some (partsOf h none 0x1E#6 16#5 0#5 a.code b.code)
  | .inval h a b => some (partsOf h none 0x1E#6 17#5 0#5 a.code b.code)
  | .flush h a b => some (partsOf h none 0x1E#6 18#5 0#5 a.code b.code)
  | .pref h hint a b => some (partsOf h none 0x1E#6 19#5 (0#3 ++ hint) a.code b.code)
  | .ownrel h a b => some (partsOf h none 0x1E#6 20#5 0#5 a.code b.code)
  | .sysrd h d na nb => some (partsOf h none 0x1F#6 0#5 d.code na nb)
  | .syswr h d na nb => some (partsOf h none 0x1F#6 1#5 d.code na nb)
  | .svc h a => some (partsOf h none 0x1F#6 2#5 0#5 a.code 0#5)
  | .brk h a => some (partsOf h none 0x1F#6 3#5 0#5 a.code 0#5)
  | .eret h => some (partsOf h none 0x1F#6 4#5 0#5 0#5 0#5)
  | .suspendL h d a => some (partsOf h none 0x1F#6 5#5 d.code a.code 0#5)
  | .suspendF h d a b => some (partsOf h none 0x1F#6 6#5 d.code a.code b.code)
  | .resume h d a b => some (partsOf h none 0x1F#6 7#5 d.code a.code b.code)
  | .leasewait h d a => some (partsOf h none 0x1F#6 8#5 d.code a.code 0#5)
  | .rdclk h d => some (partsOf h none 0x1F#6 9#5 d.code 0#5 0#5)
  | .ident h d a => some (partsOf h none 0x1F#6 10#5 d.code a.code 0#5)
  | .ifence h => some (partsOf h none 0x1F#6 11#5 0#5 0#5 0#5)
  | .fltDone h d a b => some (partsOf h none 0x1F#6 12#5 d.code a.code b.code)
  | .pmove h d a => some (partsOf h none 0x1F#6 13#5 d.code a.code 0#5)
  | .pzero h d a b => some (partsOf h none 0x1F#6 14#5 d.code a.code b.code)
  | .vadd h a v => some (partsOf h (some (vWords v)) 0x20#6 0#5 0#5 a.code 0#5)
  | .vsub h a v => some (partsOf h (some (vWords v)) 0x20#6 1#5 0#5 a.code 0#5)
  | .vmul h a v => some (partsOf h (some (vWords v)) 0x20#6 2#5 0#5 a.code 0#5)
  | .vmin h a v => some (partsOf h (some (vWords v)) 0x20#6 3#5 0#5 a.code 0#5)
  | .vmax h a v => some (partsOf h (some (vWords v)) 0x20#6 4#5 0#5 a.code 0#5)
  | .vfma h a v => some (partsOf h (some (vWords v)) 0x20#6 5#5 0#5 a.code 0#5)
  | .vabs h v => some (partsOf h (some (vWords v)) 0x21#6 0#5 0#5 0#5 0#5)
  | .vneg h v => some (partsOf h (some (vWords v)) 0x21#6 1#5 0#5 0#5 0#5)
  | .vrcp h v => some (partsOf h (some (vWords v)) 0x21#6 2#5 0#5 0#5 0#5)
  | .vrsqrt h v => some (partsOf h (some (vWords v)) 0x21#6 3#5 0#5 0#5 0#5)
  | .vexp2 h v => some (partsOf h (some (vWords v)) 0x21#6 4#5 0#5 0#5 0#5)
  | .vlog2 h v => some (partsOf h (some (vWords v)) 0x21#6 5#5 0#5 0#5 0#5)
  | .vcvt h t v => some (partsOf h (some (vWords v)) 0x22#6 (0#1 ++ t.code) 0#5 0#5 0#5)
  | .vand h a v => some (partsOf h (some (vWords v)) 0x23#6 0#5 0#5 a.code 0#5)
  | .vor h a v => some (partsOf h (some (vWords v)) 0x23#6 1#5 0#5 a.code 0#5)
  | .vxor h a v => some (partsOf h (some (vWords v)) 0x23#6 2#5 0#5 a.code 0#5)
  | .vshl h a v => some (partsOf h (some (vWords v)) 0x23#6 3#5 0#5 a.code 0#5)
  | .vshr h a v => some (partsOf h (some (vWords v)) 0x23#6 4#5 0#5 a.code 0#5)
  | .vsha h a v => some (partsOf h (some (vWords v)) 0x23#6 5#5 0#5 a.code 0#5)
  | .vcmp h cond a v => some (partsOf h (some (vWords v)) 0x24#6 (0#2 ++ cond) 0#5 a.code 0#5)
  | .vsel h a v => some (partsOf h (some (vWords v)) 0x24#6 8#5 0#5 a.code 0#5)
  | .vredAdd h d v => some (partsOf h (some (vWords v)) 0x25#6 0#5 d.code 0#5 0#5)
  | .vredMax h d v => some (partsOf h (some (vWords v)) 0x25#6 1#5 d.code 0#5 0#5)
  | .vredMin h d v => some (partsOf h (some (vWords v)) 0x25#6 2#5 d.code 0#5 0#5)
  | .vscan h a v => some (partsOf h (some (vWords v)) 0x25#6 3#5 0#5 a.code 0#5)
  | .vperm h v => some (partsOf h (some (vWords v)) 0x26#6 0#5 0#5 0#5 0#5)
  | .vbcast h a v => some (partsOf h (some (vWords v)) 0x26#6 1#5 0#5 a.code 0#5)
  | .vext h d b v => some (partsOf h (some (vWords v)) 0x26#6 2#5 d.code 0#5 b.code)
  | .vins h a b v => some (partsOf h (some (vWords v)) 0x26#6 3#5 0#5 a.code b.code)
  | .vldT h a b v => some (partsOf h (some (vWords v)) 0x27#6 0#5 0#5 a.code b.code)
  | .vstT h a b v => some (partsOf h (some (vWords v)) 0x27#6 1#5 0#5 a.code b.code)
  | .vld h a b v => some (partsOf h (some (vWords v)) 0x28#6 0#5 0#5 a.code b.code)
  | .vst h a b v => some (partsOf h (some (vWords v)) 0x28#6 1#5 0#5 a.code b.code)
  | .vgath h a v => some (partsOf h (some (vWords v)) 0x28#6 2#5 0#5 a.code 0#5)
  | .vscat h a v => some (partsOf h (some (vWords v)) 0x28#6 3#5 0#5 a.code 0#5)
  | .vcb h v => some (partsOf h (some (vWords v)) 0x29#6 0#5 0#5 0#5 0#5)
  | .vclaim h a => some (partsOf h none 0x2F#6 0#5 0#5 a.code 0#5)
  | .vtry h a => some (partsOf h none 0x2F#6 1#5 0#5 a.code 0#5)
  | .vyield h a => some (partsOf h none 0x2F#6 2#5 0#5 a.code 0#5)
  | .talloc h d a t => some (partsOf h (some (w1Pack t 0 0 0 0 false 0, 0#32)) 0x30#6 0#5 d.code a.code 0#5)
  | .tfree h t => some (partsOf h (some (w1Pack t 0 0 0 0 false 0, 0#32)) 0x30#6 1#5 0#5 0#5 0#5)
  | .tinfo h d b t => some (partsOf h (some (w1Pack t 0 0 0 0 false 0, 0#32)) 0x30#6 2#5 d.code 0#5 b.code)
  | .tzero h a b t => some (partsOf h (some (w1Pack t 0 0 0 0 false 0, 0#32)) 0x30#6 3#5 0#5 a.code b.code)
  | .tempty h a b t => some (partsOf h (some (w1Pack t 0 0 0 0 false 0, 0#32)) 0x30#6 4#5 0#5 a.code b.code)
  | .rpush h d t => some (partsOf h (some (w1Pack t 0 0 0 0 false 0, 0#32)) 0x31#6 0#5 d.code 0#5 0#5)
  | .rpop h d t => some (partsOf h (some (w1Pack t 0 0 0 0 false 0, 0#32)) 0x31#6 1#5 d.code 0#5 0#5)
  | .rwait h a b t => some (partsOf h (some (w1Pack t 0 0 0 0 false 0, 0#32)) 0x31#6 2#5 0#5 a.code b.code)
  | .rstate h d t => some (partsOf h (some (w1Pack t 0 0 0 0 false 0, 0#32)) 0x31#6 3#5 d.code 0#5 0#5)
  | .mmaBf16 h a b v => some (partsOf h (some (mWords v)) 0x32#6 0#5 0#5 a.code b.code)
  | .mmaI8 h a b v => some (partsOf h (some (mWords v)) 0x32#6 1#5 0#5 a.code b.code)
  | .mmaCb h a b v => some (partsOf h (some (mWords v)) 0x32#6 2#5 0#5 a.code b.code)
  | .mmaSp h a b v => some (partsOf h (some (mWords v)) 0x32#6 3#5 0#5 a.code b.code)
  | .azero h v => some (partsOf h (some (accWords v)) 0x33#6 0#5 0#5 0#5 0#5)
  | .aload h a v => some (partsOf h (some (accWords v)) 0x33#6 1#5 0#5 a.code 0#5)
  | .astore h a v => some (partsOf h (some (accWords v)) 0x33#6 2#5 0#5 a.code 0#5)
  | .adrain h a b v => some (partsOf h (some (accWords v)) 0x33#6 3#5 0#5 a.code b.code)
  | .kload h a b v => some (partsOf h (some (kWords v)) 0x34#6 0#5 0#5 a.code b.code)
  | .cpy h d a x => some (partsOf h (x.map fun f => (0#32, eW2 f)) 0x36#6 0#5 d.code a.code 0#5)
  | .cpyMma h d a x => some (partsOf h (x.map fun f => (0#32, eW2 f)) 0x36#6 1#5 d.code a.code 0#5)
  | .cpyr h d a x => some (partsOf h (x.map fun f => (0#32, eW2 f)) 0x36#6 2#5 d.code a.code 0#5)
  | .cpystat h d a => some (partsOf h none 0x36#6 3#5 d.code a.code 0#5)
  | .spawn h d a x => some (partsOf h (x.map fun f => (0#32, eW2 f)) 0x37#6 0#5 d.code a.code 0#5)
  | .job h d a b x => some (partsOf h (x.map fun f => (0#32, eW2 f)) 0x37#6 1#5 d.code a.code b.code)
  | .launch h d a x => some (partsOf h (x.map fun f => (0#32, eW2 f)) 0x37#6 2#5 d.code a.code 0#5)
  | .send h a b f par nw target => some (partsOf h (some (0#32, sW2 f par nw target)) 0x38#6 0#5 0#5 a.code b.code)
  | .replay h a => some (partsOf h none 0x38#6 1#5 0#5 a.code 0#5)
  | .mpop h d a => some (partsOf h none 0x38#6 2#5 d.code a.code 0#5)
  | .roam h d a => some (partsOf h none 0x39#6 0#5 d.code a.code 0#5)
  | .migrate h d a => some (partsOf h none 0x39#6 1#5 d.code a.code 0#5)
  | .nmcast h a b f vs t => some (partsOf h (some (w1Pack vs t 0 0 0 false 0, eW2 f)) 0x3A#6 0#5 0#5 a.code b.code)
  | .nred h a f vs rop stream cidx => some (partsOf h (some (w1Pack vs 0 0 0 0 false 0, nrW2 f rop stream cidx)) 0x3A#6 1#5 0#5 a.code 0#5)
  | .nbComb h a x => some (partsOf h (x.map fun f => (0#32, eW2 f)) 0x3B#6 0#5 0#5 a.code 0#5)
  | .nbFill h a x => some (partsOf h (x.map fun f => (0#32, eW2 f)) 0x3B#6 1#5 0#5 a.code 0#5)
  | .nbRed h a x => some (partsOf h (x.map fun f => (0#32, eW2 f)) 0x3B#6 2#5 0#5 a.code 0#5)
  | .nbStat h d a => some (partsOf h none 0x3B#6 3#5 d.code a.code 0#5)
  | .xcfg h d a b => some (partsOf h none 0x3C#6 0#5 d.code a.code b.code)
  | .xroute h d a b x => some (partsOf h (x.map fun f => (0#32, eW2 f)) 0x3C#6 1#5 d.code a.code b.code)
  | .xcombine h d a b x => some (partsOf h (x.map fun f => (0#32, eW2 f)) 0x3C#6 2#5 d.code a.code b.code)
  | .xstat h d a b => some (partsOf h none 0x3C#6 3#5 d.code a.code b.code)
  | .xresume h d a => some (partsOf h none 0x3C#6 4#5 d.code a.code 0#5)
  | .xabort h d a => some (partsOf h none 0x3C#6 5#5 d.code a.code 0#5)
  | .cubeReset => none
  | .mapRead => none
  | .mapWrite => none
  | .mapBegin => none
  | .mapHold => none
  | .mapStep => none
  | .mapFinish => none
  | .mapListRead => none
  | .mapListWrite => none
  | .holdTransferInstall => none
  | .holdComplete => none
  | .req => none
  | .nack => none
  | .backoffExpiry => none
  | .fill => none
  | .data => none
  | .grant => none
  | .ackWt => none
  | .nocache => none
  | .inv => none
  | .invAck => none
  | .fwdRead => none
  | .fwdOwn => none
  | .revoke => none
  | .revokeWb => none
  | .rwbData => none
  | .wb => none
  | .wbAck => none
  | .wbBufferRetry => none
  | .remoteLostAtHome => none
  | .atomicAtHome => none
  | .counterOpAtHome => none
  | .watchRegistration => none
  | .watchRegistrationRetry => none
  | .satisfied => none
  | .dropped => none
  | .regionReadNotice => none
  | .regionNotice => none
  | .check => none
  | .checkAnswer => none
  | .tagfree => none
  | .sweepPass => none
  | .boundarySerialWait => none
  | .pmoveLineInstall => none
  | .pmoveLineConfirm => none
  | .frameZeroReport => none
  | .sectionLookup => none
  | .walkDispatch => none
  | .nwdone => none
  | .walkTimeout => none
  | .faultWaitRetry => none
  | .leaseSkewCheck => none
  | .referenceLost => none
  | .referenceReturn => none
  | .migrationDecay => none
  | .laneLock => none
  | .blockLock => none
  | .helloInterval => none
  | .hello => none
  | .helloAck => none
  | .trainingTimeout => none
  | .bundleReceive => none
  | .stompFlit => none
  | .back => none
  | .lreplay => none
  | .credit => none
  | .limitPeriod => none
  | .limits => none
  | .limitAck => none
  | .fenceDrained => none
  | .fenceMsg => none
  | .fenceAck => none
  | .packetForward => none
  | .packetCommit => none
  | .resp => none
  | .ack => none
  | .retryTimeout => none
  | .linkSilenceTimeout => none
  | .laneLockLost => none
  | .portEnable => none
  | .portFence => none
  | .portDisable => none
  | .redApply => none
  | .mcast => none
  | .streamEntryIdle => none
  | .launchWake => none
  | .startWaitRetry => none
  | .exitNotice => none
  | .inboxArrival => none
  | .inboxHeldRetry => none
  | .handlerStart => none
  | .spillWake => none
  | .migratingContextArrival => none
  | .vclaimServe => none
  | .taskAdmission => none
  | .taskDecision => none
  | .taskDispatch => none
  | .sequencerStep => none
  | .followOnMma => none
  | .nbCommandAccept => none
  | .combineGrant => none
  | .vaultBoundExpiry => none
  | .burstResume => none
  | .nbBurstComplete => none
  | .nbStatQuery => none
  | .peckReadWake => none
  | .fillWaitExpired => none
  | .ringTakeRetry => none
  | .queueWake => none
  | .waitExpired => none
  | .ringWaitExpired => none
  | .leasewaitReturn => none
  | .directedAtomicValue => none
  | .drainRow => none
  | .copyCommand => none
  | .copyStart => none
  | .copyChunk => none
  | .copyRead => none
  | .copyWrite => none
  | .cpystatQuery => none
  | .engineCount => none
  | .engineOffsetExpert => none
  | .turnWaitExpired => none
  | .engineTokenIssue => none
  | .tokenSettled => none
  | .leaseSkewDelivery => none
  | .errorRecordItem => none
  | .suspensionRequest => none
  | .uncorrectableError => none
  | .correctedError => none
  | .vaultFailure => none
  | .hostReadExclusive => none
  | .hostReadShared => none
  | .hostReadNocache => none
  | .hostWrite => none
  | .hostWriteback => none
  | .snoopTimeout => none
  | .doorbell => none
  | .doorbellResult => none
  | .clusterPowerUp => none
  | .governorSample => none
  | .thermalThreshold => none
  | .minverBurn => none
  | .registerWrite => none
  | .mboxGetStatus => none
  | .mboxGetKey => none
  | .mboxAttest => none
  | .mboxImageErase => none
  | .mboxImageWrite => none
  | .mboxImageActivate => none
  | .mboxSetCap => none
  | .mboxCxlCommand => none
  | .mctpControl => none
  | .mctpGetStatus => none
  | .mctpGetError => none
  | .mctpGetKey => none
  | .mctpAttest => none
  | .mctpSetCap => none
  | .mctpImageErase => none
  | .mctpImageWrite => none
  | .mctpImageActivate => none
  | .illegalEncoding => none
  | .walkerHartInstruction => none
  | .slotPacketWrite => none

/-- The first word of an instruction's parts (Table 10.2). -/
def firstWord (p : Parts) : IWord :=
  p.fn ++ p.b ++ p.a ++ p.d ++ BitVec.ofBool p.pneg ++ p.pred ++ p.maj ++ p.len

/-- The words of an instruction's parts (Table 10.1). -/
def joinWords (p : Parts) : List IWord :=
  firstWord p :: ((if p.len.getLsbD 1 then [p.w1, p.w2] else []) ++
    (if p.len.getLsbD 0 then [p.lit.extractLsb' 0 32, p.lit.extractLsb' 32 32] else []))

/-- The words of an instruction; a step of a unit has none. -/
def encode (i : Instr) : List IWord := ((encParts i).map joinWords).getD []

/-- The length in bytes of an instruction whose first word is `w` (R200). -/
def wordBytes (w : IWord) : Nat :=
  4 + (if w.getLsbD 1 then 8 else 0) + (if w.getLsbD 0 then 8 else 0)

/-- The length in bytes of an instruction (R200). -/
def Instr.bytes (i : Instr) : Nat := 4 * (encode i).length

/-- The instruction that the decoder reads from bits numbered as the opcode table numbers them: 32-bit words, the
first in bits 31..0; words past the given bits are 0. -/
def decodeTableWord (nbits w : Nat) : Option Instr :=
  let v := w % 2 ^ nbits
  match decode ((countUp 0 5).map fun k => BitVec.ofNat 32 (v / 2 ^ (32 * k))) with
  | .ok i => some i
  | .error _ => none

end Sys2Proof
end

