-- ==== Sys2Proof/Machine/State.lean ====
section
/-! DEFINITION. The state of one cube: every piece of state the spec names, as plain data (INVENTORY.md lists them
with their rules and reset values). Sparse tables list only what differs from the reset contents. -/

namespace Sys2Proof.Machine

/-- Context states (07 Table 7.2). -/
inductive CState where
  | free | active | away | suspended
  deriving DecidableEq, Repr

/-- What a blocked thread waits on (07 R151); `none` for a ready thread. -/
inductive Wait where
  | none
  /-- The reply of a request that has left the core (its tag is valid). -/
  | tag
  /-- The answer to an access of the instruction at PC. -/
  | access (id : Nat)
  /-- Its outstanding requests: a release, a fence or a boundary (04 R81, R83). -/
  | acks
  /-- An entry, or a free place, of a queue (10 R206). -/
  | queue (code : Nat)
  /-- A peck to become FULL (02 R45), since the given wait number. -/
  | peck (id : Nat)
  /-- A ring (02 R48). -/
  | ring (handle id : Nat)
  /-- A counter watch (12 R252). -/
  | watch (id : Nat)
  /-- The vector pool's claim queue (07 R168). -/
  | claim
  /-- A lease count (11 R233). -/
  | lease (target : Nat)
  /-- A place in the write-back buffer (03 R63). -/
  | wbuf
  /-- An instruction line (10 R200). -/
  | fetch
  /-- The space descriptor, read again (05 R98). -/
  | sd (id : Nat)
  /-- The sequencer (08 R179). -/
  | seq
  /-- The serial of a boundary (04 R87). -/
  | serial
  /-- The answer of a cube operation (11 R236, R240). -/
  | op (id : Nat)
  /-- Pending writes to vector registers or a codebook (13 R267, R283). -/
  | vreg
  /-- The cube's register block: ready when no register step is due (11 R230). -/
  | reg
  deriving DecidableEq, Repr

/-- The operand values an instruction has taken at issue, and what a trap returns (10 R206): the entries popped
with their queues, and the reserved entry. -/
structure Latch where
  a : Word
  b : Word
  d : Word
  pops : List (Nat × Word)
  rid : Option Nat
  deriving DecidableEq, Repr

/-- An outstanding request of a thread whose reply goes to `dest` (16 Table 16.7): DKIND 0 g register, 1 predicate,
2 queue entry, 3 acknowledgement only. `left` tells whether the request has left the core; until then the
instruction can still be executed again from `pc` with the operands of `latch`. A failure that earlier requests of the thread may
still come before is kept in `fcause` and the information words; what later instructions have changed meanwhile is taken back
through `back`, the predicates and flags as they were, and the register values of `undo` (16 R335). -/
structure Tag where
  id : Nat
  pc : Word
  dkind : Nat
  dest : Nat
  rid : Option Nat
  width : Nat
  signed : Bool
  ge : Option Nat
  acq : Option Nat
  va : Nat
  left : Bool
  bound : Bool
  latch : Option Latch
  fcause : Nat
  finfo1 : Nat
  finfo2 : Nat
  finfo3 : Nat := 0
  back : Option (BitVec 8 × BitVec 5) := none
  undo : List (Nat × Word) := []
  deriving DecidableEq, Repr

/-- A suspended context (16 R344, R347): of a full suspension, the address of its area in the image, the space, and the
replies kept; `settled` tells that its suspension has been made: its boundary reached and its blocked instruction given up. -/
structure SuspRec where
  full : Bool
  image : Nat
  space : Nat
  kept : List (Nat × Nat)
  settled : Bool
  deriving DecidableEq, Repr

/-- The macro-operation sequencer (08 R179, 13 R286): the instruction it holds, its thread, the next step, the
ring heads at the first step, the operand values, the codebook as read, and the flags kept pending. `pc` is the instruction's
address, `did` the number of an `adrain`'s delivery; a follow-on `mma` (14 R299) has no thread, and `ctx` is then 32. -/
structure SeqSt where
  ctx : Nat
  i : Instr
  pc : Word
  step : Nat
  h0a : Nat
  h0b : Nat
  va : Nat
  vb : Nat
  flags : BitVec 5
  kb : List Nat
  kbKind : Bool
  did : Nat
  follow : Option FollowMsg
  inner : Bool := false
  deriving DecidableEq, Repr

/-- A thread context (07 R150, 16 Table 16.1, 04 Table 4.4). `pend` is the vector register, or 64 plus the codebook, that
its load in progress writes (13 R267, R283); `seqSave` the recorded steps of interrupted sequencer instructions (08 R180): one of the
thread's own, and one of its trap handler, which is `inner`. `rdet` and `trapVa` are the core's copy of the space descriptor, held
until `sdExp`, and for one instruction more when `sdFresh`; `sdTrap` tells that PC is still to be taken from TRAP (05 R98). `bdue`
counts boundaries that have been reached and not retired (04 R83, R87), and `relScope` is the scope that the last fence gives to
synchronising writes (04 Table 4.3). -/
structure Ctx where
  cstate : CState := .free
  g : Tbl Word := []
  pc : Word := 0#64
  status : Word := 0#64
  preds : BitVec 8 := 1#8
  flags : BitVec 5 := 0#5
  masks : Tbl (BitVec 256) := []
  fillLimit : BitVec 16 := 0#16
  toor : Word := 0#64
  serial : BitVec 16 := 0#16
  tcl : Nat := 0
  tch : Nat := 0
  ackbal : Int := 0
  pendg : Nat := 0
  maint : Nat := 0
  nbPend : Nat := 0
  engOut : Nat := 0
  tags : Tbl Tag := []
  wait : Wait := .none
  waitAt : Nat := 0
  latch : Option Latch := none
  got : List (List Byte) := []
  noticed : Option Nat := none
  cw : Option (Nat × Nat × Nat × Nat) := none
  trapCause : Word := 0#64
  trapPc : Word := 0#64
  trapStatus : Word := 0#64
  info0 : Word := 0#64
  info1 : Word := 0#64
  info2 : Word := 0#64
  errRec : Word := 0#64
  errn : Nat := 0
  startNo : BitVec 16 := 0#16
  ostart : BitVec 16 := 0#16
  skew : Option (Nat × Nat) := none
  migrations : Nat := 0
  record : StartRec := .none
  susp : Option SuspRec := none
  idle : Nat := 0
  rdet : Bool := false
  yielded : Bool := false
  trapVa : Nat := 0
  sdExp : Nat := 0
  sdFresh : Bool := false
  sdTrap : Bool := false
  nbStatus : Tbl Nat := []
  departing : Option (Nat × Nat) := none
  pend : Option Nat := none
  seqSave : List SeqSt := []
  bdue : Nat := 0
  relScope : Nat := 0
  deriving DecidableEq, Repr

/-- A queue entry: reserved under a number until its value is produced (10 R206). -/
structure QEnt where
  rid : Nat
  val : Option Word
  deriving DecidableEq, Repr

/-- A group (07 R153): members, granted accumulators, held blocks and their registers' bytes (key
register * 256 + byte), and the `closing` blocks from number `closeAt` on that a waiting `vyield` of context `giver` gives up;
`saved` is the set of accumulators a full suspension took from it (14 R299). -/
structure Group where
  members : List Nat := []
  accs : Nat := 0
  blocks : Nat := 0
  closeAt : Nat := 0
  closing : Nat := 0
  giver : Option Nat := none
  v : Tbl Byte := []
  saved : Nat := 0
  deriving DecidableEq, Repr

/-- A claim waiting in the pool's queue (07 R168): of a `vclaim` of `bytes` bytes, or of a resumption. -/
structure Claim where
  group : Nat
  n : Nat
  ctx : Option Nat
  bytes : Nat
  job : Nat
  deriving DecidableEq, Repr

/-- A tile table entry (02 Table 2.3). -/
structure Tile where
  kind : Nat
  level : Nat
  pinned : Bool
  ownk : Nat
  ownid : Nat
  rows : Nat
  ppr : Nat
  slots : Nat
  bbank : Nat
  bpeck : Nat
  head : Nat
  tail : Nat
  occ : Nat
  acore : Nat
  deriving DecidableEq, Repr

/-- A near-cache line (02 R34): space, VA[47:7], hint, the physical line its copy came from, of a poisoned line the words not
written since (12 R242), and per word the valid, owned and dirty bits. -/
structure NLine where
  space : Nat
  vline : Nat
  hint : Nat
  pline : Nat
  poison : BitVec 32
  v : BitVec 32
  o : BitVec 32
  d : BitVec 32
  data : List Byte
  deriving DecidableEq, Repr

/-- A region record entry (04 Table 4.6). -/
structure RegRec where
  ctx : Nat
  serial : Nat
  rd : Bool
  wr : Bool
  space : Nat
  vline : Nat
  word : Nat
  deriving DecidableEq, Repr

/-- A line of a core's instruction cache (11 R235). -/
structure ILine where
  space : Nat
  vline : Nat
  data : List Byte
  deriving DecidableEq, Repr

/-- The core's record of a launch in progress (07 R152). -/
structure LaunchRec where
  key : Nat
  left : Nat
  cctr : Nat
  space : Nat
  org : Origin
  deriving DecidableEq, Repr

/-- A producer waiting at a full ring (02 R48): a thread at `rpush`, or a delivery. -/
structure RingWait where
  handle : Nat
  ctx : Option Nat
  step : Option Ev
  deriving DecidableEq, Repr

/-- A core (07, 02). Queues 0 to 7 are local; 8 to 11 are what this core reads as qn, qe, qs, qw. `last` holds LASTO and
LASTC of the issue slots (08 R178): key 4 * slot for LASTO, 4 * slot + 1 + class for LASTC; 31 at reset. -/
structure Core where
  ctxs : Tbl Ctx := []
  queues : Tbl (List QEnt) := []
  qwait : List (Nat × Nat) := []
  groups : Tbl Group := []
  lcs : Tbl Word := []
  lcWatch : List (Nat × Nat × Nat) := []
  claims : List Claim := []
  acc : Tbl (BitVec 32) := []
  asat : BitVec 8 := 0#8
  tiles : Tbl Tile := []
  pecks : Tbl Byte := []
  fulls : Tbl (BitVec 1) := []
  near : List NLine := []
  wbuf : List NLine := []
  fills : List Ev := []
  fwds : List Ev := []
  regrec : List RegRec := []
  icache : List ILine := []
  inbox : List Arrival := []
  held : List Arrival := []
  popping : List (Nat × Arrival) := []
  starts : List (List StartReq) := []
  reserved : List (Nat × Nat × Nat) := []
  launches : List LaunchRec := []
  codebooks : Tbl (Bool × List Nat) := []
  spillEntry : Word := 0#64
  spillHeap : Word := 0#64
  spillCtl : Word := 0#64
  seq : Option SeqSt := none
  ringWaits : List RingWait := []
  follows : List FollowMsg := []
  engReads : List CopyMsg := []
  last : Tbl Nat := []
  deriving DecidableEq, Repr

/-- A region descriptor (01 Table 1.1). -/
structure Slot where
  state : Nat := 0
  version : Nat := 0
  moving : Bool := false
  partner : Nat := 0
  n : Nat := 0
  list : Nat := 0
  gran : Nat := 0
  size : Nat := 0
  lbase : Nat := 0
  wmark : Nat := 0
  base : Nat := 0
  deriving DecidableEq, Repr

/-- An L2 or fast-tier line (02 R34): the local line number, dirty bit, hint and data. Lists of lines stand in
recency order, the most recent first. -/
structure CLine where
  line : Nat
  dirty : Bool
  hint : Nat
  data : List Byte
  deriving DecidableEq, Repr

/-- A registered word (03 Table 3.4). -/
structure RegWord where
  host : Bool
  agent : Nat
  space : Nat
  vline : Nat
  word : Nat
  line : Nat
  deriving DecidableEq, Repr

/-- A sharer pointer (03 Table 3.5). -/
structure Ptr where
  host : Bool
  agent : Nat
  space : Nat
  vline : Nat
  deriving DecidableEq, Repr

/-- A section entry (05 Table 5.1), with the three attribute bits of the leaf in one field each. -/
structure SEnt where
  size : Nat
  g : Bool
  space : Nat
  vpn : Nat
  exp : Nat
  pte : Word
  deriving DecidableEq, Repr

/-- A migration counting entry (05 R113). -/
structure MigEnt where
  region : Nat
  src0 : Nat
  cnt0 : Nat
  src1 : Nat
  cnt1 : Nat
  deriving DecidableEq, Repr

/-- A reducing stream entry (06 R143, 14 R301): masks per block, and the blocks in order of first arrival. -/
structure Stream where
  stream : Nat
  masks : Tbl (BitVec 56)
  last : Nat
  deriving DecidableEq, Repr

/-- A home slice (02 to 06). `raceWait` holds checks that wait for a pass of the sweep, `raceNow` those that wait for the end of
the present one, which awaits `sweepLeft` answers (04 R86, R87). `standing` holds, for a line, the ports whose requests came in a
contested cycle and are still to be accepted (03 R70).  `sds` holds the section's copies of space descriptors: SD0 and the lease count at which the copy expires
(05 R98). -/
structure Slice where
  l2 : List CLine := []
  fast : List CLine := []
  regs : List RegWord := []
  sharers : List (Nat × List Ptr) := []
  races : List RaceEnt := []
  watches : List Watch := []
  watchWait : List Ev := []
  raceWait : List Ev := []
  raceNow : List Ev := []
  sweepLeft : Nat := 0
  lastPort : Nat := 7
  standing : Tbl (List Nat) := []
  sect : List SEnt := []
  sds : Tbl (Nat × Nat) := []
  sectWait : List Req := []
  skew : Int := 0
  migs : List MigEnt := []
  deriving DecidableEq, Repr

/-- A line held at home while messages that its present request needs are under way: what it waits for, the
liveness answers collected, and the requests that arrived meanwhile, oldest first. -/
structure Hold where
  line : Nat
  step : Option Ev
  acks : Nat
  known : List (Nat × Bool)
  queue : List Ev
  near : Bool
  deriving DecidableEq, Repr

/-- A request outstanding at its issuer: what its answer is for, and the words answered so far. -/
inductive Purp where
  /-- A thread's access whose reply ends its tag: a load, an atomic, a counter operation, a checked store. -/
  | tag
  /-- One access of an instruction that makes several; its bytes go to the thread's answered accesses. -/
  | buf
  /-- A store that has retired: its acknowledgement is counted. -/
  | store
  /-- A thread's watch on a counter; it lasts until its notice. -/
  | watch
  /-- The check at home of an access that the near cache serves; the instruction then runs again. -/
  | check
  /-- An instruction line. -/
  | fetch
  /-- The home part of a maintenance instruction, a page piece of it, or a write-back it waits for. -/
  | maint
  /-- A line that `pref` fills. -/
  | pref
  /-- Where a roaming thread's access is homed. -/
  | probe
  /-- A write-back of an evicted line. -/
  | wb
  /-- A write of a unit that nothing waits for; a failure is recorded with this source, code detail and number. -/
  | quiet (source ident : Nat)
  /-- A completion add of a task or card (08 R174). -/
  | add (ident : Nat) (own : Bool)
  /-- A watch registration of task `seq`, its wait number. -/
  | taskWait (seq wait : Nat)
  /-- Where a task's first footprint is homed. -/
  | taskHome (seq : Nat)
  /-- Where the source of a task's footprint is homed. -/
  | taskCopy (seq foot : Nat)
  /-- A request of a copy command. -/
  | copy (vault serial : Nat)
  /-- A translation whose failure the instruction takes as an answer (14 R296, R315). -/
  | soft
  /-- A request of a routing engine. -/
  | engine (n : Nat)
  /-- A request of a vault's near-bank command. -/
  | near (vault : Nat)
  /-- A request of the host port. -/
  | host (k : Nat)
  /-- A request of a page move, a frame zeroing or a near-bank command. -/
  | job (id : Nat)
  /-- A load that was discarded when an earlier instruction trapped: its answer is written nowhere (16 R335). -/
  | drop
  /-- A request of a suspension or resumption. -/
  | susp (id : Nat)
  /-- A reply written into the save image of a context: register `dest` (16 and up a predicate, 99 none) and value. -/
  | image (core ctx dest value : Nat)
  /-- A contribution to a reducing stream that has retired: its acknowledgement is counted (14 R303). -/
  | red
  /-- The error record of a failure, written to the area of context `ctx` of a core (16 R342). -/
  | area (core ctx : Nat) (e : ErrItem)
  /-- A word at an address that a walk has to read elsewhere (05 R102). -/
  | walk (id pa : Nat)
  /-- The atomic that sets A and D in a walk's leaf: the leaf as it becomes, and its size (05 R104). -/
  | leafSet (walk need size : Nat)
  /-- The descriptor of a thread's space, for a core (05 R98). -/
  | desc (core ctx id : Nat)
  /-- The leaf that a thread's `pmove` names (11 R238). -/
  | leaf (core ctx : Nat)
  /-- The produced counter of a queue in memory, the record stored there, and the counter's add (05 R114): 0 the migration
  queue, 1 the fault queue, 2 the error queue. -/
  | produced (q : Nat)
  | recordPut (q : Nat)
  | recordAdd (q : Nat)
  /-- The wakes of a `launch`: cubes that have not answered. -/
  | cubes (left lost : Nat)
  deriving DecidableEq, Repr

/-- An outstanding request (10 R211, 06 R137). `left` tells that its GRANT or ACK_WT is counted in PENDG (03 R69), `nocache` that
home has granted it without allocation (03 R73), `poison` the words that a GRANT found poisoned (12 R242). -/
structure Out where
  id : Nat
  who : Agent
  req : Req
  purp : Purp
  have_ : Nat := 0
  data : List Byte := []
  dirty : Nat := 0
  granted : Bool := false
  tagged : Bool := false
  acks : Int := 0
  left : Bool := false
  nocache : Bool := false
  poison : Nat := 0
  deriving DecidableEq, Repr

/-- A walk (05 R97, R102): its section, key, class, the accesses merged into it in order, and its state; `known` holds the words
read for it elsewhere, none where the load failed, `sd0` the descriptor's first word. -/
structure Walk where
  id : Nat
  sect : Nat
  space : Nat
  vpn : Nat
  cls : Nat
  accs : List Req
  noInstall : Bool
  bypass : Bool
  hart : Option Nat
  start : Nat
  restarts : Nat
  begun : Nat
  known : List (Nat × Option Nat) := []
  sd0 : Nat := 0
  deriving DecidableEq, Repr

/-- A walker hart's walk context (05 R102, Table 5.4): integer registers x1 to x31 and the control registers. -/
structure HartCtx where
  walk : Nat
  x : Tbl Word
  pc : Word
  nwspace : Word
  nwva : Word
  nwclass : Word
  nwsdp : Word
  nwstart : Word
  nwctx : Word
  nwpte : Word
  nwpaddr : Word
  nwsize : Word
  nwinfo : Word
  deriving DecidableEq, Repr

/-- A record that waits for its queue in memory (05 R114, 16 R341). -/
inductive QItem where
  | mig (words : List Nat)
  | err (e : ErrItem) (norec : Bool)
  deriving DecidableEq, Repr

/-- A pending-fault slot (05 R115); `writing` while its record is being appended. -/
structure PFault where
  gen : Nat
  pending : Bool
  space : Nat
  vpn : Nat
  cls : Nat
  accs : List Req
  record : Nat
  count : Nat
  writing : Bool := false
  deriving DecidableEq, Repr

/-- A packet partly received on a port (06 R134), its flits received, and whether it is dropped as it comes (`mode` 1) or
waits for its tail to be merged (`mode` 2, R142); its flits from number `cut` on came in a bundle whose tag is not found
good. -/
structure Partial where
  pkt : Packet
  got : Nat
  mode : Nat := 0
  cut : Nat := 16
  deriving DecidableEq, Repr

/-- A packet queued for a port: its flits that the router holds and those sent, the port and channel of the input
buffer that they came through, those whose slots there have been freed, the number from which on they came in a bundle whose
tag is not found good, and whether one is corrupted (06 R130, R134). -/
structure Queued where
  pkt : Packet
  have_ : Nat
  sent : Nat := 0
  from_ : Option (Nat × Nat) := none
  freed : Nat := 0
  cut : Nat := 16
  bad : Bool := false
  deriving DecidableEq, Repr

/-- A packet of a replay buffer (06 R134): the bundle that carried each of its flits, in order; `stomped` when STOMP ended
it, `bad` when it was sent on with a corrupted flit. -/
structure SentPkt where
  pkt : Packet
  flits : List Nat
  stomped : Bool := false
  bad : Bool := false
  deriving DecidableEq, Repr

/-- A link port (06 Table 6.5, R121, R130, R134). Channels are numbered CLS * 7 + HOP; limits and counts are kept
where they differ from the limit 137 and the count 0. `resend` holds the packets that a replay sends again, in order;
`ctl` the control flits that a replay repeats; `fencing` tells that the peer has sent FENCE; `unsure` that the flits of the bundle
just received have been sent on and its tag is still to be found bad; `line` holds the bundles sent. -/
structure Port where
  state : Nat := 0
  mode : Nat := 0
  lfly : Nat := 1
  tagfail : Nat := 0
  peer : Nat := 0
  peerPort : Nat := 0
  laneLock : Bool := false
  blockLock : Bool := false
  ackSent : Bool := false
  ackGot : Bool := false
  fencing : Bool := false
  fenceSent : Bool := false
  lanesOn : Bool := false
  limTx : Tbl Nat := []
  unret : Tbl Nat := []
  limRx : Tbl Nat := []
  held : Tbl Nat := []
  used : Tbl Nat := []
  targets : List Nat := []
  outq : Tbl (List Queued) := []
  cur : Option Nat := none
  resend : List Queued := []
  replay : List SentPkt := []
  ctl : List (Nat × Flit) := []
  txNum : Nat := 0
  rxNum : Nat := 0
  discarding : Bool := false
  failNum : Nat := 0
  fails : Nat := 0
  partials : Option Partial := none
  unsure : Bool := false
  line : List Bundle := []
  heard : Nat := 0
  epoch : Nat := 0
  deriving DecidableEq, Repr

/-- A request the end-to-end unit has sent and not seen answered (06 R135, R137, R138): the resends that its timer has
caused, when it was last sent under the timer, the waits of R19 made for it, and whether it is waiting one out, after a NO_ROUTE
(`unseen`) without its destination having seen it. `relay` is
the request, as it came, that a stub has sent on (04 R93). -/
structure E2EOut where
  dest : Nat
  cls : Nat
  seq : Nat
  who : Agent
  id : Nat
  pkt : Packet
  tries : Nat := 0
  sent : Nat := 0
  waits : Nat := 0
  paused : Bool := false
  unseen : Bool := false
  relay : Option Req := none
  deriving DecidableEq, Repr

/-- A duplicate window (06 R136): the highest accepted SEQ, if any, and those recorded below it. -/
structure Window where
  high : Nat
  seen : List Nat
  deriving DecidableEq, Repr

/-- A retained response (06 R137). -/
structure Retained where
  src : Nat
  cls : Nat
  seq : Nat
  msg : Msg
  deriving DecidableEq, Repr

/-- The source's record of a multicast (06 R144): the cubes that have not acknowledged. -/
structure McOut where
  group : Nat
  seq : Nat
  who : Agent
  id : Nat
  left : List Nat
  msg : McastMsg
  tries : Nat
  deriving DecidableEq, Repr

/-- A chunk of an engine's copy (14 R295; 15 R325): its length in bytes, what it is doing (0 translating the source,
1 reading, 2 translating the destination, 3 writing), the accesses still to make of that (offset in the chunk, address,
length), the bytes read and which of them lie inside a tile, the translations, and its failure: status, and whether at the
destination. -/
structure Chunk where
  len : Nat := 0
  stage : Nat := 0
  todo : List (Nat × Nat × Nat) := []
  buf : List Byte := []
  inside : Nat := 0
  srcs : List Req := []
  dst : Option Req := none
  bad : Option (Nat × Bool) := none
  deriving DecidableEq, Repr

/-- A command of a streamer (14 R296, R297): its state (0 queued, 1 copying, 2 follow-on `mma`, 3 record, 4 waiting to add
the counter, 5 counter), the next byte in copy order, the chunk under way, the ring slot taken, and what its record will
say. -/
structure CopyJob where
  serial : Nat
  cmd : CopyCmd
  st : Nat := 0
  pos : Nat := 0
  chunk : Chunk := {}
  slot : Option Nat := none
  done : Nat := 0
  nfail : Nat := 0
  first : Option (Nat × Bool × Nat) := none
  flags : Nat := 0
  deriving DecidableEq, Repr

/-- A vault's streamer (14 R296, R298): the last serial, the commands held, footprint copies that wait for room, and of
the last 256 finished commands the serial, status and bytes written. -/
structure Streamer where
  serial : Nat := 0
  cmds : List CopyJob := []
  waiting : List CopyCmd := []
  finished : List (Nat × Nat × Nat) := []
  deriving DecidableEq, Repr

/-- A near-bank command in a vault's channel (14 R315): its state (0 accepted, 1 waiting for its grant, 2 running, 3 paused,
4 record, 5 waiting to add the counter, 6 counter), status, failing address, flags, and bytes written. -/
structure NbJob where
  key : Nat
  req : Req
  cmd : NbCmd
  st : Nat := 0
  status : Nat := 0
  faddr : Nat := 0
  flags : Nat := 0
  done : Nat := 0
  deriving DecidableEq, Repr

/-- A vault controller (08 R181, 14 R315, R316): its channel, the ordinary requests that wait, each with its number and the time
of its arrival, the number and time at which a burst that is to pause stops, and the status of each thread's last completed
command. -/
structure Vault where
  fifo : List NbJob := []
  waiting : List (Nat × Nat × Ev) := []
  pausing : Option (Nat × Nat) := none
  last : List (Origin × Nat) := []
  deriving DecidableEq, Repr

/-- An expert of an engine's snapshot (15 Table 15.5). -/
structure Expert where
  home : Nat
  buf : Nat
  cap : Nat
  fill : Nat
  turn : Nat
  fbase : Nat
  deriving DecidableEq, Repr

/-- What a routing engine waits for. -/
inductive EWhat where
  | idle
  /-- The choice of COUNT. -/
  | count
  /-- The turn wait, the fill and the turn add of an expert. -/
  | turn | fill | next
  /-- A choice of SCATTER, its row's chunk, its return-map write, its drop's counter and record. -/
  | choice | row | map | dropAdd | dropRec
  /-- The return-map entry, the gate, and a chunk of a row of COMBINE; a chunk of the output. -/
  | entry | gate | gather | output
  /-- The completion record, the collection of acknowledgements, and the completion add. -/
  | record | acks | add
  deriving DecidableEq, Repr

/-- A routing engine (15 R317 to R331): Table 15.1's state and owner; the configuration and table snapshot; counts, ranks
and bases (a base b held as b + 1; 0 for none, with its status in `bstat`); the run's descriptor and progress. -/
structure Engine where
  state : Nat := 0
  ocore : Nat := 0
  ogv : Bool := false
  oslot : Nat := 0
  space : Nat := 0
  task : Bool := false
  org : Origin := { core := 0, ctx := 0, start := 0 }
  cfg : List Nat := []
  table : List Expert := []
  n : Tbl Nat := []
  rank : Tbl Nat := []
  base : Tbl Nat := []
  bstat : Tbl Nat := []
  words : List Nat := []
  rel : Bool := false
  phase : Nat := 0
  cause : Nat := 0
  cursor : Nat := 0
  drops : Nat := 0
  serial : Nat := 0
  what : EWhat := .idle
  c : Nat := 0
  e : Nat := 0
  slot : Nat := 0
  off : Nat := 0
  reason : Nat := 0
  wid : Nat := 0
  chunk : Chunk := {}
  acc : List Nat := []
  gate : Nat := 0
  bad : Bool := false
  lost : List Nat := []
  first : Option (Nat × Bool × Nat) := none
  done : Nat := 0
  nfail : Nat := 0
  flags : Nat := 0
  pause : Bool := false
  abort : Bool := false
  orphan : Bool := false
  deriving DecidableEq, Repr

/-- A suspension or resumption under way (16 R344 to R348): its step, the accesses still to make (address, bytes to read,
bytes to write), what has been read, the words of the image's header, and whether an access has failed. -/
structure SuspJob where
  id : Nat
  m : SuspMsg
  step : Nat := 0
  todo : List (Nat × Nat × List Byte) := []
  got : List (List Byte) := []
  hdr : List Nat := []
  bad : Bool := false
  deriving DecidableEq, Repr

/-- A slot of the injection aperture (17 R353): packet words and RESULT; `busy` while RESULT reads 2^64 - 2. -/
structure HSlot where
  words : List Nat := []
  result : Nat := 0
  busy : Bool := false
  deriving DecidableEq, Repr

/-- What the host has been answered: the address, the data of a read, and the poison indication (17 R351). -/
structure HostAns where
  gpa : Nat
  data : List Byte
  poison : Bool
  deriving DecidableEq, Repr

/-- A back-invalidation snoop that the host has not answered (17 R352). -/
structure Snoop where
  id : Nat
  msg : Msg
  deriving DecidableEq, Repr

/-- A return code of the memory-device mailbox (17 R360). -/
inductive MboxRet where
  | success | invalidInput | unsupported | busy
  deriving DecidableEq, Repr

/-- The host port, the boot flash, the management target and the power unit (17): the flash's bytes as they differ from
erased, the aperture's slots, what the host, the mailbox and MCTP have been answered, the error records kept, the clusters
powered, while the boot ROM is still to start firmware its address (`boot`), the draws of the present window and its cap, and the
events that counting rules of R364 and R365 need. -/
structure Service where
  flash : Tbl Byte := []
  slots : Tbl HSlot := []
  answers : List HostAns := []
  bells : List (Nat × Nat × Nat) := []
  snoops : List Snoop := []
  mbox : List (MboxRet × List Byte) := []
  mctp : List (List Byte) := []
  records : List (List Nat) := []
  count : Nat := 0
  powered : Nat := 0
  boot : Option Nat := none
  draws : List Nat := []
  cap : Nat := 950
  corrected : List Nat := []
  struck : List (Nat × Nat) := []
  failed : List Nat := []
  image : List Byte := []
  config : List Byte := []
  recovery : Bool := false
  deriving DecidableEq, Repr

/-- The router and end-to-end unit (06). `open_` names the accepted requests still to be answered, `answered` the answers
that a duplicate of a request receives again. -/
structure Fabric where
  ports : Tbl Port := []
  routes : Tbl Word := []
  mcGroups : Tbl Word := []
  rtSel : Nat := 0
  portSel : Nat := 0
  mcSel : Nat := 0
  rlim : Nat := 8
  timer : Nat := 10000
  nextSeq : Tbl Nat := []
  outs : List E2EOut := []
  waiting : List E2EOut := []
  windows : Tbl Window := []
  mcWindows : Tbl Window := []
  retained : List Retained := []
  open_ : List (Nat × Nat × Nat) := []
  answered : List Retained := []
  mcSeq : Tbl Nat := []
  mcOuts : List McOut := []
  streams : List Stream := []
  deriving DecidableEq, Repr

/-- A pool entry of the task unit (08 R171, R172): a packet or card, its state (0 WATCHING, 1 READY, 2 PLACING,
3 RUNNING), the waits outstanding, for a card the records dealt, the core, context and group held, the footprint copies
under way, and the home cluster once its translation has answered. -/
structure TaskEnt where
  seq : Nat
  msg : TaskMsg
  st : Nat
  waits : List Nat
  dealt : Nat
  core : Nat
  ctx : Nat
  group : Option Nat
  copies : Nat
  prio : Nat
  queue : Nat
  homeKnown : Bool
  home : Option Nat
  deriving DecidableEq, Repr

/-- The task unit (08). Running tasks are kept for their completion adds and their error record's origin; `placing` names, for each
chunk whose start is being delivered, its card (08 R177). -/
structure TaskUnit where
  next : Word := 0#64
  pool : List TaskEnt := []
  running : List TaskEnt := []
  queues : Tbl (List Nat) := []
  last : Tbl Nat := []
  lastInput : Nat := 2
  inputs : Tbl (List TaskMsg) := []
  placing : List Nat := []
  lastCluster : Nat := 15
  deriving DecidableEq, Repr

/-- The cube's system registers that are plain words (11 Table 11.5): map staging, space table, lease control,
the memory queues, migration control, the vault bound, the atomic exception summary, the error queue, and the host, boot and service
registers of 17 Table 17.1; the lease counts of recent skew events and port losses, and the MSI-X messages sent
(17 R354), are kept with them. -/
structure Regs where
  mapSel : Word := 0#64
  mapD0 : Word := 0#64
  mapD1 : Word := 0#64
  mapD2 : Word := 0#64
  mapErr : Nat := 0
  spaceTbl : Word := 0#64
  leaseCtl : Word := 0x40F#64
  skews : Nat := 0
  refLost : Bool := false
  migqBase : Word := 0#64
  migqCtl : Word := 0#64
  migqCtr : Word := 0#64
  migqCons : Word := 0#64
  migqDrop : Word := 0#64
  migCtl : Word := 0#64
  fltqBase : Word := 0#64
  fltqCtl : Word := 0#64
  fltqCtr : Word := 0#64
  fltqCons : Word := 0#64
  vaultArb : Word := 200#64
  atomExc : Word := 0#64
  atomExcPa : Word := 0#64
  errqBase : Word := 0#64
  errqCtl : Word := 0#64
  errqCtr : Word := 0#64
  errqCons : Word := 0#64
  errLost : Nat := 0
  hostCtl : Word := 0#64
  hwinBase : Word := 0#64
  hwinSize : Word := 0#64
  bootStat : Word := 0#64
  fwVer : Word := 0#64
  minver : Nat := 0
  pwrCap : Word := 950#64
  pwrStat : Word := 0#64
  health : Word := 0#64
  diagSel : Word := 0#64
  diagData : Nat := 0
  skewTimes : List Nat := []
  lossTimes : List Nat := []
  msix : List Nat := []
  deriving DecidableEq, Repr

/-- A granule transfer in progress (01 R22): entries sent and not yet confirmed. -/
structure HoldXfer where
  slot : Nat
  left : Nat
  waits : Nat
  deriving DecidableEq, Repr

/-- A step that becomes due at a lease count. -/
structure Timer where
  due : Nat
  step : Ev
  deriving DecidableEq, Repr

/-- The state of the cube. The last seven fields are the model's own: the steps due (messages under way and
wakes, in order), the one being performed, the steps due at a later lease count, the thread that issues, the thread
that issues next where that is settled, and the counter from which free
values and request numbers are drawn. `reqWait` holds requests that wait for an earlier one of their context to the same word
(06 R140), `faultTurn` names the request whose walk is repeated after a wait for the fault queue (05 R118). -/
structure State where
  cubeId : Nat := 0
  cubeSet : Bool := false
  dense : Tbl Byte := []
  poison : Tbl Nat := []
  map : Tbl Slot := []
  cubeList : Tbl Nat := []
  hold : List HoldXfer := []
  slices : Tbl Slice := []
  holds : List Hold := []
  nbBusy : List (Nat × Nat × Nat) := []
  nbQueue : List Ev := []
  stubs : Tbl Nat := []
  jobs : List FrameJob := []
  cores : Tbl Core := []
  regs : Regs := {}
  leaseNow : Nat := 0
  walks : List Walk := []
  walkStore : Tbl Byte := []
  harts : Tbl HartCtx := []
  faults : Tbl PFault := []
  faultWait : List Req := []
  faultTurn : Option Nat := none
  queueBusy : List Nat := []
  queueWait : List QItem := []
  fltNext : Option Nat := none
  outs : List Out := []
  reqWait : List Req := []
  fabric : Fabric := {}
  tu : TaskUnit := {}
  engines : Tbl Engine := []
  streamers : Tbl Streamer := []
  vaults : Tbl Vault := []
  grants : Nat := 0
  grantQueue : List (Nat × Nat) := []
  susps : List SuspJob := []
  svc : Service := {}
  drains : List (Nat × Nat × Nat × Bool) := []
  migWait : List MigCtx := []
  events : List Ev := []
  ev : Option Ev := none
  timers : List Timer := []
  cur : Nat × Nat := (0, 0)
  next : Option (Nat × Nat) := none
  tick : Nat := 0
  deriving DecidableEq, Repr

/-- Why the machine stops. No instruction or step of the spec stops the cube (16 R335), so no meaning answers with a fault. -/
inductive Fault where
  /-- Raised by no meaning: the cube itself never stops on a program's act (16 R335). Safe. -/
  | halted
  deriving DecidableEq, Repr

/-- Why an instruction is refused. -/
inductive Refusal where
  /-- The instruction has no meaning in this model yet; raised only by an arm of the dispatch. Safe. -/
  | notModelled (mnemonic : String)
  deriving DecidableEq, Repr

/-- The machine right after reset: every field at the value the spec states, or that notes/assumptions names;
the one step due is the cube reset, in which the boot ROM runs (17 R355). -/
def State.reset : State := { events := [.cubeReset] }

end Sys2Proof.Machine
end

