-- ==== Sys2Proof/Machine/Ops.lean ====
section
/-! DEFINITION. The named operations on the state: cores, contexts, STATUS, registers, due steps, error records,
taking an exception and returning from one. -/

namespace Sys2Proof.Machine

/-- The outcome of a meaning. -/
abbrev Res := Host.Outcome State Fault Refusal

/-! Cores and contexts. -/

/-- Core `c` (0 to 255) of the cube. -/
def State.core (s : State) (c : Nat) : Core := tblGet s.cores c {}
/-- The state with core `c` replaced. -/
def State.setCore (s : State) (c : Nat) (k : Core) : State := { s with cores := tblSet s.cores c k }
/-- Core `c` changed by `f`. -/
def State.updCore (s : State) (c : Nat) (f : Core → Core) : State := s.setCore c (f (s.core c))
/-- Context `x` of a core. -/
def Core.ctx (k : Core) (x : Nat) : Ctx := tblGet k.ctxs x {}
/-- The core with context `x` replaced. -/
def Core.setCtx (k : Core) (x : Nat) (t : Ctx) : Core := { k with ctxs := tblSet k.ctxs x t }
/-- Context `x` of core `c`. -/
def State.ctx (s : State) (c x : Nat) : Ctx := (s.core c).ctx x
/-- The state with that context replaced. -/
def State.setCtx (s : State) (c x : Nat) (t : Ctx) : State := s.setCore c ((s.core c).setCtx x t)
/-- That context changed by `f`. -/
def State.updCtx (s : State) (c x : Nat) (f : Ctx → Ctx) : State := s.setCtx c x (f (s.ctx c x))
/-- The core of the thread that issues. -/
def State.me (s : State) : Nat := s.cur.1
/-- The context of the thread that issues. -/
def State.mx (s : State) : Nat := s.cur.2
/-- The issuing context. -/
def State.cx (s : State) : Ctx := s.ctx s.cur.1 s.cur.2
/-- The issuing context replaced. -/
def State.setCx (s : State) (t : Ctx) : State := s.setCtx s.cur.1 s.cur.2 t
/-- The issuing context changed. -/
def State.updCx (s : State) (f : Ctx → Ctx) : State := s.setCx (f s.cx)
/-- The global core number of core `c` of this cube (07 R148). -/
def State.gcore (s : State) (c : Nat) : Nat := s.cubeId * 256 + c
/-- Slice `k`. -/
def State.slice (s : State) (k : Nat) : Slice := tblGet s.slices k {}
/-- Slice `k` changed. -/
def State.updSlice (s : State) (k : Nat) (f : Slice → Slice) : State :=
  { s with slices := tblSet s.slices k (f (s.slice k)) }
/-- Port `p` of the router. -/
def State.port (s : State) (p : Nat) : Port := tblGet s.fabric.ports p {}
/-- Port `p` changed. -/
def State.updPort (s : State) (p : Nat) (f : Port → Port) : State :=
  { s with fabric := { s.fabric with ports := tblSet s.fabric.ports p (f (s.port p)) } }

/-! STATUS (07 Table 7.1). -/

/-- Field of a word. -/
def fld (w : Word) (hi lo : Nat) : Nat := bitsOf w.toNat hi lo
/-- A word with field [hi:lo] replaced. -/
def setFld (w : Word) (hi lo v : Nat) : Word :=
  BitVec.ofNat 64 (w.toNat - bitsOf w.toNat hi lo * 2 ^ lo + (v % 2 ^ (hi + 1 - lo)) * 2 ^ lo)
/-- STATUS.SPACE. -/
def Ctx.space (t : Ctx) : Nat := fld t.status 63 48
/-- STATUS.MODE: 0 task, 1 system, 2 firmware. -/
def Ctx.mode (t : Ctx) : Nat := fld t.status 47 46
/-- STATUS.STAGE. -/
def Ctx.stage (t : Ctx) : Nat := fld t.status 45 43
/-- STATUS.GV. -/
def Ctx.gv (t : Ctx) : Bool := bitOf t.status.toNat 42
/-- STATUS.GROUP. -/
def Ctx.group (t : Ctx) : Nat := fld t.status 41 39
/-- STATUS.CLASS. -/
def Ctx.cls (t : Ctx) : Nat := fld t.status 38 37
/-- STATUS.ROAM. -/
def Ctx.roam (t : Ctx) : Bool := bitOf t.status.toNat 36
/-- STATUS.START. -/
def Ctx.startKind (t : Ctx) : Nat := fld t.status 34 32
/-- STATUS.OCORE. -/
def Ctx.ocore (t : Ctx) : Nat := fld t.status 31 12
/-- STATUS.OCTX. -/
def Ctx.octx (t : Ctx) : Nat := fld t.status 11 7
/-- TRAP_CAUSE.HELD. -/
def Ctx.held (t : Ctx) : Bool := bitOf t.trapCause.toNat 8
/-- Task mode. -/
def Ctx.isTask (t : Ctx) : Bool := t.mode == 0
/-- The group an issuing thread belongs to. -/
def Ctx.grp (t : Ctx) : Option Nat := if t.gv then some t.group else none
/-- The local counter set of a thread: its group's, else the core's set 8 (07 R153). -/
def Ctx.lcSet (t : Ctx) : Nat := if t.gv then t.group else 8

/-! Due steps. -/

/-- A step becomes due after those already due. -/
def State.emit (s : State) (e : Ev) : State := { s with events := s.events ++ [e] }
/-- A step becomes due before those already due. -/
def State.emitFirst (s : State) (es : List Ev) : State := { s with events := es ++ s.events }
/-- Several steps become due. -/
def State.emits (s : State) (es : List Ev) : State := { s with events := s.events ++ es }
/-- A step becomes due when the lease clock has counted `n` more. -/
def State.later (s : State) (n : Nat) (e : Ev) : State :=
  { s with timers := s.timers ++ [{ due := s.leaseNow + n, step := e }] }
/-- The number that the next request or wait takes. -/
def State.newId (s : State) : Nat × State := (s.tick, { s with tick := s.tick + 1 })
/-- Lease counts that cover `n` units of 1,024 core cycles at 700 MHz against 100 MHz (00 R3). -/
def cyclesToCounts (n : Nat) : Nat := ceilDiv (n * 1024) 7

/-! Registers of a context. -/

/-- g register. -/
def Ctx.getG (t : Ctx) (i : Nat) : Word := memGet t.g i
/-- g register written. -/
def Ctx.setG (t : Ctx) (i : Nat) (v : Word) : Ctx := { t with g := memSet t.g i v }
/-- Predicate; c0 reads true (10 R207). -/
def Ctx.getP (t : Ctx) (i : Nat) : Bool := i == 0 || t.preds.getLsbD i
/-- Predicate written; a write to c0 is discarded (10 R210). -/
def Ctx.setP (t : Ctx) (i : Nat) (v : Bool) : Ctx :=
  if i = 0 then t
  else { t with preds := (t.preds &&& ~~~(1#8 <<< i)) ||| (if v then 1#8 <<< i else 0#8) }
/-- Mask register; m0 is all ones (10 Table 10.10). -/
def Ctx.getM (t : Ctx) (i : Nat) : BitVec 256 :=
  if i = 0 then BitVec.allOnes 256 else memGet t.masks i
/-- Mask register written; a write to m0 is discarded. -/
def Ctx.setM (t : Ctx) (i : Nat) (v : BitVec 256) : Ctx :=
  if i = 0 then t else { t with masks := memSet t.masks i v }
/-- Flags are ORed in (09 R186). -/
def Ctx.orFlags (t : Ctx) (f : BitVec 5) : Ctx := { t with flags := t.flags ||| f }

/-- Placement slots in use (08 Table 8.1): of tasks being placed, and of chunks being delivered. -/
def TaskUnit.slotsUsed (tu : TaskUnit) : Nat := (tu.pool.filter fun e => e.st == 2).length + tu.placing.length

/-! Memory of the dense tier, by local offset. -/

/-- The 128 bytes of a line of the dense tier. -/
def State.denseLine (s : State) (line : Nat) : List Byte := memRead s.dense (line * 128) 128
/-- A line of the dense tier written. -/
def State.setDenseLine (s : State) (line : Nat) (d : List Byte) : State :=
  { s with dense := memWrite s.dense (line * 128) d }

/-! Trap entry and return (16 R335, R338). -/

/-- The trap causes of 16 Table 16.2. -/
inductive Cause where
  | illegalEncoding | reservedOperand | privilege | noNeighbour | misaligned | accessError | permission
  | poison | race | regionOverflow | waitExpired | ringWaitExpired | fillWaitExpired | counterOverflow
  | tileFault | vpool | remoteLost | break_ | svc | leaseSkew
  deriving DecidableEq, Repr

/-- The code of a cause. -/
def Cause.code : Cause → Nat
  | .illegalEncoding => 0x01 | .reservedOperand => 0x02 | .privilege => 0x03 | .noNeighbour => 0x04
  | .misaligned => 0x05 | .accessError => 0x06 | .permission => 0x07 | .poison => 0x08 | .race => 0x09
  | .regionOverflow => 0x0A | .waitExpired => 0x0B | .ringWaitExpired => 0x0C | .fillWaitExpired => 0x0D
  | .counterOverflow => 0x0E | .tileFault => 0x0F | .vpool => 0x10 | .remoteLost => 0x11 | .break_ => 0x12
  | .svc => 0x13 | .leaseSkew => 0x14

/-- The origin of a thread's failures (16 R342): its origin core and context, and the origin's start number. -/
def Ctx.origin (t : Ctx) : Origin := { core := t.ocore, ctx := t.octx, start := t.ostart.toNat }

/-- An error record of the cube's queue (16 Table 16.4) is to be written: the item with no area record. -/
def queueRecord (source code : Nat) (space addr hcube local_ ident detail core ctx start : Nat) (norec : Bool)
    (lost time seqn : Nat) : List Nat :=
  [ putBits source 56 8 + putBits code 48 8 + putBits lost 32 16 + putBits space 16 16 + b2n norec,
    putBits core 44 20 + putBits ctx 39 5 + putBits start 23 16,
    addr % 2 ^ 64,
    putBits hcube 52 12 + putBits local_ 0 37,
    ident % 2 ^ 64, detail % 2 ^ 64, time % 2 ^ 64, seqn % 2 ^ 64 ]

/-- Mesh column of a core of the cube (07 R148). -/
def meshCol (c : Nat) : Nat := 4 * (c / 16 % 4) + c % 4
/-- Mesh row of a core of the cube. -/
def meshRow (c : Nat) : Nat := 4 * (c / 64) + c % 16 / 4
/-- The core at a mesh column and row. -/
def meshCore (col row : Nat) : Nat := (row / 4 * 4 + col / 4) * 16 + row % 4 * 4 + col % 4

/-- The neighbour toward north, east, south or west (0 to 3), if the die has one (07 R148, R149). -/
def neighbour (c dir : Nat) : Option Nat :=
  match dir with
  | 0 => if meshRow c = 0 then none else some (meshCore (meshCol c) (meshRow c - 1))
  | 1 => if meshCol c = 15 then none else some (meshCore (meshCol c + 1) (meshRow c))
  | 2 => if meshRow c = 15 then none else some (meshCore (meshCol c) (meshRow c + 1))
  | _ => if meshCol c = 0 then none else some (meshCore (meshCol c - 1) (meshRow c))

/-- The opposite direction. -/
def opposite (dir : Nat) : Nat := (dir + 2) % 4

/-- Would a boundary enter the half of the serials that still has tags at homes (04 R87)? -/
def Ctx.serialBlocked (t : Ctx) : Bool :=
  let n := t.serial + 1#16
  n.getLsbD 15 != t.serial.getLsbD 15 && (if n.getLsbD 15 then t.tch != 0 else t.tcl != 0)

/-- A boundary of regions retires (04 R76, R83): SERIAL rises by 1, modulo 65,536. -/
def Ctx.boundary (t : Ctx) : Ctx := { t with serial := t.serial + 1#16 }

/-- Is the request an access that races are detected on (04 R76)? -/
def Out.tracked (o : Out) : Bool :=
  o.req.rdet && (match o.req.act with
    | .load .. | .store .. | .notice .. => true
    | _ => false) && !(o.purp matches .pref)

/-- May a boundary of the context retire: every tracked access has been answered, and the half of the serials that it enters
has no tags at homes (04 R83, R87)? -/
def State.serialClear (s : State) (c x : Nat) : Bool :=
  !(s.ctx c x).serialBlocked
    && !(s.outs.any fun o => o.who == { kind := .thread, core := s.gcore c, idx := x } && o.tracked)

/-- The boundaries that a context has reached retire as far as they may, `n` at most; with none left its thread goes on. -/
def State.payBoundaries (s : State) (c x : Nat) : Nat → State
  | 0 => s
  | n + 1 =>
    if s.serialClear c x then
      (s.updCtx c x fun t =>
        { t.boundary with bdue := t.bdue - 1, wait := if t.bdue = 1 && t.wait = .serial then .none else t.wait }).payBoundaries c x n
    else s

/-- A context reaches a boundary that is no instruction of its own (04 R76): it retires before the thread's next
instruction. -/
def State.reachBoundary (s : State) (c x : Nat) : State :=
  let s1 := s.updCtx c x fun t => { t with bdue := t.bdue + 1, wait := .serial }
  s1.payBoundaries c x (s1.ctx c x).bdue

/-- Queue `q` of a core. -/
def Core.queue (k : Core) (q : Nat) : List QEnt := tblGet k.queues q []
/-- Queue `q` replaced. -/
def Core.setQueue (k : Core) (q : Nat) (l : List QEnt) : Core := { k with queues := tblSet k.queues q l }

/-- Threads of core `c` that wait under name `q`, and the writer at the far end of a link, are looked at again. -/
def State.queueChanged (s : State) (c q : Nat) : State :=
  let s1 := s.emit (.queueWake c q)
  if q < 8 then s1
  else match neighbour c (q - 8) with
    | some n => s1.emit (.queueWake n (12 + opposite (q - 8)))
    | none => s1

/-- Popped entries go back to the fronts of their queues, in the order in which they were popped (10 R206). -/
def State.unpop (s : State) (c : Nat) (pops : List (Nat × Word)) : State :=
  pops.foldr (fun p s => (s.updCore c fun k => k.setQueue p.1 (⟨0, some p.2⟩ :: k.queue p.1)).queueChanged c p.1) s

/-- The entry reserved under a number is withdrawn from the queues of a core. -/
def State.withdraw (s : State) (rid c : Nat) : State :=
  ((s.core c).queues.filter fun q => q.2.any fun e => e.rid == rid).foldl (fun s q =>
    (s.updCore c fun k => k.setQueue q.1 ((k.queue q.1).filter fun e => e.rid != rid)).queueChanged c q.1) s

/-- What an abandoned instruction of a core took from its queues is returned, and its reservation, there or in a neighbour's
link queue, is withdrawn (10 R206). -/
def State.returnLatch (s : State) (c : Nat) (l : Latch) : State :=
  match l.rid with
  | none => s.unpop c l.pops
  | some r => (c :: (countUp 0 4).filterMap fun d => neighbour c d).foldl (fun s n => s.withdraw r n) (s.unpop c l.pops)

/-- The thread no longer waits for a queue: who waits behind it looks again (07 R149). -/
def State.leaveQueues (s : State) (c x : Nat) : State :=
  let k := s.core c
  (s.setCore c { k with qwait := k.qwait.filter fun w => w.2 != x }).emits
    ((k.qwait.filter fun w => w.2 == x).map fun w => .queueWake c (if 16 ≤ w.1 then w.1 - 16 else w.1))

/-- The thread leaves every list of waiting threads that it stands in: who comes after it looks again (07 R149, R168). -/
def State.leaveWaits (s : State) (c x : Nat) : State :=
  let claims := (s.core c).claims.filter fun w => w.ctx != some x
  let s1 := (s.updCore c fun k => { k with
    claims := claims
    lcWatch := k.lcWatch.filter fun w => w.1 != x
    ringWaits := k.ringWaits.filter fun w => w.ctx != some x }).leaveQueues c x
  if claims.length = (s.core c).claims.length then s1 else s1.emit (.vclaimServe c)

/-- Its claim on registers, or on blocks that it yields, for which others wait ends: they look again (13 R267, R269, R283). -/
def Core.endPend (k : Core) (x : Nat) : Core :=
  if (k.ctx x).pend.isNone && !(k.groups.any fun g => g.2.giver == some x) then k
  else { k with ctxs := k.ctxs.map fun p => (p.1, if p.1 = x then { p.2 with pend := none }
      else if p.2.wait = .vreg then { p.2 with wait := .none } else p.2) }

/-- The instruction at PC is abandoned: its operands are returned and its waits forgotten (16 R340). -/
def State.abandon (s : State) (c x : Nat) : State :=
  let t := s.ctx c x
  let s1 := match t.latch with
    | none => s
    | some l => s.returnLatch c l
  let s2 := (s1.updCore c fun k => k.endPend x).updCtx c x fun t =>
    { t with latch := none, got := [], wait := if t.bdue = 0 then .none else .serial, waitAt := 0, cw := none }
  (s2.updCore c fun k =>
    { k with
      inbox := ((k.popping.filter fun p => p.1 == x).map fun p => p.2) ++ k.inbox
      popping := k.popping.filter fun p => p.1 != x
      groups := k.groups.map fun (p : Nat × Group) =>
        (p.1, if t.gv && p.1 = t.group && p.2.giver = some x then { p.2 with closeAt := 0, closing := 0, giver := none } else p.2) }).leaveWaits c x

/-- A record is to be put into the cube's error queue (16 R341); without an issuer, its core is the cube's core 0. -/
def State.report (s : State) (e : ErrItem) : State := s.emit (.errorRecordItem { e with queue := true })

/-- An MSI-X message is sent to the host, when HOST_CTL.MSIX = 1 (17 R354). -/
def State.sendMsix (s : State) (v : Nat) : State :=
  if bitOf s.regs.hostCtl.toNat 2 then { s with regs := { s.regs with msix := s.regs.msix ++ [v] } } else s

/-- HEALTH becomes `h`; a change sends MSI-X vector 1 (17 R354). -/
def State.setHealth (s : State) (h : Word) : State :=
  if s.regs.health = h then s else { s with regs := { s.regs with health := h } }.sendMsix 1

/-- Is an engine owned by a context or group slot of a core (15 R317)? -/
def Engine.ownedBy (e : Engine) (c : Nat) (gv : Bool) (slot : Nat) : Bool :=
  e.state != 0 && !e.orphan && e.ocore == c && e.ogv == gv && e.oslot == slot

/-- The step that goes on with an engine's run (15 R323 to R325, R331). -/
def Engine.nextStep (e : Engine) (n : Nat) : Ev :=
  match e.phase with
  | 0 => .engineCount n
  | 1 => .engineOffsetExpert n
  | _ => .engineTokenIssue n

/-- An owner is suspended: its running engines stop at their next boundary (15 R328). -/
def State.ownerSuspended (s : State) (c : Nat) (gv : Bool) (slot : Nat) : State :=
  { s with engines := s.engines.map fun (p : Nat × Engine) =>
      (p.1, if p.2.ownedBy c gv slot && p.2.state == 2 then { p.2 with pause := true } else p.2) }

/-- An owner is resumed: a pause not yet reached is withdrawn, a paused run goes on (15 Table 15.1, R328). -/
def State.ownerResumed (s : State) (c : Nat) (gv : Bool) (slot : Nat) : State :=
  let go (e : Engine) : Bool := e.ownedBy c gv slot && e.state == 3 && e.cause == 1
  let s1 := { s with engines := s.engines.map fun (p : Nat × Engine) =>
      (p.1, if go p.2 then { p.2 with state := 2, cause := 0 }
        else if p.2.ownedBy c gv slot then { p.2 with pause := false } else p.2) }
  s1.emits ((s.engines.filter fun p => go p.2).map fun p => p.2.nextStep p.1)

/-- An owner ends: its idle engines are FREE, a run in progress goes on without an owner (15 Table 15.1). -/
def State.ownerEnds (s : State) (c : Nat) (gv : Bool) (slot : Nat) : State :=
  { s with engines := s.engines.map fun (p : Nat × Engine) =>
      (p.1, if p.2.ownedBy c gv slot then
          (if p.2.state = 2 || p.2.state = 3 then { p.2 with orphan := true } else { serial := p.2.serial })
        else p.2) }

/-- Does a thread without a group own a routing engine that is not FREE (15 R317)? -/
def State.engineOwned (s : State) (c x : Nat) : Bool :=
  s.engines.any fun e => e.2.ownedBy c false x

/-- Is the context anchored (07 R165)? -/
def State.anchored (s : State) (c x : Nat) : Bool :=
  let t := s.ctx c x
  t.gv || t.held
    || ((s.core c).tiles.any fun p => p.2.kind != 2 &&
        ((p.2.ownk == 0 && t.gv && p.2.ownid == t.group) || (p.2.ownk == 1 && p.2.ownid == x)
          || (p.2.ownk == 2 && p.2.ownid == x)))
    || s.engineOwned c x

/-- STATUS as it is read: ANCH is 1 while the context is anchored (07 Table 7.1, R165). -/
def State.statusWord (s : State) (c x : Nat) : Word := setFld (s.ctx c x).status 35 35 (b2n (s.anchored c x))

/-- The suspension of one thread by a trap pauses the engines that it owns itself (15 R328). -/
def State.trapSuspends (s : State) (c x : Nat) (gv : Bool) : State := if gv then s else s.ownerSuspended c false x

/-- Does the core's copy of the space descriptor still serve the thread (05 R98)? -/
def Ctx.sdLive (t : Ctx) (now : Nat) : Bool := decide (now < t.sdExp)

/-- A trap finds a TRAP of 0: the context, with the trap recorded, is light-suspended, with the record of a double trap
(16 R335, R337). -/
def State.noTrapEntry (s : State) (c x : Nat) (t : Ctx) : State :=
  (((s.setCtx c x { t with cstate := .suspended, susp := some ⟨false, 0, 0, [], true⟩ }).reachBoundary c x).trapSuspends c x t.gv).report
    { org := t.origin, source := 0, code := Cause.accessError.code, space := t.space, addr := 0,
      hcube := s.cubeId, local_ := 0, ident := 0, detail := 0 }

/-- Trap entry of context `x` of core `c` (16 R335): the saved registers, system mode, the trap entry of the space
as PC; a second trap while HELD = 1, or a trap entry of 0, light-suspends the context (R337). `pc` is the address
TRAP_PC receives. With the copy of the descriptor expired, PC is taken from it when it has been read again (05 R98). -/
def State.trapAt (s : State) (c x : Nat) (cause : Cause) (pc : Word) (i0 i1 i2 : Nat) : State :=
  let s := s.abandon c x
  let t := s.ctx c x
  if t.held then
    (((s.setCtx c x { t with cstate := .suspended, susp := some ⟨false, 0, 0, [], true⟩ }).reachBoundary c x).trapSuspends c x t.gv).report
      { org := t.origin, source := 0, code := cause.code, space := t.space, addr := i0, hcube := s.cubeId,
        local_ := 0, ident := 0, detail := i1 }
  else
    let t1 := { t with
      trapCause := BitVec.ofNat 64 (256 + cause.code)
      trapPc := BitVec.ofNat 64 (pc.toNat % 2 ^ 48)
      trapStatus := s.statusWord c x
      info0 := BitVec.ofNat 64 i0, info1 := BitVec.ofNat 64 i1, info2 := BitVec.ofNat 64 i2
      status := if t.mode = 0 then setFld t.status 47 46 1 else t.status
      pc := BitVec.ofNat 64 t.trapVa, sdTrap := !(t.sdLive s.leaseNow), seqSave := t.seqSave.filter fun q => !q.inner }
    let s1 := (s.setCtx c x t1).reachBoundary c x
    if t.trapVa = 0 && t.sdLive s.leaseNow then s1.noTrapEntry c x (s1.ctx c x) else s1

/-- What a context holds once its thread is gone: its serial with its tag counts, and its start number. -/
def Ctx.freed (t : Ctx) : Ctx := { serial := t.serial, bdue := t.bdue, tcl := t.tcl, tch := t.tch, startNo := t.startNo }

/-- A context, group slot or accumulator of a core has become free: who waits for one looks again. -/
def State.coreFreed (s : State) (c : Nat) : State :=
  let k := s.core c
  s.emits ((if k.starts.isEmpty then [] else [Ev.startWaitRetry c]) ++ (if k.inbox.isEmpty then [] else [.handlerStart c])
    ++ (if s.tu.pool.isEmpty then [] else [.taskDecision])
    ++ (if s.migWait.isEmpty then [] else [.migratingContextArrival none]))

/-- The issuing thread traps at the instruction at its PC. -/
def State.trap (s : State) (cause : Cause) (i0 i1 i2 : Nat) : State :=
  s.trapAt s.cur.1 s.cur.2 cause s.cx.pc i0 i1 i2

/-- ACCESS_ERROR for an address, KIND 0 (16 Table 16.2). -/
def State.accessError (s : State) (va : Nat) : State := s.trap .accessError va 0 0
/-- ACCESS_ERROR for a structure: the value, its code, KIND 1. -/
def State.structError (s : State) (v code : Nat) : State := s.trap .accessError v code 1
/-- MISALIGNED. -/
def State.misaligned (s : State) (va : Nat) : State := s.trap .misaligned va 0 0

/-- The instruction retires: the thread goes on `n` bytes further, its operand values forgotten. -/
def State.retire (s : State) (n : Nat) : State :=
  s.updCx fun t => { t with pc := t.pc + BitVec.ofNat 64 n, latch := none, got := [], wait := .none, waitAt := 0, cw := none, noticed := none, migrations := 0, pend := none }

/-- The thread blocks at the instruction at PC, which is executed again when it wakes. -/
def State.block (s : State) (w : Wait) : State := s.updCx fun t => { t with wait := w }

/-- A thread blocked on `w` is ready again. -/
def State.wake (s : State) (c x : Nat) (w : Wait) : State :=
  if (s.ctx c x).wait = w then s.updCtx c x fun t => { t with wait := .none } else s

end Sys2Proof.Machine
end

