-- ==== Sys2Proof/Machine/Cache.lean ====
section
/-! DEFINITION. Retention hints and replacement (02 R35 to R38), and the L2 and fast tier of a home (02 R31 to R33).
A level is a list of its lines, the most recently used first. -/

namespace Sys2Proof.Machine

/-- The last, that is the least recently used, line with property `p`. -/
def lruOf {α : Type} (p : α → Bool) : List α → Option α
  | [] => none
  | a :: r => match lruOf p r with
    | some b => some b
    | none => if p a then some a else none

/-- The least recently used sticky line of a set becomes ordinary when the limit of sticky ways is reached
(02 R38). -/
def stickyRoom {α : Type} [DecidableEq α] (hint : α → Nat) (setHint : α → Nat → α) (inSet : α → Bool) (limit : Nat)
    (l : List α) : List α :=
  if (l.filter fun a => inSet a && hint a == 2).length < limit then l
  else match lruOf (fun a => inSet a && hint a == 2) l with
    | some v => l.map fun a => if a = v then setHint a 0 else a
    | none => l

/-- A hit (02 R36): the hint is written and the line becomes the most recently used, but for `.strm` and `.byp`. -/
def touchLine {α : Type} [DecidableEq α] (hint : α → Nat) (setHint : α → Nat → α) (inSet : α → Bool) (limit : Nat)
    (h : Nat) (a : α) (l : List α) : List α :=
  if h = 3 then l
  else
    let l1 := if h = 2 && hint a != 2 then stickyRoom hint setHint inSet limit l else l
    let b := setHint a h
    if h = 1 then l1.map fun x => if x = a then b else x
    else b :: l1.filter fun x => x != a

/-- The line that a fill of a full set replaces (02 R37). -/
def victimOf {α : Type} (hint : α → Nat) (inSet : α → Bool) (ways : Nat) (l : List α) : Option α :=
  if (l.filter inSet).length < ways then none
  else match lruOf (fun a => inSet a && hint a == 1) l with
    | some v => some v
    | none => match lruOf (fun a => inSet a && hint a == 0) l with
      | some v => some v
      | none => lruOf inSet l

/-- A new line enters its set; the line it replaces is answered (02 R35, R37, R38). -/
def insertLine {α : Type} [DecidableEq α] (hint : α → Nat) (setHint : α → Nat → α) (inSet : α → Bool)
    (ways limit : Nat) (a : α) (l : List α) : List α × Option α :=
  let l1 := if hint a = 2 then stickyRoom hint setHint inSet limit l else l
  let v := victimOf hint inSet ways l1
  let l2 := match v with
    | some x => l1.filter fun y => y != x
    | none => l1
  (if hint a = 1 then l2 ++ [a] else a :: l2, v)

/-- A line of a home level with its hint changed. -/
def CLine.withHint (c : CLine) (h : Nat) : CLine := { c with hint := h }

/-- The home slice of a local line (01 R16). -/
def sliceOf (line : Nat) : Nat :=
  bitsOf line 5 0 ^^^ bitsOf line 11 6 ^^^ bitsOf line 17 12 ^^^ bitsOf line 23 18 ^^^ bitsOf line 29 24
/-- The stone of a local line. -/
def stoneOf (line : Nat) : Nat := line / 16384
/-- The vault of a local line. -/
def vaultOf (line : Nat) : Nat := stoneOf line % 64

/-- The set of a line in its L2 slice: the 3,968 KiB that a slice has for lines are 1,984 sets of 16 lines (02 R29, R30). -/
def l2Set (line : Nat) : Nat := Config.l2Index line % 1984
/-- The set of a line in its fast-tier slice: 96 MiB are 49,152 sets of 16 lines (02 R29). -/
def fastSet (line : Nat) : Nat := Config.fastIndex line % 49152
/-- Does a line of the L2 fall in the set of line `a`? -/
def inL2Set (a : Nat) (c : CLine) : Bool := l2Set c.line == l2Set a
/-- Does a line of the fast tier fall in the set of line `a`? -/
def inFastSet (a : Nat) (c : CLine) : Bool := fastSet c.line == fastSet a

/-- Has the vault of a line failed (17 R365)? -/
def State.vaultFailed (s : State) (line : Nat) : Bool := s.svc.failed.contains (vaultOf line)

/-- A write to a failed vault, or a near-bank command to one of its stones, is dropped with an error record (17 R365). -/
def State.vaultDropped (s : State) (line : Nat) : State :=
  s.report
    { org := ⟨s.cubeId * 256, 0, 0⟩, source := 4, code := Cause.poison.code, space := 0, addr := 0, hcube := s.cubeId,
      local_ := line * 128, ident := 0, detail := 0 }

/-- A line is written to its vault's fast or dense tier, or dropped. -/
def State.vaultPut (s : State) (line : Nat) (d : List Byte) : State :=
  if s.vaultFailed line then s.vaultDropped line else s.setDenseLine line d

/-- The current contents of a line at its home: the L2, else the fast tier, else the dense tier (02 R31). -/
def State.homeLine (s : State) (line : Nat) : List Byte :=
  match (s.slice (sliceOf line)).l2.find? fun c => c.line == line with
  | some c => c.data
  | none => match (s.slice (vaultOf line)).fast.find? fun c => c.line == line with
    | some c => c.data
    | none => s.denseLine line

/-- A line enters the fast tier; a dirty line it replaces goes to the dense tier (02 R32). -/
def State.fastInsert (s : State) (c : CLine) : State :=
  let v := vaultOf c.line
  let r := insertLine CLine.hint CLine.withHint (inFastSet c.line) 16 12 c
    ((s.slice v).fast.filter fun x => x.line != c.line)
  let s1 := s.updSlice v fun k => { k with fast := r.1 }
  match r.2 with
  | some x => if x.dirty then s1.vaultPut x.line x.data else s1
  | none => s1

/-- A line enters the L2; a dirty line it replaces is written to the fast tier (02 R32). DESIGN CHOICE (notes/assumptions/107):
there it stands with hint `dflt` as the most recently used line, also in place of an older fast-tier copy of the line. -/
def State.l2Insert (s : State) (c : CLine) : State :=
  let v := sliceOf c.line
  let r := insertLine CLine.hint CLine.withHint (inL2Set c.line) 16 12 c
    ((s.slice v).l2.filter fun x => x.line != c.line)
  let s1 := s.updSlice v fun k => { k with l2 := r.1 }
  match r.2 with
  | some x =>
    if !x.dirty then s1
    else if s.vaultFailed x.line then s1.vaultDropped x.line
    else s1.fastInsert { x with hint := 0 }
  | none => s1

/-- A home access with hint `h` passes the levels (02 R31, R36): hits are touched, and a line that misses is filled
into the fast tier and the L2 unless the hint is `.byp`. -/
def State.homeTouch (s : State) (line h : Nat) : State :=
  let k := s.slice (sliceOf line)
  match k.l2.find? fun c => c.line == line with
  | some c => s.updSlice (sliceOf line) fun k =>
      { k with l2 := touchLine CLine.hint CLine.withHint (inL2Set line) 12 h c k.l2 }
  | none =>
    let f := s.slice (vaultOf line)
    match if s.vaultFailed line then none else f.fast.find? fun c => c.line == line with
    | some c =>
      let s1 := s.updSlice (vaultOf line) fun k =>
        { k with fast := touchLine CLine.hint CLine.withHint (inFastSet line) 12 h c k.fast }
      if h = 3 then s1 else s1.l2Insert { line := line, dirty := false, hint := h, data := c.data }
    | none =>
      if h = 3 || s.vaultFailed line then s
      else
        let c : CLine := { line := line, dirty := false, hint := h, data := s.denseLine line }
        (s.fastInsert c).l2Insert c

/-- The line's contents replaced where it stands highest: there it is dirty; a line in no level is written in the
dense tier (02 R31, R32), but for a failed vault. -/
def State.homePut (s : State) (line : Nat) (d : List Byte) : State :=
  let put (c : CLine) : CLine := if c.line = line then { c with data := d, dirty := true } else c
  if (s.slice (sliceOf line)).l2.any fun c => c.line == line then
    s.updSlice (sliceOf line) fun k => { k with l2 := k.l2.map put }
  else if s.vaultFailed line then s.vaultDropped line
  else if (s.slice (vaultOf line)).fast.any fun c => c.line == line then
    s.updSlice (vaultOf line) fun k => { k with fast := k.fast.map put }
  else s.setDenseLine line d

/-- Bytes written at a local offset inside one line. -/
def State.homeWrite (s : State) (local_ : Nat) (d : List Byte) : State :=
  s.homePut (local_ / 128) (overlay (s.homeLine (local_ / 128)) (local_ % 128) d)

/-- Bytes read at a local offset inside one line. -/
def State.homeBytes (s : State) (local_ n : Nat) : List Byte :=
  ((s.homeLine (local_ / 128)).drop (local_ % 128)).take n

/-- A line's dirty data goes to the dense tier and the line is clean in both levels, or dropped
(12 Table 12.2; 02 R32). -/
def State.cleanLine (s : State) (line : Nat) (drop : Bool) : State :=
  let dirty := ((s.slice (sliceOf line)).l2.any fun c => c.line == line && c.dirty)
    || ((s.slice (vaultOf line)).fast.any fun c => c.line == line && c.dirty)
  let s1 := if dirty then s.vaultPut line (s.homeLine line) else s
  let f (l : List CLine) : List CLine :=
    if drop then l.filter fun c => c.line != line
    else l.map fun c => if c.line = line then { c with dirty := false, data := s.homeLine line } else c
  (s1.updSlice (sliceOf line) fun k => { k with l2 := f k.l2 }).updSlice (vaultOf line)
    fun k => { k with fast := f k.fast }

/-- A line is dropped from the L2 and the fast tier, a dirty value with it (02 R33, R56). -/
def State.dropLine (s : State) (line : Nat) : State :=
  (s.updSlice (sliceOf line) fun k => { k with l2 := k.l2.filter fun c => c.line != line }).updSlice (vaultOf line)
    fun k => { k with fast := k.fast.filter fun c => c.line != line }

/-! Poison (16 R343, 12 R242): a poisoned line keeps the mask of the words not written since. -/

/-- Is the line poisoned? A read of a failed vault finds poison (17 R365). -/
def State.poisoned (s : State) (line : Nat) : Bool :=
  tblGet s.poison line 0 != 0
    || (s.vaultFailed line && !((s.slice (sliceOf line)).l2.any fun c => c.line == line))
/-- A line becomes poisoned. -/
def State.setPoison (s : State) (line : Nat) : State := { s with poison := tblSet s.poison line (2 ^ 32 - 1) }
/-- Words written: the line is unpoisoned once all have been. -/
def State.unpoison (s : State) (line mask : Nat) : State :=
  let m := tblGet s.poison line 0
  if m = 0 then s
  else
    let m' := m - (m &&& mask)
    { s with poison := if m' = 0 then tblDel s.poison line else tblSet s.poison line m' }

/-- Words [first:last] of a line, as a mask, for `n` bytes at byte `b` of the line. -/
def wordMask (b n : Nat) : Nat := (2 ^ ((b % 128 + n + 3) / 4) - 1) - (2 ^ (b % 128 / 4) - 1)

/-- The words of a mask that `n` bytes at byte `b` cover wholly. -/
def fullMask (b n : Nat) : Nat :=
  let lo := (b % 128 + 3) / 4
  let hi := (b % 128 + n) / 4
  if lo < hi then (2 ^ hi - 1) - (2 ^ lo - 1) else 0

end Sys2Proof.Machine
end

