-- ==== Sys2Proof/Machine/MapUnit.lean ====
section
/-! DEFINITION. The address map (01 R11 to R22): region slots, the cube list, the home of a physical address, and the
map operations. -/

namespace Sys2Proof.Machine

/-- Slot `k` of the map. -/
def State.slot (s : State) (k : Nat) : Slot := tblGet s.map k {}
/-- Slot `k` replaced. -/
def State.setSlot (s : State) (k : Nat) (d : Slot) : State := { s with map := tblSet s.map k d }

/-- The words D0 to D2 of a descriptor (01 Table 1.1). -/
def Slot.words (d : Slot) : Nat × Nat × Nat :=
  (putBits d.base 12 40,
   putBits d.wmark 0 41,
   putBits d.state 62 2 + putBits d.version 58 4 + putBits (b2n d.moving) 57 1 + putBits d.partner 51 6
     + putBits d.n 44 7 + putBits d.list 36 8 + putBits d.gran 31 5 + putBits d.size 25 6 + putBits d.lbase 0 25)

/-- The descriptor staged in three words; WMARK and MOVING are read-only. -/
def Slot.ofWords (w0 w2 : Nat) : Slot :=
  { state := bitsOf w2 63 62, version := bitsOf w2 61 58, moving := false, partner := bitsOf w2 56 51,
    n := bitsOf w2 50 44, list := bitsOf w2 43 36, gran := bitsOf w2 35 31, size := bitsOf w2 30 25,
    lbase := bitsOf w2 24 0, wmark := 0, base := bitsOf w0 51 12 }

/-- Does a slot serve lookups? -/
def Slot.serves (d : Slot) : Bool := d.state == 1 || d.state == 2

/-- Does a slot's region hold a physical address? -/
def Slot.holds (d : Slot) (pa : Nat) : Bool :=
  decide (d.base * 4096 ≤ pa) && decide (pa < d.base * 4096 + 2 ^ d.size)

/-- The slot that serves a physical address (01 R16). -/
def lookupSlot (m : Tbl Slot) (pa : Nat) : Option (Nat × Slot) := m.find? fun e => e.2.serves && e.2.holds pa

/-- Where a physical address lives: its home cube, local offset, the region's version, whether it is held, and the
granule size of the layout used. -/
structure Place where
  cube : Nat
  local_ : Nat
  ver : Nat
  held : Bool
  gran : Nat

/-- `layout` of 01 R16. -/
def State.layout (s : State) (pa : Nat) : Option Place :=
  match lookupSlot s.map pa with
  | none => none
  | some (_, d0) =>
    let off := pa - d0.base * 4096
    let d := if d0.state = 2 && decide (d0.wmark * 2 ^ d0.gran ≤ off) then s.slot d0.partner else d0
    let idx := off / 2 ^ d.gran
    some { cube := tblGet s.cubeList (d.list + idx % d.n) 0,
           local_ := d.lbase * 4096 + (idx / d.n) * 2 ^ d.gran + off % 2 ^ d.gran,
           ver := d0.version,
           held := d0.state == 2 && d0.moving && off / 2 ^ d0.gran == d0.wmark,
           gran := d.gran }

/-- The refusal of a descriptor that is to be installed (01 R13), apart from the state of other slots; 0 when none. Where several
conditions fail, ERR tells the first of BAD_STATE, BAD_FIELD, LIST_RANGE, EXTENT and OVERLAP (DESIGN CHOICE, log entry 110). -/
def Slot.refusal (d : Slot) : Nat :=
  if d.gran < 12 || 30 < d.gran || d.size < d.gran || 52 < d.size || d.n < 1 || 64 < d.n
      || d.base * 4096 % 2 ^ d.size != 0 || d.lbase * 4096 % 2 ^ d.gran != 0 then 1
  else if 256 < d.list + d.n then 6
  else if 0x1800000000 < d.lbase * 4096 + ceilDiv (2 ^ (d.size - d.gran)) d.n * 2 ^ d.gran then 5
  else 0

/-- Do two regions overlap? -/
def Slot.overlaps (a b : Slot) : Bool :=
  decide (a.base * 4096 < b.base * 4096 + 2 ^ b.size) && decide (b.base * 4096 < a.base * 4096 + 2 ^ a.size)

/-- Does a descriptor overlap a serving slot other than `k` and `p`? -/
def State.overlapsAny (s : State) (d : Slot) (k p : Nat) : Bool :=
  s.map.any fun e => e.1 != k && e.1 != p && e.2.serves && e.2.overlaps d

/-- Granules of the layout. -/
def Slot.granules (d : Slot) : Nat := 2 ^ (d.size - d.gran)

/-- MAP_SEL.INDEX. -/
def State.mapIndex (s : State) : Nat := bitsOf s.regs.mapSel.toNat 7 0
/-- MAP_STAT.ERR is set. -/
def State.mapErr (s : State) (e : Nat) : State := { s with regs := { s.regs with mapErr := e } }
/-- The staging words are set. -/
def State.setStage (s : State) (w : Nat × Nat × Nat) : State :=
  { s with regs := { s.regs with
      mapD0 := BitVec.ofNat 64 w.1, mapD1 := BitVec.ofNat 64 w.2.1, mapD2 := BitVec.ofNat 64 w.2.2 } }
/-- The staged descriptor. -/
def State.staged (s : State) : Slot := Slot.ofWords s.regs.mapD0.toNat s.regs.mapD2.toNat
/-- A slot operation: an index of 64 or above is refused with BAD_FIELD. -/
def State.slotOp (s : State) (f : Nat → State) : State :=
  if s.mapIndex < 64 then f s.mapIndex else s.mapErr 1

/-- MAP_CMD READ (01 Table 1.3). -/
def doMapRead (s : State) : State := s.slotOp fun k => (s.setStage (s.slot k).words).mapErr 0

/-- MAP_CMD WRITE (01 Table 1.3, R13). -/
def doMapWrite (s : State) : State :=
  s.slotOp fun k =>
    let d := s.staged
    if (s.slot k).state ≥ 2 || d.state ≥ 2 then s.mapErr 3
    else if d.state = 0 then (s.setSlot k d).mapErr 0
    else if d.refusal != 0 then s.mapErr d.refusal
    else if s.overlapsAny d k k then s.mapErr 2
    else (s.setSlot k d).mapErr 0

/-- MAP_CMD BEGIN (01 Table 1.3, R13). -/
def doMapBegin (s : State) : State :=
  s.slotOp fun k =>
    let d := s.staged
    let p := s.slot d.partner
    if (s.slot k).state != 0 || p.state != 1 || p.base != d.base || p.size != d.size || d.partner = k then s.mapErr 3
    else if d.refusal != 0 then s.mapErr d.refusal
    else if s.overlapsAny d k d.partner then s.mapErr 2
    else
      ((s.setSlot d.partner { p with state := 3 }).setSlot k
        { d with state := 2, version := (p.version + 1) % 16, wmark := 0, moving := false }).mapErr 0

/-- MAP_CMD STEP (01 Table 1.3). -/
def doMapStep (s : State) : State :=
  s.slotOp fun k =>
    let d := s.slot k
    if d.state != 2 || !s.hold.isEmpty || d.wmark = d.granules then s.mapErr 3
    else (s.setSlot k { d with wmark := d.wmark + 1, moving := false }).mapErr 0

/-- MAP_CMD FINISH (01 Table 1.3). -/
def doMapFinish (s : State) : State :=
  s.slotOp fun k =>
    let d := s.slot k
    if d.state != 2 then s.mapErr 3
    else if d.wmark < d.granules || d.moving then s.mapErr 4
    else
      ((s.setSlot d.partner { s.slot d.partner with state := 0 }).setSlot k
        { d with state := 1, version := (d.version + 1) % 16 }).mapErr 0

/-- MAP_CMD LIST_READ (01 Table 1.3). -/
def doMapListRead (s : State) : State :=
  let w := setFld s.regs.mapD0 11 0 (tblGet s.cubeList s.mapIndex 0)
  { s with regs := { s.regs with mapD0 := w } }.mapErr 0

/-- MAP_CMD LIST_WRITE (01 Table 1.3). -/
def doMapListWrite (s : State) : State :=
  let k := s.mapIndex
  if s.map.any fun e => e.2.state != 0 && decide (e.2.list ≤ k) && decide (k < e.2.list + e.2.n) then s.mapErr 3
  else { s with cubeList := tblSet s.cubeList k (bitsOf s.regs.mapD0.toNat 11 0) }.mapErr 0

/-- The number of versions by which the receiver is newer (01 R18), modulo 16. -/
def verDiff (mine theirs : Nat) : Nat := (mine + 16 - theirs % 16) % 16

end Sys2Proof.Machine
end

