-- ==== Sys2Proof/Machine/Net.lean ====
section
/-! DEFINITION. Sending: how a message reaches the unit it is for, in this cube as a step that becomes due, and on
another cube as a packet of the end-to-end unit (03 R65; 06 R124, R125, R135). -/

namespace Sys2Proof

/-- Cube of an agent. -/
def Agent.cube (a : Agent) : Nat := a.core / 256

end Sys2Proof

namespace Sys2Proof.Machine

/-- SAG of an agent (06 Table 6.9). -/
def sagOf (a : Agent) : Nat :=
  match a.kind with
  | .thread => bitsOf a.core 7 4
  | .streamer => 0x10 + a.idx % 64
  | .home => 0x50 + a.idx % 64
  | .engine => 0x90 + a.idx % 4
  | .taskUnit => 0x94
  | .walker => 0x95
  | .host => 0x96
  | .unit => if a.idx = 255 then 0x97 else if a.idx = 254 then bitsOf a.core 7 4 else 0x98 + a.idx % 64

/-- A core's own machinery as an agent: write-backs, save images, error records. -/
def coreAgent (gcore : Nat) : Agent := { kind := .unit, core := gcore, idx := 254 }

/-- The router and end-to-end unit as an agent. -/
def routerAgent (cube : Nat) : Agent := { kind := .unit, core := cube * 256, idx := 255 }

/-- Is a request a copy read or write (14 R295; 15 R325)? -/
def isCopy (r : Req) : Bool :=
  (r.who.kind == .streamer || r.who.kind == .engine) && match r.act with
    | .load .. | .store .. => true
    | _ => false

/-- Element type code of an atomic in AUX (06 R124). -/
def elemCode : Ty → Nat
  | .i32 => 0 | .n32 => 1 | .i64 => 2 | .n64 => 3 | .f32 => 4 | .bf16 => 5
  | _ => 7

/-- OP of a request (06 Table 6.4). -/
def actOp : Act → Nat
  | .load .. | .store .. | .fetch | .maint .. | .translate _ => 1
  | .wb .. => 13
  | .notice rd _ => if rd then 0x10 else 0x11
  | .atomic op .. => 0x20 + op
  | .counter op _ => 0x30 + (if op = 3 then 3 else if op = 4 then 2 else op)
  | .watch _ | .unwatch _ => 0x34
  | .nb c => 0x40 + c.kind
  | .red rop .. => 0x60 + rop

/-- OP of a message (06 Table 6.4, 14 Table 14.2); 0 for those to which the spec gives none (log entry 122). -/
def msgOp : Msg → Nat
  | .req r => if isCopy r then (match r.act with
      | .load .. => 0x51
      | _ => 0x52) else actOp r.act
  | .fill _ => 2 | .data _ => 3 | .grant _ => 4 | .ackWt _ => 5 | .nocache _ => 6
  | .inv _ => 7 | .invAck _ => 8 | .fwdRead .. => 9 | .fwdOwn .. => 10 | .revoke _ => 11 | .revokeWb _ => 12
  | .wbAck _ => 14 | .rwbData .. => 15
  | .check _ => 0x12 | .checkAnswer _ => 0x13 | .tagfree .. => 0x14
  | .satisfied .. | .dropped .. => 0x35
  | .copyCmd _ => 0x50 | .copyRead _ => 0x51 | .copyWrite _ => 0x52
  | .task t => if t.job then 0x54 else 0x53
  | .migrate _ => 0x55
  | .arrival _ a => if a.kind = 1 then 0x5C else if a.kind = 2 then 0x57 else 0x55
  | .row _ => 0x56 | .launch _ => 0x58 | .follow _ => 0x59 | .dirVal _ => 0x5A
  | .mcast _ => 0x67
  | .query q => if q.near then 0x43 else 0x5B
  | _ => 0

/-- Ordering class of a message (06 Table 6.6). -/
def msgCls : Msg → Nat
  | .req r => match r.act with
    | .red .. => 1
    | _ => if isCopy r then 1 else 0
  | .query q => if q.near then 0 else 1
  | .copyRead _ | .copyWrite _ | .copyCmd _ | .follow _ | .task _ | .migrate _ | .arrival .. | .row _ | .dirVal _ | .launch _
  | .mcast _ => 1
  | .done .. => 1
  | .errItem _ | .checkAnswer _ | .remoteLost .. => 2
  | _ => 0

/-- The step that a message makes due at the unit it is for. -/
def msgEvent : Msg → Option Ev
  | .req r => some <| match r.act with
    | .wb .. => .wb r
    | .atomic .. => .atomicAtHome r
    | .counter .. => .counterOpAtHome r
    | .watch _ | .unwatch _ => .watchRegistration r
    | .notice rd _ => if rd then .regionReadNotice r else .regionNotice r
    | .red .. => .redApply r
    | .nb c => .nbCommandAccept r c
    | .load .. => if isCopy r then .copyRead { who := r.who, id := r.id, req := some r } else .req r
    | .store .. => if isCopy r then .copyWrite { who := r.who, id := r.id, req := some r } else .req r
    | _ => .req r
  | .fill a => some (.fill a)
  | .data a => some (.data a)
  | .grant a => some (.grant a)
  | .ackWt a => some (.ackWt a)
  | .nocache a => some (.nocache a)
  | .inv m => some (.inv m)
  | .invAck m => some (.invAck m)
  | .fwdRead m r => some (.fwdRead m r)
  | .fwdOwn m r => some (.fwdOwn m r)
  | .revoke m => some (.revoke m)
  | .revokeWb m => some (.revokeWb m)
  | .rwbData m v => some (.rwbData m v)
  | .wbAck m => some (.wbAck m)
  | .nack n => some (.nack n)
  | .satisfied w i v => some (.satisfied w i v)
  | .dropped w i => some (.dropped w i)
  | .check c => some (.check c)
  | .checkAnswer c => some (.checkAnswer c)
  | .tagfree c l => some (.tagfree c l)
  | .holdTransfer m => some (.holdTransferInstall m)
  | .holdComplete r => some (.holdComplete r)
  | .lineInstall m => some (.pmoveLineInstall m)
  | .lineConfirm r => some (.pmoveLineConfirm r)
  | .frameZero r => some (.frameZeroReport r)
  | .launch m => some (.launchWake m)
  | .exitNote e => some (.exitNotice e)
  | .arrival c a => some (.inboxArrival c a)
  | .migrate m => some (.migratingContextArrival (some m))
  | .task t => some (.taskAdmission 0 (some t))
  | .mcast m => some (.mcast m 0 false)
  | .query q => some (if q.near then .nbStatQuery q else .cpystatQuery q)
  | .row r => some (.drainRow r)
  | .dirVal d => some (.directedAtomicValue d)
  | .copyCmd c => some (.copyCommand c)
  | .follow m => some (.followOnMma (m.core % 256) (some m))
  | .copyRead c => some (.copyRead c)
  | .copyWrite c => some (.copyWrite c)
  | .errItem e => some (.errorRecordItem e)
  | .susp m => some (.suspensionRequest m)
  | .hostLost m k r => some (.remoteLostAtHome m k r)
  | .done .. | .remoteLost .. | .job _ | .retAck | .mcAck _ | .mcNack _ | .none => none

/-- The version, physical address, AGE and attributes that a request's header carries (06 Table 6.2). -/
def msgReq : Msg → Option Req
  | .req r => some r
  | _ => none

/-- Words of a mask, lowest first. -/
def maskWords (m : Nat) : List Nat := (countUp 0 32).filter fun i => bitOf m i

/-- Body flits of a message: what it carries, in flits of 32 bytes, at most 8 (06 R124). -/
def msgLen (m : Msg) : Nat :=
  let line (a : Ans) : Nat := if a.data.isEmpty || decide ((maskWords a.mask).length ≤ 1) then 1 else 5
  match m with
  | .req r => match r.act with
    | .store _ _ d => min 8 (ceilDiv d.length 32)
    | .atomic .. => ceilDiv r.others.length 4
    | .red .. => 8
    | .wb .. => 5
    | .nb _ => 2
    | _ => 0
  | .fill a | .data a | .grant a | .nocache a => line a
  | .tagfree .. => 2
  | .holdTransfer _ | .lineInstall _ | .task _ | .copyCmd _ | .launch _ => 4
  | .migrate _ => 5
  | .arrival _ a => 1 + ceilDiv a.len 32
  | .row r => min 8 (ceilDiv r.data.length 32)
  | .mcast _ | .copyWrite _ => 8
  | .errItem _ | .job _ | .susp _ => 2
  | .fwdRead .. | .fwdOwn .. | .rwbData .. | .holdComplete _ | .lineConfirm _ | .frameZero _ | .done .. | .query _
  | .copyRead _ | .follow _ | .dirVal _ | .exitNote _ => 1
  | _ => 0

/-- Bit of a contribution in its stream's mask, and of those merged into it. -/
def redMask (r : Req) : Nat :=
  r.others.foldl (fun m e => m ||| 2 ^ e.bit) (match r.act with
    | .red _ _ c _ => 2 ^ c
    | _ => 0)

/-- OPX and AUX of a request (06 Table 6.3, R127). -/
def reqFields (r : Req) : Nat × Nat :=
  match r.act with
  | .atomic _ _ ty v _ _ _ => (v, elemCode ty * 2 ^ 10 + r.mflags * 2 ^ 5 + r.others.length)
  | .counter _ v => (v, 0)
  | .watch t => (t, 0)
  | .notice _ w => (b2n w * 2 ^ 63 + r.tag, 0)
  | .red _ stream _ _ => (r.mflags * 2 ^ 59 + redMask r, stream)
  | _ => (0, 0)

/-- Code of a status in OPX[7:0] (06 Table 6.3). -/
def Status.opx : Status → Nat
  | .ok => 0
  | .fail c _ _ => c % 256

/-- OPX of an answer: the status, and TAG_SET in bit 9 (06 Table 6.3, R127). -/
def msgOpx : Msg → Nat
  | .fill a | .data a | .grant a | .ackWt a | .nocache a => (if a.tagSet = 0 then 0 else 512) + Status.opx a.st
  | .done _ _ _ st => Status.opx st
  | .checkAnswer c => 512 * b2n c.live
  | _ => 0

/-- Packet type of a request that carries a message (06 Table 6.3). -/
def msgPt : Msg → Nat
  | .req r => match r.act with
    | .red .. => 4
    | _ => 0
  | .mcast _ => 5
  | .errItem _ => 1
  | _ => 0

/-- A packet for a message (06 Table 6.2). Where the spec gives the layout of no body, the body is held as the message it
stands for. -/
def State.packetFor (s : State) (pt cls dst seq : Nat) (who : Agent) (m : Msg) : Packet :=
  let r := msgReq m
  let f := (r.map reqFields).getD (msgOpx m, 0)
  { at_ := s.leaseNow, pt := pt, cls := cls, hop := 0, len := msgLen m, dst := dst, src := s.cubeId, sag := sagOf who,
    seq := seq, ver := (r.map fun r => r.ver).getD 0, tr := (r.map fun r => r.exp.isSome).getD false,
    age := (r.map fun r => r.age).getD 0, rty := false,
    mrg := match r with
      | some r => match r.act with
        | .atomic _ _ _ _ _ mg _ => mg
        | _ => false
      | none => false,
    op := msgOp m, pin := (r.map fun r => r.pin).getD false, pa := (r.map fun r => r.pa).getD 0, opx := f.1, aux := f.2,
    contribs := (r.map fun r => r.others).getD [], msg := m, good := true }

/-- Key of a destination and class in the tables of the end-to-end unit. -/
def e2eKey (dst cls : Nat) : Nat := dst * 4 + cls

/-- Requests to a destination in a class that are not acknowledged (06 R135). -/
def Fabric.outstanding (f : Fabric) (dst cls : Nat) : Nat :=
  (f.outs.filter fun o => o.dest == dst && o.cls == cls).length

/-- The retry timer in lease counts; 0 is treated as 10,000 (06 Table 6.5). -/
def Fabric.timerCounts (f : Fabric) : Nat := if f.timer = 0 then 10000 else f.timer

/-- A request leaves with the next SEQ of its destination and class, is kept until it is answered, and its retry timer
starts (06 R135, R138). -/
def State.sendNow (s : State) (o : E2EOut) : State :=
  let f := s.fabric
  let seq := tblGet f.nextSeq (e2eKey o.dest o.cls) 0
  let p := { o.pkt with
    seq := seq, at_ := s.leaseNow
    age := if o.relay.isSome then min 2047 (o.pkt.age + (s.leaseNow - o.pkt.at_)) else o.pkt.age }
  let f1 := { f with
    nextSeq := tblSet f.nextSeq (e2eKey o.dest o.cls) ((seq + 1) % 2 ^ 24)
    outs := f.outs ++ [{ o with seq := seq, pkt := p, sent := s.leaseNow }] }
  ({ s with fabric := f1 }.emit (.packetForward none p)).later f.timerCounts (.retryTimeout o.dest o.cls seq s.leaseNow)

/-- With 1,024 outstanding for a destination and class a request waits (06 R135). -/
def State.sendTracked (s : State) (o : E2EOut) : State :=
  if 1024 ≤ s.fabric.outstanding o.dest o.cls then { s with fabric := { s.fabric with waiting := s.fabric.waiting ++ [o] } }
  else s.sendNow o

/-- The waits that R19 has made for the request in a message. -/
def msgWaits (m : Msg) : Nat := ((msgReq m).map fun r => r.waits).getD 0

/-- A message is sent to another cube as a request. -/
def State.sendRequest (s : State) (dst cls : Nat) (who : Agent) (id : Nat) (m : Msg) : State :=
  s.sendTracked
    { dest := dst, cls := cls, seq := 0, who := who, id := id, pkt := s.packetFor (msgPt m) cls dst 0 who m, waits := msgWaits m }

/-- A request that a stub sends on: its answer goes back to whom `r` came from (04 R93). -/
def State.sendRelay (s : State) (dst : Nat) (who : Agent) (r : Req) (m : Msg) : State :=
  let cls := msgCls m
  s.sendTracked
    { dest := dst, cls := cls, seq := 0, who := who, id := r.id, pkt := s.packetFor (msgPt m) cls dst 0 who m, waits := msgWaits m,
      relay := some r }

/-- Is the request in the record one of (destination, class, SEQ)? -/
def E2EOut.hit (dst cls seq : Nat) (o : E2EOut) : Bool := o.dest == dst && o.cls == cls && o.seq == seq

/-- An outstanding request is sent again under its SEQ, with RTY = 1; `timed` starts its timer anew (06 R138). -/
def State.resendAs (s : State) (dst cls seq : Nat) (timed : Bool) (m : Msg) : State :=
  let f := s.fabric
  let f1 := { f with outs := f.outs.map fun (o : E2EOut) => if o.hit dst cls seq then
    { o with
      pkt := { s.packetFor (msgPt m) cls dst seq o.who m with sag := o.pkt.sag, rty := true }
      sent := if timed then s.leaseNow else o.sent, paused := false } else o }
  match f1.outs.find? fun (o : E2EOut) => o.hit dst cls seq with
  | some o =>
    let s1 := { s with fabric := f1 }.emit (.packetForward none o.pkt)
    if timed then s1.later f.timerCounts (.retryTimeout dst cls seq s.leaseNow) else s1
  | none => s

/-- An answer packet (06 R135): it carries the SEQ of the request and is not tracked. The request is no longer open; what
a unit answers to a request that changes state, and a NACK, is kept for duplicates (06 R136). -/
def State.sendAnswer (s : State) (pt dst cls seq : Nat) (who : Agent) (m : Msg) (opx aux : Nat) : State :=
  let p := { s.packetFor pt 2 dst seq who m with opx := opx, aux := aux + cls, contribs := [] }
  let f := s.fabric
  let keep := f.open_.contains (dst, cls, seq) && match m with
    | .done .. => pt == 1
    | .data _ => pt == 1 && who.kind == .thread
    | .nack _ => pt == 3
    | _ => false
  let f1 := { f with
    open_ := f.open_.filter fun x => x != (dst, cls, seq)
    answered := if keep then f.answered ++ [{ src := dst, cls := cls, seq := seq, msg := m }] else f.answered }
  { s with fabric := f1 }.emit (.packetForward none p)

/-- A message goes to the unit of a cube that it is for: as a due step here, as a packet elsewhere; an item for an error
record travels on the RSP class and is not tracked (16 R342). -/
def State.post (s : State) (cube : Nat) (who : Agent) (id : Nat) (m : Msg) : State :=
  if cube = s.cubeId then
    match msgEvent m with
    | some e => s.emit e
    | none => s
  else if msgPt m = 1 then s.sendAnswer 1 cube 2 0 who m 0 0
  else s.sendRequest cube (msgCls m) who id m

/-- A failure for an issuer's error record is sent to its origin (16 R342). -/
def State.issuerItem (s : State) (e : ErrItem) : State :=
  s.post (e.org.core / 256) (coreAgent e.org.core) 0 (.errItem e)

/-- The agent that is home slice `k` of this cube. -/
def State.homeAgent (s : State) (line : Nat) : Agent := { kind := .home, core := s.cubeId * 256, idx := sliceOf line }

end Sys2Proof.Machine
end

