-- ==== Sys2Proof/Machine/Home.lean ====
section
/-! DEFINITION. The home slice: accepting requests (01 R18, 05 R108), race tracking (04 R84 to R87), the transitions of
03 Table 3.7, and migration counting (05 R113). -/

namespace Sys2Proof

/-- An answer to a request. -/
def Req.ans (r : Req) (st : Status) : Ans :=
  { who := r.who, id := r.id, st := st, mask := 0, data := [], dirty := 0, n := 0, value := 0, flags := 0,
    tagSet := r.tagSet }

/-- A failing answer. -/
def Req.fail (r : Req) (c : Machine.Cause) (i1 i2 : Nat) : Ans := r.ans (.fail c.code i1 i2)

/-- Who is answered for a request from another cube: its sender, and each contributor merged into it (01 R20, 06 R143). -/
def Req.sources (r : Req) (src cls seq : Nat) : List (Nat × Nat × Nat) :=
  (src, cls, seq) :: r.others.map fun e => (e.cube, e.cls, e.seq)

/-- The step of a request. -/
def Req.event (r : Req) : Ev := (Machine.msgEvent (.req r)).getD (.req r)

/-- The tags of an entry. -/
def RaceEnt.tags (e : RaceEnt) : List Nat := e.wtag.toList ++ e.rtags

/-- The tags that the check of a word installs beyond those the entry holds (04 R84, R87). -/
def RaceEnt.installs (e : RaceEnt) (tag : Nat) (write : Bool) : Nat :=
  if write then b2n (e.wtag != some tag) else b2n (!e.rtags.contains tag)

/-- A request carried in a step gains what a hold has learnt. -/
def Ev.withKnown (e : Ev) (l : List (Nat × Bool)) : Ev :=
  match e with
  | .req r => .req { r with known := r.known ++ l }
  | .regionReadNotice r => .regionReadNotice { r with known := r.known ++ l }
  | .regionNotice r => .regionNotice { r with known := r.known ++ l }
  | e => e

/-- The registrant or sharer that a request's agent is: its core and the space and line of its access. -/
def Req.holder (r : Req) : Option Machine.Ptr :=
  match r.who.kind with
  | .thread => some { host := false, agent := r.who.core, space := r.space, vline := r.va / 128 }
  | .unit => match r.act with
    | .wb .. => some { host := false, agent := r.who.core, space := r.space, vline := r.va / 128 }
    | _ => none
  | .host => some { host := true, agent := r.who.core, space := 0, vline := 0 }
  | _ => none

/-- Requested words of a request: those its agent asked for, else those its bytes lie in. -/
def Req.want (r : Req) (n : Nat) : Nat := if r.words = 0 then Machine.wordMask r.va n else r.words

end Sys2Proof

namespace Sys2Proof.Machine

/-! Requests and answers. -/

/-- A request of a unit to a physical address, without translation. -/
def unitReq (who : Agent) (pa : Nat) (act : Act) : Req :=
  { who := who, id := 0, org := { core := who.core, ctx := 0, start := 0 }, space := 0, va := 0, task := false,
    act := act, pa := pa }

/-- INFO2 of 04 R85: the home cube and the local offset. -/
def infoHome (cube local_ : Nat) : Nat := putBits cube 52 12 + putBits local_ 0 37

/-- OPX of a NACK (06 Table 6.3); of GAP, the expected SEQ is held where the version is. -/
def nackOpx (n : NackMsg) : Nat :=
  if n.reason = 8 then putBits 8 60 4 + n.ver % 2 ^ 24
  else putBits n.reason 60 4 + putBits n.ver 56 4 + (match n.hint with
    | some c => 2 ^ 55 + putBits c 43 12
    | none => 0)

/-- The answer of a home: to an agent of this cube a due step; to another cube, a RESP or, for the coherence messages,
an ACK of the request and the message itself (06 R137). -/
def State.answer (s : State) (r : Req) (resp : Bool) (m : Msg) : State :=
  match r.e2e with
  | none => match msgEvent m with
    | some e => s.emit e
    | none => s
  | some (src, cls, seq) =>
    let home := s.homeAgent (r.local_ / 128)
    if resp then (r.sources src cls seq).foldl (fun s e => s.sendAnswer 1 e.1 e.2.1 e.2.2 home m (msgOpx m) 0) s
    else (s.sendAnswer 2 src cls seq home .none 0 0).sendRequest src 0 home r.id m

/-- The answer of a request that returns nothing: to another cube, an ACK (06 R137). -/
def State.answerAck (s : State) (r : Req) (a : Ans) : State :=
  match r.e2e with
  | none => s.emit (.data a)
  | some (src, cls, seq) =>
    (r.sources src cls seq).foldl (fun s e => s.sendAnswer 2 e.1 e.2.1 e.2.2 (s.homeAgent (r.local_ / 128)) .none 0 0) s

/-- Where a request is to be performed: as the map says, or, of one that names this cube's local offset itself, there
(01 R17); past the 96 GiB of the cube nothing is. -/
def State.placeOf (s : State) (r : Req) : Option Place :=
  if r.direct then
    if r.pa < 0x1800000000 then some { cube := s.cubeId, local_ := r.pa, ver := r.ver, held := false, gran := 0 } else none
  else s.layout r.pa

/-- NACK-REDIRECT (01 R18, 06 Table 6.7), from the slice of the line that was asked for. -/
def State.nackReq (s : State) (r : Req) (reason ver : Nat) (hint : Option Nat) : State :=
  let n : NackMsg := { who := r.who, id := r.id, reason := reason, ver := ver, hint := hint }
  match r.e2e with
  | none => s.emit (.nack n)
  | some (src, cls, seq) =>
    let line := ((s.placeOf r).map fun p => p.local_ / 128).getD (r.pa / 128)
    (r.sources src cls seq).foldl (fun s e => s.sendAnswer 3 e.1 e.2.1 e.2.2 (s.homeAgent line) (.nack n) (nackOpx n) 0) s

/-- A response that is retained for retry (06 R137) when its requester is on another cube. -/
def State.answerRetained (s : State) (r : Req) (m : Msg) : State :=
  match r.e2e with
  | none => s.answer r true m
  | some (src, cls, seq) =>
    let f := s.fabric
    let e : Retained := { src := src, cls := cls, seq := seq, msg := m }
    { s with fabric := { f with retained := f.retained ++ [e] } }.sendAnswer 1 src cls seq (s.homeAgent (r.local_ / 128)) m (msgOpx m) 4

/-- Is the store of retained responses full for a request from another cube (06 R137)? -/
def State.retainFull (s : State) (r : Req) : Bool := r.e2e.isSome && decide (4096 ≤ s.fabric.retained.length)

/-- Is the response of a request retained: of a returning or `.dir` atomic, or a `cfadd` (06 R137)? -/
def retains : Act → Bool
  | .atomic _ form .. => form == 1 || form == 2
  | .counter op _ => op == 1
  | _ => false

/-- A request ends in failure: to its agent, a DATA answer with the status; to another cube, a RESP, retained where the response of
the request is. -/
def State.refuse (s : State) (r : Req) (c : Cause) (i1 i2 : Nat) : State :=
  if !retains r.act then s.answer r true (.data (r.fail c i1 i2))
  else if s.retainFull r then s.nackReq r 6 0 none
  else s.answerRetained r (.data (r.fail c i1 i2))

/-- A request is sent to the home of its physical address, as this cube's map resolves it (01 R16, R17); an address
in no region fails (01 R11). -/
def State.toHome (s : State) (r : Req) : State :=
  match s.layout r.pa with
  | none => s.emit (.data (r.fail .accessError 0 0))
  | some p =>
    let r1 := { r with ver := p.ver, cube := s.cubeId, at_ := s.leaseNow, age := 0, e2e := none, reseq := none, again := false }
    match r.reseq with
    | some (dst, cls, seq) =>
      if p.cube = dst then s.resendAs dst cls seq true (.req r1)
      else { s with fabric := { s.fabric with outs := s.fabric.outs.filter fun (o : E2EOut) => !o.hit dst cls seq } }.post p.cube r.who r.id (.req r1)
    | none => s.post p.cube r.who r.id (.req r1)

/-- A request is entered in the list of its agent's outstanding ones under a new number. -/
def State.newOut (s : State) (r : Req) (p : Purp) : Req × State :=
  let n := s.newId
  let r1 := { r with id := n.1 }
  (r1, { n.2 with outs := n.2.outs ++ [{ id := n.1, who := r.who, req := r1, purp := p }] })

/-- A request by physical address is sent and its answer awaited for `p`. -/
def State.requestPa (s : State) (r : Req) (p : Purp) : State :=
  let x := s.newOut r p
  x.2.toHome x.1

/-- A request by virtual address is handed to the section of its page (05 R95), and its answer awaited for `p`. -/
def State.requestVa (s : State) (r : Req) (p : Purp) : State :=
  let x := s.newOut r p
  x.2.emit (.sectionLookup x.1)

/-- The outstanding request of an agent. -/
def State.out (s : State) (who : Agent) (id : Nat) : Option Out := s.outs.find? fun o => o.id == id && o.who == who
/-- It ends. -/
def State.dropOut (s : State) (id : Nat) : State := { s with outs := s.outs.filter fun o => o.id != id }
/-- It is changed. -/
def State.updOut (s : State) (id : Nat) (f : Out → Out) : State :=
  { s with outs := s.outs.map fun o => if o.id = id then f o else o }

/-- The management target keeps the last 64 error records (17 R361). -/
def Service.keep (v : Service) (ws : List Nat) : Service :=
  { v with records := (v.records ++ [ws]).drop (v.records.length + 1 - 64), count := v.count + 1 }

/-! Words that units of the cube read (05 R98, R102, R114). -/

/-- The 4-byte value of a word at this home, when it lies here or in a core of this cube; none when another cube or the
host holds it. -/
def State.word32 (s : State) (local_ : Nat) : Option Nat :=
  let line := local_ / 128
  let w := local_ % 128 / 4
  let home := ofBytes (s.homeBytes (line * 128 + w * 4) 4)
  match ((s.slice (sliceOf line)).regs.find? fun g => g.line == line && g.word == w) with
  | none => some home
  | some g =>
    if g.host || g.agent / 256 ≠ s.cubeId then none
    else
      let k := s.core (g.agent % 256)
      let hit (l : NLine) : Bool := l.space == g.space && l.vline == g.vline && l.o.getLsbD w
      match (k.near ++ k.wbuf).find? hit with
      | some l => some (ofBytes ((l.data.drop (w * 4)).take 4))
      | none => some home

/-- What a unit learns of the 64-bit word at a physical address in the step itself: its value, that it cannot be read (its
line is poisoned, or it has no home), or that a request must bring it. -/
inductive Peek where
  | val (v : Nat)
  | bad
  | need
  deriving DecidableEq, Repr

/-- A burst of the vault, running or come before, holds back an ordinary request that needs its banks (08 R181): a line in
neither the L2 nor the fast tier. -/
def State.behindBurst (s : State) (line : Nat) : Bool :=
  ((tblGet s.vaults (vaultOf line) {}).fifo.any fun j => decide (j.st < 3) && j.status == 0)
    && !((s.slice (sliceOf line)).l2.any fun c => c.line == line) && !((s.slice (vaultOf line)).fast.any fun c => c.line == line)

/-- Does an access to a line of this cube have to wait, or to go elsewhere: its granule or the line is held, a stub stands
there, or a near-bank command or burst has the line (01 R18; 04 R92, R93; 08 R181)? -/
def State.lineBusy (s : State) (p : Place) : Bool :=
  let line := p.local_ / 128
  p.held || (s.holds.any fun h => h.line == line) || tblGet s.stubs line 0 != 0
    || (s.nbBusy.any fun b => decide (b.2.1 ≤ line) && decide (line ≤ b.2.2)) || s.behindBurst line

/-- A `wt` load at home of the word at a physical address (05 R102), made in the step when this cube holds the word and
nothing keeps the line. -/
def State.peek (s : State) (pa : Nat) : Peek :=
  match s.layout pa with
  | none => .bad
  | some p =>
    if p.cube ≠ s.cubeId || s.lineBusy p then .need
    else if s.poisoned (p.local_ / 128) then .bad
    else match s.word32 p.local_, s.word32 (p.local_ + 4) with
      | some x, some y => .val (x + 2 ^ 32 * y)
      | _, _ => .need

/-- The word as a unit has it from its own reads, else as it stands. -/
def State.peekKnown (s : State) (known : List (Nat × Option Nat)) (pa : Nat) : Peek :=
  match known.find? fun k => k.1 == pa with
  | some (_, some v) => .val v
  | some (_, none) => .bad
  | none => s.peek pa

/-- The load that brings a word. -/
def State.fetchWord (s : State) (who : Agent) (pa n : Nat) (p : Purp) : State :=
  s.requestPa { unitReq who pa (.load n 1 0) with va := pa, words := wordMask pa n, at_ := s.leaseNow } p

/-! Queues in memory (05 R114; 16 R341). -/

/-- LOG2N of a queue as it takes effect: 0 when out of range, BASE is not aligned to the ring or ADDR is malformed
(05 R114). `bytes` is log2 of the record size. -/
def queueLog (base ctl ctr : Word) (bytes : Nat) : Nat :=
  let n := fld ctl 4 0
  if 20 < n then 0
  else if (fld base 51 12 * 4096) % 2 ^ (n + bytes) != 0 then 0
  else if fld ctr 2 0 != 0 then 0
  else n

/-- A queue's effective LOG2N, its ring's address, its counter's address and its consumed count: 0 the migration queue,
1 the fault queue, 2 the error queue. -/
def Regs.queue (g : Regs) (q : Nat) : Nat × Nat × Nat × Nat :=
  let f (b c t n : Word) (k : Nat) : Nat × Nat × Nat × Nat := (queueLog b c t k, fld b 51 12 * 4096, fld t 51 3 * 8, n.toNat)
  match q with
  | 0 => f g.migqBase g.migqCtl g.migqCtr g.migqCons 5
  | 1 => f g.fltqBase g.fltqCtl g.fltqCtr g.fltqCons 6
  | _ => f g.errqBase g.errqCtl g.errqCtr g.errqCons 6

/-- The agent that writes a queue's records. -/
def State.queueAgent (s : State) (q : Nat) : Agent :=
  match q with
  | 0 => { kind := .home, core := s.cubeId * 256, idx := 0 }
  | 1 => { kind := .walker, core := s.cubeId * 256, idx := 0 }
  | _ => routerAgent s.cubeId

/-- Is a queue full at a produced count: as many records produced and not consumed as it has places? -/
def Regs.queueFull (g : Regs) (q produced : Nat) : Bool :=
  let r := g.queue q
  decide (2 ^ r.1 ≤ wrapN 64 ((produced : Int) - (r.2.2.2 : Int)))

/-- Where the record of a produced count stands. -/
def Regs.recordAt (g : Regs) (q produced bytes : Nat) : Nat :=
  let r := g.queue q
  r.2.1 + (produced % 2 ^ r.1) * bytes

/-- A record is written at home by `wt` stores; the produced counter rises by 1 once they are performed. -/
def State.appendRecord (s : State) (q produced : Nat) (ws : List Nat) : State :=
  let addr := s.regs.recordAt q produced (8 * ws.length)
  { s with queueBusy := q :: s.queueBusy.filter fun x => x != q }.requestPa
    { unitReq (s.queueAgent q) addr (.store 1 0 (bytesOfWords ws)) with va := addr } (.recordPut q)

/-- The words of the record of an item (16 Table 16.4). Context 99 stands for no issuing context. -/
def errWords (e : ErrItem) (norec : Bool) (lost time seqn : Nat) : List Nat :=
  queueRecord e.source e.code e.space e.addr e.hcube e.local_ e.ident e.detail e.org.core
    (if e.org.ctx = 99 then 0 else e.org.ctx) e.org.start norec lost time seqn

/-- The queue of a record. -/
def QItem.queue : QItem → Nat
  | .mig _ => 0
  | .err .. => 2

/-- A record is discarded, and counted: MIGQ_DROP, or LOST of the next error record (05 R114, 16 R341). -/
def State.itemLost (s : State) (i : QItem) (produced : Nat) : State :=
  let g := s.regs
  match i with
  | .mig _ => { s with regs := { g with migqDrop := g.migqDrop + 1#64 } }
  | .err e norec =>
    { s with
      regs := { g with errLost := min 65535 (g.errLost + 1) }
      svc := s.svc.keep (errWords e norec g.errLost s.leaseNow produced) }

/-- A record goes to its queue at a produced count: appended, or discarded when the queue is full. The management target
keeps a copy of an error record either way (17 R361). -/
def State.itemPut (s : State) (i : QItem) (produced : Nat) : State :=
  let g := s.regs
  if g.queueFull i.queue produced then s.itemLost i produced
  else match i with
    | .mig ws => s.appendRecord 0 produced (ws ++ [s.leaseNow])
    | .err e norec =>
      let ws := errWords e norec g.errLost s.leaseNow produced
      ({ s with regs := { g with errLost := 0 }, svc := s.svc.keep ws }.appendRecord 2 produced ws).sendMsix 0

/-- The turn of a record: its queue's produced count is looked at, or first read where another cube holds it. -/
def State.itemTurn (s : State) (i : QItem) : State :=
  let q := i.queue
  let r := s.regs.queue q
  if r.1 = 0 then match i with
    | .mig _ => s
    | .err .. => s.itemLost i 0
  else match s.peek r.2.2.1 with
    | .val v => s.itemPut i v
    | .bad => s.itemLost i 0
    | .need => { s with queueBusy := q :: s.queueBusy, queueWait := i :: s.queueWait }.fetchWord (s.queueAgent q) r.2.2.1 8 (.produced q)

/-- A record is to be appended: records of one queue follow one another. -/
def State.putItem (s : State) (i : QItem) : State :=
  if s.queueBusy.contains i.queue then { s with queueWait := s.queueWait ++ [i] } else s.itemTurn i

/-- The first record that waits for a queue, and the others. -/
def takeItem (q : Nat) : List QItem → Option (QItem × List QItem)
  | [] => none
  | i :: r => if i.queue = q then some (i, r) else (takeItem q r).map fun x => (x.1, i :: x.2)

/-- A queue takes records again; faults that wait look again (05 R118). -/
def State.queueFree (s : State) (q : Nat) : State :=
  let s1 := { s with queueBusy := s.queueBusy.filter fun x => x != q }
  if q = 1 && !s1.faultWait.isEmpty then s1.emit .faultWaitRetry else s1

/-- The records that wait for a queue take their turns until one is being appended; `n` bounds how many. -/
def State.drainQueue (s : State) (q : Nat) : Nat → State
  | 0 => s
  | n + 1 =>
    if s.queueBusy.contains q then s
    else match takeItem q s.queueWait with
      | none => s
      | some (i, r) => ({ s with queueWait := r }.itemTurn i).drainQueue q n

/-- The produced count that was read for a queue, none where the load failed. -/
def State.producedKnown (s : State) (q : Nat) (v : Option Nat) : State :=
  let s1 := { s with queueBusy := s.queueBusy.filter fun x => x != q }
  if q = 1 then
    match v with
    | some n => { s1 with fltNext := some n }.queueFree 1
    | none => s1
  else match takeItem q s1.queueWait with
    | none => s1
    | some (i, r) =>
      let s2 := { s1 with queueWait := r }
      let s3 := match v with
        | some n => s2.itemPut i n
        | none => s2.itemLost i 0
      s3.drainQueue q s3.queueWait.length

/-- The record stands in its ring: the counter is added to (05 R114). -/
def State.recordStored (s : State) (q : Nat) : State :=
  s.requestPa (unitReq (s.queueAgent q) ((s.regs.queue q).2.2.1) (.counter 0 1)) (.recordAdd q)

/-- The atomic that adds to the COUNT of a fault record. -/
def countUpReq (who : Agent) (record n : Nat) : Req :=
  { unitReq who (record + 16) (.atomic 0 0 .n64 n 0 false none) with va := record + 16, words := wordMask (record + 16) 8 }

/-- The counter has risen: the next record follows, and accesses that have joined the fault meanwhile are counted in its
record by an atomic at home (05 R115). -/
def State.recordDone (s : State) (q : Nat) : State :=
  let joined := s.faults.filter fun p => p.2.writing && decide (1 < p.2.count)
  let s1 := if q = 1 then
      joined.foldl (fun s p => s.requestPa
        (countUpReq (s.queueAgent 1) p.2.record (p.2.count - 1)) (.quiet 7 0))
        { s with faults := s.faults.map fun p => (p.1, { p.2 with writing := false }) }
    else s
  let s2 := s1.queueFree q
  s2.drainQueue q s2.queueWait.length

/-! Race tracking. -/

/-- Context part of a region tag: core and slot. -/
def tagCtx (t : Nat) : Nat := t / 65536
/-- Core of a region tag. -/
def tagCore (t : Nat) : Nat := t / 2 ^ 21
/-- Slot of a region tag. -/
def tagSlot (t : Nat) : Nat := bitsOf t 20 16

/-- The race-tracking entry of a word. -/
def Slice.race (k : Slice) (line word : Nat) : Option RaceEnt := k.races.find? fun e => e.line == line && e.word == word

/-- TAGFREE for tags dropped, one message for at most eight tags of one core (04 R87). -/
def State.tagFrees (s : State) (line : Nat) : List Nat → State
  | [] => s
  | t :: r => (s.post (tagCore t / 256) (s.homeAgent line) 0 (.tagfree (tagCore t) [t])).tagFrees line r

/-- Spill records and entries that the race-tracking entries of a slice take (04 R86): an entry beyond 16,384, and
each four readers beyond two. -/
def Slice.raceUse (k : Slice) : Nat :=
  (k.races.length - 16384) + (k.races.map fun e => (e.rtags.length - 2 + 3) / 4).foldl (· + ·) 0

/-- An entry is put back, or removed when it holds no tag. -/
def Slice.putRace (k : Slice) (e : RaceEnt) : Slice :=
  let others := k.races.filter fun x => !(x.line == e.line && x.word == e.word)
  if e.tags.isEmpty then { k with races := others } else { k with races := others ++ [e] }

/-- Is a tag known not to be live? -/
def deadTag (known : List (Nat × Bool)) (t : Nat) : Bool :=
  match known.find? fun k => k.1 == t with
  | some k => !k.2
  | none => false

/-- The outcome of the check of one word (04 R84): the entry as it will stand and the tags dropped from it, or the
conflicting live tag. `reader` and `writer` tell which kind of first access is checked. -/
def checkWord (e : RaceEnt) (tag : Nat) (write : Bool) (known : List (Nat × Bool)) :
    (RaceEnt × List Nat) ⊕ (Bool × Nat) :=
  let foreign (t : Nat) : Bool := tagCtx t != tagCtx tag
  let live (t : Nat) : Bool := foreign t && !deadTag known t
  match (if write then e.tags else e.wtag.toList).find? live with
  | some t => .inr (e.wtag == some t, t)
  | none =>
    let keep (t : Nat) : Bool := live t || t == tag
    let w := e.wtag.filter keep
    let rs := e.rtags.filter keep
    let gone := e.tags.filter fun t => !keep t
    if write then .inl ({ e with wtag := some tag, rtags := [] }, gone ++ rs)
    else .inl ({ e with wtag := w, rtags := if rs.contains tag then rs else rs ++ [tag] }, gone)

/-- A line is held until `n` messages have arrived; then `k` is performed before the steps that wait for the line. -/
def State.holdLine (s : State) (line n : Nat) (k : Ev) : State :=
  { s with holds := s.holds ++ [{ line := line, step := some k, acks := n, known := [], queue := [], near := false }] }

/-- The hold of a line. -/
def State.holdOf (s : State) (line : Nat) : Option Hold := s.holds.find? fun h => h.line == line

/-- A hold ends: its step and the steps that waited for the line become due first, in order. -/
def State.endHold (s : State) (line : Nat) : State :=
  match s.holdOf line with
  | none => s
  | some h =>
    { s with holds := s.holds.filter fun x => x.line != line }.emitFirst
      ((h.step.map fun (e : Ev) => e.withKnown h.known).toList ++ h.queue)

/-- One awaited message of a hold has arrived. -/
def State.holdAck (s : State) (line : Nat) (l : List (Nat × Bool)) : State :=
  match s.holdOf line with
  | none => s
  | some h =>
    let s1 := { s with holds := s.holds.map fun x =>
      if x.line = line then { x with acks := x.acks - 1, known := x.known ++ l } else x }
    if h.acks ≤ 1 then s1.endHold line else s1

/-- CHECK for each tag whose liveness is not known (04 R84). -/
def State.sendChecks (s : State) (line : Nat) : List Nat → State
  | [] => s
  | t :: r =>
    (s.post (tagCore t / 256) (s.homeAgent line) 0
      (.check { tag := t, home := s.cubeId, line := line, live := false })).sendChecks line r

/-- What the entries of the words of a request become, or the race found. -/
def checkWords (k : Slice) (line tag : Nat) (write : Bool) (known : List (Nat × Bool)) :
    List Nat → (List RaceEnt × List Nat × Nat) ⊕ (Nat × Bool × Nat)
  | [] => .inl ([], [], 0)
  | w :: r =>
    let e := (k.race line w).getD { line := line, word := w, wtag := none, rtags := [] }
    match checkWord e tag write known with
    | .inr (wrote, t) => .inr (w, wrote, t)
    | .inl (e1, gone) => match checkWords k line tag write known r with
      | .inr x => .inr x
      | .inl (es, g, n) => .inl (e1 :: es, gone ++ g, e.installs tag write + n)

/-- The race check of a request (04 R84 to R87): unknown tags are asked for, a conflict answers RACE; a tag that its context
cannot count answers REGION_OVERFLOW, and so does a full slice, after one pass of the sweep; else the tag is installed and the
request performed. -/
def State.raceGate (s : State) (r : Req) (line : Nat) (write : Bool) (k : Req → State → State) : State :=
  if !(r.readCk || r.writeCk) then k r s
  else
    let sl := s.slice (sliceOf line)
    let words := maskWords r.words
    let tags := (words.flatMap fun w => ((sl.race line w).map RaceEnt.tags).getD []).filter fun t =>
      tagCtx t != tagCtx r.tag && !(r.known.any fun x => x.1 == t)
    if !tags.isEmpty then (s.holdLine line tags.eraseDups.length r.event).sendChecks line tags.eraseDups
    else
      match checkWords sl line r.tag write r.known words with
      | .inr (w, wrote, t) =>
        s.refuse r .race (putBits (b2n wrote) 63 1 + putBits (b2n write) 62 1 + putBits t 0 41)
          (infoHome s.cubeId (line * 128 + w * 4))
      | .inl (es, gone, n) =>
        let sl1 := es.foldl Slice.putRace sl
        if r.room < n then s.refuse r .regionOverflow 1 0
        else if sl1.raceUse > 4096 && sl1.raceUse > sl.raceUse then
          if r.swept then s.refuse r .regionOverflow 0 0
          else s.updSlice (sliceOf line) fun k => { k with raceWait := k.raceWait ++ [{ r with swept := true }.event] }
        else ((s.updSlice (sliceOf line) fun _ => sl1).tagFrees line gone) |> k { r with tagSet := n, known := [] }

/-- CHECK at a core (04 R84): LIVE when the context's serial is the tag's. -/
def doCheck (c : CheckMsg) (s : State) : State :=
  let live := (s.ctx (tagCore c.tag % 256) (tagSlot c.tag)).serial.toNat == c.tag % 65536
  let a := { c with live := live }
  match c.e2e with
  | none => s.emit (.checkAnswer a)
  | some (src, cls, seq) =>
    s.sendAnswer 1 src cls seq { kind := .thread, core := tagCore c.tag, idx := 0 } (.checkAnswer { a with e2e := none })
      (512 * b2n live) 0

/-- The tags of a slice with property `p` are dropped with TAGFREE, and entries without a tag freed (04 R86). -/
def State.dropTags (s : State) (slice : Nat) (p : Nat → Bool) : State :=
  let k := s.slice slice
  let es := k.races.map fun e => { e with wtag := e.wtag.filter fun t => !p t, rtags := e.rtags.filter fun t => !p t }
  (s.updSlice slice fun k => { k with races := es.filter fun e => !e.tags.isEmpty }).tagFrees 0
    (k.races.flatMap fun e => e.tags.filter p)

/-- A pass of the sweep is over: the checks that waited for it are made again (04 R87). -/
def State.sweepDone (s : State) (slice : Nat) : State :=
  ((s.updSlice slice fun k => { k with raceNow := [], sweepLeft := 0 }).emits (s.slice slice).raceNow)

/-- An answer for the sweep: a tag that is not live is dropped (04 R86). -/
def State.sweepAnswer (s : State) (c : CheckMsg) : State :=
  let s1 := if c.live then s else s.dropTags c.line fun t => t == c.tag
  let n := (s1.slice c.line).sweepLeft
  if n ≤ 1 then s1.sweepDone c.line else s1.updSlice c.line fun k => { k with sweepLeft := n - 1 }

/-- CHECK answer at the home (04 R84): the hold learns it, or the sweep does. -/
def doCheckAnswer (c : CheckMsg) (s : State) : State :=
  if c.sweep then s.sweepAnswer c
  else if (s.holdOf c.line).isSome then s.holdAck c.line [(c.tag, c.live)] else s

/-- TAGFREE at a core (04 R87). -/
def doTagfree (core : Nat) (tags : List Nat) (s : State) : State :=
  let s := s.emits ((tags.map tagSlot).eraseDups.map fun x => .boundarySerialWait (core % 256) x)
  tags.foldl (fun s t => s.updCtx (core % 256) (tagSlot t) fun x =>
    if bitOf t 15 then { x with tch := x.tch - 1 } else { x with tcl := x.tcl - 1 }) s

/-- Lease counts between the passes of the sweep over a slice: 65,536 mesh cycles of 1.4 GHz at most (04 R86; 00 R3). -/
def sweepCounts : Nat := 4681

/-- SWEEP_PASS (04 R86): every tag of the slice that is not live is dropped with TAGFREE, and entries without a tag are freed.
Tags of this cube's cores are compared with the serials there, those of others asked for by CHECK; the checks that waited for the
pass are made again when all is answered. -/
def doSweepPass (slice : Nat) (s : State) : State :=
  let s0 := s.later sweepCounts (.sweepPass slice)
  if (s.slice slice).sweepLeft ≠ 0 then s0
  else
    let s1 := s0.dropTags slice fun t =>
      tagCore t / 256 == s.cubeId && (s.ctx (tagCore t % 256) (tagSlot t)).serial.toNat != t % 65536
    let far := (((s1.slice slice).races.flatMap RaceEnt.tags).filter fun t => tagCore t / 256 != s.cubeId).eraseDups
    let s2 := s1.updSlice slice fun k => { k with raceNow := k.raceWait, raceWait := [], sweepLeft := far.length }
    if far.isEmpty then s2.sweepDone slice
    else far.foldl (fun s t => s.post (tagCore t / 256) { kind := .home, core := s.cubeId * 256, idx := slice } 0
      (.check { tag := t, home := s.cubeId, line := slice, live := false, sweep := true })) s2

/-! The directory. -/

/-- Is a registration the given agent's? -/
def RegWord.isOf (g : RegWord) : Option Ptr → Bool
  | some p => g.host == p.host && g.agent == p.agent && g.space == p.space && g.vline == p.vline
  | none => false

/-- The registrations of a line. -/
def Slice.regsOf (k : Slice) (line : Nat) : List RegWord := k.regs.filter fun g => g.line == line
/-- The registration of a word. -/
def Slice.regOf (k : Slice) (line word : Nat) : Option RegWord := k.regs.find? fun g => g.line == line && g.word == word
/-- The sharer pointers of a line. -/
def Slice.sharersOf (k : Slice) (line : Nat) : List Ptr := ((k.sharers.find? fun x => x.1 == line).map fun x => x.2).getD []
/-- The sharers of a line replaced; an entry without pointers is freed. -/
def Slice.setSharers (k : Slice) (line : Nat) (l : List Ptr) : Slice :=
  let o := k.sharers.filter fun x => x.1 != line
  { k with sharers := if l.isEmpty then o else o ++ [(line, l)] }

/-- The message that names a word to a registrant. -/
def State.wordMsg (s : State) (g : RegWord) (writer : Agent) (wid : Nat) : CohMsg :=
  { agent := g.agent, host := g.host, space := g.space, vline := g.vline, line := g.line, word := g.word,
    writer := writer, wid := wid, home := s.cubeId }

/-- INV to sharers (03 Table 3.7). -/
def State.sendInvs (s : State) (line : Nat) (writer : Agent) (wid : Nat) : List Ptr → State
  | [] => s
  | p :: r =>
    (s.post (p.agent / 256) (s.homeAgent line) wid
      (.inv { agent := p.agent, host := p.host, space := p.space, vline := p.vline, line := line, word := 0,
              writer := writer, wid := wid, home := s.cubeId })).sendInvs line writer wid r

/-- One message to each of several registrants. -/
def State.sendWords (s : State) (f : CohMsg → Msg) (writer : Agent) (wid : Nat) : List RegWord → State
  | [] => s
  | g :: r =>
    (s.post (g.agent / 256) (s.homeAgent g.line) wid (f (s.wordMsg g writer wid))).sendWords f writer wid r

/-- The registrations of the line's words in `mask` are called back with REVOKE_WB and every sharer invalidated, the
answers collected here; then `k` is performed (03 R67, R68; 04 R93; 02 R56; 01 R22); the pointer `x` of the agent that the
access is made for stays. Nothing to call back: `k` is due at once. -/
def State.quiesce (s : State) (line mask : Nat) (x : Option Ptr) (k : Ev) : State :=
  let sl := s.slice (sliceOf line)
  let gs := (sl.regsOf line).filter fun g => bitOf mask g.word
  let ps := (sl.sharersOf line).filter fun p => some p != x
  let home := s.homeAgent line
  if gs.isEmpty && ps.isEmpty then s.emitFirst [k]
  else
    let s1 := (s.updSlice (sliceOf line) fun k => k.setSharers line ((sl.sharersOf line).filter fun p => some p == x)).holdLine line
      (gs.length + ps.length) k
    (s1.sendWords .revokeWb home line gs).sendInvs line home line ps

/-- Do words of the line need to be called back before an operation at home for the agent with pointer `x`? -/
def State.shared (s : State) (line mask : Nat) (x : Option Ptr) : Bool :=
  let sl := s.slice (sliceOf line)
  !(((sl.regsOf line).filter fun g => bitOf mask g.word).isEmpty && !((sl.sharersOf line).any fun p => some p != x))

/-- RWB_DATA at the home (03 R68, R72): a dirty value is written, the registration freed, the wait counted. -/
def State.takeRwb (s : State) (m : CohMsg) (value : Option Nat) : State :=
  let had := (s.slice (sliceOf m.line)).regs.any fun g => g.line == m.line && g.word == m.word
    && g.agent == m.agent && g.space == m.space && g.vline == m.vline && g.host == m.host
  let s1 := match value with
    | some v => if had then (s.homeWrite (m.line * 128 + m.word * 4) (toBytes v 4)).unpoison m.line (2 ^ m.word) else s
    | none => s
  let s2 := s1.updSlice (sliceOf m.line) fun k =>
    { k with regs := k.regs.filter fun g => !(g.line == m.line && g.word == m.word && g.agent == m.agent
      && g.space == m.space && g.vline == m.vline && g.host == m.host) }
  s2.holdAck m.wid []

/-! Accepting a request. -/

/-- One request from another cube is counted for migration (05 R113); a count that reaches THRESH appends a candidate
record. -/
def State.countMigration (s : State) (r : Req) : State :=
  let thresh := fld s.regs.migCtl 15 0
  match r.e2e with
  | none => s
  | some (src, _, _) =>
    if thresh = 0 || r.pin || r.exp.isNone then s
    else
      let line := r.local_ / 128
      let k := s.slice (sliceOf line)
      let region := bitsOf r.local_ 36 16
      let e := (k.migs.find? fun e => e.region == region).getD { region := region, src0 := 0, cnt0 := 0, src1 := 0, cnt1 := 0 }
      let e1 : MigEnt :=
        if e.src0 = src && e.cnt0 ≠ 0 then { e with cnt0 := e.cnt0 + 1 }
        else if e.src1 = src && e.cnt1 ≠ 0 then { e with cnt1 := e.cnt1 + 1 }
        else if e.cnt0 = 0 then { e with src0 := src, cnt0 := 1 }
        else if e.cnt1 = 0 then { e with src1 := src, cnt1 := 1 }
        else { e with cnt0 := e.cnt0 - 1, cnt1 := e.cnt1 - 1 }
      let others := k.migs.filter fun x => x.region != region
      let kept := if k.migs.length = others.length && 1024 ≤ others.length then
          let low := others.foldl (fun a x => min a (x.cnt0 + x.cnt1)) (2 ^ 21)
          match others.find? fun x => x.cnt0 + x.cnt1 == low with
          | some v => others.filter fun x => x.region != v.region
          | none => others
        else others
      let hit := decide (thresh ≤ e1.cnt0) || decide (thresh ≤ e1.cnt1)
      let e2 := if hit then { e1 with cnt0 := 0, cnt1 := 0 } else e1
      let s1 := s.updSlice (sliceOf line) fun k => { k with migs := kept ++ [e2] }
      if !hit then s1
      else
        if (s1.regs.queue 0).1 = 0 then s1
        else s1.putItem
          (.mig [ putBits r.space 48 16 + (r.va / 128 * 128) % 2 ^ 48, putBits s.cubeId 52 12 + putBits region 16 21,
            putBits e1.src0 52 12 + putBits e1.cnt0 32 20 + putBits e1.src1 20 12 + putBits e1.cnt1 0 20])

/-- The time for which an ordinary request waits behind a burst, in units of 10 ns (08 R181). -/
def State.vaultBound (s : State) : Nat := max 10 (fld s.regs.vaultArb 15 0)

/-- An ordinary request waits at its vault; the oldest one's wait is bounded by VAULT_ARB.BOUND counts. -/
def State.waitVault (s : State) (v : Nat) (e : Ev) : State :=
  let q := tblGet s.vaults v {}
  let n := s.newId
  let s1 := { n.2 with vaults := tblSet s.vaults v { q with waiting := q.waiting ++ [(n.1, s.leaseNow, e)] } }
  if q.waiting.isEmpty then s1.later s.vaultBound (.vaultBoundExpiry v) else s1

/-- The receiving home's tests of a request's place, in order (01 R18, 05 R108): AGE, region, version, hold, home. -/
def State.acceptAt (s : State) (r : Req) (k : Place → State → State) : State :=
  if r.exp.isSome && decide (1024 < r.age + (s.leaseNow - r.at_)) then s.nackReq r 4 0 none
  else
    match s.placeOf r with
    | none => s.refuse r .accessError 0 0
    | some p =>
      let dv := if r.direct then 0 else verDiff p.ver r.ver
      if 1 ≤ dv && dv ≤ 8 then s.nackReq r 0 p.ver (some p.cube)
      else if 9 ≤ dv then s.nackReq r 1 p.ver none
      else if p.held then s.nackReq r 2 p.ver none
      else if p.cube ≠ s.cubeId then s.nackReq r 3 p.ver (some p.cube)
      else k p s

/-- A request passes a stub: it goes to the home of the line that took this one's place, and is answered from there (04 R93). -/
def State.throughStub (s : State) (r : Req) (line g : Nat) : State :=
  let r2 := { r with pa := g * 128 + r.pa % 128, spared := true }
  match s.layout r2.pa with
  | none => s.refuse r .accessError 0 0
  | some q => if q.cube = s.cubeId then s.emit { r2 with ver := q.ver }.event
    else
      s.sendRelay q.cube (s.homeAgent line) r (.req { r2 with
        ver := q.ver, e2e := none, others := [], waits := 0, redirects := 0, age := min 2047 (r.age + (s.leaseNow - r.at_)), at_ := s.leaseNow })

/-- A request waits for a line that is held (04 R93). -/
def State.holdRequest (s : State) (line : Nat) (e : Ev) : State :=
  { s with holds := s.holds.map fun h => if h.line = line then { h with queue := h.queue ++ [e] } else h }

/-- Then those of its line (04 R92, R93; 08 R181): a stub, a line that is busy, a near-bank command's ranges, a burst; and
the request is performed at its local offset. -/
def State.accept (s : State) (r : Req) (k : Req → State → State) : State :=
  s.acceptAt r fun p s =>
    let line := p.local_ / 128
    let r0 := { r with arrived := true }
    let r1 := { r0 with local_ := p.local_, served := false }
    match tblGet s.stubs line 0 with
    | g + 1 => s.throughStub r1 line g
    | 0 =>
      if (s.holdOf line).isSome then s.holdRequest line r0.event
      else if s.nbBusy.any fun b => decide (b.2.1 ≤ line) && decide (line ≤ b.2.2) then
        { s with nbQueue := s.nbQueue ++ [r0.event] }
      else if !r.served && s.behindBurst line then s.waitVault (vaultOf line) { r0 with served := true }.event
      else k { r1 with counted := true } (if r.counted then s else s.countMigration r1)

/-! The rows of 03 Table 3.7. -/

/-- The mask of the words of registrations. -/
def regMask (l : List RegWord) : Nat := l.foldl (fun m g => m ||| 2 ^ g.word) 0

/-- POISON for a read of the line. -/
def State.poisonFail (s : State) (r : Req) (line : Nat) : State :=
  s.refuse r .poison 0 (infoHome s.cubeId (line * 128 + r.pa % 128))

/-- The words of a line that are poisoned and not written since. -/
def State.poisonMask (s : State) (line : Nat) : Nat :=
  if !s.poisoned line then 0
  else if tblGet s.poison line 0 = 0 then 2 ^ 32 - 1 else tblGet s.poison line 0

/-- `si`, `wi` and `wt` loads. -/
def State.homeLoad (s : State) (r : Req) (line n pol hint : Nat) : State :=
  if s.poisoned line then s.poisonFail r line
  else
    let s1 := s.homeTouch line hint
    let sl := s1.slice (sliceOf line)
    let want := r.want n
    let others := (sl.regsOf line).filter fun g => !g.isOf r.holder
    let fwd := others.filter fun g => bitOf want g.word
    let data := s1.homeLine line
    let a := { r.ans .ok with data := data }
    let send (s : State) : State := s.sendWords (fun m => .fwdRead m r) r.who r.id fwd
    let free := want - (want &&& regMask others)
    if pol = 1 then
      let s2 := if free ≠ 0 || fwd.isEmpty then s1.answer r false (.data { a with mask := free })
        else match r.e2e with
          | some (src, cls, seq) => s1.sendAnswer 2 src cls seq (s.homeAgent line) .none 0 0
          | none => s1
      send s2
    else
      let fillMask := (2 ^ 32 - 1) - regMask others
      let ps := sl.sharersOf line
      let known := match r.holder with
        | some p => ps.contains p
        | none => true
      if pol = 2 && !known && (decide (4 ≤ ps.length) || (ps.isEmpty && decide (16384 ≤ sl.sharers.length))) then
        send (s1.answer r false (.nocache { a with mask := free }))
      else
        let s2 := if pol = 2 && !known then s1.updSlice (sliceOf line) fun k =>
            k.setSharers line (ps ++ r.holder.toList) else s1
        send (s2.answer r false (.fill { a with mask := fillMask }))

/-- `own` loads and stores: registration at once, with the count of acknowledgements to expect (03 R69). -/
def State.homeOwn (s : State) (r : Req) (line n hint : Nat) (load : Bool) : State :=
  if load && s.poisoned line then s.poisonFail r line
  else
    let s1 := s.homeTouch line hint
    let sl := s1.slice (sliceOf line)
    let want := r.want n
    match r.holder with
    | none => s
    | some p =>
      let mine := (sl.regsOf line).filter fun g => g.isOf r.holder && bitOf want g.word
      let others := (sl.regsOf line).filter fun g => !g.isOf r.holder
      let fwd := others.filter fun g => bitOf want g.word
      let free := want - (want &&& regMask others)
      let newWords := maskWords (free - (free &&& regMask mine))
      if 32768 < sl.regs.length + newWords.length then
        match sl.regs with
        | [] => s1
        | g :: _ =>
          (s1.holdLine line 1 r.event).sendWords .revokeWb (s.homeAgent line) line [g]
      else
        let ps := (sl.sharersOf line).filter fun q => q != p
        let keep := (sl.sharersOf line).filter fun q => q == p
        let regs1 := sl.regs.map fun g =>
          if g.line = line && bitOf want g.word && !g.isOf r.holder then
            { g with host := p.host, agent := p.agent, space := p.space, vline := p.vline } else g
        let regs2 := regs1 ++ newWords.map fun w =>
          { host := p.host, agent := p.agent, space := p.space, vline := p.vline, word := w, line := line }
        let s2 := s1.updSlice (sliceOf line) fun k => { k.setSharers line keep with regs := regs2 }
        let mask := if r.miss then (2 ^ 32 - 1) - regMask others else free
        let a := { r.ans .ok with data := s1.homeLine line, mask := mask, n := ps.length, flags := s.poisonMask line }
        let s3 := s2.answer r false (.grant a)
        (s3.sendWords (fun m => .fwdOwn m r) r.who r.id fwd).sendInvs line r.who r.id ps

/-- `wt`, `wi` and `si` stores, and every store of a unit. A word that the storing core owns dirty comes whole (`under`), so that
home has its value and the core's word is clean. -/
def State.homeStore (s : State) (r : Req) (line pol hint : Nat) (d : List Byte) : State :=
  let lo := r.local_ / 4 * 4
  let s0 := if r.under.isEmpty then s.homeTouch line hint
    else ((s.homeTouch line hint).homeWrite lo r.under).unpoison line (fullMask lo r.under.length)
  let s1 := (s0.homeWrite r.local_ d).unpoison line (fullMask r.local_ d.length)
  let sl := s1.slice (sliceOf line)
  let want := wordMask r.local_ d.length
  let others := (sl.regsOf line).filter fun g => bitOf want g.word && !g.isOf r.holder
  let inv := pol == 1 || pol == 2
  let isX (q : Ptr) : Bool := r.holder == some q
  let ps := if inv then (sl.sharersOf line).filter fun q => !isX q else []
  let s2 := s1.updSlice (sliceOf line) fun k =>
    let k1 := { k with regs := k.regs.filter fun g => !(g.line == line && bitOf want g.word && !g.isOf r.holder) }
    if inv then k1.setSharers line ((sl.sharersOf line).filter isX) else k1
  let s3 := s2.answer r false (.ackWt { r.ans .ok with n := others.length + ps.length })
  (s3.sendWords .revoke r.who r.id others).sendInvs line r.who r.id ps

/-- The home part of `clean` and `flush` for the lines of a page piece (12 Table 12.2). -/
def State.homeMaint (s : State) (line n : Nat) (flush : Bool) : State :=
  (countUp line n).foldl (fun s l => s.cleanLine l flush) s

/-- REQ (03 R67): a load, store, instruction fetch or maintenance piece at its home. -/
def doReq (r : Req) (s : State) : State :=
  s.accept r fun r s =>
    let line := r.local_ / 128
    match r.act with
    | .load n pol hint =>
      let r := { r with words := r.want n }
      if s.poisoned line then s.poisonFail r line
      else s.raceGate r line false fun r s =>
        if pol = 3 then s.homeOwn r line n hint true else s.homeLoad r line n pol hint
    | .fetch => s.homeLoad { r with words := 2 ^ 32 - 1 } line 128 1 0
    | .store pol hint d =>
      let r := { r with words := r.want d.length }
      s.raceGate r line true fun r s =>
        if pol = 3 && r.holder.isSome then s.homeOwn r line d.length hint false else s.homeStore r line pol hint d
    | .maint flush n =>
      (s.homeMaint line (ceilDiv (r.local_ % 128 + n) 128) flush).answer r true (.data (r.ans .ok))
    | _ => s.refuse r .accessError 0 3

/-- WB at the home (03 R71): words still registered to the sender are taken, the others discarded; WB_ACK. -/
def doWb (r : Req) (s : State) : State :=
  s.accept r fun r s =>
    let line := r.local_ / 128
    match r.act with
    | .wb mask dirty data =>
      let mine := ((s.slice (sliceOf line)).regsOf line).filter fun g => g.isOf r.holder && bitOf mask g.word
      let s1 := mine.foldl (fun s g =>
        if bitOf dirty g.word then
          (s.homeWrite (line * 128 + g.word * 4) ((data.drop (g.word * 4)).take 4)).unpoison line (2 ^ g.word)
        else s) (s.homeTouch line 0)
      let s2 := s1.updSlice (sliceOf line) fun k => { k with regs := k.regs.filter fun g => !mine.contains g }
      let m : CohMsg :=
        { agent := r.who.core, host := r.who.kind == .host, space := r.space, vline := r.va / 128, line := line,
          word := 0, writer := r.who, wid := r.id, home := s.cubeId }
      s2.answer r false (.wbAck m)
    | _ => s

/-- REGION_READ_NOTICE (04 R84): the check, then the word's current value, which a word's registrant sends. -/
def doRegionReadNotice (r : Req) (s : State) : State :=
  s.accept r fun r s =>
    let line := r.local_ / 128
    if s.poisoned line then s.poisonFail r line
    else s.raceGate r line false fun r s =>
      let sl := s.slice (sliceOf line)
      let others := (sl.regsOf line).filter fun g => !g.isOf r.holder && bitOf r.words g.word
      let free := r.words - (r.words &&& regMask others)
      let a := { r.ans .ok with data := s.homeLine line, mask := free }
      (s.answer r true (.data a)).sendWords (fun m => .fwdRead m r) r.who r.id others

/-- REGION_NOTICE (04 R84): the check without data. -/
def doRegionNotice (r : Req) (s : State) : State :=
  s.accept r fun r s =>
    s.raceGate r (r.local_ / 128) (match r.act with | .notice _ w => w | _ => false) fun r s =>
      s.answer r true (.data { r.ans .ok with mask := r.words })

/-- A host that is a lost registrant loses every word and line it holds here (17 R352). -/
def State.hostLost (s : State) (agent : Nat) : State :=
  let mine (g : RegWord) : Bool := g.host && g.agent == agent
  let gs := s.slices.flatMap fun p => p.2.regs.filter mine
  let s1 := { s with slices := s.slices.map fun (p : Nat × Slice) =>
    (p.1, { p.2 with
      regs := p.2.regs.filter fun g => !mine g
      sharers := (p.2.sharers.map fun e => (e.1, e.2.filter fun q => !(q.host && q.agent == agent))).filter fun e =>
        !e.2.isEmpty }) }
  gs.foldl (fun s g => (s.setPoison g.line).report
    { org := ⟨s.cubeId * 256, 0, 0⟩, source := 1, code := Cause.remoteLost.code, space := 0, addr := 0, hcube := s.cubeId,
      local_ := g.line * 128 + g.word * 4, ident := 0, detail := agent / 256 }) s1

/-- REMOTE_LOST_AT_HOME (03 R74): the registration of the lost registrant, and that of a load which was to take the word from it,
is cleared and the line poisoned, a record is written, and the waiting request answered. Kind 0: a forward for request `r`; 1: a revocation; 2: REVOKE_WB; 3: an invalidation. -/
def doRemoteLostAtHome (m : CohMsg) (kind : Nat) (r : Option Req) (s : State) : State :=
  let inAck (s : State) : State :=
    s.post m.writer.cube (s.homeAgent m.line) m.wid (.invAck m)
  let rest (s : State) : State := if m.host then s.hostLost m.agent else s
  let taker : Option Ptr := match r with
    | some q => (match q.act with
      | .load .. => q.holder
      | _ => none)
    | none => none
  rest <| if kind = 3 then inAck s
  else
    let s0 := s.updSlice (sliceOf m.line) fun k =>
      { k with regs := k.regs.filter fun g => !(g.line == m.line && g.word == m.word && (g.agent == m.agent || g.isOf taker)) }
    let s1 := s0.setPoison m.line
    let s2 := s1.report
      { org := ⟨s.cubeId * 256, 0, 0⟩, source := 1, code := Cause.remoteLost.code, space := m.space, addr := 0, hcube := s.cubeId,
        local_ := m.line * 128 + m.word * 4, ident := 0, detail := m.agent / 256 }
    match kind, r with
    | 0, some q =>
      match q.act with
      | .store .. => s2.post q.cube (s.homeAgent m.line) q.id
          (.data { q.ans .ok with mask := 2 ^ m.word, data := s2.homeLine m.line })
      | _ => s2.post q.cube (s.homeAgent m.line) q.id
          (.data (q.fail .poison 0 (infoHome s.cubeId (m.line * 128 + m.word * 4))))
    | 1, _ => inAck s2
    | _, _ => s2.holdAck m.wid []

end Sys2Proof.Machine
end

