-- ==== Sys2Proof/Machine/Operands.lean ====
section
/-! DEFINITION. Operands: queues and links, reading sources and writing destinations, predicates, and the frame in
which every instruction issues (10 R205 to R208; 07 R149, R165). -/

namespace Sys2Proof.Machine

/-- The queue a source operand pops: 0 to 7 local, 8 to 11 what the core reads from its links. -/
def srcQueue : Opd → Option Nat
  | .q i => some i.toNat
  | .link i => some (8 + i.toNat)
  | _ => none

/-- Where a destination operand pushes on core `c`: the core and queue that hold the entry, and the name under
which threads of `c` wait for a place (a written link is 12 to 15, a local queue 16 to 23). -/
def dstQueue (c : Nat) : Opd → Option (Nat × Nat × Nat)
  | .q i => some (c, i.toNat, 16 + i.toNat)
  | .link i => (neighbour c i.toNat).map fun n => (n, 8 + opposite i.toNat, 12 + i.toNat)
  | _ => none

/-- Entries a queue can hold (07 R149). -/
def queueCap (q : Nat) : Nat := if q < 8 then 8 else 4

/-- The entries readable in reservation order: those before the first unfilled one (10 R206). -/
def readable : List QEnt → List Word
  | [] => []
  | e :: r => match e.val with
    | some v => v :: readable r
    | none => []

/-- The first thread waiting under a name is ready again. -/
def State.wakeWaiter (s : State) (core name : Nat) : State :=
  match (s.core core).qwait.find? fun w => w.1 == name with
  | some w => s.wake core w.2 (.queue name)
  | none => s

/-- The first thread waiting to read a queue and the first waiting for a place in it are ready again (QUEUE_WAKE, 07
R149): each looks at the queue at its next issue, before any thread that blocked later in the same direction. -/
def doQueueWake (core queue : Nat) (s : State) : State :=
  let s1 := s.wakeWaiter core queue
  if queue < 8 then s1.wakeWaiter core (16 + queue) else s1

/-- Does a link operand lead off the die? Its code 24 to 27. -/
def noLink (c : Nat) : Opd → Option Nat
  | .link i => if (neighbour c i.toNat).isNone then some (24 + i.toNat) else none
  | _ => none

/-- The operands of an instruction: sources A and B, D read as a source, and D written. -/
structure Roles where
  a : Option Opd := none
  b : Option Opd := none
  ds : Option Opd := none
  d : Option Opd := none

/-- The code that makes a source reserved: 30 and 31, or the literal without one or in a place it may not stand. -/
def badSrc (h : Hd) (litHere : Bool) : Option Opd → Option Nat
  | some (.res x) => some (30 + b2n x)
  | some .lit => if litHere && h.lit.isSome then none else some 29
  | _ => none

/-- The code that makes a destination reserved. -/
def badDst : Option Opd → Option Nat
  | some (.res x) => some (30 + b2n x)
  | some .lit => some 29
  | _ => none

/-- The first of several findings. -/
def firstSome {α : Type} : List (Option α) → Option α
  | [] => none
  | some a :: _ => some a
  | none :: r => firstSome r

/-- The offending code of RESERVED_OPERAND, from the encoding and, for a roaming thread, a queue named (10 R205,
R208; 07 R165). -/
def reservedCode (h : Hd) (o : Roles) (roam : Bool) : Option Nat :=
  let q (x : Option Opd) : Option Nat := match x with
    | some y => if roam && y.isQueue then some y.code.toNat else none
    | none => none
  firstSome [badSrc h true o.a, badSrc h true o.b, badSrc h false o.ds, badDst o.d, q o.a, q o.b, q o.ds, q o.d]

/-- The values of the sources of an instruction. -/
structure Vals where
  a : Word
  b : Word
  d : Word

/-- How often the sources name queue `q`. -/
def Roles.pops (o : Roles) (q : Nat) : Nat :=
  ([o.a, o.b, o.ds].filter fun x => (x.bind srcQueue) == some q).length

/-- The name of the first queue that lacks an entry or a place, or that an earlier thread waits for (10 R206). -/
def Roles.lacks (o : Roles) (s : State) : Option Nat :=
  let c := s.me
  let k := s.core c
  let behind (q : Nat) : Bool := match k.qwait.find? fun w => w.1 == q with
    | some w => w.2 != s.mx
    | none => false
  let src (x : Option Opd) : Option Nat := match x.bind srcQueue with
    | some q => if behind q || decide ((readable (k.queue q)).length < o.pops q) then some q else none
    | none => none
  let dst := match o.d.bind (dstQueue c) with
    | some (c', q, nm) =>
      let used := ((s.core c').queue q).length - (if c' = c then o.pops q else 0)
      if behind nm || decide (queueCap q ≤ used) then some nm else none
    | none => none
  firstSome [src o.a, src o.b, src o.ds, dst]

/-- One source read: its value, and the pop it made. -/
def readSrc (h : Hd) (s : State) (x : Option Opd) : Word × List (Nat × Word) × State :=
  match x with
  | some (.g i) => (s.cx.getG i.toNat, [], s)
  | some .lit => (h.lit.getD 0#64, [], s)
  | some o => match srcQueue o with
    | some q =>
      match (s.core s.me).queue q with
      | ⟨_, some v⟩ :: r => (v, [(q, v)], (s.updCore s.me fun k => k.setQueue q r).queueChanged s.me q)
      | _ => (0#64, [], s)
    | none => (0#64, [], s)
  | none => (0#64, [], s)

/-- Sources are popped in the order A, B, D and a destination entry is reserved (10 R206). -/
def takeOperands (h : Hd) (o : Roles) (s : State) : Latch × State :=
  let ra := readSrc h s o.a
  let rb := readSrc h ra.2.2 o.b
  let rd := readSrc h rb.2.2 o.ds
  let s1 := rd.2.2
  let pops := ra.2.1 ++ rb.2.1 ++ rd.2.1
  let l : Latch := { a := ra.1, b := rb.1, d := rd.1, pops := pops, rid := none }
  let s2 := s1.leaveQueues s1.me s1.mx
  match o.d.bind (dstQueue s1.me) with
  | some (c', q, _) =>
    let n := s2.newId
    let rid := n.1 + 1
    ({ l with rid := some rid },
     n.2.updCore c' fun k => k.setQueue q (k.queue q ++ [{ rid := rid, val := none }]))
  | none => (l, s2)

/-- A result is written to D (11 R219): a register whole, a queue's reserved entry, or nowhere. -/
def State.writeD (s : State) (c x : Nat) (d : Opd) (rid : Option Nat) (v : Word) : State :=
  match d with
  | .g i => s.updCtx c x fun t => t.setG i.toNat v
  | .q _ | .link _ =>
    match dstQueue c d, rid with
    | some (c', q, _), some r =>
      (s.updCore c' fun k => k.setQueue q ((k.queue q).map fun e =>
        if e.rid = r then { e with val := some v } else e)).queueChanged c' q
    | _, _ => s
  | _ => s

/-- The first words of an instruction, for INFO0 to INFO2 (16 Table 16.2). -/
def word0 (i : Instr) : Nat := (nthD (encode i) 0 0#32).toNat

/-- The frame in which an instruction issues: RESERVED_OPERAND, the predicate, PRIVILEGE, NO_NEIGHBOUR, the queues,
then its own effect on the values of its sources (10 R205 to R208). A woken instruction keeps the operand values it
took when it first issued. -/
def issue (i : Instr) (h : Hd) (o : Roles) (extraBad : Option Nat) (priv : Ctx → Bool)
    (body : Vals → State → State) (s : State) : Res :=
  let t := s.cx
  match firstSome [reservedCode h o t.roam, extraBad] with
  | some code => .next (s.trap .reservedOperand (word0 i) code 0)
  | none =>
    if t.getP h.pred.toNat == h.pneg then .next (s.retire i.bytes)
    else if priv t then .next (s.trap .privilege (word0 i) 0 0)
    else
      match firstSome [o.a.bind (noLink s.me), o.b.bind (noLink s.me), o.ds.bind (noLink s.me),
          o.d.bind (noLink s.me)] with
      | some code => .next (s.trap .noNeighbour code 0 0)
      | none =>
        match t.latch with
        | some l => .next (body ⟨l.a, l.b, l.d⟩ s)
        | none =>
          match o.lacks s with
          | some q =>
            let s1 := s.updCore s.me fun k =>
              if k.qwait.any fun w => w.1 == q && w.2 == s.mx then k
              else { k with qwait := k.qwait ++ [(q, s.mx)] }
            .next (s1.block (.queue q))
          | none =>
            let r := takeOperands h o s
            .next (body ⟨r.1.a, r.1.b, r.1.d⟩ (r.2.updCx fun t => { t with latch := some r.1 }))

/-- Every mode may run it. -/
def anyMode (_ : Ctx) : Bool := false
/-- Only system and firmware mode may run it (11 Table 11.7): task mode raises PRIVILEGE. -/
def systemOnly (t : Ctx) : Bool := t.isTask

/-- The result goes to D and the instruction retires. -/
def State.finish (s : State) (i : Instr) (d : Opd) (v : Word) : State :=
  (s.writeD s.me s.mx d ((s.cx.latch).bind fun l => l.rid) v).retire i.bytes

/-- An instruction that computes a value of its sources and writes it to D. -/
def compute (i : Instr) (h : Hd) (d : Opd) (a b : Option Opd) (f : Word → Word → Word) (s : State) : Res :=
  issue i h { a := a, b := b, d := some d } none anyMode (fun v s => s.finish i d (f v.a v.b)) s

end Sys2Proof.Machine
end

