-- ==== Sys2Proof/Machine/Near.lean ====
section
/-! DEFINITION. The core side of coherence (03 R59 to R71): near cache, write-back buffer, acknowledgement counts, and
how an answer ends a thread's request. -/

namespace Sys2Proof.Machine

/-! The near cache. -/

/-- The near-cache set of a line: VA[13:7] (02 R34). -/
def nearSet (vline : Nat) (l : NLine) : Bool := l.vline % 128 == vline % 128
/-- A near-cache line with its hint changed. -/
def NLine.withHint (l : NLine) (h : Nat) : NLine := { l with hint := h }
/-- Is a way in use: has the line a valid word (02 R34, R37)? -/
def NLine.used (l : NLine) : Bool := l.v != 0#32

/-- The near-cache line of a space and virtual line; a line without a valid word is an invalid way. -/
def Core.nearLine (k : Core) (space vline : Nat) : Option NLine :=
  k.near.find? fun l => l.used && l.space == space && l.vline == vline
/-- The write-back buffer entry of a space and virtual line. -/
def Core.wbufLine (k : Core) (space vline : Nat) : Option NLine :=
  k.wbuf.find? fun l => l.space == space && l.vline == vline
/-- The near-cache line of a space and virtual line changed. -/
def Core.updNear (k : Core) (space vline : Nat) (f : NLine → NLine) : Core :=
  { k with near := k.near.map fun l => if l.space = space ∧ l.vline = vline then f l else l }
/-- The write-back buffer entry changed. -/
def Core.updWbuf (k : Core) (space vline : Nat) (f : NLine → NLine) : Core :=
  { k with wbuf := k.wbuf.map fun l => if l.space = space ∧ l.vline = vline then f l else l }

/-- Words of a mask replaced in line data. -/
def mergeWords (old new : List Byte) (mask : Nat) : List Byte :=
  (countUp 0 128).map fun i => if bitOf mask (i / 4) then nthD new i 0#8 else nthD old i 0#8

/-- A word mask as a bit vector. -/
def maskBV (m : Nat) : BitVec 32 := BitVec.ofNat 32 m

/-- Words enter a line: as copies where `own` is 0, as owned words where it is 1; a copy never replaces an owned
word. -/
def NLine.fill (l : NLine) (mask : Nat) (data : List Byte) (own dirty poison : Nat) : NLine :=
  let m := mask - (mask &&& l.o.toNat &&& ((2 ^ 32 - 1) - own % 2 ^ 32))
  { l with
    v := l.v ||| maskBV m, o := l.o ||| maskBV (m &&& own), d := l.d ||| maskBV (m &&& dirty),
    data := mergeWords l.data data m, poison := l.poison ||| maskBV poison }

/-- The WB request of a line's owned words (03 R62). -/
def wbReq (gcore : Nat) (l : NLine) : Req :=
  { who := coreAgent gcore, id := 0, org := { core := gcore, ctx := 0, start := 0 },
    space := l.space, va := l.vline * 128, task := false, act := .wb l.o.toNat l.d.toNat l.data, pa := l.pline * 128 }

/-- Owned words leave the cache: an entry of the write-back buffer and a WB to home (03 R62). -/
def State.writeBack (s : State) (c : Nat) (l : NLine) (p : Purp) : State :=
  (s.updCore c fun k => { k with wbuf := k.wbuf ++ [l] }).requestPa (wbReq (s.gcore c) l) p

/-- A line enters the near cache of a core with these words; a victim with owned words goes to the write-back buffer.
None when the buffer has no place (03 R62, R63). `alloc` false: only a line already present takes them (02 R35). -/
def State.nearFill (s : State) (c space vline hint pline mask : Nat) (data : List Byte)
    (own dirty poison : Nat) (alloc : Bool) : Option State :=
  let k := s.core c
  match k.nearLine space vline with
  | some l =>
    let near1 := touchLine NLine.hint NLine.withHint (nearSet vline) 3 hint l k.near
    some (s.setCore c ({ k with near := near1 }.updNear space vline fun l =>
      { l.fill mask data own dirty poison with pline := pline }))
  | none =>
    if !alloc then some s
    else
      let l : NLine :=
        { space := space, vline := vline, hint := hint, pline := pline, poison := 0#32, v := 0#32, o := 0#32,
          d := 0#32, data := List.replicate 128 0#8 }
      let r := insertLine NLine.hint NLine.withHint (nearSet vline) 4 3 (l.fill mask data own dirty poison)
        (k.near.filter NLine.used)
      match r.2 with
      | some v =>
        if v.o = 0#32 then some (s.setCore c { k with near := r.1 })
        else if 8 ≤ k.wbuf.length then none
        else some ((s.setCore c { k with near := r.1 }).writeBack c v .wb)
      | none => some (s.setCore c { k with near := r.1 })

/-- The acquire half of a synchronising event at a scope above core: every COPY word of the core's near cache becomes
invalid (03 R61). -/
def State.acquire (s : State) (c scope : Nat) : State :=
  if scope = 0 then s
  else s.updCore c fun k => { k with near := k.near.map fun l => { l with v := l.v &&& l.o } }

/-! Acknowledgements. -/

/-- A context waiting for its outstanding requests looks again. -/
def Ctx.wakeAcks (t : Ctx) : Ctx := if t.wait = .acks then { t with wait := .none } else t

/-- A contribution, or a near-bank command, that had left is no longer outstanding. -/
def Ctx.accepted (t : Ctx) (act : Act) : Ctx :=
  (match act with
    | .nb _ => { t with nbPend := t.nbPend - 1 }
    | _ => { t with engOut := t.engOut - 1 }).wakeAcks

/-- Has a release at a scope been performed (04 R81, 12 R249)? -/
def Ctx.released (t : Ctx) (scope : Nat) : Bool :=
  t.pendg == 0 && t.maint == 0 && t.engOut == 0 && (scope == 0 || t.ackbal == 0) && (decide (scope < 2) || t.nbPend == 0)

/-! Messages of a home to a registrant or sharer. -/

/-- INV at a core (03 R67): COPY words of the line become invalid. -/
def State.coreInv (s : State) (m : CohMsg) : State :=
  s.updCore (m.agent % 256) fun k => k.updNear m.space m.vline fun l => { l with v := l.v &&& l.o }

/-- The owned word named by a message: its value and dirty bit, from the cache or the write-back buffer (03 R63). -/
def State.ownedWord (s : State) (m : CohMsg) : Option (Nat × Bool) :=
  let k := s.core (m.agent % 256)
  let get (l : NLine) : Option (Nat × Bool) :=
    if l.o.getLsbD m.word then some (ofBytes ((l.data.drop (m.word * 4)).take 4), l.d.getLsbD m.word) else none
  match (k.nearLine m.space m.vline).bind get with
  | some x => some x
  | none => (k.wbufLine m.space m.vline).bind get

/-- The word named leaves the core: V, O and D cleared in cache and write-back buffer. -/
def State.clearWord (s : State) (m : CohMsg) : State :=
  let b : BitVec 32 := ~~~(1#32 <<< m.word)
  let f (l : NLine) : NLine := { l with v := l.v &&& b, o := l.o &&& b, d := l.d &&& b }
  let g (l : NLine) : NLine := if l.o.getLsbD m.word then f l else l
  s.updCore (m.agent % 256) fun k => (k.updNear m.space m.vline g).updWbuf m.space m.vline g

/-- The word named stays as a COPY. -/
def State.demoteWord (s : State) (m : CohMsg) : State :=
  let b : BitVec 32 := ~~~(1#32 <<< m.word)
  let f (l : NLine) : NLine := { l with o := l.o &&& b, d := l.d &&& b }
  s.updCore (m.agent % 256) fun k => (k.updNear m.space m.vline f).updWbuf m.space m.vline f

/-- DATA from a registrant to the requester of a forward (03 Table 3.7). -/
def State.forwardData (s : State) (m : CohMsg) (r : Req) (v : Nat) (dirty : Bool) : State :=
  let data := mergeWords (List.replicate 128 0#8) (List.replicate (m.word * 4) 0#8 ++ toBytes v 4) (2 ^ m.word)
  s.post r.cube (coreAgent m.agent) r.id
    (.data { r.ans .ok with mask := 2 ^ m.word, data := data, dirty := if dirty then 2 ^ m.word else 0 })

/-- Has the core been granted the word and not yet received it? A message about it then waits for the word (03 R65, R66:
home sent it after the grant). -/
def State.wordComing (s : State) (m : CohMsg) : Bool :=
  (s.ownedWord m).isNone && s.outs.any fun o =>
    o.who.core == m.agent && o.req.space == m.space && o.req.va / 128 == m.vline && bitOf o.req.words m.word
      && (match o.req.act with
        | .load _ 3 _ | .store 3 _ _ => true
        | _ => false)

/-- The line that a message of a home is about. -/
def aboutLine (m : CohMsg) : Ev → Bool
  | .inv n | .fwdRead n _ | .fwdOwn n _ | .revoke n | .revokeWb n => n.space == m.space && n.vline == m.vline
  | _ => false

/-- A message of a home about a word waits for the word to come; those about its line that come after it wait behind it
(03 R65). -/
def State.orHold (s : State) (m : CohMsg) (coming : Bool) (e : Ev) (k : State) : State :=
  if coming || (s.core (m.agent % 256)).fwds.any (aboutLine m) then
    s.updCore (m.agent % 256) fun k => { k with fwds := k.fwds ++ [e] }
  else k

/-- What a core waits with until a word has come is looked at again, in order. -/
def State.releaseFwds (s : State) (c : Nat) : State :=
  if (s.core c).fwds.isEmpty then s else (s.updCore c fun k => { k with fwds := [] }).emitFirst (s.core c).fwds

/-- A load that a forward serves at a core whose own load of the word has failed finds poison (03 R74). -/
def State.forwardPoison (s : State) (m : CohMsg) (r : Req) : State :=
  s.post r.cube (coreAgent m.agent) r.id (.data (r.fail .poison 0 (infoHome m.home (m.line * 128 + m.word * 4))))

/-- FWD_READ at a core: it keeps its state (03 R67). -/
def State.coreFwdRead (s : State) (m : CohMsg) (r : Req) : State :=
  match s.ownedWord m with
  | some x => s.forwardData m r x.1 false
  | none => s.forwardPoison m r

/-- FWD_OWN at a core: the word is handed over with its dirty bit (03 R67). -/
def State.coreFwdOwn (s : State) (m : CohMsg) (r : Req) : State :=
  let x := (s.ownedWord m).getD (0, false)
  (s.forwardData m r x.1 x.2).clearWord m

/-- REVOKE_WB at a core: the value returns to home and the word stays as COPY (03 R68). -/
def State.coreRevokeWb (s : State) (m : CohMsg) : State :=
  let v := match s.ownedWord m with
    | some (x, true) => some x
    | _ => (none : Option Nat)
  (s.demoteWord m).post m.home (coreAgent m.agent) m.wid (.rwbData m v)

/-! Region record (04 R87, Table 4.6). -/

/-- Has the context had this access to the word checked in its current region? -/
def Core.checked (k : Core) (x space vline word : Nat) (write : Bool) : Bool :=
  k.regrec.any fun e => e.ctx == x && e.serial == (k.ctx x).serial.toNat && e.space == space && e.vline == vline
    && e.word == word && (if write then e.wr else e.rd)

/-- The check is noted; of 1,024 entries the oldest gives way. -/
def Core.note (k : Core) (x space vline word : Nat) (write : Bool) : Core :=
  let same (e : RegRec) : Bool := e.ctx == x && e.serial == (k.ctx x).serial.toNat && e.space == space
    && e.vline == vline && e.word == word
  if k.regrec.any same then
    { k with regrec := k.regrec.map fun e =>
        if same e then { e with rd := e.rd || !write, wr := e.wr || write } else e }
  else
    let live := k.regrec.filter fun e => e.serial == (k.ctx e.ctx).serial.toNat
    let kept := if 1024 ≤ live.length then live.drop 1 else live
    let e : RegRec :=
      { ctx := x, serial := (k.ctx x).serial.toNat, rd := !write, wr := write, space := space, vline := vline,
        word := word }
    { k with regrec := kept ++ [e] }

/-! The end of a thread's request. -/

/-- A value read is extended to 64 bits (12 R242). -/
def extendVal (bytes : Nat) (signed : Bool) (v : Nat) : Word :=
  if signed then sext64 (8 * bytes) v else zext64 (8 * bytes) v

/-- Is the words' copy at the core to be written by the answered request as owned? -/
def Out.owns (o : Out) : Bool :=
  match o.req.act with
  | .load _ 3 _ => true
  | .store 3 _ _ => true
  | _ => false

/-- The words that a request still lacks. -/
def Out.lacks (o : Out) : Nat := o.req.words - (o.req.words &&& o.have_)

/-- Words of an answer are taken into an outstanding request. -/
def Out.absorb (o : Out) (a : Ans) : Out :=
  { o with have_ := o.have_ ||| a.mask, data := mergeWords o.data a.data a.mask, dirty := o.dirty ||| a.dirty }

/-! Replies to a fully suspended context (16 R347). -/

/-- ACK of the context save area (16 Table 16.7). -/
def Ctx.ackWord (t : Ctx) : Nat := putBits (wrapN 32 t.ackbal) 32 32 + putBits t.pendg 0 32

/-- PMASK: the g registers that outstanding requests write. -/
def Ctx.pmask (t : Ctx) : Nat :=
  t.tags.foldl (fun m p => if p.2.dkind = 0 && p.2.dest < 16 then m ||| 2 ^ p.2.dest else m) 0

/-- PEND of the context save area. -/
def Ctx.pendWord (t : Ctx) : Nat :=
  t.pmask * 2 ^ 32 + (t.tags.foldl (fun m p => m ||| 2 ^ (24 + p.1 % 8)) 0) + (match t.seqSave.find? fun q => q.pc == t.pc with
    | some q => 2 ^ 16 + q.step % 2 ^ 16
    | none => 0)

/-- Is the image of a context being written, or read back, so that replies are kept in the core for it? -/
def State.restoring (s : State) (c x : Nat) : Bool :=
  s.susps.any fun j => ((j.m.op == 2 && decide (15 ≤ j.step)) || (j.m.op == 1 && (j.step == 3 || j.step == 4))) && j.m.core == c
    && (if j.m.group then (s.ctx c x).gv && (s.ctx c x).group == j.m.slot else j.m.slot == x)

/-- A reply for a fully suspended context goes into its save image by a `wt` store, or is kept. -/
def State.imageWrite (s : State) (c x off : Nat) (d : List Byte) (dest value : Nat) : State :=
  match (s.ctx c x).susp with
  | some r =>
    if !r.full then s
    else if s.restoring c x then s.updCtx c x fun t => { t with susp := some { r with kept := r.kept ++ [(dest, value)] } }
    else
      s.requestVa
        { who := coreAgent (s.gcore c), id := 0, org := (s.ctx c x).origin, space := r.space, va := r.image + off, task := false,
          act := .store 1 0 d, words := wordMask (r.image + off) d.length, cube := s.cubeId, probe := true }
        (.image c x dest value)
  | none => s

/-- A reply could not be written into the image: a record, and it is kept until the resumption. -/
def State.imageFailed (s : State) (c x dest value code va : Nat) : State :=
  let s1 := s.report
    { org := (s.ctx c x).origin, source := 0, code := code, space := (s.ctx c x).space, addr := va, hcube := s.cubeId,
      local_ := 0, ident := 0, detail := 0 }
  s1.updCtx c x fun t => match t.susp with
    | some r => { t with susp := some { r with kept := r.kept ++ [(dest, value)] } }
    | none => t

/-- A predicate of a context is written by a reply. -/
def State.replyPred (s : State) (c x n : Nat) (v : Bool) : State :=
  let s1 := s.updCtx c x fun t => t.setP n v
  s1.imageWrite c x 144 (toBytes ((s1.ctx c x).preds.toNat / 2) 1) (16 + n) (b2n v)

/-- The counts of acknowledgements of a context have changed. -/
def State.ackChanged (s : State) (c x : Nat) : State := s.imageWrite c x 168 (toBytes (s.ctx c x).ackWord 8) 99 0

/-- INV_ACK at a thread's core (03 R69). -/
def State.threadInvAck (s : State) (w : Agent) : State :=
  (s.updCtx (w.core % 256) w.idx fun t => { t with ackbal := t.ackbal - 1 }.wakeAcks).ackChanged (w.core % 256) w.idx

/-- A GRANT or ACK_WT of a request at its thread's core: n acknowledgements are to be expected (03 R69). -/
def State.threadGrant (s : State) (o : Out) (n : Nat) : State :=
  let c := o.who.core % 256
  (s.updCtx c o.who.idx fun t => { t with ackbal := t.ackbal + n, pendg := t.pendg - b2n o.left }.wakeAcks).ackChanged c o.who.idx

/-- The tag of a request number. -/
def Ctx.tag (t : Ctx) (id : Nat) : Option Tag := (t.tags.find? fun p => p.2.id == id).map fun p => p.2
/-- The tag ends; with none left the thread goes on. -/
def Ctx.endTag (t : Ctx) (id : Nat) : Ctx :=
  let ts := t.tags.filter fun p => p.2.id != id
  { t with tags := ts, wait := if ts.isEmpty && t.wait = .tag then .none else t.wait }

/-- The cause of a code (16 Table 16.2). -/
def causeOf (code : Nat) : Cause :=
  match code with
  | 0x07 => .permission | 0x08 => .poison | 0x09 => .race | 0x0A => .regionOverflow | 0x0E => .counterOverflow
  | 0x0F => .tileFault | 0x11 => .remoteLost | 0x05 => .misaligned | 0x03 => .privilege
  | _ => .accessError

/-- The number in which a context keeps a tag. -/
def Ctx.tagKey (t : Ctx) (id : Nat) : Nat := ((t.tags.find? fun p => p.2.id == id).map fun p => p.1).getD 0

/-- The oldest outstanding request of a context. -/
def Ctx.oldest (t : Ctx) : Option Tag :=
  t.tags.foldl (fun m p => match m with
    | some g => if p.2.id < g.id then some p.2 else m
    | none => some p.2) none

/-- A request of a thread is over: what waited for it at its core goes on, namely messages and answers about its words, accesses of
other threads to them, requests held behind it (06 R140), and the boundary of its region (04 R83). -/
def State.endReq (s : State) (o : Out) : State :=
  let c := o.who.core % 256
  let s1 := (s.dropOut o.id).releaseFwds c
  let s2 := if o.owns then s1.updCore c fun k => { k with ctxs := k.ctxs.map fun p => (p.1, p.2.wakeAcks) } else s1
  let mine := s2.reqWait.filter fun (r : Req) => r.who == o.who
  let s3 : State := if mine.isEmpty then s2
    else State.emits { s2 with reqWait := s2.reqWait.filter fun (r : Req) => r.who != o.who } (mine.map fun r => .sectionLookup r)
  if (s3.ctx c o.who.idx).wait = .serial then s3.emit (.boundarySerialWait c o.who.idx) else s3

/-- A request whose instruction is discarded (16 R335): one that has left the core is answered for nobody, another is taken out
of the walks and faults that hold it (05 R117). -/
def State.discard (s : State) (who : Agent) (g : Tag) : State :=
  if g.left then s.updOut g.id fun o => { o with purp := .drop }
  else
    let no (l : List Req) : List Req := l.filter fun r => !(r.who == who && r.id == g.id)
    let s1 : State := { s with
      walks := s.walks.map fun (w : Walk) => { w with accs := no w.accs }
      faults := s.faults.map fun (p : Nat × PFault) => (p.1, { p.2 with accs := no p.2.accs })
      faultWait := no s.faultWait
      reqWait := no s.reqWait
      slices := s.slices.map fun (p : Nat × Slice) => (p.1, { p.2 with sectWait := no p.2.sectWait }) }
    match s.out who g.id with
    | some o => s1.endReq o
    | none => s1

/-- A register that a reply writes, for the requests before it that may still trap (16 R335). -/
def Ctx.logReply (t : Ctx) (g : Tag) : Ctx :=
  { t with tags := t.tags.map fun (p : Nat × Tag) => (p.1,
      if decide (p.2.id < g.id) && g.dkind = 0 && decide (g.dest < 16) then { p.2 with undo := (g.dest, t.getG g.dest) :: p.2.undo }
      else p.2) }

/-- A reply changes predicates or flags: it is an earlier instruction's change for the requests after it. -/
def Ctx.backFrom (t : Ctx) (id : Nat) (f : BitVec 8 × BitVec 5 → BitVec 8 × BitVec 5) : Ctx :=
  { t with tags := t.tags.map fun (p : Nat × Tag) => (p.1, if id < p.2.id then { p.2 with back := p.2.back.map f } else p.2) }

/-- The exceptions that a reply tells are raised (09 R198); a fully suspended context has them when it is resumed. -/
def State.replyFlags (s : State) (c x id : Nat) (f : BitVec 5) : State :=
  if f = 0#5 then s
  else s.updCtx c x fun t =>
    let t1 := (t.orFlags f).backFrom id fun b => (b.1, b.2 ||| f)
    match t1.susp with
    | some r => if r.full then { t1 with susp := some { r with kept := r.kept ++ [(24, f.toNat)] } } else t1
    | none => t1

/-- What instructions after a request's have changed is taken back (16 R335). -/
def Ctx.takeBack (t : Ctx) (g : Tag) : Ctx :=
  let t1 := g.undo.foldl (fun t u => t.setG u.1 u.2) t
  match g.back with
  | some (p, f) => { t1 with preds := p, flags := f }
  | none => t1

/-- The thread stands again at the instruction of an outstanding request: the later instructions are discarded, and its operands
are those it took (16 R335). -/
def State.backTo (s : State) (c x : Nat) (g : Tag) : State :=
  let who : Agent := { kind := .thread, core := s.gcore c, idx := x }
  let later := (s.ctx c x).tags.filter fun p => decide (g.id < p.2.id)
  (later.foldl (fun s p => s.discard who p.2) s).updCtx c x fun t =>
    { (t.takeBack g) with tags := t.tags.filter (fun p => decide (p.2.id < g.id)), pc := g.pc, latch := g.latch, got := [],
                          wait := .none }

/-- A trap raised by the reply of a request (16 R335): it is taken once no earlier request of the thread can trap. For a fully
suspended context the failure is noted in its tag (16 R347). -/
def State.tagTrap (s : State) (c x : Nat) (g : Tag) (code i0 i1 i2 : Nat) : State :=
  let failed := { g with fcause := code, finfo1 := i0, finfo2 := i1, finfo3 := i2 }
  let mark (s : State) : State := s.updCtx c x fun t =>
    { t with tags := t.tags.map fun p => (p.1, if p.2.id = g.id then failed else p.2) }
  if ((s.ctx c x).susp.map fun r => r.full).getD false then
    (mark s).imageWrite c x (256 + 16 * (s.ctx c x).tagKey g.id)
      (bytesOfWords [putBits code 56 8 + putBits g.dest 51 5 + putBits g.dkind 48 3 + g.pc.toNat % 2 ^ 48, i0]) 99 0
  else if (s.ctx c x).tags.any fun p => decide (p.2.id < g.id) then mark s
  else (s.backTo c x g).trapAt c x (causeOf code) g.pc i0 i1 i2

/-- A request of the thread has ended: the trap of the next one is taken, if it has failed meanwhile. -/
def State.nextTrap (s : State) (c x : Nat) : State :=
  match (s.ctx c x).oldest with
  | some g => if g.fcause = 0 then s else s.tagTrap c x g g.fcause g.finfo1 g.finfo2 g.finfo3
  | none => s

/-- A failure of a request that no instruction waits for goes to its issuer's error record (12 R244). -/
def State.lateFailure (s : State) (r : Req) (code i1 i2 : Nat) : State :=
  s.issuerItem
    { org := r.org, source := 0, code := code, space := r.space, addr := r.va, hcube := bitsOf i2 63 52,
      local_ := if code = 0x08 || code = 0x09 then bitsOf i2 36 0 else 0, ident := r.id, detail := i1 }

/-- The value of a reply is written for its tag (16 Table 16.7), its acquire performed, and the tag ends. -/
def State.tagDone (s : State) (c x : Nat) (g : Tag) (v : Word) : State :=
  let s := s.updCtx c x fun t => t.logReply g
  let s1 := match g.dkind with
    | 1 =>
      let b := decide (g.ge.getD 0 ≤ v.toNat)
      (s.updCtx c x fun t => t.backFrom g.id fun p => (({ t with preds := p.1 }.setP g.dest b).preds, p.2)).replyPred c x g.dest b
    | 3 => s
    | _ =>
      let w := s.writeD c x (Opd.ofCode (BitVec.ofNat 5 g.dest)) g.rid v
      if g.dkind = 0 && g.dest < 16 then w.imageWrite c x (8 * g.dest) (toBytes v.toNat 8) g.dest v.toNat else w
  let acq := match g.acq, g.ge with
    | some sc, some t => if t ≤ v.toNat then some sc else none
    | a, _ => a
  let s2 := match acq with
    | some sc => s1.acquire c sc
    | none => s1
  let s3 := s2.updCtx c x fun t => let t1 := t.endTag g.id; if g.bound then t1.boundary else t1
  (s3.imageWrite c x 176 (toBytes (s3.ctx c x).pendWord 8) 99 0).nextTrap c x

/-- The hint under which an access allocates in the near cache (03 R57). -/
def nearHint (pol hint : Nat) : Nat := if pol = 3 && hint = 3 then 1 else hint

/-- The words of an `own` request enter the near cache; a store's bytes are merged and dirty (03 R69), and words that it writes
whole are no longer poisoned. None when the write-back buffer has no place. -/
def State.ownFill (s : State) (c : Nat) (o : Out) : Option State :=
  let r := o.req
  match r.act with
  | .load _ _ hint =>
    s.nearFill c r.space (r.va / 128) (nearHint 3 hint) (r.pa / 128) o.have_ o.data r.words o.dirty o.poison true
  | .store _ hint d =>
    let data := overlay o.data (r.va % 128) d
    let bad := o.poison - (o.poison &&& fullMask r.va d.length)
    s.nearFill c r.space (r.va / 128) (nearHint 3 hint) (r.pa / 128) o.have_ data r.words (o.dirty ||| r.words) bad true
  | _ => some s

/-- The context counts the `n` tags that a home has installed (04 R87). -/
def State.countTag (s : State) (c x tag n : Nat) : State :=
  s.updCtx c x fun t => if bitOf tag 15 then { t with tch := t.tch + n } else { t with tcl := t.tcl + n }

/-- The checked words of a request are noted in the core's region record. -/
def State.noteChecks (s : State) (c x : Nat) (r : Req) : State :=
  if !(r.readCk || r.writeCk) then s
  else s.updCore c fun k =>
    (maskWords r.words).foldl (fun k w => k.note x r.space (r.va / 128) w r.writeCk) k

/-- The bytes that an answered access read. -/
def Out.bytes (o : Out) (n : Nat) : List Byte := (o.data.drop (o.req.va % 128)).take n

/-- The answered bytes are those given. -/
def Out.withBytes (o : Out) (d : List Byte) : Out :=
  { o with data := List.replicate (o.req.va % 128) 0#8 ++ d }

/-- Bytes that the access asks for. -/
def Out.size (o : Out) : Nat :=
  match o.req.act with
  | .load n _ _ => n
  | .store _ _ d => d.length
  | .fetch => 128
  | .counter .. | .translate _ => 8
  | _ => 4 * (maskWords o.req.words).length

/-- An access of a thread has succeeded: what waits for it goes on. `v` is the value of an answer without line data
(an atomic or a counter operation). -/
def State.threadOk (s : State) (o : Out) (v : Nat) (flags : Nat) : State :=
  let c := o.who.core % 256
  let x := o.who.idx
  let s := s.noteChecks c x o.req
  match o.purp with
  | .tag =>
    match (s.ctx c x).tag o.id with
    | none => s
    | some g =>
      let s1 := s.replyFlags c x o.id (BitVec.ofNat 5 flags)
      match o.req.act with
      | .load n _ _ => s1.tagDone c x g (extendVal n g.signed (ofBytes (o.bytes n)))
      | .atomic .. => s1.tagDone c x g (extendVal 8 false v)
      | _ => s1.tagDone c x g (BitVec.ofNat 64 v)
  | .buf | .soft =>
    (s.updCtx c x fun t => { t with got := t.got ++ [o.bytes o.size] }).wake c x (.access o.id)
  | .check => s.wake c x (.access o.id)
  | .store => s.updCtx c x fun t => t.wakeAcks
  | .fetch =>
    if o.nocache then s.wake c x .fetch
    else
      (s.updCore c fun k =>
        { k with icache := { space := o.req.space, vline := o.req.va / 128, data := o.data } ::
            k.icache.filter fun l => !(l.space == o.req.space && l.vline == o.req.va / 128) }).wake c x .fetch
  | .maint => s.updCtx c x fun t => { t with maint := t.maint - 1 }.wakeAcks
  | .red => s.updCtx c x fun t => t.accepted o.req.act
  | _ => s

/-- A near-bank command whose translation failed leaves as a rejected one, for the vault beside the core (14 R315). -/
def State.nbRejected (s : State) (r : Req) (c : NbCmd) (code : Nat) : State :=
  let core := r.who.core % 256
  let q := { r with act := .nb { c with status := code, vault := 4 * (core / 16) + core % 16 / 4 }, va := r.va }
  let x := s.newOut q .red
  (x.2.updCtx core r.who.idx fun t => { t with nbPend := t.nbPend + 1 }).emit x.1.event

/-- The address that a failure names: of a race, the word's (04 R85). -/
def Out.failVa (o : Out) (code i2 : Nat) : Nat :=
  if code = Cause.race.code then o.req.va / 128 * 128 + bitsOf i2 6 0 else o.req.va

/-- An access of a thread has failed. -/
def State.threadFail (s : State) (o : Out) (code i1 i2 : Nat) : State :=
  let c := o.who.core % 256
  let x := o.who.idx
  let va := o.failVa code i2
  match o.purp with
  | .tag => match (s.ctx c x).tag o.id with
    | some g =>
      let late := match o.req.act with
        | .atomic _ form _ _ _ _ _ => form != 1 && code == 0x08
        | _ => false
      if late then (s.tagDone c x g 0#64).lateFailure o.req code i1 i2
      else if let .nb cmd := o.req.act then (s.tagDone c x g 0#64).nbRejected o.req cmd code
      else s.tagTrap c x g code va i1 i2
    | none => s
  | .watch => if (s.ctx c x).wait = .watch o.id then
      s.trapAt c x (causeOf code) (s.ctx c x).pc va i1 i2 else s
  | .buf | .check => if (s.ctx c x).wait = .access o.id then
      s.trapAt c x (causeOf code) (s.ctx c x).pc va i1 i2 else s
  | .soft => if (s.ctx c x).wait = .access o.id then
      (s.updCtx c x fun t => { t with got := t.got ++ [[]] }).wake c x (.access o.id) else s
  | .fetch => if (s.ctx c x).wait = .fetch then
      s.trapAt c x (causeOf code) (s.ctx c x).pc (s.ctx c x).pc.toNat i1 i2 else s
  | .maint => s.updCtx c x fun t => { t with maint := t.maint - 1 }.wakeAcks
  | .probe => s.updCtx c x fun t =>
      if t.wait = .access o.id then { t with wait := .none, noticed := some o.req.va } else t
  | .store => (s.updCtx c x fun t => t.wakeAcks).lateFailure o.req code i1 i2
  | .red => (s.updCtx c x fun t => t.accepted o.req.act).lateFailure o.req code i1 i2
  | _ => s

/-- Does the request bear a GRANT or an ACK_WT, which PENDG counts (03 R69)? -/
def Out.granting (o : Out) : Bool :=
  match o.req.act with
  | .load _ 3 _ => true
  | .store .. => true
  | _ => false

/-- Words of a mask that the core owns, in its near cache or its write-back buffer, keep their local value, which alone is
current (03 R58, R60, R63). -/
def State.keepOwned (s : State) (c : Nat) (o : Out) (mask : Nat) : Out :=
  let merge (l : Option NLine) (d : List Byte) : List Byte :=
    match l with
    | some l => mergeWords d l.data (l.o.toNat &&& mask)
    | none => d
  let k := s.core c
  { o with data := merge (k.nearLine o.req.space (o.req.va / 128)) (merge (k.wbufLine o.req.space (o.req.va / 128)) o.data) }

/-- Are words of a mask on their way to the core for another of its requests, which home has registered before it answered
this one? -/
def State.ownComing (s : State) (o : Out) (mask : Nat) : Bool :=
  s.outs.any fun p => p.who.core == o.who.core && p.id != o.id && p.req.space == o.req.space
    && p.req.va / 128 == o.req.va / 128 && p.owns && p.granted && (p.lacks &&& mask) != 0

/-- A request of a thread that still lacks words or its grant waits on; a complete one takes effect. -/
def State.threadTry (s : State) (o : Out) (again : Ev) : State :=
  let c := o.who.core % 256
  if o.lacks ≠ 0 || (o.owns && !o.granted) then s
  else if o.owns then
    let o := s.keepOwned c o (2 ^ 32 - 1)
    match s.ownFill c o with
    | none => s.updCore c fun k => { k with fills := k.fills ++ [again] }
    | some s1 => (s1.endReq o).threadOk o 0 0
  else (s.endReq o).threadOk o 0 0

/-- The part of an answer that a thread counts once: the tags a home has installed. -/
def State.threadTagSet (s : State) (o : Out) (a : Ans) : State :=
  if a.tagSet ≠ 0 && !o.tagged then
    (s.updOut o.id fun o => { o with tagged := true }).countTag (o.who.core % 256) o.who.idx o.req.tag a.tagSet
  else s

/-- The answer's words taken into the request, with the words that the core owns as they stand there. -/
def State.takeWords (s : State) (o : Out) (a : Ans) : Out :=
  let o1 := { o.absorb a with tagged := o.tagged || a.tagSet != 0 }
  if o.owns then o1 else s.keepOwned (o.who.core % 256) o1 a.mask

/-- FILL at a thread's core (03 R67): copies enter the near cache; with no place for a victim's owned words it waits. -/
def State.threadFill (s : State) (o : Out) (a : Ans) : State :=
  let c := o.who.core % 256
  let r := o.req
  let hint := match r.act with
    | .load _ _ h => h
    | _ => 0
  if s.ownComing o a.mask then s.updCore c fun k => { k with fwds := k.fwds ++ [.fill a] }
  else
    match s.nearFill c r.space (r.va / 128) hint (r.pa / 128) a.mask a.data 0 0 0 (hint != 3) with
    | none => s.updCore c fun k => { k with fills := k.fills ++ [.fill a] }
    | some s1 =>
      let o1 := s1.takeWords o a
      (((s1.releaseFwds c).threadTagSet o a).updOut o.id fun _ => o1).threadTry o1 (.fill a)

/-- Does an answer of a home, or of a registrant, that brings words also put them into the near cache: of a line that the thread's
own load fills, and of the copy that a region-read notice refreshes? -/
def Out.refreshes (o : Out) (alloc : Bool) : Bool :=
  match o.req.act with
  | .load _ pol _ => alloc && !o.nocache && (pol == 0 || pol == 2)
  | .notice true _ => true
  | _ => false

/-- DATA, NOCACHE or a notice's answer at a thread's core: the words are taken. `alloc` is false for NOCACHE, after which nothing
that the load is sent enters the near cache (03 R73). -/
def State.threadData (s : State) (o : Out) (a : Ans) (alloc : Bool) : State :=
  let c := o.who.core % 256
  let r := o.req
  match a.st with
  | .fail code i1 i2 =>
    let s1 := if o.granting && !o.granted && o.left then s.updCtx c o.who.idx fun t => { t with pendg := t.pendg - 1 } else s
    (s1.endReq o).threadFail o code i1 i2
  | .ok =>
    if !o.owns && s.ownComing o a.mask then
      s.updCore c fun k => { k with fwds := k.fwds ++ [if alloc then .data a else .nocache a] }
    else
    let s0 := s.threadTagSet o a
    let o1 := { s.takeWords o a with nocache := o.nocache || !alloc }
    let s1 := if o1.refreshes alloc then (s0.nearFill c r.space (r.va / 128) 3 (r.pa / 128) a.mask a.data 0 0 0 false).getD s0
      else s0
    match r.act with
    | .watch _ => s1
    | .counter .. =>
      match o.purp with
      | .buf => (s1.endReq o).threadOk (o.withBytes (toBytes a.value 8)) a.value a.flags
      | _ => (s1.endReq o).threadOk o a.value a.flags
    | .translate _ =>
      match o.purp with
      | .probe =>
        let there := o.who.cube
        (s1.endReq o).updCtx c o.who.idx fun t =>
          if t.wait = .access o.id then
            (if a.n = there then { t with wait := .none, noticed := some r.va }
             else { t with wait := .none, departing := some (r.va, a.value) })
          else t
      | _ => (s1.endReq o).threadOk (o.withBytes (toBytes a.value 8)) a.value a.flags
    | .atomic .. | .unwatch _ | .maint .. | .nb _ | .red .. =>
      (s1.endReq o).threadOk o a.value a.flags
    | .store .. => if o.owns then (s1.updOut o.id fun _ => o1).threadTry o1 (.data a)
        else (s1.endReq o).threadOk o1 0 0
    | _ => (s1.updOut o.id fun _ => o1).threadTry o1 (.data a)

/-- GRANT at a thread's core (03 R69). -/
def State.threadGranted (s : State) (o : Out) (a : Ans) : State :=
  let s1 := if o.granted then s else s.threadGrant o a.n
  let o1 := { s1.takeWords o a with granted := true, poison := o.poison ||| a.flags }
  ((s1.threadTagSet o a).updOut o.id fun _ => o1).threadTry o1 (.grant a)

/-- A store through copies of its own core: a valid COPY takes the bytes, and so does an owned word, which stays owned and whose
dirty bit falls, as home has the word's value (03 Table 3.7); only where that value has not been sent whole it stays. -/
def State.storeCopies (s : State) (r : Req) : State :=
  match r.act with
  | .store pol _ d =>
    if pol = 3 || r.who.kind ≠ .thread then s
    else
      s.updCore (r.who.core % 256) fun k => k.updNear r.space (r.va / 128) fun l =>
        let m := wordMask r.va d.length
        { l with data := mergeWords l.data (overlay l.data (r.va % 128) d) (m &&& l.v.toNat),
                 d := l.d &&& ~~~(maskBV (if r.under.isEmpty then fullMask r.va d.length else m)) }
  | _ => s

/-- The word that a narrower store lies in, as the core owns it dirty: it goes to home with the store, whose word then is
clean (03 Table 3.7). -/
def State.underStore (s : State) (r : Req) : List Byte :=
  match r.act with
  | .store pol _ d =>
    let w := r.va % 128 / 4
    if pol = 3 || r.who.kind ≠ .thread || r.va % 4 + d.length = 4 && r.va % 4 = 0 || 4 < r.va % 4 + d.length then []
    else match (s.core (r.who.core % 256)).nearLine r.space (r.va / 128) with
      | some l => if l.o.getLsbD w && l.d.getLsbD w then (l.data.drop (4 * w)).take 4 else []
      | none => []
  | _ => []

/-- ACK_WT at a thread's core (03 R69). -/
def State.threadAckWt (s : State) (o : Out) (a : Ans) : State :=
  let s1 := ((s.threadGrant o a.n).threadTagSet o a).endReq o
  (if o.req.writeCk then s1.storeCopies o.req else s1).threadOk o 0 0

/-- WB_ACK at a core (03 R63, R71): the entry is freed, and an eviction that waited for it goes on. -/
def doWbAck (m : CohMsg) (s : State) : State :=
  if m.host then s.dropOut m.wid else
  let c := m.agent % 256
  let o := s.outs.find? fun o => o.id == m.wid
  let s1 := (s.updCore c fun k =>
    { k with wbuf := k.wbuf.eraseP fun l => l.space == m.space && l.vline == m.vline }).dropOut m.wid
  let s2 := match o with
    | some q => match q.purp with
      | .maint => s1.updCtx c q.req.org.ctx fun t => { t with maint := t.maint - 1 }.wakeAcks
      | _ => s1
    | none => s1
  s2.emit (.wbBufferRetry c)

/-- BOUNDARY_SERIAL_WAIT (04 R83, R87): the boundaries that a context has reached retire as far as they may, and an instruction
that is one goes on when it may. -/
def doBoundarySerialWait (core ctx : Nat) (s : State) : State :=
  let s1 := s.payBoundaries core ctx (s.ctx core ctx).bdue
  if (s1.ctx core ctx).bdue = 0 && s1.serialClear core ctx then s1.wake core ctx .serial else s1

/-- WB_BUFFER_RETRY (03 R63): the fills and maintenance that waited for a place are tried again, in order. -/
def doWbBufferRetry (core : Nat) (s : State) : State :=
  let k := s.core core
  let s1 := (s.setCore core { k with fills := [] }).emitFirst k.fills
  s1.updCore core fun k =>
    { k with ctxs := k.ctxs.map fun p => (p.1, if p.2.wait = .wbuf then { p.2 with wait := .none } else p.2) }

end Sys2Proof.Machine
end

