-- ==== Sys2Proof/Machine/Translate.lean ====
section
/-! DEFINITION. Translation under leases (05): sections, walks of the native and hashed formats, the end of a walk,
permission checks, parked accesses, and the lease clock's events. -/

namespace Sys2Proof

/-- What an access needs of its page: read, write, execute (05 R109). -/
def Act.needs : Act → Bool × Bool × Bool
  | .load .. => (true, false, false)
  | .store .. => (false, true, false)
  | .fetch => (false, false, true)
  | .atomic .. => (true, true, false)
  | .counter op _ => (true, decide (op < 2), false)
  | .watch _ | .unwatch _ => (true, false, false)
  | .notice _ w => (!w, w, false)
  | .maint .. => (true, false, false)
  | .translate c => (c == 0, c == 1, c == 2)
  | .red .. => (false, true, false)
  | .nb _ => (true, true, false)
  | .wb .. => (false, false, false)

/-- The bytes that a request asks for; 0 of one that is for no word. -/
def Req.size (r : Req) : Nat :=
  match r.act with
  | .load n _ _ => n
  | .store _ _ d => d.length
  | .maint _ n => n
  | .red .. => 256
  | .counter .. | .watch _ => 8
  | .atomic _ _ ty _ _ _ _ => if ty == .i64 || ty == .n64 then 8 else 4
  | .notice .. => 4 * (Machine.maskWords r.words).length
  | .fetch | .unwatch _ | .translate _ | .nb _ | .wb .. => 0

/-- Do two translated requests ask for a common word (06 R140)? -/
def Req.overlaps (a b : Req) : Bool :=
  a.size != 0 && b.size != 0 && decide (a.pa / 4 * 4 < b.pa + b.size) && decide (b.pa / 4 * 4 < a.pa + a.size)

/-- Is a failed translation of the access passed over: a piece of maintenance or of `pref` (12 R248)? -/
def Req.spareFaults (r : Req) : Bool :=
  r.probe || match r.act with
    | .maint .. => true
    | _ => false

/-- The class of an access's walk: 0 read, 1 write, 2 execute (05 R103). -/
def Act.cls (a : Act) : Nat := if a.needs.2.2 then 2 else if a.needs.2.1 then 1 else 0

end Sys2Proof

namespace Sys2Proof.Machine

/-! Sections. -/

/-- The section of an access (05 R95). -/
def sectionOf (space va : Nat) : Nat :=
  foldXor 6 (bitsOf va 47 12) 6 ^^^ bitsOf space 5 0 ^^^ bitsOf space 11 6 ^^^ bitsOf space 15 12

/-- The set of a page of size z within a section (05 R95). -/
def sectSet (z va : Nat) : Nat := foldXor 8 (bitsOf va 47 (12 + 9 * z)) 5

/-- Bytes of a page of size z. -/
def pageBytes (z : Nat) : Nat := 4096 * 512 ^ z

/-- The page number VA[47:12] of the page base of size z. -/
def pageVpn (z va : Nat) : Nat := va / pageBytes z * 512 ^ z

/-- Is an entry live at a slice's lease count (05 R96)? -/
def SEnt.live (e : SEnt) (now : Nat) : Bool :=
  let d := (e.exp + 2 ^ 32 - now % 2 ^ 32) % 2 ^ 32
  decide (1 ≤ d) && decide (d ≤ 2 ^ 31)

/-- A slice's copy of the lease clock (05 R106). -/
def State.sliceNow (s : State) (k : Nat) : Nat := ((s.leaseNow : Int) + (s.slice k).skew).toNat

/-- The physical address of a space's descriptor (05 R98). -/
def State.sdAddr (s : State) (space : Nat) : Nat := fld s.regs.spaceTbl 51 22 * 2 ^ 22 + 64 * space
/-- Lease counts of a lease code. -/
def leaseCounts (n : Nat) : Nat := if n = 0 then 0 else 1024 * 2 ^ (n - 1)

/-- The core's copy of a space descriptor: SD0 and SD1 read for context `x` at a lease count. The copy serves the step
that takes it, and then for a lease of code LMAX (05 R98). A trap entry that waited for it is taken. -/
def State.setDesc (s : State) (c x sd0 sd1 since : Nat) : State :=
  let t := s.ctx c x
  let t1 := { t with
    rdet := bitOf sd0 59, trapVa := sd1, sdFresh := false, sdTrap := false
    sdExp := max (s.leaseNow + 1) (since + leaseCounts (bitsOf sd0 57 54)) }
  if t.sdTrap then
    (if sd1 = 0 then s.noTrapEntry c x t1 else s.setCtx c x { t1 with pc := BitVec.ofNat 64 sd1 })
  else s.setCtx c x t1

/-- A word that cannot be read counts as 0. -/
def Peek.value : Peek → Nat
  | .val v => v
  | _ => 0

/-- The descriptor read in the step, where this cube holds it. -/
def State.readDescNow (s : State) (c x : Nat) : Option State :=
  let a := s.sdAddr (s.ctx c x).space
  match s.peek a, s.peek (a + 8) with
  | .need, _ => none
  | _, .need => none
  | u, v => some (s.setDesc c x u.value v.value s.leaseNow)

/-- The core reads RDET and TRAP when a thread starts, resumes or returns (05 R98): now, or before the next instruction. -/
def State.readDescriptor (s : State) (c x : Nat) : State :=
  match s.readDescNow c x with
  | some s1 => s1
  | none => s.updCtx c x fun t => { t with sdExp := 0, sdFresh := false }

/-- The state in which a thread with a live copy of its descriptor issues; none where the copy must be read elsewhere. -/
def State.descReady (s : State) (c x : Nat) : Option State :=
  let t := s.ctx c x
  if t.sdLive s.leaseNow then some s
  else if t.sdFresh then some (s.setCtx c x { t with sdFresh := false, sdExp := s.leaseNow + 1 })
  else s.readDescNow c x

/-- The request for the descriptor of a thread's space; the thread waits. -/
def State.sendDesc (s : State) (c x : Nat) : State :=
  let id := s.tick
  let s1 := s.fetchWord { kind := .walker, core := s.gcore c, idx := x } (s.sdAddr (s.ctx c x).space) 16 (.desc c x id)
  s1.updCtx c x fun t => { t with wait := .sd id }

/-- The descriptor that a thread waits for has come; one that cannot be read counts as zeros. -/
def State.descAnswer (s : State) (c x id : Nat) (data : List Byte) (since : Nat) : State :=
  if (s.ctx c x).wait = .sd id then
    ((s.setDesc c x (ofBytes (data.take 8)) (ofBytes (data.drop 8)) since).updCtx c x fun t => { t with sdFresh := true }).wake
      c x (.sd id)
  else s

/-- Is a space valid, with GOK, as a section knows it: by the descriptor as it stands, where this cube holds it, else by the
section's copy while it lasts (05 R98)? -/
def State.gokAt (s : State) (k space : Nat) : Bool :=
  match s.peek (s.sdAddr space) with
  | .val v => bitOf v 63 && bitOf v 58
  | .bad => false
  | .need =>
    let d := tblGet (s.slice k).sds space (0, 0)
    decide (s.sliceNow k < d.2) && bitOf d.1 63 && bitOf d.1 58

/-- The live entry that serves an access (05 R96, R98). -/
def State.sectHit (s : State) (k space va : Nat) : Option SEnt :=
  (s.slice k).sect.find? fun e =>
    e.live (s.sliceNow k) && e.vpn == pageVpn e.size va
      && (e.space == space || (e.g && s.gokAt k e.space && s.gokAt k space))

/-! Page-table entries (05 Table 5.3). -/

/-- R, W, X of an entry. -/
def pteRWX (p : Nat) : Nat := bitsOf p 3 1
/-- FRAME. -/
def pteFrame (p : Nat) : Nat := bitsOf p 51 12
/-- Is the entry malformed at a level (05 R99)? -/
def pteBad (p lvl : Nat) : Bool :=
  bitOf p 0 && (bitsOf p 53 52 != 0 || bitOf p 8 || (pteRWX p != 0 && decide (2 ≤ bitsOf p 55 54))
    || (bitOf p 2 && !bitOf p 1)
    || (pteRWX p != 0 && (lvl == 3 || (lvl == 1 && pteFrame p % 512 != 0) || (lvl == 2 && pteFrame p % 2 ^ 18 != 0))))

/-- The result of a walk: mapped with the leaf, its address and size; unmapped with the level and the entry's address;
malformed; a space whose descriptor is not valid; or the address of a word that has first to be read elsewhere. -/
inductive WalkRes where
  | mapped (pte paddr size : Nat)
  | unmapped (level info : Nat)
  | malformed
  | invalid
  | need (pa : Nat)
  deriving DecidableEq, Repr

/-- `walk_native` of 05 R100, from level `lvl` downward, with the words that the walk has read elsewhere. -/
def State.walkNative (s : State) (known : List (Nat × Option Nat)) (va : Nat) : Nat → Nat → WalkRes
  | table, 0 =>
    let a := table + bitsOf va 20 12 * 8
    match s.peekKnown known a with
    | .need => .need a
    | .bad => .malformed
    | .val pte =>
      if !bitOf pte 0 then .unmapped 0 a
      else if pteBad pte 0 || pteRWX pte == 0 then .malformed
      else .mapped pte a 0
  | table, lvl + 1 =>
    let a := table + bitsOf va (12 + 9 * (lvl + 1) + 8) (12 + 9 * (lvl + 1)) * 8
    match s.peekKnown known a with
    | .need => .need a
    | .bad => .malformed
    | .val pte =>
      if !bitOf pte 0 then .unmapped (lvl + 1) a
      else if pteBad pte (lvl + 1) then .malformed
      else if pteRWX pte != 0 then .mapped pte a (lvl + 1)
      else s.walkNative known va (pteFrame pte * 4096) lvl

/-- The slots of one bucket, from slot `8 - k` (05 R101): the match, or malformed, or none. -/
def State.hashSlots (s : State) (known : List (Nat × Option Nat)) (bucket z page : Nat) : Nat → Option WalkRes
  | 0 => none
  | k + 1 =>
    let a := bucket + 16 * (7 - k)
    match s.peekKnown known a with
    | .need => some (.need a)
    | .bad => some .malformed
    | .val tag =>
      if !bitOf tag 63 then s.hashSlots known bucket z page k
      else if bitsOf tag 60 36 != 0 || bitsOf tag 62 61 == 3 then some .malformed
      else if bitsOf tag 62 61 == z && bitsOf tag 35 0 == page then
        match s.peekKnown known (a + 8) with
        | .need => some (.need (a + 8))
        | .bad => some .malformed
        | .val pte =>
          if !bitOf pte 0 then some (.unmapped 15 0)
          else if pteBad pte z || pteRWX pte == 0 then some .malformed
          else some (.mapped pte (a + 8) z)
      else s.hashSlots known bucket z page k

/-- The walk of the hashed format (05 R101), probing z = 0, 1, 2. -/
def State.walkHashed (s : State) (known : List (Nat × Option Nat)) (va root hlog : Nat) : Nat → WalkRes
  | 0 => .unmapped 15 0
  | k + 1 =>
    let z := 2 - k
    let key := bitsOf va 47 (12 + 9 * z) ^^^ (z * 2 ^ 34)
    let b := if hlog = 0 then 0 else foldXor hlog key 40
    match s.hashSlots known (root + 128 * b) z (pageVpn z va) 8 with
    | some r => r
    | none => s.walkHashed known va root hlog k

/-! Walks (05 R97, R102). -/

/-- A new walk for an access. -/
def State.newWalk (s : State) (r : Req) (bypass noInstall : Bool) : State :=
  let n := s.newId
  let k := sectionOf r.space r.va
  let w : Walk :=
    { id := n.1, sect := k, space := r.space, vpn := bitsOf r.va 47 12, cls := r.act.cls, accs := [r],
      noInstall := noInstall, bypass := bypass, hart := none, start := 0, restarts := 0, begun := 0 }
  { n.2 with walks := n.2.walks ++ [w] }.emit .walkDispatch

/-- Does a leaf allow an access (05 R109; 01 R24, R26)? Maintenance and `pref` ask for R in task mode alone (12 R248). -/
def leafAllows (pte : Nat) (r : Req) : Bool :=
  let n := r.act.needs
  let n := (n.1 && (r.task || !r.spareFaults), n.2)
  let counter := bitOf pte 11
  (!n.1 || bitOf pte 1) && (!n.2.1 || (bitOf pte 2 && bitOf pte 7)) && (!n.2.2 || bitOf pte 3)
    && (!r.task || bitOf pte 4) && !(bitOf pte 9 && counter)
    && (match r.act with
      | .counter .. | .watch _ | .unwatch _ => counter
      | .store .. | .atomic .. | .red .. | .notice false true | .translate 1 => !counter
      | _ => true)

/-- The outcome of a thread's access that has been translated: the request leaves the core. A store that no check
holds back retires now (12 R244). -/
def State.leaves (s : State) (r : Req) : State :=
  match s.out r.who r.id with
  | none => s
  | some o =>
    if r.who.kind ≠ .thread || r.again then s
    else
      let c := r.who.core % 256
      let x := r.who.idx
      let s1 := if o.granting then
          (s.updCtx c x fun t => { t with pendg := t.pendg + 1 }).updOut r.id fun o => { o with left := true }
        else s
      match o.purp with
      | .tag =>
        let isStore := match r.act with
          | .store .. => true
          | _ => false
        let engine := match r.act with
          | .red .. | .nb _ => true
          | _ => false
        if engine then
          (s1.updCtx c x fun t =>
            let b := ((t.tag r.id).map fun g => g.bound).getD false
            let t0 := t.endTag r.id
            let t1 := match r.act with
              | .nb _ => { t0 with nbPend := t.nbPend + 1 }
              | _ => { t0 with engOut := t.engOut + 1 }
            if b then t1.boundary else t1).updOut r.id fun o => { o with purp := .red }
        else if isStore && !(r.readCk || r.writeCk) then
          (s1.updCtx c x fun t => t.endTag r.id).updOut r.id fun o => { o with purp := .store }
        else s1.updCtx c x fun t =>
          { t with tags := t.tags.map fun p => (p.1, if p.2.id = r.id then { p.2 with left := true } else p.2) }
      | .buf =>
        let isStore := match r.act with
          | .store .. => true
          | _ => false
        if isStore && !(r.readCk || r.writeCk) then
          ((s1.updCtx c x fun t => { t with got := t.got ++ [[]] }).wake c x (.access r.id)).updOut r.id fun o =>
            { o with purp := .store }
        else s1
      | .maint => s1.updCtx c x Ctx.wakeAcks
      | _ => s1

/-- The physical address of an access under a leaf. -/
def leafPa (pte size va : Nat) : Nat := pteFrame pte * 4096 + va % pageBytes size

/-- Must a thread's request be held at its source (06 R140; 12 R243): is an earlier one of its context to a common word
outstanding, or one whose instruction has yet to learn which word it is for? -/
def State.mustHold (s : State) (r : Req) : Bool :=
  r.who.kind == .thread && !r.again && r.size != 0 && s.outs.any fun o =>
    o.who == r.who && decide (o.id < r.id) && (if o.req.exp.isSome then o.req.overlaps r else o.purp == .tag)

/-- A request that has waited for the fault queue no longer does; the next one's walk is repeated (05 R118). -/
def State.endFaultTurn (s : State) (id : Nat) : State :=
  if s.faultTurn = some id then
    (if s.faultWait.isEmpty then { s with faultTurn := none } else { s with faultTurn := none }.emit .faultWaitRetry)
  else s

/-- An access under its leaf (05 R108, R109; 01 R24, R26): memory type and COUNTER choose the policy, the address is
formed, and the request goes to its home. -/
def State.translated (s : State) (r : Req) (pte size exp : Nat) : State :=
  let pa := leafPa pte size r.va
  let counter := bitOf pte 11
  let mt1 := bitsOf pte 55 54 == 1
  let act := match r.act with
    | .load n pol h => if mt1 then .load n 1 3 else if counter then .load n 1 h else .load n pol h
    | .store pol h d => if mt1 then .store 1 h d else .store pol h d
    | a => a
  let comp := size == 1 && bitOf pte 10 && !counter && bitOf pte 9
    && ((s.layout pa).map fun p => decide (21 ≤ p.gran)).getD false
  let r0 := { r with act := act, pa := pa, pin := bitOf pte 10, compute := comp, exp := some exp, turn := false }
  let r1 := { r0 with under := s.underStore r0 }
  let s1 := (s.updOut r.id fun o => { o with req := { r1 with again := false, reseq := none } }).endFaultTurn r.id
  match s.layout pa with
  | none => s1.emit (.data (r1.fail .accessError 0 0))
  | some p =>
    if s.mustHold r1 then { s1 with reqWait := s1.reqWait ++ [r] } else
    match r.act with
    | .translate _ => s1.emit (.data { r1.ans .ok with value := pa, n := p.cube, mask := p.local_ })
    | .watch _ | .unwatch _ => (s1.leaves r1).toHome r1
    | .store .. =>
      let s2 := s1.leaves r1
      (if r1.writeCk || r.again then s2 else s2.storeCopies r1).toHome r1
    | _ => (s1.leaves r1).toHome r1

/-- Is the lease of a request's translation over (05 R108)? -/
def State.leaseOver (s : State) (r : Req) : Bool :=
  match r.exp with
  | some e =>
    let d := (e + 2 ^ 32 - s.sliceNow (sectionOf r.space r.va) % 2 ^ 32) % 2 ^ 32
    !(decide (1 ≤ d) && decide (d ≤ 2 ^ 31))
  | none => false

/-- PERMISSION for an access (16 Table 16.2). -/
def State.denied (s : State) (r : Req) : State :=
  (s.endFaultTurn r.id).emit (.data (r.fail .permission r.act.cls 0))

/-- A miss of a section starts a walk, or waits, in order of arrival, while 64 are outstanding there (05 R97). -/
def State.startWalk (s : State) (r : Req) (bypass : Bool) : State :=
  let k := sectionOf r.space r.va
  if 64 ≤ (s.walks.filter fun w => w.sect == k).length || (!r.turn && !(s.slice k).sectWait.isEmpty) then
    s.updSlice k fun sl => { sl with sectWait := if r.turn then r :: sl.sectWait else sl.sectWait ++ [r] }
  else s.newWalk { r with turn := false } bypass r.noInstall

/-- The miss that has waited longest at a section is looked up again when a walk can be started there (05 R97). -/
def State.serveSection (s : State) (k : Nat) : State :=
  match (s.slice k).sectWait with
  | [] => s
  | r :: rest =>
    if 64 ≤ (s.walks.filter fun w => w.sect == k).length then s
    else (s.updSlice k fun sl => { sl with sectWait := rest }).emitFirst [.sectionLookup { r with turn := true }]

/-- A live entry, or the result of a walk that the access merged into, denies it: a fresh walk for its own class decides (05 R97,
R110), but for a piece of maintenance or of `pref`, which is passed over (12 R248). -/
def State.refusedEntry (s : State) (r : Req) : State :=
  if r.spareFaults || r.fresh then s.denied r else s.startWalk { r with fresh := true } true

/-- SECTION_LOOKUP (05 R97, R110): a live entry serves the access, a denied one walks afresh for its own class, and a
miss merges into a walk of the page, starts one, or waits while 64 are outstanding. An entry with less than one grain of
lease left does not serve a streamer, routing engine or the task unit (05 R112). -/
def doSectionLookup (r : Req) (s : State) : State :=
  let k := sectionOf r.space r.va
  let unit := r.who.kind == .streamer || r.who.kind == .engine || r.who.kind == .taskUnit
  let enough (e : SEnt) : Bool := !unit || decide (1024 ≤ (e.exp + 2 ^ 32 - s.sliceNow k % 2 ^ 32) % 2 ^ 32)
  let hit := if r.fresh then none else (s.sectHit k r.space r.va).filter enough
  let s2 := match hit with
    | some e =>
      let s1 := s.updSlice k fun sl => { sl with sect := e :: sl.sect.filter fun x => x != e }
      if leafAllows e.pte.toNat r then s1.translated r e.pte.toNat e.size e.exp else s1.refusedEntry r
    | none =>
      if r.fresh then s.startWalk r true
      else
        match s.walks.find? fun w => w.sect == k && w.space == r.space && w.vpn == bitsOf r.va 47 12
            && !w.bypass && !w.noInstall with
        | some w =>
          { s with walks := s.walks.map fun x => if x.id = w.id then { x with accs := x.accs ++ [{ r with turn := false }] } else x }
        | none => s.startWalk r false
  if r.turn then s2.serveSection k else s2

/-- The walk with a number. -/
def State.walk (s : State) (id : Nat) : Option Walk := s.walks.find? fun w => w.id == id
/-- It is changed. -/
def State.updWalk (s : State) (id : Nat) (f : Walk → Walk) : State :=
  { s with walks := s.walks.map fun w => if w.id = id then f w else w }

/-- The first of the 512 walk contexts that is free. -/
def State.freeHart (s : State) : Option Nat := (countUp 0 512).find? fun h => !(s.harts.any fun p => p.1 == h)

/-- A walk context as a walk takes it: registers 0 (05 R102). -/
def HartCtx.start (walk h : Nat) : HartCtx :=
  { walk := walk, x := [], pc := 0#64, nwspace := 0#64, nwva := 0#64, nwclass := 0#64, nwsdp := 0#64, nwstart := 0#64,
    nwctx := BitVec.ofNat 64 h, nwpte := 0#64, nwpaddr := 0#64, nwsize := 0#64, nwinfo := 0#64 }

/-- Is a space descriptor malformed (05 R98)? -/
def sdBad (sd0 sd1 : Nat) (rest : List Nat) : Bool :=
  bitsOf sd0 53 52 != 0 || bitsOf sd0 5 0 != 0 || (bitsOf sd0 62 60 == 1 && decide (33 < bitsOf sd0 11 6))
    || bitsOf sd1 63 48 != 0 || bitsOf sd1 1 0 != 0 || rest.any fun w => w != 0

/-- The words of a descriptor from word `8 - k` on, or what a walk lacks of them. -/
def State.descWords (s : State) (known : List (Nat × Option Nat)) (a : Nat) : Nat → List Nat ⊕ WalkRes
  | 0 => .inl []
  | k + 1 => match s.peekKnown known (a + 8 * (7 - k)) with
    | .need => .inr (.need (a + 8 * (7 - k)))
    | .bad => .inr (if (s.layout a).isNone then .invalid else .malformed)
    | .val v => match s.descWords known a k with
      | .inl r => .inl (v :: r)
      | .inr e => .inr e

/-- WALK_ENTRY of a format, in the walk store (05 R102); 0 for a format without a routine, whose walks end MALFORMED (17 R358). -/
def State.walkEntry (s : State) (fmt : Nat) : Nat := ofBytes (memRead s.walkStore (8 * fmt) 8)

/-- What a walk comes to by the descriptor and, for formats 0 and 1, the tables: its descriptor's SD0, and the result; none
for a format whose routine a hart runs (05 R98, R100, R101). -/
def State.walkResult (s : State) (w : Walk) : Nat × Option WalkRes :=
  let va := ((w.accs.head?).map fun r => r.va).getD (w.vpn * 4096)
  match s.descWords w.known (s.sdAddr w.space) 8 with
  | .inr e => (0, some e)
  | .inl sd =>
    let sd0 := nthD sd 0 0
    let fmt := bitsOf sd0 62 60
    (sd0,
      if !bitOf sd0 63 then some .invalid
      else if sdBad sd0 (nthD sd 1 0) (sd.drop 4) || s.walkEntry fmt = 0 then some .malformed
      else if fmt = 0 then some (s.walkNative w.known va (bitsOf sd0 51 12 * 4096) 3)
      else if fmt = 1 then some (s.walkHashed w.known va (bitsOf sd0 51 12 * 4096) (bitsOf sd0 11 6) 3)
      else none)

/-- The load of a walk for a word that another cube's home, or a holder elsewhere, has (05 R102). -/
def State.walkLoad (s : State) (w : Walk) (pa : Nat) : State :=
  s.fetchWord { kind := .walker, core := s.cubeId * 256, idx := w.hart.getD 0 } pa 8 (.walk w.id pa)

/-- A walk context goes on with its walk: the routines of formats 0 and 1 behave as 05 R100 and R101 give; another format's
routine begins at its entry. -/
def State.runWalk (s : State) (w : Walk) : State :=
  let r := s.walkResult w
  let h := w.hart.getD 0
  let s1 := (s.updWalk w.id fun w => { w with sd0 := r.1 }).updSlice w.sect fun k =>
    { k with sds := if r.1 = 0 then k.sds else tblSet k.sds w.space (r.1, w.start + leaseCounts (bitsOf r.1 57 54)) }
  match r.2 with
  | some (.mapped p a z) => s1.emit (.nwdone w.id 0 p a z 0 0)
  | some (.unmapped l i) => s1.emit (.nwdone w.id 1 0 0 0 i l)
  | some .malformed => s1.emit (.nwdone w.id 2 0 0 0 0 0)
  | some .invalid => s1.emit (.nwdone w.id 3 0 0 0 0 0)
  | some (.need pa) => s1.walkLoad w pa
  | none =>
    let x := tblGet s.harts h (HartCtx.start w.id h)
    { s1 with harts := tblSet s1.harts h { x with pc := BitVec.ofNat 64 (s.walkEntry (bitsOf r.1 62 60)) } }.emit (.walkerHartInstruction h)

/-- WALK_DISPATCH (05 R102): the oldest waiting walk takes a free walk context. -/
def doWalkDispatch (s : State) : State :=
  match s.walks.find? fun w => w.begun == 0 with
  | none => s
  | some w =>
    match s.freeHart with
    | none => s
    | some h =>
      let w1 := { w with begun := 1, hart := some h, start := s.sliceNow w.sect, known := [], sd0 := 0 }
      let va := ((w.accs.head?).map fun r => r.va).getD (w.vpn * 4096)
      let x : HartCtx :=
        { HartCtx.start w.id h with
          nwspace := BitVec.ofNat 64 w.space, nwva := BitVec.ofNat 64 va, nwclass := BitVec.ofNat 64 w.cls
          nwsdp := BitVec.ofNat 64 (s.sdAddr w.space), nwstart := BitVec.ofNat 64 w1.start }
      let s1 := ({ s with harts := tblSet s.harts h x }.updWalk w.id fun _ => w1).runWalk w1
      if w.restarts = 0 then s1.later (ceilDiv 1048576 14) (.walkTimeout w.id) else s1

/-! The end of a walk. -/

/-- Does an entry serve a space and address while it is live: one of the space itself, or a global one (05 R96, R98)? -/
def SEnt.covers (e : SEnt) (space va : Nat) : Bool := e.vpn == pageVpn e.size va && (e.space == space || e.g)

/-- An installed leaf (05 R107): the least recently used or a dead way gives place. -/
def Slice.install (k : Slice) (now : Nat) (e : SEnt) : Slice :=
  let mine (x : SEnt) : Bool := x.size == e.size && x.vpn == e.vpn && x.space == e.space
  let inSet (x : SEnt) : Bool := sectSet x.size (x.vpn * 4096) == sectSet e.size (e.vpn * 4096)
  let l := k.sect.filter fun x => !mine x
  if (l.filter inSet).length < 16 then { k with sect := e :: l }
  else
    let v := match l.find? fun x => inSet x && !x.live now with
      | some d => some d
      | none => lruOf inSet l
    { k with sect := e :: l.filter fun x => some x != v }

/-- A new fault waits, in order of arrival; one whose walk has been repeated in vain stays the first (05 R118). -/
def State.faultHold (s : State) (r : Req) : State :=
  if s.faultTurn = some r.id then { s with faultTurn := none, faultWait := { r with turn := false } :: s.faultWait }
  else { s with faultWait := s.faultWait ++ [{ r with turn := false }] }

/-- A fault's entry is appended to the fault queue at a produced count: the access takes a pending slot (05 R115, R118). -/
def State.parkAt (s : State) (r : Req) (level info produced : Nat) : State :=
  let attached := (s.faults.map fun p => if p.2.pending then p.2.accs.length else 0).foldl (· + ·) 0
  match (countUp 0 256).find? fun k => !((tblGet s.faults k ⟨0, false, 0, 0, 0, [], 0, 0, false⟩).pending) with
  | none => s.faultHold r
  | some k =>
    if s.regs.queueFull 1 produced || decide (4096 ≤ attached) then s.faultHold r
    else
      let cls := r.act.cls
      let gen := ((tblGet s.faults k ⟨0, false, 0, 0, 0, [], 0, 0, false⟩).gen + 1) % 256
      let f : PFault :=
        { gen := gen, pending := true, space := r.space, vpn := bitsOf r.va 47 12, cls := cls, accs := [r],
          record := s.regs.recordAt 1 produced 64, count := 1, writing := true }
      let thread := r.who.kind == .thread
      let fq1 := putBits (gen * 256 + k) 48 16 + putBits cls 46 2 + putBits (b2n (!thread)) 44 2
        + putBits level 40 4 + putBits (if thread then r.who.core else r.who.core / 256 * 256) 20 20
        + putBits (if thread then r.who.idx else 0) 15 5
      ({ s with faults := tblSet s.faults k f }.appendRecord 1 produced
        [putBits r.space 48 16 + r.va % 2 ^ 48, fq1, 1, s.sliceNow (sectionOf r.space r.va), info, 0, 0, 0]).endFaultTurn r.id

/-- The access is parked with a pending fault, or waits for one behind those that came before (05 R115, R118). A thread with a
LEASE_SKEW pending takes it now (16 R339). -/
def State.park (s : State) (r : Req) (level info : Nat) : State :=
  let c := r.who.core % 256
  let s := if r.who.kind = .thread && (s.ctx c r.who.idx).skew.isSome then s.emit (.leaseSkewDelivery c r.who.idx) else s
  let q := s.regs.queue 1
  if r.spareFaults || q.1 = 0 then (s.endFaultTurn r.id).emit (.data (r.fail .accessError 0 0))
  else
    match s.faults.find? fun p => p.2.pending && p.2.space == r.space && p.2.vpn == bitsOf r.va 47 12
        && p.2.cls == r.act.cls with
    | some p =>
      let s1 := { s with faults := tblSet s.faults p.1 { p.2 with accs := p.2.accs ++ [r], count := p.2.count + 1 } }.endFaultTurn
        r.id
      if p.2.writing then s1 else s1.requestPa (countUpReq (s.queueAgent 1) p.2.record 1) (.quiet 7 0)
    | none =>
      let mine := s.faultTurn = some r.id
      if s.queueBusy.contains 1 || (!mine && (s.faultTurn.isSome || !s.faultWait.isEmpty)) then s.faultHold r
      else match s.fltNext, s.peek q.2.2.1 with
        | some v, _ => { s with fltNext := none }.parkAt r level info v
        | none, .val v => s.parkAt r level info v
        | none, .bad => s.faultHold r
        | none, .need => { s.faultHold r with queueBusy := 1 :: s.queueBusy }.fetchWord (s.queueAgent 1) q.2.2.1 8 (.produced 1)

/-- One access merged into a walk that ended MAPPED: served, or denied and walked afresh once (05 R97, R110). -/
def State.serveMapped (s : State) (pte size exp : Nat) (r : Req) : State :=
  if leafAllows pte r then s.translated r pte size exp else s.refusedEntry r

/-- One access merged into a walk that found no valid result. -/
def State.serveBad (s : State) (i1 kind : Nat) (r : Req) : State :=
  (s.endFaultTurn r.id).emit (.data (r.fail .accessError i1 kind))

/-- The walk and its context end; the walks and misses that waited go on. -/
def State.endWalk (s : State) (w : Walk) : State :=
  let s1 := { s with walks := s.walks.filter fun x => x.id != w.id,
                     events := match w.hart with
                       | some h => s.events.filter fun e => e != Ev.walkerHartInstruction h
                       | none => s.events,
                     harts := match w.hart with
                       | some h => tblDel s.harts h
                       | none => s.harts }
  let s2 := if s1.walks.any fun x => x.begun == 0 then s1.emit .walkDispatch else s1
  s2.serveSection w.sect

/-- A walk ends MALFORMED: its accesses fail, with a record (05 R104). -/
def State.walkBad (s : State) (w : Walk) : State :=
  (w.accs.foldl (fun s r => s.serveBad 1 1 r) (s.endWalk w)).report
    { org := ⟨s.cubeId * 256, 0, 0⟩, source := 7, code := Cause.accessError.code, space := w.space, addr := w.vpn * 4096,
      hcube := s.cubeId, local_ := 0, ident := 0, detail := 1 }

/-- A walk ends MAPPED with its leaf: installed under its lease, that of a fresh walk in place of what served the page, and its
accesses served (05 R104, R107, R110). -/
def State.walkMapped (s : State) (w : Walk) (need size : Nat) : State :=
  let n := if s.regs.refLost then 0
    else min (bitsOf need 63 60) (min (bitsOf w.sd0 57 54) (fld s.regs.leaseCtl 3 0))
  let exp := w.start + leaseCounts n
  let s0 := if w.bypass && !w.noInstall then
      s.updSlice w.sect fun k => { k with sect := k.sect.filter fun e => !e.covers w.space (w.vpn * 4096) }
    else s
  let s1 := if n = 0 || w.noInstall then s0
    else
      s0.updSlice w.sect fun k => k.install (s.sliceNow w.sect)
        { size := size, g := bitOf need 5, space := w.space, vpn := pageVpn size (w.vpn * 4096), exp := exp % 2 ^ 32,
          pte := BitVec.ofNat 64 need }
  w.accs.foldl (fun s r => s.serveMapped need size exp r) (s1.endWalk w)

/-- The table has changed under a walk: its routine is restarted, at most 64 times (05 R104). -/
def State.walkAgain (s : State) (w : Walk) : State :=
  if w.restarts < 64 then
    ({ s with harts := match w.hart with
                | some h => tblDel s.harts h
                | none => s.harts }.updWalk w.id fun w =>
      { w with begun := 0, restarts := w.restarts + 1, hart := none }).emit .walkDispatch
  else s.walkBad w

/-- `finish_mapped` and the other ends of a walk (05 R104). Codes: 0 MAPPED, 1 UNMAPPED, 3 the space is not valid,
else MALFORMED. The update of A and D is a step here, or an atomic sent to the leaf's home where that is another cube or
something keeps the line. A routine that answers MAPPED with an entry that is not valid, or is a pointer, ends MALFORMED
(DESIGN CHOICE, log entry 108). -/
def doNwdone (walk code pte paddr size info level : Nat) (s : State) : State :=
  match s.walk walk with
  | none => s
  | some w =>
    if code = 1 then w.accs.foldl (fun s r => s.park r level info) (s.endWalk w)
    else if code = 3 then w.accs.foldl (fun s r => s.serveBad 0 0 r) (s.endWalk w)
    else if code ≠ 0 || 3 ≤ size || !bitOf pte 0 || pteRWX pte = 0 || pteBad pte size then s.walkBad w
    else
      let a := if bitOf pte 6 then pte else pte + 2 ^ 6
      let need := if w.cls = 1 && bitOf pte 2 && !bitOf pte 7 then a + 2 ^ 7 else a
      let maintOnly := w.noInstall && w.accs.all fun r => match r.act with
        | .maint .. => true
        | _ => false
      if paddr = 0 || need = pte || maintOnly then s.walkMapped w need size
      else
        match s.layout paddr with
        | none => s.walkBad w
        | some p =>
          if p.cube ≠ s.cubeId || s.lineBusy p then
            s.requestPa
              { unitReq { kind := .walker, core := s.cubeId * 256, idx := w.hart.getD 0 } paddr
                  (.atomic 7 1 .n64 need pte false none) with va := paddr, words := wordMask paddr 8 }
              (.leafSet walk need size)
          else
            let line := p.local_ / 128
            let again : Ev := .nwdone walk code pte paddr size info level
            if s.shared line (wordMask p.local_ 8) none then s.quiesce line (wordMask p.local_ 8) none again
            else if s.poisoned line then s.walkBad w
            else if ofBytes (s.homeBytes p.local_ 8) = pte then (s.homeWrite p.local_ (toBytes need 8)).walkMapped w need size
            else s.walkAgain w

/-- The atomic at a leaf homed on another cube has answered (05 R104). -/
def State.leafAnswer (s : State) (walk need size : Nat) (o : Out) (a : Ans) : State :=
  match s.walk walk with
  | none => s
  | some w =>
    match a.st, o.req.act with
    | .ok, .atomic _ _ _ _ cmp _ _ => if a.value = cmp then s.walkMapped w need size else s.walkAgain w
    | _, _ => s.walkBad w

/-- A word that a walk lacked has come, or cannot be read: the walk goes on with it (05 R102). -/
def State.walkAnswer (s : State) (walk pa : Nat) (v : Option Nat) : State :=
  match s.walk walk with
  | none => s
  | some w =>
    let w1 := { w with known := (pa, v) :: w.known }
    let s1 := s.updWalk walk fun _ => w1
    if 2 ≤ bitsOf w.sd0 62 60 then s1.emit (.walkerHartInstruction (w.hart.getD 0)) else s1.runWalk w1

/-- WALK_TIMEOUT (05 R102): a walk still running ends MALFORMED. -/
def doWalkTimeout (walk : Nat) (s : State) : State :=
  match s.walk walk with
  | some w => if w.begun = 1 || w.restarts ≠ 0 then s.emit (.nwdone walk 2 0 0 0 0 0) else s
  | none => s

/-- FAULT_WAIT_RETRY (05 R118): the fault that has waited longest proceeds, and its walk is repeated. -/
def doFaultWaitRetry (s : State) : State :=
  match s.faultTurn, s.faultWait with
  | none, r :: rest => { s with faultTurn := some r.id, faultWait := rest }.emit (.sectionLookup r)
  | _, _ => s

/-- `flt.done` on a pending slot (05 R116; 11 Table 11.8): the result code, and the accesses looked up again or failed. -/
def State.faultDone (s : State) (fid action : Nat) : Nat × State :=
  let k := fid % 256
  let f := tblGet s.faults k ⟨0, false, 0, 0, 0, [], 0, 0, false⟩
  if !f.pending || f.gen ≠ fid / 256 % 256 then (1, s)
  else if action ≠ 0 && action ≠ 1 then (2, s)
  else
    let s1 := { s with faults := tblSet s.faults k { f with pending := false, accs := [] } }
    let s2 := if action = 0 then s1.emits (f.accs.map fun r => .sectionLookup { r with fresh := true })
      else s1.emits (f.accs.map fun r => .data (r.fail .accessError (fid % 65536) 2))
    (0, if s2.faultWait.isEmpty then s2 else s2.emit .faultWaitRetry)

/-- The accesses of a thread or unit are detached from the walks, sections and faults that hold them, and from a look-up that is
due (05 R117): what it waits for is abandoned, and the instruction is executed again when the thread goes on. -/
def State.detach (s : State) (who : Agent) (id : Nat) : State :=
  let no (l : List Req) : List Req := l.filter fun r => !(r.who == who && r.id == id)
  let s1 := { s with
    walks := s.walks.map fun (w : Walk) => { w with accs := no w.accs }
    faults := s.faults.map fun (p : Nat × PFault) => (p.1, { p.2 with accs := no p.2.accs })
    faultWait := no s.faultWait
    reqWait := no s.reqWait
    events := s.events.filter fun e => match e with
      | .sectionLookup r => !(r.who == who && r.id == id)
      | _ => true
    slices := s.slices.map fun (p : Nat × Slice) => (p.1, { p.2 with sectWait := no p.2.sectWait }) }
  if s1.faultTurn.isNone && !s1.faultWait.isEmpty then s1.emit .faultWaitRetry else s1.endFaultTurn id

/-- A request of a thread is abandoned: it is detached, and over (05 R117). -/
def State.forget (s : State) (who : Agent) (id : Nat) : State :=
  match (s.detach who id).out who id with
  | some o => (s.detach who id).endReq o
  | none => s.detach who id

/-! The lease clock (05 R105, R106). -/

/-- A cause of HEALTH is set, and with it REPLACE (17 R364). -/
def State.setReplace (s : State) (bit : Nat) : State :=
  s.setHealth (s.regs.health ||| BitVec.ofNat 64 (128 + 2 ^ bit))

/-- LEASE_SKEW_CHECK (05 R106). -/
def doLeaseSkewCheck (slice : Nat) (s : State) : State :=
  let k := s.slice slice
  let skew := k.skew + Config.skewOf s.tick
  let s0 := s.later 1024 (.leaseSkewCheck slice)
  if -1 ≤ skew ∧ skew ≤ 1 then s0.updSlice slice fun k => { k with skew := skew }
  else
    let g := s0.regs
    let times := (g.skewTimes.filter fun t => decide (s.leaseNow < t + 1024 * 1024)) ++ [s.leaseNow]
    let skews := (g.skews + 1) % 2 ^ 32
    let s1 := { s0 with
      regs := { g with skews := skews, skewTimes := times }
      walks := s0.walks.map fun (w : Walk) => if w.sect = slice then { w with noInstall := true } else w }
    let s2 := s1.updSlice slice fun k => { k with sect := [], sds := [], skew := 0 }
    let lim := fld g.leaseCtl 11 8
    let s3 := if lim ≠ 0 && decide (lim ≤ times.length) then s2.setReplace 1 else s2
    let c := fld g.leaseCtl 31 24
    let x := fld g.leaseCtl 20 16
    let s4 := if (s3.ctx c x).cstate = .free then s3 else s3.updCtx c x fun t => { t with skew := some (slice, s.leaseNow) }
    (s4.report
      { org := ⟨s.cubeId * 256, 0, 0⟩, source := 9, code := Cause.leaseSkew.code, space := 0, addr := 0, hcube := s.cubeId, local_ := 0,
        ident := slice, detail := skews }).emit (.leaseSkewDelivery c x)

/-- REFERENCE_LOST (05 R106). -/
def doReferenceLost (s : State) : State :=
  { s with
    regs := { s.regs with refLost := true }
    slices := s.slices.map fun (p : Nat × Slice) => (p.1, { p.2 with sect := [], sds := [] }) }.setReplace 2

/-- REFERENCE_RETURN (05 R106). -/
def doReferenceReturn (s : State) : State := { s with regs := { s.regs with refLost := false } }

/-- MIGRATION_DECAY (05 R113). -/
def doMigrationDecay (s : State) : State :=
  let d := fld s.regs.migCtl 31 16
  let s1 := if d = 0 then s else { s with slices := s.slices.map fun p =>
    (p.1, { p.2 with migs := p.2.migs.map fun e => { e with cnt0 := e.cnt0 / 2, cnt1 := e.cnt1 / 2 } }) }
  if d = 0 then s1 else s1.later (1024 * d) .migrationDecay

end Sys2Proof.Machine
end

