-- ==== Sys2Proof/Machine/Access.lean ====
section
/-! DEFINITION. How a thread makes a memory access: region boundaries, roaming, the near cache, the first-access checks,
and the requests that go to a home (03 R60; 04 R84, R87; 07 R166; 12 R242 to R245). -/

namespace Sys2Proof.Machine

/-! Boundaries. -/

/-- An instruction that is a region boundary is performed once the serial may advance (04 R87). -/
def State.atBoundary (s : State) (k : State → State) : State :=
  if s.serialClear s.me s.mx then k s else s.block .serial

/-- A boundary instruction retires. -/
def State.retireBoundary (s : State) (n : Nat) : State := (s.retire n).updCx Ctx.boundary

/-- A release at a scope, or at the wider one that the last fence gives to synchronising writes, comes before the rest of the
instruction (04 R81, Table 4.3). -/
def State.afterRelease (s : State) (scope : Nat) (k : State → State) : State :=
  if s.cx.released (max scope s.cx.relScope) then k s else s.block .acks

/-! Roaming (07 R165, R166). -/

/-- The 160 bytes of a migrating context, as words (07 Table 7.8). -/
def Ctx.packed (t : Ctx) (status : Word) : List Nat :=
  ((countUp 0 16).map fun i => (t.getG i).toNat)
    ++ [t.pc.toNat % 2 ^ 48, status.toNat, putBits t.fillLimit.toNat 48 16 + putBits t.flags.toNat 8 5
          + putBits (t.preds.toNat / 2) 0 7, t.toor.toNat]

/-- The thread departs to the home cube of a physical address (07 R166): its context is packed and sent; here its origin
context stays AWAY, any other becomes FREE, and a start that waited for either may be made (07 R161). The packet also tells the
address, the migrations so far, the start number and the last fence's scope, for which the 160 bytes of Table 7.8 have no place (DESIGN CHOICE, log
entry 114). -/
def State.depart (s : State) (va pa : Nat) (dreg : Option Nat) : State :=
  let c := s.me
  let x := s.mx
  let t := s.cx
  let cube := ((s.layout pa).map fun p => p.cube).getD s.cubeId
  let m : MigCtx :=
    { words := t.packed (s.statusWord c x), va := va, fromCore := s.gcore c, fromCtx := x, pa := pa,
      migrations := t.migrations + 1, start := t.ostart.toNat, dreg := dreg, relScope := t.relScope }
  let t1 := { t with wait := .none, waitAt := 0, latch := none, got := [], departing := none, noticed := none }
  let home := t.ocore == s.gcore c && t.octx == x
  let s1 := s.setCtx c x (if home then { t1.boundary with cstate := .away, wait := .none } else t1.boundary.freed)
  (if home then s1.emit (.handlerStart c) else s1.coreFreed c).post cube { kind := .thread, core := s.gcore c, idx := x } 0 (.migrate m)

/-- A thread bound to depart first reaches a boundary and waits until every request of its own is answered (07 R166). -/
def State.departReady (s : State) (k : State → State) : State := s.atBoundary fun s => s.afterRelease 3 k

/-- A roaming, unanchored thread first learns where its access is homed (07 R166): at home on another cube it departs,
unless it has migrated 8 times without retiring an instruction. -/
def State.roamGate (s : State) (va : Nat) (k : State → State) : State :=
  let t := s.cx
  if !t.roam || s.anchored s.me s.mx || decide (8 ≤ t.migrations) || t.noticed == some va then k s
  else match t.departing with
  | some (v, pa) => if v = va then s.departReady fun s => s.depart va pa none
      else s.updCx fun t => { t with departing := none }
  | none =>
    let r : Req :=
      { who := { kind := .thread, core := s.gcore s.me, idx := s.mx }, id := 0, org := t.origin, space := t.space, va := va,
        task := false, act := .translate 3, probe := true }
    let x := s.newOut r .probe
    (x.2.emit (.sectionLookup x.1)).block (.access x.1.id)

/-! One access. -/

/-- A request of the issuing thread. -/
def State.threadReq (s : State) (va : Nat) (act : Act) : Req :=
  let t := s.cx
  { who := { kind := .thread, core := s.gcore s.me, idx := s.mx }, id := 0, org := t.origin, space := t.space, va := va,
    task := t.isTask, act := act, rdet := t.rdet, cube := s.cubeId,
    tag := s.gcore s.me * 2 ^ 21 + s.mx * 2 ^ 16 + t.serial.toNat }

/-- Has the thread a store to words of a line that is not answered, made at this virtual address or, as the near cache's copy of
the line tells, at another one of the same frame (06 R140, 12 R243)? -/
def State.storeOut (s : State) (va m : Nat) (l : Option NLine) : Bool :=
  s.outs.any fun o => o.who == { kind := .thread, core := s.gcore s.me, idx := s.mx } && o.purp == .store
    && o.req.words &&& m != 0
    && ((o.req.space == s.cx.space && o.req.va / 128 == va / 128)
      || (o.req.exp.isSome && (l.any fun l => l.pline == o.req.pa / 128)))

/-- Is an `own` request of the core for words of a line under way, so that a second one waits for what it brings? -/
def State.ownOut (s : State) (va m : Nat) : Bool :=
  s.outs.any fun o => o.who.kind == .thread && o.who.core == s.gcore s.me && o.owns && o.req.space == s.cx.space
    && o.req.va / 128 == va / 128 && o.req.words &&& m != 0

/-- The tags that the half of the serials in which the thread stands has left (04 R87). -/
def Ctx.room (t : Ctx) : Nat := 4194303 - (if t.serial.getLsbD 15 then t.tch else t.tcl)

/-- What an access does next. -/
inductive Plan where
  /-- It is served by the near cache. -/
  | hit
  /-- It is served by the near cache after a check at home, with data or without (04 R84). -/
  | check (data : Bool)
  /-- It goes to home, with the check or without. -/
  | request (ck miss : Bool)
  /-- It waits for a request of the core that is under way. -/
  | stall
  /-- The line in the near cache is poisoned. -/
  | poison
  deriving DecidableEq, Repr

/-- Do all words of a mask stand in a bit vector? -/
def hasAll (v : BitVec 32) (m : Nat) : Bool := v &&& maskBV m == maskBV m

/-- The plan of a load or store of `n` bytes (03 R57, R60; 04 R84). `tracked` tells whether the access is one that
races are detected on. -/
def State.plan (s : State) (va n pol : Nat) (store tracked : Bool) : Plan :=
  let k := s.core s.me
  let t := s.cx
  let m := wordMask va n
  let l := k.nearLine t.space (va / 128)
  let valid := (l.map fun l => hasAll l.v m).getD false
  let owned := (l.map fun l => hasAll l.o m).getD false
  let unchecked := t.rdet && tracked
    && (maskWords m).any fun w => !(k.checked s.mx t.space (va / 128) w store)
  let near := if store then pol == 3 && owned
    else if pol = 3 || pol = 1 then owned
    else valid
  if near then
    if s.storeOut va m l then .stall
    else if !store && (l.any fun l => l.poison != 0#32) then .poison
    else if unchecked then .check (!owned)
    else .hit
  else if s.ownOut va m then .stall
  else .request unchecked l.isNone

/-- The bytes that the near cache holds for an access, and the line's hint and recency updated. -/
def State.nearRead (s : State) (va n pol hint : Nat) : List Byte × State :=
  let k := s.core s.me
  match k.nearLine s.cx.space (va / 128) with
  | some l =>
    let near1 := touchLine NLine.hint NLine.withHint (nearSet (va / 128)) 3 (nearHint pol hint) l k.near
    ((l.data.drop (va % 128)).take n, s.setCore s.me { k with near := near1 })
  | none => ([], s)

/-- An `own` store to owned words: the copy is written and dirty (03 R60), and words written whole are no longer poisoned
(12 R242). -/
def State.nearWrite (s : State) (va hint : Nat) (d : List Byte) : State :=
  let r := s.nearRead va 0 3 hint
  r.2.updCore r.2.me fun k => k.updNear s.cx.space (va / 128) fun l =>
    { l with data := overlay l.data (va % 128) d, d := l.d ||| maskBV (wordMask va d.length),
             poison := l.poison &&& ~~~(maskBV (fullMask va d.length)) }

/-- The check at home of an access that the near cache serves; the instruction runs again when it is answered. -/
def State.sendCheck (s : State) (va n : Nat) (data store : Bool) : State :=
  let r := { s.threadReq va (.notice data store) with
    words := wordMask va n, readCk := !store, writeCk := store, room := s.cx.room }
  let x := s.newOut r .check
  (x.2.emit (.sectionLookup x.1)).block (.access x.1.id)

/-- The first tag number of a context that is free (07 R150). -/
def Ctx.freeTag (t : Ctx) : Nat := ((countUp 0 8).find? fun k => !(t.tags.any fun p => p.1 == k)).getD 0

/-- A request whose reply ends the instruction: it takes a tag, and the thread stands behind it; what it may execute before
the reply comes, `ready` says (07 R151, 12 R244). -/
def State.sendTagged (s : State) (bytes : Nat) (r : Req) (g : Tag) : State :=
  let x := s.newOut { r with room := s.cx.room } .tag
  let t := x.2.cx
  let g1 := { g with id := x.1.id, pc := t.pc, latch := t.latch, back := some (t.preds, t.flags) }
  (x.2.emit (.sectionLookup x.1)).setCx
    { t with tags := tblSet t.tags t.freeTag g1, pc := t.pc + BitVec.ofNat 64 bytes, latch := none, got := [], wait := .none,
             migrations := 0, noticed := none }

/-- A tag for a value of D. -/
def valueTag (d : Opd) (rid : Option Nat) (width : Nat) (signed : Bool) (va : Nat) : Tag :=
  { id := 0, pc := 0#64, dkind := if d.isQueue then 2 else 0, dest := d.code.toNat, rid := rid, width := width,
    signed := signed, ge := none, acq := none, va := va, left := false, bound := false, latch := none, fcause := 0, finfo1 := 0,
    finfo2 := 0 }

/-- A tag for an acknowledgement. -/
def ackTag (va : Nat) : Tag := { valueTag .z none 0 false va with dkind := 3 }

/-- One access of an instruction that makes several (a vector access, a descriptor): the bytes once known, in the order
of the accesses. `i` is the number of the access. -/
def State.readAt (s : State) (i va n pol hint : Nat) (tracked : Bool) : Option (List Byte) × State :=
  if h : i < s.cx.got.length then (some (s.cx.got[i]), s)
  else
    match s.plan va n pol false tracked with
    | .hit =>
      let r := s.nearRead va n pol hint
      (some r.1, r.2.updCx fun t => { t with got := t.got ++ [r.1] })
    | .check data => (none, s.sendCheck va n data false)
    | .stall => (none, s.block .acks)
    | .poison => (none, s.trap .poison va 0 0)
    | .request ck miss =>
      let r := { s.threadReq va (.load n pol hint) with words := wordMask va n, readCk := ck, miss := miss, room := s.cx.room }
      let x := s.newOut r .buf
      (none, (x.2.emit (.sectionLookup x.1)).block (.access x.1.id))

/-- One store of an instruction that makes several: true once it is performed or has left the core. -/
def State.writeAt (s : State) (i va pol hint : Nat) (d : List Byte) (tracked : Bool) : Bool × State :=
  if i < s.cx.got.length then (true, s)
  else
    match s.plan va d.length pol true tracked with
    | .hit => (true, (s.nearWrite va hint d).updCx fun t => { t with got := t.got ++ [[]] })
    | .check data => (false, s.sendCheck va d.length data true)
    | .stall => (false, s.block .acks)
    | .poison => (false, s.trap .poison va 0 0)
    | .request ck miss =>
      let r := { s.threadReq va (.store pol hint d) with words := wordMask va d.length, writeCk := ck, miss := miss, room := s.cx.room }
      let x := s.newOut r .buf
      (false, (x.2.emit (.sectionLookup x.1)).block (.access x.1.id))

/-- A snapshot of `n` consecutive pieces of a block of memory, `size` bytes each, read by `wt` loads from access `i`
(11 R238, 14 R292): none while it is under way. -/
def State.readBlock (s : State) (i va size : Nat) : Nat → Option (List Byte) × State
  | 0 => (some [], s)
  | n + 1 => match s.readAt i va size 1 0 false with
    | (none, s1) => (none, s1)
    | (some b, s1) => match s1.readBlock (i + 1) (va + size) size n with
      | (some r, s2) => (some (b ++ r), s2)
      | (none, s2) => (none, s2)

end Sys2Proof.Machine
end

