-- ==== Sys2Proof/Machine/MemInstr.lean ====
section
/-! DEFINITION. Loads, stores, fences and cache maintenance (12 R241 to R249). -/

namespace Sys2Proof.Machine

/-- Width in bytes of W. -/
def accWidth (w : BitVec 2) : Nat := 2 ^ w.toNat

/-- The displacement of W1 (10 Table 10.5). -/
def extDisp (x : Option MemExt) : Word :=
  match x with
  | some e => e.disp.signExtend 64
  | none => 0#64

/-- The hint of W2; `dflt` without it. -/
def extHint (x : Option MemExt) : Nat :=
  match x with
  | some e => e.hint.toNat
  | none => 0

/-- ea of `ld` and `st` (12 Table 12.1). -/
def eaDisp (a : Word) (w : BitVec 2) (b : BitVec 5) (x : Option MemExt) : Word :=
  a + BitVec.ofNat 64 (accWidth w) * b.signExtend 64 + extDisp x

/-- ea of `ldx` and `stx`. -/
def eaIndex (a : Word) (w : BitVec 2) (b : Word) (x : Option MemExt) : Word :=
  a + BitVec.ofNat 64 (accWidth w) * b + extDisp x

/-- The checks of an address that come before translation (12 R242, R245). -/
def State.checkEa (s : State) (ea : Word) (w : Nat) (k : Nat → State) : State :=
  if 2 ^ 48 ≤ ea.toNat then s.accessError ea.toNat
  else if ea.toNat % w ≠ 0 then s.misaligned ea.toNat
  else k ea.toNat

/-- A load (12 R242). -/
def State.loadEa (s : State) (i : Instr) (d : Opd) (ea : Word) (w : Nat) (sx : Bool) (pol hint : Nat) : State :=
  s.checkEa ea w fun va =>
    s.roamGate va fun s =>
      match s.plan va w pol false true with
      | .hit =>
        let r := s.nearRead va w pol hint
        r.2.finish i d (extendVal w sx (ofBytes r.1))
      | .check data => s.sendCheck va w data false
      | .stall => s.block .acks
      | .poison => s.trap .poison va 0 0
      | .request ck miss =>
        let r := { s.threadReq va (.load w pol hint) with words := wordMask va w, readCk := ck, miss := miss }
        s.sendTagged i.bytes r (valueTag d ((s.cx.latch).bind fun l => l.rid) w sx va)

/-- A store (12 R242). -/
def State.storeEa (s : State) (i : Instr) (v : Word) (ea : Word) (w : Nat) (pol hint : Nat) : State :=
  s.checkEa ea w fun va =>
    s.roamGate va fun s =>
      let d := toBytes v.toNat w
      match s.plan va w pol true true with
      | .hit => (s.nearWrite va hint d).retire i.bytes
      | .check data => s.sendCheck va w data true
      | .stall => s.block .acks
      | .poison => s.trap .poison va 0 0
      | .request ck miss =>
        let r := { s.threadReq va (.store pol hint d) with words := wordMask va w, writeCk := ck, miss := miss }
        s.sendTagged i.bytes r (ackTag va)

/-- `ld` (12 R242). -/
def execLd (h : Hd) (w : BitVec 2) (sx : Bool) (pol : BitVec 2) (d a : Opd) (b : BitVec 5) (x : Option MemExt)
    (s : State) : Res :=
  issue (.ld h w sx pol d a b x) h { a := some a, d := some d } none anyMode
    (fun v s => s.loadEa (.ld h w sx pol d a b x) d (eaDisp v.a w b x) (accWidth w) sx pol.toNat (extHint x)) s

/-- `ldx` (12 R242). -/
def execLdx (h : Hd) (w : BitVec 2) (sx : Bool) (pol : BitVec 2) (d a b : Opd) (x : Option MemExt) (s : State) : Res :=
  issue (.ldx h w sx pol d a b x) h { a := some a, b := some b, d := some d } none anyMode
    (fun v s => s.loadEa (.ldx h w sx pol d a b x) d (eaIndex v.a w v.b x) (accWidth w) sx pol.toNat (extHint x)) s

/-- `st` (12 R242). -/
def execSt (h : Hd) (w pol : BitVec 2) (d a : Opd) (b : BitVec 5) (x : Option MemExt) (s : State) : Res :=
  issue (.st h w pol d a b x) h { a := some a, ds := some d } none anyMode
    (fun v s => s.storeEa (.st h w pol d a b x) v.d (eaDisp v.a w b x) (accWidth w) pol.toNat (extHint x)) s

/-- `stx` (12 R242). -/
def execStx (h : Hd) (w pol : BitVec 2) (d a b : Opd) (x : Option MemExt) (s : State) : Res :=
  issue (.stx h w pol d a b x) h { a := some a, b := some b, ds := some d } none anyMode
    (fun v s => s.storeEa (.stx h w pol d a b x) v.d (eaIndex v.a w v.b x) (accWidth w) pol.toNat (extHint x)) s

/-! Fences (04 Table 4.3, 12 R246). A fence is not issued while a load or a synchronising read is outstanding (`ready`), so
their return needs no wait of its own. -/

/-- A fence: the release conditions it waits for, the acquire it performs, and the boundary. -/
def fence (i : Instr) (h : Hd) (scope : BitVec 2) (rel acq sc : Bool) (s : State) : Res :=
  issue i h {} none anyMode (fun _ s =>
    s.atBoundary fun s =>
      let t := s.cx
      if rel && !t.released scope.toNat then s.block .acks
      else if sc && !(t.engOut == 0 && t.nbPend == 0) then s.block .acks
      else ((if acq then s.acquire s.me scope.toNat else s).updCx fun t =>
        { t with relScope := if rel then scope.toNat else 0 }).retireBoundary i.bytes) s

/-- `fence.acq`. -/
def execFenceAcq (h : Hd) (scope : BitVec 2) (s : State) : Res := fence (.fenceAcq h scope) h scope false true false s
/-- `fence.rel`. -/
def execFenceRel (h : Hd) (scope : BitVec 2) (s : State) : Res := fence (.fenceRel h scope) h scope true false false s
/-- `fence.ar`. -/
def execFenceAr (h : Hd) (scope : BitVec 2) (s : State) : Res := fence (.fenceAr h scope) h scope true true false s
/-- `fence.sc`. -/
def execFenceSc (h : Hd) (scope : BitVec 2) (s : State) : Res := fence (.fenceSc h scope) h scope true true true s

/-! Maintenance (12 R247 to R249). The near-cache part runs first; the home part then sends one page piece at each
execution of the instruction, and the instruction retires when every request has been sent. `got` counts the parts done, the
near-cache part among them. -/

/-- The owned words of the first near-cache line of the range that has any go to home; the words stay as COPY.
None when no line has. -/
def State.releaseOne (s : State) (lo hi : Nat) : Option State :=
  let k := s.core s.me
  match k.near.find? fun l => l.space == s.cx.space && decide (lo ≤ l.vline) && decide (l.vline ≤ hi) && l.o != 0#32 with
  | none => none
  | some l =>
    if 8 ≤ k.wbuf.length then some (s.block .wbuf)
    else
      let s1 := s.updCore s.me fun k => k.updNear l.space l.vline fun l => { l with o := 0#32, d := 0#32 }
      let r := { wbReq (s.gcore s.me) l with org := { s.cx.origin with ctx := s.mx } }
      some (((s1.updCore s.me fun k => { k with wbuf := k.wbuf ++ [l] }).requestPa r .maint).updCx fun t =>
        { t with maint := t.maint + 1 })

/-- V is cleared on every word of the range's lines. -/
def State.invalRange (s : State) (lo hi : Nat) : State :=
  let sp := s.cx.space
  s.updCore s.me fun k =>
    { k with near := k.near.filter fun l => !(l.space == sp && decide (lo ≤ l.vline) && decide (l.vline ≤ hi)) }

/-- The home part of one page piece of `clean` or `flush`. -/
def State.maintPiece (s : State) (va n : Nat) (flush : Bool) : State :=
  let r := { s.threadReq va (.maint flush n) with noInstall := true }
  (s.requestVa r .maint).updCx fun t => { t with maint := t.maint + 1 }

/-- A line of `pref` that is not present is filled as by an `si` load miss (12 Table 12.2). -/
def State.prefLine (s : State) (hint va : Nat) : State :=
  if ((s.core s.me).nearLine s.cx.space (va / 128)).isSome then s
  else s.requestVa { s.threadReq va (.load 128 0 hint) with words := 2 ^ 32 - 1, probe := true } .pref

/-- One page piece of `pref`: its translation, and the lines that its hint fills. -/
def State.prefPiece (s : State) (hint va n : Nat) : State :=
  let s1 := s.requestVa { s.threadReq va (.translate 0) with probe := true } .pref
  if hint = 3 then s1
  else (countUp (va / 128) (ceilDiv (va % 128 + n) 128)).foldl (fun s l => s.prefLine hint (l * 128)) s1

/-- Has the thread maintenance pieces whose requests have not been sent: they are being looked up, or held (12 R248, R249)? -/
def State.piecesUnsent (s : State) : Bool :=
  s.outs.any fun o => o.who == { kind := .thread, core := s.gcore s.me, idx := s.mx } && o.req.exp.isNone
    && (match o.req.act with
      | .maint .. => true
      | _ => false)

/-- A maintenance instruction over [a, a + n): its near-cache part, then its pieces. -/
def State.maintain (s : State) (i : Instr) (a n : Nat) (release drop : Bool) (piece : Option (Nat → Nat → State → State)) :
    State :=
  if n = 0 then s.retire i.bytes
  else if 2 ^ 48 < a + n then s.accessError a
  else
    match if release && s.cx.got.isEmpty then s.releaseOne (a / 128) ((a + n - 1) / 128) else none with
    | some s1 => s1
    | none =>
      let s1 := if drop && s.cx.got.isEmpty then s.invalRange (a / 128) ((a + n - 1) / 128) else s
      match piece with
      | none => s1.retire i.bytes
      | some p =>
        let done := s1.cx.got.length - 1
        let lo := if done = 0 then a else (a / 4096 + done) * 4096
        if a + n ≤ lo then (if s1.piecesUnsent then s1.block .acks else s1.retire i.bytes)
        else
          let hi := min (a + n) ((a / 4096 + done + 1) * 4096)
          (p lo (hi - lo) s1).updCx fun t => { t with got := if t.got.isEmpty then [[], []] else t.got ++ [[]] }

/-- `clean` (12 Table 12.2). -/
def execClean (h : Hd) (a b : Opd) (s : State) : Res :=
  issue (.clean h a b) h { a := some a, b := some b } none anyMode
    (fun v s => s.maintain (.clean h a b) v.a.toNat v.b.toNat true false
      (some fun va n s => s.maintPiece va n false)) s

/-- `flush` (12 Table 12.2). -/
def execFlush (h : Hd) (a b : Opd) (s : State) : Res :=
  issue (.flush h a b) h { a := some a, b := some b } none anyMode
    (fun v s => s.maintain (.flush h a b) v.a.toNat v.b.toNat true true
      (some fun va n s => s.maintPiece va n true)) s

/-- `inval` (12 Table 12.2). -/
def execInval (h : Hd) (a b : Opd) (s : State) : Res :=
  issue (.inval h a b) h { a := some a, b := some b } none anyMode
    (fun v s => s.maintain (.inval h a b) v.a.toNat v.b.toNat true true none) s

/-- `ownrel` (12 Table 12.2). -/
def execOwnrel (h : Hd) (a b : Opd) (s : State) : Res :=
  issue (.ownrel h a b) h { a := some a, b := some b } none anyMode
    (fun v s => s.maintain (.ownrel h a b) v.a.toNat v.b.toNat true false none) s

/-- `pref` (12 Table 12.2). -/
def execPref (h : Hd) (hint : BitVec 2) (a b : Opd) (s : State) : Res :=
  issue (.pref h hint a b) h { a := some a, b := some b } none anyMode
    (fun v s => s.maintain (.pref h hint a b) v.a.toNat v.b.toNat false false
      (some fun va n s => s.prefPiece hint.toNat va n)) s

end Sys2Proof.Machine
end

