-- ==== Sys2Proof/Machine/Counters.lean ====
section
/-! DEFINITION. Counters: operations and watches at their home, and the counter instructions (08 R173; 12 R250 to
R253). -/

namespace Sys2Proof.Machine

/-! At home. -/

/-- SATISFIED goes to who waits, with the value that satisfied the watch (08 R173). -/
def State.notify (s : State) (w : Watch) (value : Nat) : State :=
  s.post w.who.cube (s.homeAgent (w.local_ / 128)) w.id (.satisfied w.who w.id value)

/-- Watch entries of a slice are free: the registrations that wait there are tried again (08 R173). -/
def State.serveWatches (s : State) (k : Nat) : State :=
  if (s.slice k).watchWait.isEmpty then s else s.emit (.watchRegistrationRetry k)

/-- The watches of a counter are compared with its new value in home order (08 R173). -/
def State.testWatches (s : State) (local_ value : Nat) : State :=
  let k := sliceOf (local_ / 128)
  let hit (w : Watch) : Bool := w.local_ == local_ && decide (w.target ≤ value)
  let ws := (s.slice k).watches
  let s1 := s.updSlice k fun sl => { sl with watches := ws.filter fun w => !hit w }
  let s2 := (ws.filter hit).foldl (fun s w => s.notify w value) s1
  if ws.any hit then s2.serveWatches k else s2

/-- COUNTER_OP_AT_HOME (12 R251): add (0), fetch-add (1), poll (3) and read (4), in home order. -/
def doCounterOpAtHome (r : Req) (s : State) : State :=
  s.accept r fun r s =>
    let line := r.local_ / 128
    match r.act with
    | .counter op v =>
      if s.shared line (wordMask r.local_ 8) r.holder then s.quiesce line (wordMask r.local_ 8) r.holder r.event
      else if op = 1 && s.retainFull r then s.nackReq r 6 0 none
      else if s.poisoned line then s.poisonFail r line
      else
        let old := ofBytes (s.homeBytes r.local_ 8)
        let ok (s : State) : State :=
          if op = 0 then s.answerAck r { r.ans .ok with value := old }
          else if op = 1 then s.answerRetained r (.data { r.ans .ok with value := old })
          else s.answer r true (.data { r.ans .ok with value := old })
        if 2 ≤ op then ok (s.homeTouch line 0)
        else if 2 ^ 64 ≤ old + v then s.refuse r .counterOverflow v old
        else
          (ok ((s.homeTouch line 0).homeWrite r.local_ (toBytes (old + v) 8))).testWatches r.local_ (old + v)
    | _ => s.refuse r .accessError 0 3

/-- A registration that has waited is settled: the next one is looked at (08 R173). -/
def State.watchTurn (s : State) (r : Req) (k : Nat) : State := if r.turn then s.serveWatches k else s

/-- WATCH_REGISTRATION (08 R173): satisfied at once, installed, or waiting, in order of arrival, while the slice's 4,096
entries are in use; a cancellation removes the watch, or the registration that still waits. -/
def doWatchRegistration (r : Req) (s : State) : State :=
  s.accept r fun r s =>
    let k := sliceOf (r.local_ / 128)
    let ok (s : State) : State := s.answerAck r (r.ans .ok)
    match r.act with
    | .watch target =>
      match s.word32 r.local_, s.word32 (r.local_ + 4) with
      | some lo, some hi =>
      let v := lo + 2 ^ 32 * hi
      if target ≤ v then
        ((ok s).notify { local_ := r.local_, target := target, who := r.who, id := r.id } v).watchTurn r k
      else if r.turn && decide (4096 ≤ (s.slice k).watches.length) then
        s.updSlice k fun sl => { sl with watchWait := .watchRegistration r :: sl.watchWait }
      else if 4096 ≤ (s.slice k).watches.length || (!r.turn && !(s.slice k).watchWait.isEmpty) then
        s.updSlice k fun sl => { sl with watchWait := sl.watchWait ++ [.watchRegistration r] }
      else
        let w : Watch := { local_ := r.local_, target := target, who := r.who, id := r.id }
        (ok (s.updSlice k fun sl => { sl with watches := sl.watches ++ [w] })).watchTurn r k
      | _, _ => s.quiesce (r.local_ / 128) (wordMask r.local_ 8) r.holder r.event
    | .unwatch id =>
      let s1 := s.updSlice k fun sl =>
        { sl with
          watches := sl.watches.filter fun w => !(w.id == id && w.who == r.who)
          watchWait := sl.watchWait.filter fun e => match e with
            | .watchRegistration q => !(q.id == id && q.who == r.who)
            | _ => true }
      ok (s1.serveWatches k)
    | _ => s

/-- WATCH_REGISTRATION_RETRY (08 R173): the registration that has waited longest is tried again. -/
def doWatchRegistrationRetry (slice : Nat) (s : State) : State :=
  match (s.slice slice).watchWait with
  | [] => s
  | e :: rest =>
    if 4096 ≤ (s.slice slice).watches.length then s
    else
      let turn : Ev := match e with
        | .watchRegistration r => .watchRegistration { r with turn := true }
        | e => e
      let s1 := (s.updSlice slice fun k => { k with watchWait := rest }).emitFirst [turn]
      match e with
      | .watchRegistration _ => s1
      | _ => s1.serveWatches slice

/-! Local counters (07 R153; 12 R251). -/

/-- The key of local counter `n` of set `g`. -/
def lcKey (g n : Nat) : Nat := 16 * g + n

/-- A local counter's value. -/
def Core.lc (k : Core) (key : Nat) : Word := memGet k.lcs key

/-- An add to a local counter that does not overflow; the waits it satisfies go on. -/
def State.lcAdd (s : State) (c key v : Nat) : State :=
  let n := ((s.core c).lc key).toNat + v
  if 2 ^ 64 ≤ n then s
  else
    let s1 := s.updCore c fun k => { k with lcs := memSet k.lcs key (BitVec.ofNat 64 n) }
    let hit := (s.core c).lcWatch.filter fun w => w.2.1 == key && decide (w.2.2 ≤ n)
    let s2 := s1.updCore c fun k => { k with lcWatch := k.lcWatch.filter fun w => !(w.2.1 == key && decide (w.2.2 ≤ n)) }
    hit.foldl (fun s w => s.updCtx c w.1 fun t =>
      match t.wait with
      | .watch _ => { t with wait := .none }
      | _ => t) s2

/-! Instructions. -/

/-- The address that a memory counter's operand names. -/
def ctrAddr (t : Ctx) (c : Ctr) : Word :=
  match c with
  | .mem i => t.getG i.toNat
  | .lc i => BitVec.ofNat 64 (2 ^ 63 + i.toNat)

/-- A counter instruction: on a local counter at once, on a memory counter after its address checks, the roaming
check and the release at its scope. -/
def counterInstr (i : Instr) (h : Hd) (c : Ctr) (o : Roles) (scope : BitVec 2) (rel : Bool)
    (onLocal : Nat → Vals → State → State) (onMem : Nat → Vals → State → State) (s : State) : Res :=
  issue i h o none anyMode (fun v s =>
    s.atBoundary fun s =>
      match c with
      | .lc n =>
        let go (s : State) : State := onLocal (lcKey s.cx.lcSet n.toNat) v s
        if rel then s.afterRelease 0 go else go s
      | .mem _ =>
        s.checkEa (ctrAddr s.cx c) 8 fun va =>
          s.roamGate va fun s =>
            if rel then s.afterRelease scope.toNat (onMem va v) else onMem va v s) s

/-- A request of a counter instruction whose reply ends it. -/
def State.sendCounter (s : State) (i : Instr) (va op v : Nat) (g : Tag) : State :=
  s.sendTagged i.bytes { s.threadReq va (.counter op v) with words := wordMask va 8 } { g with bound := true }

/-- The scope of an instruction's acquire as its tag keeps it. -/
def scopeOf (scope : BitVec 2) : Option Nat := some scope.toNat

/-- `cadd` (12 R251). -/
def execCadd (h : Hd) (scope : BitVec 2) (c : Ctr) (b : Opd) (s : State) : Res :=
  counterInstr (.cadd h scope c b) h c { b := some b } scope true
    (fun key v s =>
      let old := ((s.core s.me).lc key).toNat
      if 2 ^ 64 ≤ old + v.b.toNat then s.trap .counterOverflow (ctrAddr s.cx c).toNat v.b.toNat old
      else (s.lcAdd s.me key v.b.toNat).retireBoundary (Instr.cadd h scope c b).bytes)
    (fun va v s => s.sendCounter (.cadd h scope c b) va 0 v.b.toNat (ackTag va)) s

/-- `cfadd` (12 R251). -/
def execCfadd (h : Hd) (scope : BitVec 2) (d : Opd) (c : Ctr) (b : Opd) (s : State) : Res :=
  counterInstr (.cfadd h scope d c b) h c { b := some b, d := some d } scope true
    (fun key v s =>
      let old := ((s.core s.me).lc key).toNat
      if 2 ^ 64 ≤ old + v.b.toNat then s.trap .counterOverflow (ctrAddr s.cx c).toNat v.b.toNat old
      else ((s.lcAdd s.me key v.b.toNat).finish (.cfadd h scope d c b) d (BitVec.ofNat 64 old)).updCx Ctx.boundary)
    (fun va v s => s.sendCounter (.cfadd h scope d c b) va 1 v.b.toNat
      { valueTag d ((s.cx.latch).bind fun l => l.rid) 8 false va with acq := scopeOf scope }) s

/-- `cread` (12 R251). -/
def execCread (h : Hd) (scope : BitVec 2) (d : Opd) (c : Ctr) (s : State) : Res :=
  counterInstr (.cread h scope d c) h c { d := some d } scope false
    (fun key _ s => (s.finish (.cread h scope d c) d ((s.core s.me).lc key)).updCx Ctx.boundary)
    (fun va _ s => s.sendCounter (.cread h scope d c) va 4 0
      { valueTag d ((s.cx.latch).bind fun l => l.rid) 8 false va with acq := scopeOf scope }) s

/-- `cpoll` (12 R251). -/
def execCpoll (h : Hd) (scope : BitVec 2) (d : BitVec 3) (c : Ctr) (b : Opd) (s : State) : Res :=
  counterInstr (.cpoll h scope d c b) h c { b := some b } scope false
    (fun key v s => ((s.updCx fun t => t.setP d.toNat (decide (v.b.toNat ≤ ((s.core s.me).lc key).toNat)))).retireBoundary
      (Instr.cpoll h scope d c b).bytes)
    (fun va v s => s.sendCounter (.cpoll h scope d c b) va 3 0
      { ackTag va with dkind := 1, dest := d.toNat, ge := some v.b.toNat, acq := scopeOf scope }) s

/-- The limit of a wait starts to count at its first issue (12 R252). -/
def State.startLimit (s : State) (lim : Nat) (e : Nat → Ev) : State :=
  if lim = 0 || s.cx.waitAt ≠ 0 then s
  else
    let n := s.newId
    (n.2.updCx fun t => { t with waitAt := n.1 + 1 }).later (cyclesToCounts lim) (e (n.1 + 1))

/-- A wait is over. -/
def Ctx.endWait (t : Ctx) : Ctx := { t with waitAt := 0, cw := none }

/-- The value of the n-th answered access, as a word. -/
def Ctx.gotWord (t : Ctx) (n : Nat) : Nat := ofBytes (nthD t.got n [])

/-- `cwait` on a memory counter: it reads the counter, then registers a watch (12 R252). -/
def State.waitMem (s : State) (i : Instr) (va target scope lim : Nat) : State :=
  let s := s.startLimit lim fun n => .waitExpired s.me s.mx n
  let t := s.cx
  let done (s : State) : State :=
    ((s.acquire s.me scope).updCx Ctx.endWait).retireBoundary i.bytes
  match t.got with
  | [] =>
    let x := s.newOut { s.threadReq va (.counter 4 0) with words := wordMask va 8 } .buf
    ((x.2.emit (.sectionLookup x.1)).updCx fun t => { t with cw := some (va, target, 0, x.1.id) }).block (.access x.1.id)
  | [_] =>
    if target ≤ t.gotWord 0 then done s
    else
      let x := s.newOut { s.threadReq va (.watch target) with words := wordMask va 8 } .watch
      ((x.2.emit (.sectionLookup x.1)).updCx fun t => { t with cw := some (va, target, t.gotWord 0, x.1.id) }).block
        (.watch x.1.id)
  | _ => done s

/-- `cwait` on a local counter (12 R252). -/
def State.waitLocal (s : State) (i : Instr) (addr key target lim : Nat) : State :=
  let v := ((s.core s.me).lc key).toNat
  if target ≤ v then (s.updCx Ctx.endWait).retireBoundary i.bytes
  else
    let s := s.startLimit lim fun n => .waitExpired s.me s.mx n
    ((s.updCore s.me fun k => { k with lcWatch := k.lcWatch ++ [(s.mx, key, target)] }).updCx fun t =>
      { t with cw := some (addr, target, v, 0) }).block (.watch 0)

/-- `cwait` (12 R252). -/
def execCwait (h : Hd) (scope : BitVec 2) (lim : BitVec 5) (c : Ctr) (b : Opd) (x : Option (BitVec 32)) (s : State) : Res :=
  let i : Instr := .cwait h scope lim c b x
  let l := match x with
    | some w => w.toNat
    | none => lim.toNat
  counterInstr i h c { b := some b } scope false
    (fun key v s => s.waitLocal i (ctrAddr s.cx c).toNat key v.b.toNat l)
    (fun va v s => s.waitMem i va v.b.toNat scope.toNat l) s

/-- The watch or first read of a wait is given up (12 R252, R253). -/
def State.cancelWatch (s : State) (c x : Nat) : State :=
  let t := s.ctx c x
  match t.cw with
  | none => s
  | some (_, _, _, id) =>
    let who : Agent := { kind := .thread, core := s.gcore c, idx := x }
    let s1 := s.updCore c fun k => { k with lcWatch := k.lcWatch.filter fun w => w.1 != x }
    match s1.out who id with
    | none => s1
    | some o =>
      let s2 := s1.forget who id
      match o.purp, o.req.exp with
      | .watch, some _ => s2.requestPa { unitReq who o.req.pa (.unwatch id) with space := o.req.space } (.quiet 0 id)
      | _, _ => s2

/-- WAIT_EXPIRED (12 R252). A notice that has come in the same step satisfies the wait. -/
def doWaitExpired (core ctx id : Nat) (s : State) : State :=
  let t := s.ctx core ctx
  if t.waitAt ≠ id || t.wait = .none then s
  else
    match t.cw with
    | none => s
    | some (addr, target, latest, o) =>
      if s.events.any fun e => match e with
          | .satisfied w n _ => w == { kind := .thread, core := s.gcore core, idx := ctx } && n == o
          | _ => false then s
      else
      let now := if 2 ^ 63 ≤ addr then ((s.core core).lc (lcKey t.lcSet (addr % 16))).toNat else latest
      ((s.cancelWatch core ctx).updCtx core ctx Ctx.endWait).trapAt core ctx .waitExpired t.pc addr target now

/-- A notice for a thread's `cwait`: SATISFIED has acquire meaning when the thread goes on (12 R252). -/
def State.threadSatisfied (s : State) (who : Agent) (id value : Nat) : State :=
  let c := who.core % 256
  if (s.ctx c who.idx).wait = .watch id then
    (s.dropOut id).updCtx c who.idx fun t =>
      { t with wait := .none, got := [toBytes value 8, toBytes value 8] }
  else s

/-- DROPPED for a thread's `cwait` (12 R252). -/
def State.threadDropped (s : State) (who : Agent) (id : Nat) : State :=
  let c := who.core % 256
  let t := s.ctx c who.idx
  match t.cw with
  | some (addr, _, _, _) =>
    if t.wait = .watch id then
      ((s.dropOut id).updCtx c who.idx Ctx.endWait).trapAt c who.idx .accessError t.pc addr 0 3
    else s
  | none => s

end Sys2Proof.Machine
end

