-- ==== Sys2Proof/Machine/Float.lean ====
section
/-! DEFINITION. The two float formats and their exact arithmetic (09 R182 to R186, R189, R191 to R199): a float is
decoded to an exact extended value, operations are exact, and one rounding ends each. A format is named by its
fraction width, 23 for FP32 and 7 for BF16. -/

namespace Sys2Proof

/-- The exception flags in the layout of FPFLAGS (09 Table 9.4): NV DZ OF UF NX from bit 4 down. -/
abbrev FFlags := BitVec 5

/-- Invalid. -/
def fNV : FFlags := 16#5
/-- Divide by zero. -/
def fDZ : FFlags := 8#5
/-- Overflow. -/
def fOF : FFlags := 4#5
/-- Underflow. -/
def fUF : FFlags := 2#5
/-- Inexact. -/
def fNX : FFlags := 1#5

/-- An exact value over the reals extended by infinities and NaN; `fin neg m e` is (-1)^neg * m * 2^e. -/
inductive XR where
  | nan
  | inf (neg : Bool)
  | fin (neg : Bool) (m : Nat) (e : Int)
  deriving DecidableEq, Repr

/-- The canonical NaN (09 R184). -/
def fltNaN (w : Nat) : Nat := 255 * 2 ^ w + 2 ^ (w - 1)

/-- Infinity. -/
def fltInf (w : Nat) (neg : Bool) : Nat := b2n neg * 2 ^ (w + 8) + 255 * 2 ^ w

/-- The largest finite value of a sign. -/
def fltMax (w : Nat) (neg : Bool) : Nat := b2n neg * 2 ^ (w + 8) + 255 * 2 ^ w - 1

/-- Is the encoding a NaN (09 Table 9.2)? -/
def isNaNF (w x : Nat) : Bool := bitsOf x (w + 7) w == 255 && x % 2 ^ w != 0

/-- Is it a signalling NaN (09 R183)? -/
def isSNaN (w x : Nat) : Bool := isNaNF w x && !bitOf x (w - 1)

/-- The exact value of an encoding (09 Table 9.2). -/
def decF (w x : Nat) : XR :=
  let s := bitOf x (w + 8)
  let ex := bitsOf x (w + 7) w
  let f := x % 2 ^ w
  if ex = 255 then (if f = 0 then .inf s else .nan)
  else if ex = 0 then .fin s f (-126 - (w : Int))
  else .fin s (2 ^ w + f) ((ex : Int) - 127 - w)

/-- The invalid flag of a signalling operand (09 R184). -/
def snanFl (w x : Nat) : FFlags := if isSNaN w x then fNV else 0#5

/-- Does mode `mode` of 09 Table 9.3 round the magnitude up, for a dropped part `rem / 2^k` plus an unseen
nonzero part when `sticky`? -/
def roundUp (mode : Nat) (neg : Bool) (quo rem half : Nat) (sticky : Bool) : Bool :=
  match mode with
  | 0 => decide (half < rem) || (decide (rem = half) && (sticky || quo % 2 == 1))
  | 1 => false
  | 2 => !neg && (decide (rem ≠ 0) || sticky)
  | _ => neg && (decide (rem ≠ 0) || sticky)

/-- m * 2^e (plus an unseen part below one unit of m when `sticky`) rounded to a multiple of 2^q: the integer
multiple and whether it is inexact. -/
def roundTo (mode : Nat) (neg : Bool) (m : Nat) (e : Int) (sticky : Bool) (q : Int) : Nat × Bool :=
  let up := (e - q + 2).toNat
  let m' := m * 2 ^ up
  let k := (q - (e - up)).toNat
  let quo := m' / 2 ^ k
  let rem := m' % 2 ^ k
  (quo + b2n (roundUp mode neg quo rem (2 ^ (k - 1)) sticky), decide (rem ≠ 0) || sticky)

/-- `rnd` of a finite exact value to fraction width w under a mode (09 R185): the bits and the flags. -/
def rndFin (w mode : Nat) (neg : Bool) (m : Nat) (e : Int) (sticky : Bool) : Nat × FFlags :=
  let sgn := b2n neg * 2 ^ (w + 8)
  if m = 0 then (sgn, 0#5)
  else
    let ex : Int := e + (Nat.log2 m : Int)
    let q0 : Int := ex - w
    let r0 := roundTo mode neg m e sticky q0
    let ex0 : Int := if r0.1 = 2 ^ (w + 1) then ex + 1 else ex
    if 127 < ex0 then
      let toInf := mode == 0 || (mode == 2 && !neg) || (mode == 3 && neg)
      (if toInf then fltInf w neg else fltMax w neg, fOF ||| fNX)
    else
      let q : Int := max q0 (-126 - (w : Int))
      let r := roundTo mode neg m e sticky q
      let bits := sgn + (q + w + 126).toNat * 2 ^ w + r.1
      let fl := if r.2 then (if ex0 < -126 then fUF ||| fNX else fNX) else 0#5
      (bits, fl)

/-- `rnd_f32` (w = 23) and `rnd_bf16` (w = 7) of an exact value (09 R185). -/
def rndX (w mode : Nat) : XR → Nat × FFlags
  | .nan => (fltNaN w, 0#5)
  | .inf n => (fltInf w n, 0#5)
  | .fin n m e => rndFin w mode n m e false

/-- Signed integer multiple of 2^e' for a finite value, e' no greater than its exponent. -/
def scaledInt (neg : Bool) (m : Nat) (e e' : Int) : Int :=
  let v : Int := (m * 2 ^ (e - e').toNat : Nat)
  if neg then -v else v

/-- Exact sum, with the invalid flag of an infinity minus an infinity and the zero sign of 09 R185. -/
def addX (mode : Nat) : XR → XR → XR × FFlags
  | .nan, _ => (.nan, 0#5)
  | _, .nan => (.nan, 0#5)
  | .inf a, .inf b => if a = b then (.inf a, 0#5) else (.nan, fNV)
  | .inf a, .fin _ _ _ => (.inf a, 0#5)
  | .fin _ _ _, .inf b => (.inf b, 0#5)
  | .fin a ma ea, .fin b mb eb =>
    let e := min ea eb
    let s := scaledInt a ma ea e + scaledInt b mb eb e
    if s = 0 then
      (.fin (if a = b then a else mode == 3) 0 e, 0#5)
    else (.fin (decide (s < 0)) s.natAbs e, 0#5)

/-- Exact product, with the invalid flag of zero times infinity. -/
def mulX : XR → XR → XR × FFlags
  | .nan, _ => (.nan, 0#5)
  | _, .nan => (.nan, 0#5)
  | .inf a, .inf b => (.inf (a != b), 0#5)
  | .inf a, .fin b m _ => if m = 0 then (.nan, fNV) else (.inf (a != b), 0#5)
  | .fin a m _, .inf b => if m = 0 then (.nan, fNV) else (.inf (a != b), 0#5)
  | .fin a ma ea, .fin b mb eb => (.fin (a != b) (ma * mb) (ea + eb), 0#5)

/-- The negated value. -/
def negX : XR → XR
  | .nan => .nan
  | .inf a => .inf (!a)
  | .fin a m e => .fin (!a) m e

/-- Float addition (09 R184, R185). -/
def addF (w mode x y : Nat) : Nat × FFlags :=
  let s := addX mode (decF w x) (decF w y)
  let r := rndX w mode s.1
  (r.1, s.2 ||| r.2 ||| snanFl w x ||| snanFl w y)

/-- Float subtraction: the sum with the second operand's value negated. -/
def subF (w mode x y : Nat) : Nat × FFlags :=
  let s := addX mode (decF w x) (negX (decF w y))
  let r := rndX w mode s.1
  (r.1, s.2 ||| r.2 ||| snanFl w x ||| snanFl w y)

/-- Float multiplication. -/
def mulF (w mode x y : Nat) : Nat × FFlags :=
  let s := mulX (decF w x) (decF w y)
  let r := rndX w mode s.1
  (r.1, s.2 ||| r.2 ||| snanFl w x ||| snanFl w y)

/-- Fused multiply-add, rounded once. -/
def fmaF (w mode x y z : Nat) : Nat × FFlags :=
  let p := mulX (decF w x) (decF w y)
  let s := addX mode p.1 (decF w z)
  let r := rndX w mode s.1
  (r.1, p.2 ||| s.2 ||| r.2 ||| snanFl w x ||| snanFl w y ||| snanFl w z)

/-- Order of two exact values that are not NaN: is the first below the second? Zeros are equal. -/
def ltX : XR → XR → Bool
  | .nan, _ => false
  | _, .nan => false
  | .inf a, .inf b => a && !b
  | .inf a, .fin _ _ _ => a
  | .fin _ _ _, .inf b => !b
  | .fin a ma ea, .fin b mb eb =>
    let e := min ea eb
    decide (scaledInt a ma ea e < scaledInt b mb eb e)

/-- A comparison by COND 0 to 5 (eq ne lt le gt ge) with NaN unordered (09 R184). -/
def cmpF (w cond x y : Nat) : Bool × FFlags :=
  let a := decF w x
  let b := decF w y
  let fl := snanFl w x ||| snanFl w y
  if isNaNF w x || isNaNF w y then (cond == 1, fl)
  else
    let lt := ltX a b
    let gt := ltX b a
    (match cond with
      | 0 => !lt && !gt
      | 1 => lt || gt
      | 2 => lt
      | 3 => !gt
      | 4 => gt
      | _ => !lt, fl)

/-- Minimum and maximum: NaN if either is NaN, -0 below +0 (09 R184). -/
def minmaxF (w : Nat) (isMax : Bool) (x y : Nat) : Nat × FFlags :=
  let fl := snanFl w x ||| snanFl w y
  if isNaNF w x || isNaNF w y then (fltNaN w, fl)
  else
    let lt := ltX (decF w x) (decF w y) ||
      (!ltX (decF w y) (decF w x) && bitOf x (w + 8) && !bitOf y (w + 8))
    (if lt == isMax then y else x, fl)

/-- FP32 to BF16 under a mode (09 Table 9.5). -/
def f32ToBf16 (mode x : Nat) : Nat × FFlags :=
  let r := rndX 7 mode (decF 23 x)
  (r.1, r.2 ||| snanFl 23 x)

/-- BF16 to FP32, exact; a NaN gives the canonical NaN (09 R183). -/
def bf16ToF32 (x : Nat) : Nat × FFlags :=
  (if isNaNF 7 x then fltNaN 23 else (x % 2 ^ 16) * 2 ^ 16, snanFl 7 x)

/-- A float rounded to an integer and saturated to the range of an N-bit signed or unsigned integer
(09 Table 9.5). -/
def fToInt (w mode : Nat) (signed : Bool) (n x : Nat) : Int × FFlags :=
  match decF w x with
  | .nan => (0, fNV)
  | .inf s => ((if signed then satI n (if s then -(2 ^ 200 : Nat) else (2 ^ 200 : Nat))
               else satN n (if s then -1 else (2 ^ 200 : Nat))), fNV)
  | .fin s m e =>
    let r := roundTo mode s m e false 0
    let v : Int := if s then -(r.1 : Int) else r.1
    let c := if signed then satI n v else satN n v
    (c, if c ≠ v then fNV else if r.2 then fNX else 0#5)

/-- An integer to a float (09 Table 9.5). -/
def intToF (w mode : Nat) (v : Int) : Nat × FFlags :=
  rndFin w mode (decide (v < 0)) v.natAbs 0 false

/-- Square root of an integer, rounded down, bit by bit from bit `k - 1` of the root. -/
def isqrtFrom (n : Nat) : Nat → Nat → Nat
  | 0, r => r
  | k + 1, r => if (r + 2 ^ k) * (r + 2 ^ k) ≤ n then isqrtFrom n k (r + 2 ^ k) else isqrtFrom n k r

/-- `vrcp` (13 R272, Table 13.4). -/
def rcpF (w mode x : Nat) : Nat × FFlags :=
  match decF w x with
  | .nan => (fltNaN w, snanFl w x)
  | .inf s => (b2n s * 2 ^ (w + 8), 0#5)
  | .fin s m e =>
    if m = 0 then (fltInf w s, fDZ)
    else
      let k := Nat.log2 m + 64
      rndFin w mode s (2 ^ k / m) (-(k : Int) - e) (decide (2 ^ k % m ≠ 0))

/-- `vrsqrt` (13 R272, Table 13.4). -/
def rsqrtF (w mode x : Nat) : Nat × FFlags :=
  match decF w x with
  | .nan => (fltNaN w, snanFl w x)
  | .inf s => if s then (fltNaN w, fNV) else (0, 0#5)
  | .fin s m e =>
    if m = 0 then (fltInf w s, fDZ)
    else if s then (fltNaN w, fNV)
    else
      let m' := if e % 2 = 0 then m else 2 * m
      let e' : Int := if e % 2 = 0 then e else e - 1
      let k := 128
      let r := isqrtFrom (2 ^ (2 * k) / m') (k + 1) 0
      rndFin w mode false r (-(k : Int) - e' / 2) (decide (r * r * m' ≠ 2 ^ (2 * k)))

/-- The fixed-point precision of the transcendental functions, in bits. -/
def fixP : Nat := 320

/-- Sum of 2^P / (k 2^k) for the k terms from `i`: the series of ln 2. -/
def ln2Sum (i : Nat) : Nat → Nat
  | 0 => 0
  | k + 1 => 2 ^ fixP / (i * 2 ^ i) + ln2Sum (i + 1) k

/-- ln 2 in fixed point. -/
def ln2Fix : Nat := ln2Sum 1 (fixP + 1)

/-- The exponential series: term `t` = y^i / i! in fixed point, then the k further terms. -/
def expSum (y i t : Nat) : Nat → Nat
  | 0 => 0
  | k + 1 => t + expSum y (i + 1) (t * y / 2 ^ fixP / (i + 1)) k

/-- 2^(num / 2^den) in fixed point, for 0 <= num < 2^den. -/
def exp2Fix (num den : Nat) : Nat := expSum (ln2Fix * num / 2 ^ den) 0 (2 ^ fixP) 100

/-- `vexp2` (13 R272, Table 13.4): exact for an integer operand, else the irrational value rounded once. -/
def exp2F (w mode x : Nat) : Nat × FFlags :=
  match decF w x with
  | .nan => (fltNaN w, snanFl w x)
  | .inf s => (if s then 0 else fltInf w false, 0#5)
  | .fin s m e =>
    if 0 ≤ e ∨ m % 2 ^ (-e).toNat = 0 then
      let v : Int := if 0 ≤ e then (m * 2 ^ (min e 32).toNat : Nat) else (m / 2 ^ (-e).toNat : Nat)
      let n : Int := if s then -v else v
      rndFin w mode false 1 (max (min n 1000) (-1000)) false
    else
      let den := (-e).toNat
      let v : Int := if s then -(m : Int) else m
      let n : Int := v / ((2 ^ den : Nat) : Int)
      let num := (v % ((2 ^ den : Nat) : Int)).toNat
      rndFin w mode false (exp2Fix num den) (max (min n 1000) (-1000) - (fixP : Int)) true

/-- The inverse hyperbolic tangent series: `t` = z^(2i+1) in fixed point. -/
def atanhSum (z2 i t : Nat) : Nat → Nat
  | 0 => 0
  | k + 1 => t / (2 * i + 1) + atanhSum z2 (i + 1) (t * z2 / 2 ^ fixP) k

/-- ln(m / 2^l) in fixed point for 2^l <= m < 2^(l+1). -/
def lnFix (m l : Nat) : Nat :=
  let z := (m - 2 ^ l) * 2 ^ fixP / (m + 2 ^ l)
  2 * atanhSum (z * z / 2 ^ fixP) 0 z 120

/-- `vlog2` (13 R272, Table 13.4). -/
def log2F (w mode x : Nat) : Nat × FFlags :=
  match decF w x with
  | .nan => (fltNaN w, snanFl w x)
  | .inf s => if s then (fltNaN w, fNV) else (fltInf w false, 0#5)
  | .fin s m e =>
    if m = 0 then (fltInf w true, fDZ)
    else if s then (fltNaN w, fNV)
    else
      let l := Nat.log2 m
      let k : Int := e + l
      if m = 2 ^ l then intToF w mode k
      else
        let frac := lnFix m l * 2 ^ fixP / ln2Fix
        let v : Int := k * ((2 ^ fixP : Nat) : Int) + (frac : Int)
        rndFin w mode (decide (v < 0)) v.natAbs (-(fixP : Int)) true

/-- The running exact sum of products of one mma group (09 R194): pairs of exact operands. -/
def dotX (s : XR × FFlags) : List (XR × XR) → XR × FFlags
  | [] => s
  | (a, b) :: r =>
    let p := mulX a b
    let t := addX 0 s.1 p.1
    dotX (t.1, s.2 ||| p.2 ||| t.2) r

/-- One group's update of one FP32 accumulator element (09 R194): C + rne(s * sa * sb), two roundings. -/
def mmaElem (c : Nat) (prods : List (XR × XR)) (sa sb : XR) (opFl : FFlags) : Nat × FFlags :=
  let s := dotX (.fin false 0 0, 0#5) prods
  let s1 := mulX s.1 sa
  let s2 := mulX s1.1 sb
  let r := rndX 23 0 s2.1
  let q := addF 23 0 c r.1
  (q.1, opFl ||| s.2 ||| s1.2 ||| s2.2 ||| r.2 ||| q.2)

/-- The FP32 value nearest to 2^(j/64) (09 R197). -/
def nbT (j : Nat) : Nat := if j = 0 then 0x3F800000 else (rndFin 23 0 false (exp2Fix j 6) (-(fixP : Int)) true).1

/-- An FP32 value times an exact one, rounded once (09 R197). -/
def mulExact (c : Nat) (u : XR) : Nat × FFlags :=
  let p := mulX (decF 23 c) u
  let r := rndX 23 0 p.1
  (r.1, p.2 ||| r.2)

/-- `nb_exp` (09 R197). -/
def nbExp (y : Nat) : Nat × FFlags :=
  match decF 23 y with
  | .nan => (fltNaN 23, snanFl 23 y)
  | .inf s => (if s then 0 else fltInf 23 false, 0#5)
  | .fin _ _ _ =>
    let t := mulF 23 0 y 0x3FB8AA3B
    match decF 23 t.1 with
    | .nan => (fltNaN 23, t.2)
    | .inf s => if s then (0, t.2 ||| fUF ||| fNX) else (fltInf 23 false, t.2 ||| fOF ||| fNX)
    | .fin s m e =>
      -- t as an exact multiple of 2^-200
      let v : Int := scaledInt s m e (-200)
      let one : Int := ((2 ^ 200 : Nat) : Int)
      if 128 * one ≤ v then (fltInf 23 false, t.2 ||| fOF ||| fNX)
      else if v < -160 * one then (0, t.2 ||| fUF ||| fNX)
      else
        let n : Int := v / one
        let f := (v % one).toNat
        let j := f * 64 / 2 ^ 200
        let u : XR := .fin false (f % 2 ^ 194) (-200)
        let a1 := mulExact 0x3D635847 u
        let p1 := addF 23 0 0x3E75FDF0 a1.1
        let a2 := mulExact p1.1 u
        let p2 := addF 23 0 0x3F317218 a2.1
        let p3 := mulExact p2.1 u
        let tp := mulF 23 0 (nbT j) p3.1
        let mm := addF 23 0 (nbT j) tp.1
        let r := match decF 23 mm.1 with
          | .fin s2 m2 e2 => rndFin 23 0 s2 m2 (e2 + n) false
          | x => rndX 23 0 x
        (r.1, t.2 ||| a1.2 ||| p1.2 ||| a2.2 ||| p2.2 ||| p3.2 ||| tp.2 ||| mm.2 ||| r.2)

/-- The near-bank leaf of 09 R196 widened to FP32. -/
def nbLeaf (bf : Bool) (x : Nat) : Nat × FFlags := if bf then bf16ToF32 x else (x, 0#5)

/-- The near-bank node: 0 sum, 1 max, 2 scaled-exponential sum (09 R196). -/
def nbNode (opr l r : Nat) : Nat × FFlags :=
  if opr = 1 then minmaxF 23 true l r else addF 23 0 l r

/-- Joins two inputs of a tree, an absent one passing the other (09 R196, 13 R275). -/
def joinOpt (f : Nat → Nat → Nat × FFlags) : Option Nat → Option Nat → Option Nat × FFlags
  | none, b => (b, 0#5)
  | a, none => (a, 0#5)
  | some a, some b => let r := f a b; (some r.1, r.2)

/-- One level of a fixed tree: adjacent inputs are joined. -/
def treeLevel (f : Nat → Nat → Nat × FFlags) : List (Option Nat) → List (Option Nat) × FFlags
  | a :: b :: r =>
    let x := joinOpt f a b
    let y := treeLevel f r
    (x.1 :: y.1, x.2 ||| y.2)
  | l => (l, 0#5)

/-- `k` levels of the tree, and its root. -/
def treeJoin (f : Nat → Nat → Nat × FFlags) : Nat → List (Option Nat) → Option Nat × FFlags
  | 0, l => ((l.head?).join, 0#5)
  | k + 1, l =>
    let x := treeLevel f l
    let y := treeJoin f k x.1
    (y.1, x.2 ||| y.2)

end Sys2Proof
end

