-- ==== Sys2Proof/Machine/Atomics.lean ====
section
/-! DEFINITION. Atomics: the operation at home and the instructions (12 R254 to R258; 09 R198). -/

namespace Sys2Proof.Machine

/-- Width of an atomic's type in bytes (12 Table 12.4). -/
def atomWidth : Ty → Nat
  | .i64 | .n64 => 8
  | .bf16 => 2
  | _ => 4

/-- Is the type signed? -/
def atomSigned : Ty → Bool
  | .i32 | .i64 => true
  | _ => false

/-- The new value of the word, and the flags of a float addition (12 R255, 09 R198). -/
def atomNew (op : Nat) (ty : Ty) (old v cmp : Nat) : Nat × FFlags :=
  let n := 8 * atomWidth ty
  let v := v % 2 ^ n
  let lt (a b : Nat) : Bool :=
    if atomSigned ty then decide (signedOf n a < signedOf n b) else decide (a < b)
  match op with
  | 0 => match ty with
    | .f32 => addF 23 0 old v
    | .bf16 => addF 7 0 old v
    | _ => ((old + v) % 2 ^ n, 0#5)
  | 1 => (if lt v old then v else old, 0#5)
  | 2 => (if lt old v then v else old, 0#5)
  | 3 => (old &&& v, 0#5)
  | 4 => (old ||| v, 0#5)
  | 5 => (old ^^^ v, 0#5)
  | 6 => (v, 0#5)
  | _ => (if old = cmp % 2 ^ n then v else old, 0#5)

/-- The old value as it is returned: extended by the type, a float as raw bits (12 R255). -/
def atomOld (ty : Ty) (old : Nat) : Nat := (extendVal (atomWidth ty) (atomSigned ty) old).toNat

/-- A flagged application enters the atomic exception summary (09 Table 9.8). -/
def State.atomFlags (s : State) (pa : Nat) (f : FFlags) : State :=
  if f = 0#5 then s
  else
    let e := s.regs.atomExc
    let n := min (fld e 63 32 + 1) (2 ^ 32 - 1)
    { s with regs := { s.regs with
        atomExc := setFld (e ||| BitVec.zeroExtend 64 f) 63 32 n, atomExcPa := BitVec.ofNat 64 (pa % 2 ^ 52) } }

/-- ATOMIC_AT_HOME (12 R255, R258; 03 R68): registrations and sharers are called back, then the operation is performed
in one step and answered; the `.dir` form sends the old value on. -/
def doAtomicAtHome (r : Req) (s : State) : State :=
  s.accept r fun r s =>
    let line := r.local_ / 128
    match r.act with
    | .atomic op form ty v cmp _ dir =>
      let w := atomWidth ty
      let keep := form == 1 || form == 2
      if s.shared line (wordMask r.local_ w) r.holder then s.quiesce line (wordMask r.local_ w) r.holder r.event
      else if keep && s.retainFull r then s.nackReq r 6 0 none
      else if s.poisoned line then s.poisonFail r line
      else
        let old := ofBytes (s.homeBytes r.local_ w)
        let x := atomNew op ty old v cmp
        let s0 := s.homeTouch line 0
        let s1 := if op = 7 && old ≠ cmp % 2 ^ (8 * w) then s0 else s0.homeWrite r.local_ (toBytes x.1 w)
        let s2 := if form = 1 then s1 else s1.atomFlags r.pa (x.2 ||| BitVec.ofNat 5 r.mflags)
        let a := { r.ans .ok with value := atomOld ty old, flags := if form = 1 then x.2.toNat else 0 }
        let s3 := if keep then s2.answerRetained r (.data a)
          else s2.answerAck r a
        match dir with
        | some d => s3.post (d.core / 256) (s.homeAgent line) 0
            (.dirVal { dir := d, value := atomOld ty old, org := r.org, space := r.space })
        | none => s3
    | _ => s.refuse r .accessError 0 3

/-- The compare register of an `acas` must be g0 to g15 (12 R254). -/
def casReg (op : Nat) (d : Opd) : Option Nat :=
  if op = 7 then (match d with
    | .g _ => none
    | o => some o.code.toNat) else none

/-- The operands of an atomic (12 R254). -/
def atomRoles (op : Nat) (form : BitVec 2) (d a b : Opd) : Roles :=
  match form.toNat with
  | 0 => if op = 7 then { a := some a, b := some b, ds := some d } else { a := some a, b := some b }
  | 1 => if op = 7 then { a := some a, b := some b, ds := some d, d := some d }
    else { a := some a, b := some b, d := some d }
  | _ => { a := some a, b := some b, ds := some d }

/-- An atomic instruction (12 R254 to R257): the address checks, the release at system scope, then the request; the
reply of a `.ret` form is an acquire at system scope. -/
def atomic (i : Instr) (op : Nat) (h : Hd) (form : BitVec 2) (d a b : Opd) (v : AOp) (s : State) : Res :=
  issue i h (atomRoles op form d a b) (casReg op d) anyMode (fun x s =>
    s.atBoundary fun s =>
      s.checkEa x.a (atomWidth v.ty) fun va =>
        s.roamGate va fun s =>
          s.afterRelease 3 fun s =>
            let dir : Option DirTo :=
              if form = 2#2 then
                some { core := v.core.toNat, handle := v.x1.toNat, entry := x.d.toNat, lc := v.x2.toNat }
              else none
            let r := { s.threadReq va (.atomic op form.toNat v.ty x.b.toNat x.d.toNat v.m dir) with
              words := wordMask va (atomWidth v.ty) }
            let g := if form = 1#2 then
                { valueTag d ((s.cx.latch).bind fun l => l.rid) 8 false va with acq := some 3 }
              else ackTag va
            s.sendTagged i.bytes r { g with bound := true }) s

/-- `aadd` (12 R255). -/
def execAadd (h : Hd) (form : BitVec 2) (d a b : Opd) (v : AOp) (s : State) : Res :=
  atomic (.aadd h form d a b v) 0 h form d a b v s
/-- `amin` (12 R255). -/
def execAmin (h : Hd) (form : BitVec 2) (d a b : Opd) (v : AOp) (s : State) : Res :=
  atomic (.amin h form d a b v) 1 h form d a b v s
/-- `amax` (12 R255). -/
def execAmax (h : Hd) (form : BitVec 2) (d a b : Opd) (v : AOp) (s : State) : Res :=
  atomic (.amax h form d a b v) 2 h form d a b v s
/-- `aand` (12 R255). -/
def execAand (h : Hd) (form : BitVec 2) (d a b : Opd) (v : AOp) (s : State) : Res :=
  atomic (.aand h form d a b v) 3 h form d a b v s
/-- `aor` (12 R255). -/
def execAor (h : Hd) (form : BitVec 2) (d a b : Opd) (v : AOp) (s : State) : Res :=
  atomic (.aor h form d a b v) 4 h form d a b v s
/-- `axor` (12 R255). -/
def execAxor (h : Hd) (form : BitVec 2) (d a b : Opd) (v : AOp) (s : State) : Res :=
  atomic (.axor h form d a b v) 5 h form d a b v s
/-- `aswap` (12 R255). -/
def execAswap (h : Hd) (form : BitVec 2) (d a b : Opd) (v : AOp) (s : State) : Res :=
  atomic (.aswap h form d a b v) 6 h form d a b v s
/-- `acas` (12 R255). -/
def execAcas (h : Hd) (form : BitVec 2) (d a b : Opd) (v : AOp) (s : State) : Res :=
  atomic (.acas h form d a b v) 7 h form d a b v s

end Sys2Proof.Machine
end

