-- ==== Sys2Proof/Machine/Flags.lean ====
section
/-! DEFINITION. Comparisons, predicates and the float flags of the scalar instructions (09 R184, R186; 11 R224, R225). -/

namespace Sys2Proof.Machine

/-- COND 0 to 5: eq ne lt le gt ge, of two integers (10 Table 10.8). -/
def condInt (cond : Nat) (a b : Int) : Bool :=
  match cond with
  | 0 => decide (a = b)
  | 1 => decide (a ≠ b)
  | 2 => decide (a < b)
  | 3 => decide (a ≤ b)
  | 4 => decide (b < a)
  | _ => decide (b ≤ a)

/-- The compared width of WIDTH 0 to 3, in bits. -/
def cmpBits (w : Nat) : Nat := 8 * 2 ^ w

/-- The signed comparison of the low bits (MAJ 0x10). -/
def cmpS (w cond : Nat) (a b : Word) : Bool :=
  condInt cond (signedOf (cmpBits w) a.toNat) (signedOf (cmpBits w) b.toNat)

/-- The unsigned comparison of the low bits (MAJ 0x11). -/
def cmpU (w cond : Nat) (a b : Word) : Bool :=
  condInt cond (a.toNat % 2 ^ cmpBits w : Nat) (b.toNat % 2 ^ cmpBits w : Nat)

/-- The float comparison (MAJ 0x12), with the invalid flag of a signalling NaN. -/
def cmpFl (bf : Bool) (cond : Nat) (a b : Word) : Bool × FFlags :=
  if bf then cmpF 7 cond (a.toNat % 2 ^ 16) (b.toNat % 2 ^ 16)
  else cmpF 23 cond (a.toNat % 2 ^ 32) (b.toNat % 2 ^ 32)

/-- A comparison's result goes to a predicate, its flags to FPFLAGS, and the instruction retires. -/
def State.setPred (s : State) (i : Instr) (d : BitVec 3) (v : Bool) (f : FFlags) : State :=
  (s.updCx fun t => (t.setP d.toNat v).orFlags f).retire i.bytes

/-- A comparing instruction. -/
def compare (i : Instr) (h : Hd) (d : BitVec 3) (a b : Opd) (f : Word → Word → Bool × FFlags) (s : State) : Res :=
  issue i h { a := some a, b := some b } none anyMode
    (fun v s => let r := f v.a v.b; s.setPred i d r.1 r.2) s

/-- An instruction of predicate logic (11 R225). -/
def predLogic (i : Instr) (h : Hd) (d : BitVec 3) (f : Ctx → Bool) (s : State) : Res :=
  issue i h {} none anyMode (fun _ s => s.setPred i d (f s.cx) 0#5) s

end Sys2Proof.Machine
end

