-- ==== Sys2Proof/Machine/Scalar.lean ====
section
/-! DEFINITION. Integer arithmetic, logic, bit fields, moves, compares and predicate logic (11 R220 to R225). -/

namespace Sys2Proof.Machine

/-- The 64-bit operation on exact integers, signed or not, wrapped to 64 bits (11 R220). -/
def arith64 (signed : Bool) (op : Int → Int → Int) (a b : Word) : Word :=
  if signed then BitVec.ofInt 64 (op a.toInt b.toInt)
  else BitVec.ofInt 64 (op a.toNat b.toNat)

/-- The 32-bit operation on the low halves, wrapped to 32 bits and extended by EXT (11 R220). -/
def arith32 (signed ext : Bool) (op : Int → Int → Int) (a b : Word) : Word :=
  let x := if signed then signedOf 32 a.toNat else ((a.toNat % 2 ^ 32 : Nat) : Int)
  let y := if signed then signedOf 32 b.toNat else ((b.toNat % 2 ^ 32 : Nat) : Int)
  let q := wrapN 32 (op x y)
  if ext then zext64 32 q else sext64 32 q

/-- Quotient of 09 R188 as an integer of N bits; a zero divisor gives all ones. -/
def quot (n : Nat) (a b : Int) : Int := ((divInt n a b : Nat) : Int)
/-- Remainder of 09 R188. -/
def rema (n : Nat) (a b : Int) : Int := ((remInt n a b : Nat) : Int)
/-- The high half of a product: floor(a * b / 2^N). -/
def mulHigh (n : Nat) (a b : Int) : Int := (a * b) / ((2 ^ n : Nat) : Int)

/-- A left shift by the low six bits (11 Table 11.3). -/
def shlW (a b : Word) : Word := a <<< (b.toNat % 64)
/-- A logical right shift. -/
def shrW (a b : Word) : Word := a >>> (b.toNat % 64)
/-- An arithmetic right shift. -/
def shaW (a b : Word) : Word := a.sshiftRight (b.toNat % 64)
/-- A left rotation. -/
def rolW (a b : Word) : Word := a.rotateLeft (b.toNat % 64)

/-- The width of the field that B names, clipped at bit 63 (11 R223). -/
def bfWidth (b : Word) : Nat := min (bitsOf b.toNat 12 6) (64 - bitsOf b.toNat 5 0)

/-- `bfx` (11 R223). -/
def bfxW (a b : Word) : Word :=
  let pos := bitsOf b.toNat 5 0
  let w := bfWidth b
  if w = 0 then 0#64
  else
    let f := a.toNat / 2 ^ pos % 2 ^ w
    if bitOf b.toNat 13 then sext64 w f else BitVec.ofNat 64 f

/-- `bfi` (11 R223). -/
def bfiW (d a b : Word) : Word :=
  let pos := bitsOf b.toNat 5 0
  let m : Word := BitVec.ofNat 64 ((2 ^ bfWidth b - 1) * 2 ^ pos)
  (d &&& ~~~m) ||| ((a <<< pos) &&& m)

/-- The sign-extended immediate of an I-form (10 R209). -/
def immW (imm : BitVec 10) : Word := imm.signExtend 64

/-- A D that must be g0 to g15: the code of any other (11 R223, R226). -/
def needG (d : Opd) : Option Nat :=
  match d with
  | .g _ => none
  | o => some o.code.toNat

/-- 11 Table 11.1, `add`. -/
def execAdd (h : Hd) (d a b : Opd) (s : State) : Res :=
  compute (.add h d a b) h d (some a) (some b) (fun x y => x + y) s

/-- 11 Table 11.1, `sub`. -/
def execSub (h : Hd) (d a b : Opd) (s : State) : Res :=
  compute (.sub h d a b) h d (some a) (some b) (fun x y => x - y) s

/-- 11 Table 11.1, `mul`. -/
def execMul (h : Hd) (d a b : Opd) (s : State) : Res :=
  compute (.mul h d a b) h d (some a) (some b) (fun x y => x * y) s

/-- 11 Table 11.1, `mulhI64`. -/
def execMulhI64 (h : Hd) (d a b : Opd) (s : State) : Res :=
  compute (.mulhI64 h d a b) h d (some a) (some b) (arith64 true (mulHigh 64)) s

/-- 11 Table 11.1, `mulhN64`. -/
def execMulhN64 (h : Hd) (d a b : Opd) (s : State) : Res :=
  compute (.mulhN64 h d a b) h d (some a) (some b) (arith64 false (mulHigh 64)) s

/-- 11 Table 11.1, `divI64`. -/
def execDivI64 (h : Hd) (d a b : Opd) (s : State) : Res :=
  compute (.divI64 h d a b) h d (some a) (some b) (arith64 true (quot 64)) s

/-- 11 Table 11.1, `divN64`. -/
def execDivN64 (h : Hd) (d a b : Opd) (s : State) : Res :=
  compute (.divN64 h d a b) h d (some a) (some b) (arith64 false (quot 64)) s

/-- 11 Table 11.1, `remI64`. -/
def execRemI64 (h : Hd) (d a b : Opd) (s : State) : Res :=
  compute (.remI64 h d a b) h d (some a) (some b) (arith64 true (rema 64)) s

/-- 11 Table 11.1, `remN64`. -/
def execRemN64 (h : Hd) (d a b : Opd) (s : State) : Res :=
  compute (.remN64 h d a b) h d (some a) (some b) (arith64 false (rema 64)) s

/-- 11 Table 11.1, `minI64`. -/
def execMinI64 (h : Hd) (d a b : Opd) (s : State) : Res :=
  compute (.minI64 h d a b) h d (some a) (some b) (arith64 true min) s

/-- 11 Table 11.1, `minN64`. -/
def execMinN64 (h : Hd) (d a b : Opd) (s : State) : Res :=
  compute (.minN64 h d a b) h d (some a) (some b) (arith64 false min) s

/-- 11 Table 11.1, `maxI64`. -/
def execMaxI64 (h : Hd) (d a b : Opd) (s : State) : Res :=
  compute (.maxI64 h d a b) h d (some a) (some b) (arith64 true max) s

/-- 11 Table 11.1, `maxN64`. -/
def execMaxN64 (h : Hd) (d a b : Opd) (s : State) : Res :=
  compute (.maxN64 h d a b) h d (some a) (some b) (arith64 false max) s

/-- 11 Table 11.1, `addsX1`. -/
def execAddsX1 (h : Hd) (d a b : Opd) (s : State) : Res :=
  compute (.addsX1 h d a b) h d (some a) (some b) (fun x y => x + y) s

/-- 11 Table 11.1, `addsX2`. -/
def execAddsX2 (h : Hd) (d a b : Opd) (s : State) : Res :=
  compute (.addsX2 h d a b) h d (some a) (some b) (fun x y => x + y * 2#64) s

/-- 11 Table 11.1, `addsX4`. -/
def execAddsX4 (h : Hd) (d a b : Opd) (s : State) : Res :=
  compute (.addsX4 h d a b) h d (some a) (some b) (fun x y => x + y * 4#64) s

/-- 11 Table 11.1, `addsX8`. -/
def execAddsX8 (h : Hd) (d a b : Opd) (s : State) : Res :=
  compute (.addsX8 h d a b) h d (some a) (some b) (fun x y => x + y * 8#64) s

/-- 11 Table 11.1, `add32`; EXT chooses the extension. -/
def execAdd32 (h : Hd) (e : Bool) (d a b : Opd) (s : State) : Res :=
  compute (.add32 h e d a b) h d (some a) (some b) (arith32 true e (fun x y => x + y)) s

/-- 11 Table 11.1, `sub32`; EXT chooses the extension. -/
def execSub32 (h : Hd) (e : Bool) (d a b : Opd) (s : State) : Res :=
  compute (.sub32 h e d a b) h d (some a) (some b) (arith32 true e (fun x y => x - y)) s

/-- 11 Table 11.1, `mul32`; EXT chooses the extension. -/
def execMul32 (h : Hd) (e : Bool) (d a b : Opd) (s : State) : Res :=
  compute (.mul32 h e d a b) h d (some a) (some b) (arith32 true e (fun x y => x * y)) s

/-- 11 Table 11.1, `mulhI32`. -/
def execMulhI32 (h : Hd) (d a b : Opd) (s : State) : Res :=
  compute (.mulhI32 h d a b) h d (some a) (some b) (arith32 true false (mulHigh 32)) s

/-- 11 Table 11.1, `mulhN32`. -/
def execMulhN32 (h : Hd) (d a b : Opd) (s : State) : Res :=
  compute (.mulhN32 h d a b) h d (some a) (some b) (arith32 false true (mulHigh 32)) s

/-- 11 Table 11.1, `divI32`. -/
def execDivI32 (h : Hd) (d a b : Opd) (s : State) : Res :=
  compute (.divI32 h d a b) h d (some a) (some b) (arith32 true false (quot 32)) s

/-- 11 Table 11.1, `divN32`. -/
def execDivN32 (h : Hd) (d a b : Opd) (s : State) : Res :=
  compute (.divN32 h d a b) h d (some a) (some b) (arith32 false true (quot 32)) s

/-- 11 Table 11.1, `remI32`. -/
def execRemI32 (h : Hd) (d a b : Opd) (s : State) : Res :=
  compute (.remI32 h d a b) h d (some a) (some b) (arith32 true false (rema 32)) s

/-- 11 Table 11.1, `remN32`. -/
def execRemN32 (h : Hd) (d a b : Opd) (s : State) : Res :=
  compute (.remN32 h d a b) h d (some a) (some b) (arith32 false true (rema 32)) s

/-- 11 Table 11.1, `minI32`. -/
def execMinI32 (h : Hd) (d a b : Opd) (s : State) : Res :=
  compute (.minI32 h d a b) h d (some a) (some b) (arith32 true false min) s

/-- 11 Table 11.1, `minN32`. -/
def execMinN32 (h : Hd) (d a b : Opd) (s : State) : Res :=
  compute (.minN32 h d a b) h d (some a) (some b) (arith32 false true min) s

/-- 11 Table 11.1, `maxI32`. -/
def execMaxI32 (h : Hd) (d a b : Opd) (s : State) : Res :=
  compute (.maxI32 h d a b) h d (some a) (some b) (arith32 true false max) s

/-- 11 Table 11.1, `maxN32`. -/
def execMaxN32 (h : Hd) (d a b : Opd) (s : State) : Res :=
  compute (.maxN32 h d a b) h d (some a) (some b) (arith32 false true max) s

/-- 11 Table 11.3, `and`. -/
def execAnd (h : Hd) (d a b : Opd) (s : State) : Res :=
  compute (.and h d a b) h d (some a) (some b) (fun x y => x &&& y) s

/-- 11 Table 11.3, `or`. -/
def execOr (h : Hd) (d a b : Opd) (s : State) : Res :=
  compute (.or h d a b) h d (some a) (some b) (fun x y => x ||| y) s

/-- 11 Table 11.3, `xor`. -/
def execXor (h : Hd) (d a b : Opd) (s : State) : Res :=
  compute (.xor h d a b) h d (some a) (some b) (fun x y => x ^^^ y) s

/-- 11 Table 11.3, `andn`. -/
def execAndn (h : Hd) (d a b : Opd) (s : State) : Res :=
  compute (.andn h d a b) h d (some a) (some b) (fun x y => x &&& ~~~y) s

/-- 11 Table 11.3, `shl`. -/
def execShl (h : Hd) (d a b : Opd) (s : State) : Res :=
  compute (.shl h d a b) h d (some a) (some b) (shlW) s

/-- 11 Table 11.3, `shr`. -/
def execShr (h : Hd) (d a b : Opd) (s : State) : Res :=
  compute (.shr h d a b) h d (some a) (some b) (shrW) s

/-- 11 Table 11.3, `sha`. -/
def execSha (h : Hd) (d a b : Opd) (s : State) : Res :=
  compute (.sha h d a b) h d (some a) (some b) (shaW) s

/-- 11 Table 11.3, `rol`. -/
def execRol (h : Hd) (d a b : Opd) (s : State) : Res :=
  compute (.rol h d a b) h d (some a) (some b) (rolW) s

/-- 11 Table 11.3, `clz`. -/
def execClz (h : Hd) (d a : Opd) (s : State) : Res :=
  compute (.clz h d a) h d (some a) none (fun x _ => BitVec.ofNat 64 (leadZeros x.toNat 64)) s

/-- 11 Table 11.3, `ctz`. -/
def execCtz (h : Hd) (d a : Opd) (s : State) : Res :=
  compute (.ctz h d a) h d (some a) none (fun x _ => BitVec.ofNat 64 (trailZeros x.toNat 64)) s

/-- 11 Table 11.3, `popc`. -/
def execPopc (h : Hd) (d a : Opd) (s : State) : Res :=
  compute (.popc h d a) h d (some a) none (fun x _ => BitVec.ofNat 64 (popCount x.toNat 64)) s

/-- 11 Table 11.3, `mov`. -/
def execMov (h : Hd) (d a : Opd) (s : State) : Res :=
  compute (.mov h d a) h d (some a) none (fun x _ => x) s

/-- 11 R223, `bfx`. -/
def execBfx (h : Hd) (d a b : Opd) (s : State) : Res :=
  compute (.bfx h d a b) h d (some a) (some b) (bfxW) s

/-- 11 R223, `bfi`: D is read and written, and must be g0 to g15. -/
def execBfi (h : Hd) (d a b : Opd) (s : State) : Res :=
  issue (.bfi h d a b) h { a := some a, b := some b, ds := some d } (needG d) anyMode
    (fun v s => s.finish (.bfi h d a b) d (bfiW v.d v.a v.b)) s

/-- 11 Table 11.3, `sextI8`. -/
def execSextI8 (h : Hd) (d a : Opd) (s : State) : Res :=
  compute (.sextI8 h d a) h d (some a) none (fun x _ => sext64 8 x.toNat) s

/-- 11 Table 11.3, `sextI16`. -/
def execSextI16 (h : Hd) (d a : Opd) (s : State) : Res :=
  compute (.sextI16 h d a) h d (some a) none (fun x _ => sext64 16 x.toNat) s

/-- 11 Table 11.3, `sextI32`. -/
def execSextI32 (h : Hd) (d a : Opd) (s : State) : Res :=
  compute (.sextI32 h d a) h d (some a) none (fun x _ => sext64 32 x.toNat) s

/-- 11 Table 11.3, `zextN8`. -/
def execZextN8 (h : Hd) (d a : Opd) (s : State) : Res :=
  compute (.zextN8 h d a) h d (some a) none (fun x _ => zext64 8 x.toNat) s

/-- 11 Table 11.3, `zextN16`. -/
def execZextN16 (h : Hd) (d a : Opd) (s : State) : Res :=
  compute (.zextN16 h d a) h d (some a) none (fun x _ => zext64 16 x.toNat) s

/-- 11 Table 11.3, `zextN32`. -/
def execZextN32 (h : Hd) (d a : Opd) (s : State) : Res :=
  compute (.zextN32 h d a) h d (some a) none (fun x _ => zext64 32 x.toNat) s

/-- 11 Table 11.3, `sel`: A when the predicate is true, else B. -/
def execSel (h : Hd) (c : BitVec 3) (d a b : Opd) (s : State) : Res :=
  issue (.sel h c d a b) h { a := some a, b := some b, d := some d } none anyMode
    (fun v s => s.finish (.sel h c d a b) d (if s.cx.getP c.toNat then v.a else v.b)) s

/-- 11 Table 11.2, `addImm`. -/
def execAddImm (h : Hd) (d a : Opd) (imm : BitVec 10) (s : State) : Res :=
  compute (.addImm h d a imm) h d (some a) none (fun x _ => x + immW imm) s

/-- 11 Table 11.2, `andImm`. -/
def execAndImm (h : Hd) (d a : Opd) (imm : BitVec 10) (s : State) : Res :=
  compute (.andImm h d a imm) h d (some a) none (fun x _ => x &&& immW imm) s

/-- 11 Table 11.2, `orImm`. -/
def execOrImm (h : Hd) (d a : Opd) (imm : BitVec 10) (s : State) : Res :=
  compute (.orImm h d a imm) h d (some a) none (fun x _ => x ||| immW imm) s

/-- 11 Table 11.2, `xorImm`. -/
def execXorImm (h : Hd) (d a : Opd) (imm : BitVec 10) (s : State) : Res :=
  compute (.xorImm h d a imm) h d (some a) none (fun x _ => x ^^^ immW imm) s

/-- 11 Table 11.2, `shlImm`. -/
def execShlImm (h : Hd) (d a : Opd) (imm : BitVec 6) (s : State) : Res :=
  compute (.shlImm h d a imm) h d (some a) none (fun x _ => shlW x (imm.zeroExtend 64)) s

/-- 11 Table 11.2, `shrImm`. -/
def execShrImm (h : Hd) (d a : Opd) (imm : BitVec 6) (s : State) : Res :=
  compute (.shrImm h d a imm) h d (some a) none (fun x _ => shrW x (imm.zeroExtend 64)) s

/-- 11 Table 11.2, `shaImm`. -/
def execShaImm (h : Hd) (d a : Opd) (imm : BitVec 6) (s : State) : Res :=
  compute (.shaImm h d a imm) h d (some a) none (fun x _ => shaW x (imm.zeroExtend 64)) s

/-- 11 Table 11.2, `li`. -/
def execLi (h : Hd) (d : Opd) (imm : BitVec 10) (s : State) : Res :=
  compute (.li h d imm) h d none none (fun _ _ => immW imm) s

/-- 11 R224, signed compare. -/
def execCmpSigned (h : Hd) (w : BitVec 2) (c d : BitVec 3) (a b : Opd) (s : State) : Res :=
  compare (.cmpSigned h w c d a b) h d a b (fun x y => (cmpS w.toNat c.toNat x y, 0#5)) s

/-- 11 R224, unsigned compare. -/
def execCmpUnsigned (h : Hd) (w : BitVec 2) (c d : BitVec 3) (a b : Opd) (s : State) : Res :=
  compare (.cmpUnsigned h w c d a b) h d a b (fun x y => (cmpU w.toNat c.toNat x y, 0#5)) s

/-- 11 R224, float compare. -/
def execCmpFloat (h : Hd) (bf : Bool) (c d : BitVec 3) (a b : Opd) (s : State) : Res :=
  compare (.cmpFloat h bf c d a b) h d a b (cmpFl bf c.toNat) s

/-- 11 R225, `pand`. -/
def execPand (h : Hd) (d a b : BitVec 3) (s : State) : Res :=
  predLogic (.pand h d a b) h d (fun t => t.getP a.toNat && t.getP b.toNat) s
/-- 11 R225, `por`. -/
def execPor (h : Hd) (d a b : BitVec 3) (s : State) : Res :=
  predLogic (.por h d a b) h d (fun t => t.getP a.toNat || t.getP b.toNat) s
/-- 11 R225, `pxor`. -/
def execPxor (h : Hd) (d a b : BitVec 3) (s : State) : Res :=
  predLogic (.pxor h d a b) h d (fun t => t.getP a.toNat != t.getP b.toNat) s
/-- 11 R225, `pnot`. -/
def execPnot (h : Hd) (d a : BitVec 3) (s : State) : Res :=
  predLogic (.pnot h d a) h d (fun t => !t.getP a.toNat) s

end Sys2Proof.Machine
end

