-- ==== Sys2Proof/Machine/Control.lean ====
section
/-! DEFINITION. Control transfers, `yield`, `nop` and the queue tests (11 R226 to R229). `exit` stands with the
threads. -/

namespace Sys2Proof.Machine

/-- A transfer to a target (11 R227): misaligned and out-of-range targets trap at the transferring instruction; else
`k` does what goes with it and the thread goes on at the target. -/
def State.transfer (s : State) (target : Word) (k : State → State) : State :=
  if fld target 1 0 ≠ 0 then s.misaligned target.toNat
  else if fld target 63 48 ≠ 0 then s.accessError target.toNat
  else ((k s).retire 0).updCx fun t => { t with pc := target }

/-- PC + 4 * OFF. -/
def offTarget {n : Nat} (pc : Word) (off : BitVec n) : Word := pc + 4#64 * off.signExtend 64

/-- `br` (11 Table 11.4). -/
def execBr (h : Hd) (off : BitVec 20) (s : State) : Res :=
  issue (.br h off) h {} none anyMode (fun _ s => s.transfer (offTarget s.cx.pc off) id) s

/-- `call target`: g15 receives the address after it (11 Table 11.4). -/
def execCallOffset (h : Hd) (off : BitVec 20) (s : State) : Res :=
  issue (.callOffset h off) h {} none anyMode
    (fun _ s => s.transfer (offTarget s.cx.pc off) fun s => s.updCx fun t => t.setG 15 (t.pc + 4#64)) s

/-- `loop gD, target` (11 Table 11.4). -/
def execLoop (h : Hd) (d : Opd) (off : BitVec 15) (s : State) : Res :=
  issue (.loop h d off) h { ds := some d } (needG d) anyMode
    (fun v s =>
      let n := v.d - 1#64
      if n = 0#64 then (s.writeD s.me s.mx d none n).retire 4
      else s.transfer (offTarget s.cx.pc off) fun s => s.writeD s.me s.mx d none n) s

/-- `jmp a` (11 Table 11.4). -/
def execJmp (h : Hd) (a : Opd) (s : State) : Res :=
  issue (.jmp h a) h { a := some a } none anyMode (fun v s => s.transfer v.a id) s

/-- `call d, a`: A is read before D is written (11 Table 11.4). -/
def execCallReg (h : Hd) (d a : Opd) (s : State) : Res :=
  let i : Instr := .callReg h d a
  issue i h { a := some a, d := some d } none anyMode
    (fun v s => s.transfer v.a fun s =>
      s.writeD s.me s.mx d ((s.cx.latch).bind fun l => l.rid) (s.cx.pc + BitVec.ofNat 64 i.bytes)) s

/-- `ret a` acts as `jmp` (11 R226). -/
def execRet (h : Hd) (a : Opd) (s : State) : Res :=
  issue (.ret h a) h { a := some a } none anyMode (fun v s => s.transfer v.a id) s

/-- `yield`: the thread gives way at the core's next pick (11 R228). -/
def execYield (h : Hd) (s : State) : Res :=
  issue (.yield h) h {} none anyMode
    (fun _ s => (s.retire (Instr.yield h).bytes).updCx fun t => { t with yielded := true }) s

/-- `nop` (11 R228). -/
def execNop (h : Hd) (s : State) : Res :=
  issue (.nop h) h {} none anyMode (fun _ s => s.retire (Instr.nop h).bytes) s

/-- The queue that a queue test names is no source operand that blocks; a roaming thread, and a link with no
neighbour, trap as for any operand (11 R229). -/
def queueTest (i : Instr) (h : Hd) (d a : Opd) (b : Option Opd) (body : Vals → Nat → State → State) (s : State) : Res :=
  let roam := if s.cx.roam then some a.code.toNat else none
  issue i h { b := b, d := some d } roam anyMode
    (fun v s => match noLink s.me a with
      | some code => s.trap .noNeighbour code 0 0
      | none => match srcQueue a with
        | some q => body v q s
        | none => s.retire i.bytes) s

/-- `qtry` (11 R229). -/
def execQtry (h : Hd) (d a b : Opd) (s : State) : Res :=
  queueTest (.qtry h d a b) h d a (some b) (fun v q s =>
    match (s.core s.me).queue q with
    | ⟨_, some x⟩ :: r =>
      ((s.updCore s.me fun k => k.setQueue q r).queueChanged s.me q).finish (.qtry h d a b) d x
    | _ => s.finish (.qtry h d a b) d v.b) s

/-- Entries free on the writing side of a queue name (11 R229). -/
def State.freePlaces (s : State) (a : Opd) : Nat :=
  match dstQueue s.me a with
  | some (c, q, _) => queueCap q - ((s.core c).queue q).length
  | none => 0

/-- `qcount` (11 R229). -/
def execQcount (h : Hd) (d a : Opd) (s : State) : Res :=
  queueTest (.qcount h d a) h d a none (fun _ q s =>
    s.finish (.qcount h d a) d
      (BitVec.ofNat 64 ((readable ((s.core s.me).queue q)).length + 16 * s.freePlaces a))) s

/-- Does a thread stand first under a name, or none at all (07 R149)? -/
def Core.firstAt (k : Core) (name x : Nat) : Bool :=
  match k.qwait.find? fun w => w.1 == name with
  | some w => w.2 == x
  | none => true

/-- `qpeek` (11 R229): it waits in turn, and who waits behind it looks once it is served. -/
def execQpeek (h : Hd) (d a : Opd) (s : State) : Res :=
  queueTest (.qpeek h d a) h d a none (fun _ q s =>
    match if (s.core s.me).firstAt q s.mx then readable ((s.core s.me).queue q) else [] with
    | x :: _ => (s.leaveQueues s.me s.mx).finish (.qpeek h d a) d x
    | [] =>
      let s1 := s.updCore s.me fun k =>
        if k.qwait.any fun w => w.1 == q && w.2 == s.mx then k else { k with qwait := k.qwait ++ [(q, s.mx)] }
      s1.block (.queue q)) s

end Sys2Proof.Machine
end

