-- ==== Sys2Proof/Machine/SystemRegs.lean ====
section
/-! DEFINITION. The system registers: what each reads as and what a write changes (11 R230 and Table 11.5; the layouts
stand in the tables that it names). -/

namespace Sys2Proof.Machine

/-! What the DIAG registers show (17 Table 17.1): the entries of a slice's structures in the order in which the model
holds them. -/

/-- A registered word (03 Table 3.4). -/
def RegWord.bits (g : RegWord) : Nat :=
  2 ^ 127 + putBits (b2n g.host) 126 1 + putBits g.agent 106 20 + putBits g.space 90 16 + putBits g.vline 49 41
    + putBits g.word 44 5 + putBits g.line 14 30

/-- A sharer pointer (03 Table 3.5). -/
def Ptr.bits (p : Ptr) : Nat :=
  2 ^ 78 + putBits (b2n p.host) 77 1 + putBits p.agent 57 20 + putBits p.space 41 16 + putBits p.vline 0 41

/-- A sharer-line entry (03 Table 3.5). -/
def sharerBits (e : Nat × List Ptr) : Nat :=
  2 ^ 383 + putBits e.1 353 30 +
    (((e.2.take 4).zip [0, 79, 158, 237]).map fun x => x.1.bits * 2 ^ x.2).foldl (· + ·) 0

/-- A race-tracking entry (04 Table 4.5). -/
def raceBits (e : RaceEnt) : Nat :=
  let r (i : Nat) : Nat := nthD e.rtags i 0
  2 ^ 191 + putBits (b2n (decide (2 < e.rtags.length))) 190 1 + putBits e.line 160 30 + putBits e.word 155 5
    + putBits (b2n e.wtag.isSome) 154 1 + putBits (b2n (decide (1 < e.rtags.length))) 153 1
    + putBits (b2n (decide (0 < e.rtags.length))) 152 1 + putBits (e.wtag.getD 0) 82 41 + putBits (r 1) 41 41
    + putBits (r 0) 0 41

/-- A section entry (05 Table 5.1). -/
def SEnt.bits (e : SEnt) (frame : Nat) : Nat :=
  let p := e.pte.toNat
  let b (i : Nat) : Nat := b2n (bitOf p i)
  2 ^ 159 + putBits e.size 157 2 + putBits (b2n e.g) 156 1 + putBits e.space 140 16 + putBits e.vpn 104 36
    + putBits e.exp 72 32 + putBits (bitsOf p 55 54) 70 2 + putBits (b 11) 69 1 + putBits (b 10) 68 1
    + putBits (b 9) 67 1 + putBits (b 7) 66 1 + putBits (b 6) 65 1 + putBits (b 4) 64 1 + putBits (b 3) 63 1
    + putBits (b 2) 62 1 + putBits (b 1) 61 1 + putBits frame 0 40

/-- The entry that DIAG_SEL selects, 0 beyond the structure. DIAG_DATA shows it as it was when DIAG_SEL was written (DESIGN CHOICE,
log entry 124). -/
def State.diagEntry (s : State) : Nat :=
  let w := s.regs.diagSel
  let k := s.slice (fld w 23 18)
  let i := fld w 15 0
  match fld w 17 16 with
  | 0 => ((k.regs.map RegWord.bits)[i]?).getD 0
  | 1 => ((k.sharers.map sharerBits)[i]?).getD 0
  | 2 => ((k.races.map raceBits)[i]?).getD 0
  | _ => ((k.sect.map fun e => e.bits (bitsOf e.pte.toNat 51 12))[i]?).getD 0

/-! Reads. -/

/-- Is the context the thread's origin (16 R342)? -/
def State.atOrigin (s : State) (c x : Nat) : Bool := (s.ctx c x).ocore == s.gcore c && (s.ctx c x).octx == x

/-- The accumulators that a thread's group holds. -/
def Core.grantOf (k : Core) (t : Ctx) : Nat := if t.gv then (tblGet k.groups t.group {}).accs else 0

/-- A register of a context or a core (0x000 to 0x043) as a thread reads it. -/
def State.readLocal (s : State) (c x num : Nat) : Nat :=
  let k := s.core c
  let t := k.ctx x
  match num with
  | 0x000 => (s.statusWord c x).toNat
  | 0x001 => t.flags.toNat
  | 0x002 => t.fillLimit.toNat
  | 0x003 => t.toor.toNat
  | 0x004 => putBits t.tch 42 22 + putBits t.tcl 20 22 + t.serial.toNat
  | 0x005 => t.trapCause.toNat
  | 0x006 => t.trapPc.toNat
  | 0x007 => t.trapStatus.toNat
  | 0x008 => t.info0.toNat
  | 0x009 => t.info1.toNat
  | 0x00A => t.info2.toNat
  | 0x00B => if s.atOrigin c x then t.errRec.toNat else 0
  | 0x040 => if t.isTask then k.asat.toNat &&& k.grantOf t else k.asat.toNat
  | 0x041 => k.spillEntry.toNat
  | 0x042 => k.spillHeap.toNat
  | _ => k.spillCtl.toNat

/-- PORT_STAT of the selected port (06 Table 6.5). -/
def Port.stat (p : Port) : Nat :=
  putBits p.tagfail 32 32 + putBits p.peer 20 12 + putBits p.peerPort 16 4 + putBits p.state 0 3

/-- A register of the cube as it reads (11 Table 11.5). -/
def State.readCube (s : State) (num : Nat) : Nat :=
  let g := s.regs
  let f := s.fabric
  let p := s.port f.portSel
  match num with
  | 0x080 => g.mapSel.toNat
  | 0x081 => g.mapD0.toNat
  | 0x082 => g.mapD1.toNat
  | 0x083 => g.mapD2.toNat
  | 0x084 => 0
  | 0x085 => putBits (b2n (!s.hold.isEmpty)) 8 1 + putBits g.mapErr 0 4
  | 0x088 => g.spaceTbl.toNat
  | 0x089 => g.leaseCtl.toNat
  | 0x08A => putBits g.skews 32 32 + b2n g.refLost
  | 0x08B => s.leaseNow % 2 ^ 64
  | 0x090 => g.migqBase.toNat
  | 0x091 => (g.queue 0).1
  | 0x092 => g.migqCtr.toNat
  | 0x093 => g.migqCons.toNat
  | 0x094 => g.migqDrop.toNat
  | 0x095 => g.migCtl.toNat
  | 0x098 => g.fltqBase.toNat
  | 0x099 => (g.queue 1).1
  | 0x09A => g.fltqCtr.toNat
  | 0x09B => g.fltqCons.toNat
  | 0x0A0 => f.rtSel
  | 0x0A1 => (memGet f.routes f.rtSel).toNat
  | 0x0A2 => f.portSel
  | 0x0A3 => putBits p.lfly 8 8 + putBits p.mode 0 2
  | 0x0A4 => p.stat
  | 0x0A5 => putBits f.rlim 32 4 + putBits f.timer 0 32
  | 0x0A6 => (f.outs.filter fun o => !o.paused).length + f.mcOuts.length
  | 0x0A7 => f.mcSel
  | 0x0A8 => (memGet f.mcGroups f.mcSel).toNat
  | 0x0B0 => s.tu.next.toNat
  | 0x0B1 => putBits s.tu.pool.length 16 13 + putBits s.tu.slotsUsed 0 5
  | 0x0B2 => g.vaultArb.toNat
  | 0x0B8 => g.atomExc.toNat
  | 0x0B9 => g.atomExcPa.toNat
  | 0x0C0 => g.errqBase.toNat
  | 0x0C1 => (g.queue 2).1
  | 0x0C2 => g.errqCtr.toNat
  | 0x0C3 => g.errqCons.toNat
  | 0x100 => g.hostCtl.toNat
  | 0x101 => g.hwinBase.toNat
  | 0x102 => g.hwinSize.toNat
  | 0x108 => g.bootStat.toNat
  | 0x109 => putBits (fld g.fwVer 63 32) 32 32 + putBits g.minver 0 32
  | 0x10A => putBits (b2n s.cubeSet) 12 1 + putBits s.cubeId 0 12
  | 0x110 => g.pwrCap.toNat
  | 0x111 => g.pwrStat.toNat
  | 0x118 => g.health.toNat
  | 0x120 => g.diagSel.toNat
  | n => bitsOf g.diagData (64 * (n - 0x121) + 63) (64 * (n - 0x121))

/-- May task mode read or write the register (11 Table 11.5)? -/
def taskReg (num : Nat) : Bool := decide (num ≤ 3) || num == 0x040 || num == 0x08B

/-- Does an access to the register raise PRIVILEGE in the thread's mode (11 R230, 17 R349)? -/
def regPrivilege (num : Nat) (t : Ctx) : Bool :=
  (t.isTask && !taskReg num) || (decide (0x120 ≤ num) && t.mode != 2)

/-- The number that B and A name. -/
def regNum (nb na : BitVec 5) : Nat := nb.toNat * 32 + na.toNat

/-- `sysrd` (11 R230). -/
def execSysrd (h : Hd) (d : Opd) (na nb : BitVec 5) (s : State) : Res :=
  issue (.sysrd h d na nb) h { d := some d } none (regPrivilege (regNum nb na))
    (fun _ s =>
      let n := regNum nb na
      let v := if n < 0x080 then s.readLocal s.me s.mx n else s.readCube n
      s.finish (.sysrd h d na nb) d (BitVec.ofNat 64 v)) s

/-! Writes. -/

/-- A value cut to field [hi:lo], in place. -/
def maskWord (v : Nat) (hi lo : Nat) : Word := BitVec.ofNat 64 (bitsOf v hi lo * 2 ^ lo)

/-- A write of a register of a context or a core. -/
def State.writeLocal (s : State) (c x num v : Nat) : State :=
  let t := s.ctx c x
  let up (f : Ctx → Ctx) : State := s.updCtx c x f
  match num with
  | 0x001 => up fun t => { t with flags := BitVec.ofNat 5 v }
  | 0x002 => up fun t => { t with fillLimit := BitVec.ofNat 16 v }
  | 0x003 => if bitOf v 63 then up fun t => { t with toor := setFld t.toor 63 63 0 } else s
  | 0x005 => up fun t => { t with trapCause := setFld t.trapCause 8 8 (v / 256) }
  | 0x006 => up fun t => { t with trapPc := BitVec.ofNat 64 (v % 2 ^ 48) }
  | 0x007 =>
    let m := bitsOf v 47 46
    if m < 2 || (m = 2 && t.mode == 2) then up fun t => { t with trapStatus := setFld t.trapStatus 47 46 m } else s
  | 0x008 => up fun t => { t with info0 := BitVec.ofNat 64 v }
  | 0x009 => up fun t => { t with info1 := BitVec.ofNat 64 v }
  | 0x00A => up fun t => { t with info2 := BitVec.ofNat 64 v }
  | 0x00B =>
    if s.atOrigin c x then up fun t =>
      { t with errRec := maskWord v 47 6 + maskWord v 4 0
          + (if bitOf t.errRec.toNat 5 && !bitOf v 5 then 32#64 else 0#64) }
    else s
  | 0x040 =>
    let mine := if t.isTask then (s.core c).grantOf t else 255
    s.updCore c fun k => { k with asat := k.asat &&& ~~~(BitVec.ofNat 8 (v &&& mine)) }
  | 0x041 => s.updCore c fun k => { k with spillEntry := maskWord v 47 2 }
  | 0x042 => s.updCore c fun k => { k with spillHeap := maskWord v 47 0 }
  | 0x043 => (s.updCore c fun k => { k with spillCtl := maskWord v 63 48 + maskWord v 0 0 }).emit (.spillWake c)
  | _ => s

/-- Who waits for the fault queue looks again (05 R118). -/
def State.retryFaults (s : State) : State := if s.faultWait.isEmpty then s else s.emit .faultWaitRetry

/-- LOG2N as written: 21 to 31 read as 0 (05 Table 5.7). -/
def log2nWord (v : Nat) : Word := if 20 < v % 32 then 0#64 else BitVec.ofNat 64 (v % 32)

/-- The cap, clamped (17 Table 17.1). -/
def clampCap (v : Nat) : Word := BitVec.ofNat 64 (min 950 (max 300 (v % 1024)))

/-- The map step of an operation number; none for 0 and 9 to 15, which are refused (01 Table 1.3). -/
def mapStepOf : Nat → Option Ev
  | 1 => some .mapRead
  | 2 => some .mapWrite
  | 3 => some .mapBegin
  | 4 => some .mapHold
  | 5 => some .mapStep
  | 6 => some .mapFinish
  | 7 => some .mapListRead
  | 8 => some .mapListWrite
  | _ => none

/-- REGISTER_WRITE (11 R230): a write takes effect at the cube's register block; a write that starts an operation makes
its step due at once. -/
def doRegisterWrite (num value : Nat) (s : State) : State :=
  let v := value % 2 ^ 64
  let set (f : Regs → Regs) : State := { s with regs := f s.regs }
  let fab (f : Fabric → Fabric) : State := { s with fabric := f s.fabric }
  match num with
  | 0x080 => set fun g => { g with mapSel := maskWord v 7 0 }
  | 0x081 => set fun g => { g with mapD0 := maskWord v 51 0 }
  | 0x082 => set fun g => { g with mapD1 := maskWord v 40 0 }
  | 0x083 => set fun g => { g with mapD2 := maskWord v 63 0 }
  | 0x084 => match mapStepOf (v % 16) with
    | some e => s.emitFirst [e]
    | none => s.mapErr 1
  | 0x088 => set fun g => { g with spaceTbl := maskWord v 51 22 }
  | 0x089 => set fun g =>
    { g with leaseCtl := maskWord v 31 24 + maskWord v 20 16 + maskWord v 11 8 + maskWord v 3 0 }
  | 0x090 => set fun g => { g with migqBase := maskWord v 51 12 }
  | 0x091 => set fun g => { g with migqCtl := log2nWord v }
  | 0x092 => set fun g => { g with migqCtr := maskWord v 51 3 }
  | 0x093 => set fun g => { g with migqCons := maskWord v 63 0 }
  | 0x094 => if bitOf v 0 then set fun g => { g with migqDrop := 0#64 } else s
  | 0x095 =>
    let s1 := set fun g => { g with migCtl := maskWord v 31 0 }
    let s2 := { s1 with timers := s1.timers.filter fun t => t.step != .migrationDecay }
    let d := bitsOf v 31 16
    if d = 0 then s2 else s2.later (1024 * d) .migrationDecay
  | 0x098 => set fun g => { g with fltqBase := maskWord v 51 12 }
  | 0x099 => (set fun g => { g with fltqCtl := log2nWord v }).retryFaults
  | 0x09A => set fun g => { g with fltqCtr := maskWord v 51 3 }
  | 0x09B => (set fun g => { g with fltqCons := maskWord v 63 0 }).retryFaults
  | 0x0A0 => fab fun f => { f with rtSel := v % 2 ^ 12 }
  | 0x0A1 => fab fun f => { f with routes := memSet f.routes f.rtSel (BitVec.ofNat 64 v &&& 0xFF00FF00FF00FF00#64) }
  | 0x0A2 => fab fun f => { f with portSel := v % 16 }
  | 0x0A3 =>
    let m := min 2 (v % 4)
    let p := s.fabric.portSel
    (s.updPort p fun q => { q with lfly := bitsOf v 15 8, mode := v % 4 }).emitFirst
      [if m = 0 then .portEnable p else if m = 1 then .portFence p else .portDisable p]
  | 0x0A4 => if bitOf v 32 then s.updPort s.fabric.portSel fun q => { q with tagfail := 0 } else s
  | 0x0A5 => fab fun f => { f with rlim := bitsOf v 35 32, timer := v % 2 ^ 32 }
  | 0x0A7 => fab fun f => { f with mcSel := v % 256 }
  | 0x0A8 => fab fun f => { f with mcGroups := memSet f.mcGroups f.mcSel (BitVec.ofNat 64 (v % 2 ^ 17)) }
  | 0x0B2 => set fun g => { g with vaultArb := maskWord v 15 0 }
  | 0x0B8 => set fun g =>
    let e := g.atomExc &&& ~~~(BitVec.ofNat 64 (v % 32))
    { g with atomExc := if bitOf v 32 then setFld e 63 32 0 else e }
  | 0x0C0 => set fun g => { g with errqBase := maskWord v 51 12 }
  | 0x0C1 => set fun g => { g with errqCtl := log2nWord v }
  | 0x0C2 => set fun g => { g with errqCtr := maskWord v 51 3 }
  | 0x0C3 => set fun g => { g with errqCons := maskWord v 63 0 }
  | 0x100 => set fun g => { g with hostCtl := maskWord v 2 0 }
  | 0x101 => set fun g => { g with hwinBase := maskWord v 51 28 }
  | 0x102 => set fun g => { g with hwinSize := maskWord v 5 0 }
  | 0x109 => s.emitFirst [.minverBurn (v % 2 ^ 32)]
  | 0x10A => if s.cubeSet then s else { s with cubeId := v % 2 ^ 12, cubeSet := true }
  | 0x110 => set fun g => { g with pwrCap := clampCap v }
  | 0x120 =>
    let s1 := set fun g => { g with diagSel := maskWord v 23 0 }
    { s1 with regs := { s1.regs with diagData := s1.diagEntry } }
  | _ => s

/-- MINVER_BURN (17 R357): the fused minimum rises to the value, if it is greater and no greater than VER. -/
def doMinverBurn (value : Nat) (s : State) : State :=
  if s.regs.minver < value && value ≤ fld s.regs.fwVer 63 32 then { s with regs := { s.regs with minver := value } }
  else s

/-- `syswr` (11 R230): a write to the thread's own registers is made at once; a cube register's write goes to the
register block, and the thread goes on when it has taken effect. MINVER is written in firmware mode only. -/
def execSyswr (h : Hd) (d : Opd) (na nb : BitVec 5) (s : State) : Res :=
  let n := regNum nb na
  issue (.syswr h d na nb) h { ds := some d } none (regPrivilege n)
    (fun v s =>
      let x := v.d.toNat
      if n < 0x080 then (s.writeLocal s.me s.mx n x).retire (Instr.syswr h d na nb).bytes
      else if n = 0x109 && s.cx.mode != 2 then s.retire (Instr.syswr h d na nb).bytes
      else ((s.retire (Instr.syswr h d na nb).bytes).emitFirst [.registerWrite n x]).block .reg) s

end Sys2Proof.Machine
end

