-- ==== Sys2Proof/Machine/Frames.lean ====
section
/-! DEFINITION. Moves of state between homes: holding a granule (01 R22), moving a page (04 R93, 11 R238), and zeroing a
frame (02 R56, 11 R239). -/

namespace Sys2Proof.Machine

/-- All words of a line. -/
def allWords : Nat := 2 ^ 32 - 1

/-- Local lines at which a home holds something besides dense data. -/
def State.busyLines (s : State) : List Nat :=
  (s.slices.flatMap fun p =>
    let k := p.2
    k.l2.map (fun c => c.line) ++ k.fast.map (fun c => c.line) ++ k.regs.map (fun g => g.line)
      ++ k.sharers.map (fun e => e.1) ++ k.races.map (fun e => e.line) ++ k.watches.map (fun w => w.local_ / 128)
    ).eraseDups

/-- A line is called back for a unit's own work `k`; while the line is held for another purpose, `again` waits. -/
def State.quiesceOr (s : State) (line : Nat) (again k : Ev) : State :=
  if (s.holdOf line).isSome then s.holdRequest line again
  else s.quiesce line allWords none k

/-- The watches and race-tracking entries of a line leave its home; who waits for a watch entry there goes on. -/
def State.takeEntries (s : State) (line : Nat) : List RaceEnt × List Watch × State :=
  let k := s.slice (sliceOf line)
  let ws := k.watches.filter fun w => w.local_ / 128 == line
  let s1 := s.updSlice (sliceOf line) fun k =>
    { k with races := k.races.filter fun e => e.line != line
             watches := k.watches.filter fun w => w.local_ / 128 != line }
  (k.races.filter fun e => e.line == line, ws, if ws.isEmpty then s1 else s1.serveWatches (sliceOf line))

/-- Race-tracking entries are installed while there is room: those left over, and the slice. -/
def Slice.installRaces (k : Slice) : List RaceEnt → List RaceEnt × Slice
  | [] => ([], k)
  | e :: r =>
    let k1 := k.putRace e
    if 4096 < k1.raceUse then (e :: r, k) else k1.installRaces r

/-- Entries sent to a new home are installed at a line there as far as the slice's entries are free, never beyond its capacity
(01 R22): what is left of the message, and the state. -/
def State.installEntries (s : State) (line : Nat) (m : LineMove) : LineMove × State :=
  let k := s.slice (sliceOf line)
  let ws := m.watches.map fun w => { w with local_ := line * 128 + w.local_ % 128 }
  let free := 4096 - k.watches.length
  let r := k.installRaces (m.races.map fun e => { e with line := line })
  ({ m with races := r.1, watches := m.watches.drop free },
    s.updSlice (sliceOf line) fun _ => { r.2 with watches := k.watches ++ ws.take free })

/-- Has every entry of a message been installed? -/
def moveDone (m : LineMove) : Bool := m.races.isEmpty && m.watches.isEmpty

/-- An installation that must wait for freed entries goes ahead of the registrations and checks that wait at the slice. -/
def State.waitInstall (s : State) (line : Nat) (m : LineMove) (again : Ev) : State :=
  if m.watches.isEmpty then s.updSlice (sliceOf line) fun k => { k with raceWait := again :: k.raceWait }
  else s.updSlice (sliceOf line) fun k => { k with watchWait := again :: k.watchWait }

/-! Holding a granule. -/

/-- The offset in its region of a local line, under a layout of which this cube is entry `j` of the list. -/
def Slot.offsetOf (d : Slot) (j line : Nat) : Nat :=
  let rel := line * 128 - d.lbase * 4096
  (rel / 2 ^ d.gran * d.n + j) * 2 ^ d.gran + rel % 2 ^ d.gran

/-- Does a local line hold data of a region under a layout at an offset with property `p`? -/
def State.lineIn (s : State) (d : Slot) (line : Nat) (p : Nat → Bool) : Bool :=
  decide (d.lbase * 4096 ≤ line * 128) && (countUp 0 d.n).any fun j =>
    tblGet s.cubeList (d.list + j) 0 == s.cubeId && decide (d.offsetOf j line < 2 ^ d.size) && p (d.offsetOf j line)

/-- Where a layout places an offset: the cube and the local line. -/
def State.placeIn (s : State) (d : Slot) (off : Nat) : Nat × Nat :=
  let idx := off / 2 ^ d.gran
  (tblGet s.cubeList (d.list + idx % d.n) 0,
   (d.lbase * 4096 + (idx / d.n) * 2 ^ d.gran + off % 2 ^ d.gran) / 128)

/-- The lines of a held granule homed here under the old layout that hold something. -/
def State.heldLines (s : State) (d old : Slot) : List Nat :=
  s.busyLines.filter fun l => s.lineIn old l fun off => off / 2 ^ d.gran == d.wmark

/-- A held line has been called back: its data is written back and dropped, and its entries are sent to the new home
(01 R22, steps 3 and 4). -/
def State.holdLineQuiet (s : State) (slot line : Nat) : State :=
  let d := s.slot slot
  let old := s.slot d.partner
  let s1 := s.cleanLine line true
  let r := s1.takeEntries line
  match (countUp 0 old.n).find? fun j => tblGet s.cubeList (old.list + j) 0 == s.cubeId
      && old.offsetOf j line / 2 ^ d.gran == d.wmark with
  | none => s1
  | some j =>
    if r.1.isEmpty && r.2.1.isEmpty then s1.emitFirst [.holdComplete { job := slot, part := line * 4 + 1, ok := true }]
    else
      let to_ := s.placeIn d (old.offsetOf j line)
      r.2.2.post to_.1 (s.homeAgent line) 0
        (.holdTransfer { src := s.cubeId, from_ := line, to_ := to_.2, data := [], poison := false, races := r.1,
                         watches := r.2.1, job := slot })

/-- MAP_HOLD (01 Table 1.3, R22). A granule that is already being cleared goes on being so. -/
def doMapHold (s : State) : State :=
  s.slotOp fun k =>
    let d := s.slot k
    if d.state != 2 || d.wmark = d.granules then s.mapErr 3
    else
      let s1 := (s.setSlot k { d with moving := true }).mapErr 0
      let lines := s1.heldLines d (s.slot d.partner)
      if lines.isEmpty || s.hold.any fun h => h.slot == k then s1
      else
        State.emitFirst { s1 with hold := s1.hold ++ [{ slot := k, left := lines.length, waits := 0 }] }
          (lines.map fun l => .holdComplete { job := k, part := l * 4 + 2, ok := true })

/-- HOLD_TRANSFER_INSTALL (01 R22): the new home installs the entries sent to it and confirms. -/
def doHoldTransferInstall (m : LineMove) (s : State) : State :=
  let r := s.installEntries m.to_ m
  if moveDone r.1 then
    r.2.post m.src (s.homeAgent m.to_) 0 (.holdComplete { job := m.job, part := m.from_ * 4 + 1, ok := true })
  else r.2.waitInstall m.to_ r.1 (.holdTransferInstall r.1)

/-- HOLD_COMPLETE (01 R22): a line of the held granule is to be called back, is quiet, or has its entries confirmed;
with the last confirmed of the last granule, BUSY falls. -/
def doHoldComplete (r : Report) (s : State) : State :=
  match s.hold.find? fun h => h.slot == r.job with
  | none => s
  | some h =>
    let line := r.part / 4
    if r.part % 4 = 2 then
      s.quiesceOr line (.holdComplete r) (.holdComplete { job := r.job, part := line * 4, ok := true })
    else if r.part % 4 = 0 then s.holdLineQuiet r.job line
    else
      let rest := s.hold.filter fun x => x.slot != h.slot
      { s with hold := if h.left ≤ 1 then rest else rest ++ [{ h with left := h.left - 1 }] }

/-! Moving a page and zeroing a frame. -/

/-- The job with a number, of this cube. -/
def State.job (s : State) (id : Nat) : Option FrameJob := s.jobs.find? fun j => j.id == id
/-- It is changed. -/
def State.updJob (s : State) (id : Nat) (f : FrameJob → FrameJob) : State :=
  { s with jobs := s.jobs.map fun j => if j.id = id then f j else j }
/-- It ends. -/
def State.dropJob (s : State) (id : Nat) : State := { s with jobs := s.jobs.filter fun j => j.id != id }

/-- A request of a job by virtual address, in its issuer's space. -/
def State.jobVa (s : State) (j : FrameJob) (va : Nat) (act : Act) (p : Purp) : State :=
  let x := s.newOut { unitReq j.who 0 act with va := va, space := j.space, task := j.task, org := j.org, words := wordMask va 8 } p
  x.2.emit (if 2 ^ 48 ≤ va then .data (x.1.fail .accessError 0 0) else .sectionLookup x.1)

/-- The lines of a frame that this cube homes and where something besides dense data is held. -/
def State.frameLines (s : State) (frame bytes : Nat) : List Nat :=
  s.busyLines.filter fun l => s.map.any fun e => e.2.serves && s.lineIn e.2 l fun off =>
    let pa := e.2.base * 4096 + off
    decide (frame ≤ pa) && decide (pa < frame + bytes) && (match s.layout pa with
      | some p => p.cube == s.cubeId && p.local_ / 128 == l
      | none => false)

/-- Zero in the dense tier and nothing above it, no entries, stubs or poison; watches get DROPPED (02 R56, 08 R173). -/
def State.zeroLine (s : State) (line : Nat) : State :=
  let r := (s.dropLine line).takeEntries line
  let s1 := { r.2.2 with
    dense := memWrite r.2.2.dense (line * 128) (List.replicate 128 0#8)
    stubs := tblDel r.2.2.stubs line
    poison := tblDel r.2.2.poison line }
  let s2 := s1.tagFrees line (r.1.flatMap RaceEnt.tags)
  r.2.1.foldl (fun s w => s.post w.who.cube (s.homeAgent line) w.id (.dropped w.who w.id)) s2

/-- Every line of a frame homed here that nothing is registered for is zeroed. -/
def State.zeroFrame (s : State) (frame bytes : Nat) : State :=
  (countUp 0 (bytes / 128)).foldl (fun s k =>
    match s.layout (frame + 128 * k) with
    | some p => if p.cube = s.cubeId && !(s.shared (p.local_ / 128) allWords none) then s.zeroLine (p.local_ / 128) else s
    | none => s) s

/-- Cubes that home part of a frame. -/
def State.frameCubes (s : State) (frame bytes : Nat) : List Nat :=
  ((countUp 0 (bytes / 4096)).filterMap fun k => (s.layout (frame + 4096 * k)).map fun p => p.cube).eraseDups

/-- A line's move begins at its home: the line is held, called back, and then sent (04 R93). -/
def State.startLineMove (s : State) (j : FrameJob) : State :=
  match s.layout j.frame with
  | none => s
  | some p =>
    let line := p.local_ / 128
    s.quiesceOr line (.pmoveLineConfirm { job := j.id, part := 3, ok := true })
      (.pmoveLineConfirm { job := j.id, part := 0, ok := true })

/-- A job that this cube takes on, under a number of its own. -/
def State.takeJob (s : State) (j : FrameJob) (k : FrameJob → State → State) : State :=
  let n := s.newId
  let j1 := { j with id := n.1, ask := none }
  k j1 { n.2 with jobs := n.2.jobs ++ [j1] }

/-- A job for another cube is sent there; a job of this cube begins `k`. -/
def State.sendJob (s : State) (cube : Nat) (j : FrameJob) (k : FrameJob → State → State) : State :=
  if cube = s.cubeId then s.takeJob j k else s.sendRequest cube 0 j.who j.hid (.job j)

/-- The next line of a move is moved by its home. -/
def State.moveNext (s : State) (j : FrameJob) : State :=
  let pa := j.frame + 128 * j.next
  match s.layout pa with
  | none => s
  | some p => s.sendJob p.cube { j with kind := 3, frame := pa, dest := j.dest + 128 * j.next, home := s.cubeId, hid := j.id }
      fun j s => s.startLineMove j

/-- A part of a zeroing: the lines with registrations or sharers are called back first, the others zeroed at once; the
part reports when all are done (02 R56). -/
def State.startZeroPart (s : State) (j : FrameJob) : State :=
  let lines := (s.frameLines j.frame j.bytes).filter fun l => s.shared l allWords none
  let s1 := s.zeroFrame j.frame j.bytes
  let s2 := s1.emitFirst (lines.map fun l => .frameZeroReport { job := j.id, part := 2 * l + 1, ok := true })
  if lines.isEmpty then
    (s2.dropJob j.id).post j.home j.who j.hid (.frameZero { job := j.hid, part := 0, ok := true })
  else s2.updJob j.id fun j => { j with parts := lines.length }

/-- A job begins on this cube: its first step. -/
def State.startJob (s : State) (j : FrameJob) : State :=
  match j.kind with
  | 0 => s.moveNext j
  | 1 =>
    let cubes := s.frameCubes j.frame j.bytes
    let s1 := s.updJob j.id fun j => { j with parts := cubes.length }
    cubes.foldl (fun s c => s.sendJob c { j with kind := 2, home := s.cubeId, hid := j.id } fun j s => s.startZeroPart j) s1
  | 2 => s.startZeroPart j
  | _ => s.startLineMove j

/-- Is a move of a frame in progress at the home of its first line (11 Table 11.8)? -/
def State.moving (s : State) (frame : Nat) : Bool := s.jobs.any fun j => j.kind == 0 && j.frame == frame

/-- FRAME_ZERO_REPORT (02 R56, 11 R239): a line has been called back and is zeroed, or a part has finished; with the
last part the counter is added, unless a part's home was lost. -/
def doFrameZeroReport (r : Report) (s : State) : State :=
  match s.job r.job with
  | none => s
  | some j =>
    if j.kind = 2 then
      let line := r.part / 2
      if r.part % 2 = 1 then
        s.quiesceOr line (.frameZeroReport r) (.frameZeroReport { job := j.id, part := 2 * line, ok := true })
      else
      let s1 := s.zeroLine line
      if j.parts ≤ 1 then (s1.dropJob j.id).post j.home j.who j.hid (.frameZero { job := j.hid, part := 0, ok := true })
      else s1.updJob j.id fun j => { j with parts := j.parts - 1 }
    else
      let lost := j.lost || !r.ok
      if 1 < j.parts then s.updJob j.id fun j => { j with parts := j.parts - 1, lost := lost }
      else if lost then s.dropJob j.id
      else (s.dropJob j.id).jobVa j j.ctr (.counter 0 1) (.quiet 4 j.id)

/-- PMOVE_LINE_INSTALL (04 R93): the line's data and entries are installed at the new home, which then confirms. -/
def doPmoveLineInstall (m : LineMove) (s : State) : State :=
  match s.layout (m.to_ * 128) with
  | none => s.post m.src (s.homeAgent 0) 0 (.lineConfirm { job := m.job, part := 1, ok := false })
  | some p =>
    let line := p.local_ / 128
    let r := s.installEntries line m
    if moveDone r.1 then
      let s2 := (r.2.dropLine line).setDenseLine line m.data
      let s3 := if m.poison then s2.setPoison line else s2
      s3.post m.src (s.homeAgent line) 0 (.lineConfirm { job := m.job, part := 1, ok := true })
    else r.2.waitInstall line r.1 (.pmoveLineInstall r.1)

/-- The leaf's FRAME is to become G: the atomic is made with the leaf's value as it is known, at first only V = 1 and FRAME = F
(11 R238, step 2). -/
def State.moveLeaf (s : State) (j : FrameJob) (old : Nat) : State :=
  let new := old - bitsOf old 51 12 * 2 ^ 12 + bitsOf j.dest 51 12 * 2 ^ 12
  s.requestPa { unitReq j.who j.leaf (.atomic 7 1 .n64 new old false none) with words := wordMask j.leaf 8 } (.job j.id)

/-- PM3.STATUS is written (11 R238, step 3). -/
def State.moveStatus (s : State) (j : FrameJob) (status : Nat) : State :=
  (s.updJob j.id fun j => { j with parts := 2 }).jobVa j (j.desc + 24) (.store 1 0 (toBytes status 8)) (.job j.id)

/-- PM3 is written, and every acknowledgement of the store has come: the counter is added (11 R238, step 4). -/
def State.moveCounter (s : State) (id : Nat) : State :=
  match s.job id with
  | some j => (s.dropJob id).jobVa j j.ctr (.counter 0 1) (.quiet 3 id)
  | none => s

/-- The end of a request of a move: the atomic at the leaf, or the store of PM3, after which the counter is added. -/
def State.jobAnswer (s : State) (o : Out) (a : Ans) : State :=
  match o.purp with
  | .job id => match s.job id with
    | none => s
    | some j =>
      match o.req.act, a.st with
      | .atomic _ _ _ _ cmp _ _, .ok =>
        if a.value = cmp then s.moveStatus j 0
        else if !bitOf a.value 0 || bitsOf a.value 51 12 ≠ bitsOf j.frame 51 12 then s.moveStatus j 4
        else s.moveLeaf j a.value
      | .atomic .., .fail .. => s.moveStatus j 0x11
      | _, _ => s.moveCounter id
  | _ => s

/-- A move stops: a home was lost (11 R238). -/
def State.moveLost (s : State) (id : Nat) : State :=
  match s.job id with
  | some j => if j.kind = 3 then
      let s1 := match s.layout j.frame with
        | some p => (s.dropJob id).endHold (p.local_ / 128)
        | none => s.dropJob id
      s1.post j.home j.who j.hid (.lineConfirm { job := j.hid, part := 2, ok := false })
    else if j.parts = 0 then s.moveStatus j 0x11 else s
  | none => s

/-- A job could not be sent to the home that was to do it (11 R238, R239): a move, of which the issuer hears that it began, ends
with its home lost; a part of a zeroing, or the whole, leaves a record, and its counter is not added. -/
def State.jobLost (s : State) (j : FrameJob) (cube : Nat) : State :=
  let record (s : State) : State := s.report
    { org := j.org, source := 4, code := Cause.remoteLost.code, space := j.space, addr := j.frame, hcube := cube, local_ := 0,
      ident := j.hid, detail := cube }
  match j.kind with
  | 0 => s.takeJob j fun j s => s.moveStatus j 0x11
  | 1 => record s
  | 2 => (record s).emit (.frameZeroReport { job := j.hid, part := 0, ok := false })
  | _ => s.emit (.pmoveLineConfirm { job := j.hid, part := 2, ok := false })

/-- PMOVE_LINE_CONFIRM (04 R93, 11 R238). Part 0: the line at F is quiet, and is sent; 1: G's home has installed it,
and a stub takes its place; 2: one line of the page is done, and the next follows or the leaf is changed; 3: the
line's home looks again. -/
def doPmoveLineConfirm (r : Report) (s : State) : State :=
  match s.job r.job with
  | none => s
  | some j =>
    match r.part with
    | 3 => s.startLineMove j
    | 2 =>
      if !r.ok then s.moveLost j.id
      else
        let s1 := s.updJob j.id fun j => { j with next := j.next + 1 }
        if j.bytes ≤ 128 * (j.next + 1) then
          (s1.updJob j.id fun j => { j with parts := 1 }).moveLeaf j (bitsOf j.frame 51 12 * 2 ^ 12 + 1)
        else s1.moveNext { j with next := j.next + 1 }
    | part =>
      match s.layout j.frame with
      | none => s
      | some p =>
        let line := p.local_ / 128
        if part = 0 then
          let data := s.homeLine line
          let r := s.takeEntries line
          let h : Hold := { line := line, step := none, acks := 1, known := [], queue := [], near := false }
          let s1 := { r.2.2 with holds := r.2.2.holds ++ [h] }
          match s.layout j.dest with
          | none => s1.moveLost j.id
          | some q => s1.post q.cube j.who j.id
              (.lineInstall { src := s.cubeId, from_ := line, to_ := j.dest / 128, data := data,
                              poison := s.poisoned line, races := r.1, watches := r.2.1, job := j.id })
        else if !r.ok then s.moveLost j.id
        else
          let s1 := { (s.dropLine line) with stubs := tblSet s.stubs line (j.dest / 128 + 1) }
          ((s1.endHold line).dropJob j.id).post j.home j.who j.hid (.lineConfirm { job := j.hid, part := 2, ok := true })

end Sys2Proof.Machine
end

