-- ==== Sys2Proof/Machine/SystemInstr.lean ====
section
/-! DEFINITION. The other system instructions (11 R231 to R240): traps by instruction and their return, the lease clock,
identity, `ifence`, and the requests for suspension, fault ends, page moves and zeroing. The suspensions themselves
stand in Suspend. -/

namespace Sys2Proof.Machine

/-- ILLEGAL_ENCODING of the fetched words (10 R210, 16 Table 16.2): W1 and W2 are given when the length holds them. -/
def doIllegalEncoding (w0 w1 w2 : IWord) (s : State) : State :=
  let ext := w0.getLsbD 1
  s.trap .illegalEncoding w0.toNat (if ext then w1.toNat else 0) (if ext then w2.toNat else 0)

/-- `svc` (11 R232): TRAP_PC is the next instruction. -/
def execSvc (h : Hd) (a : Opd) (s : State) : Res :=
  let i : Instr := .svc h a
  issue i h { a := some a } none anyMode
    (fun v s => s.atBoundary fun s =>
      s.trapAt s.me s.mx .svc (s.cx.pc + BitVec.ofNat 64 i.bytes) v.a.toNat 0 0) s

/-- `brk` (11 R232). -/
def execBrk (h : Hd) (a : Opd) (s : State) : Res :=
  issue (.brk h a) h { a := some a } none anyMode
    (fun v s => s.atBoundary fun s => s.trap .break_ v.a.toNat 0 0) s

/-- `eret` (16 R338): the target is checked as a transfer's; MODE and PC return, HELD falls, and the core reads RDET
and TRAP again. -/
def execEret (h : Hd) (s : State) : Res :=
  issue (.eret h) h {} none systemOnly
    (fun _ s => s.atBoundary fun s =>
      let pc := s.cx.trapPc
      if fld pc 1 0 ≠ 0 then s.misaligned pc.toNat
      else if fld pc 63 48 ≠ 0 then s.accessError pc.toNat
      else
        ((s.retireBoundary 0).updCx fun t =>
          { t with
            status := setFld t.status 47 46 (fld t.trapStatus 47 46)
            trapCause := setFld t.trapCause 8 8 0
            pc := pc }).readDescriptor s.me s.mx) s

/-- `leasewait` (11 R233). -/
def execLeasewait (h : Hd) (d a : Opd) (s : State) : Res :=
  let i : Instr := .leasewait h d a
  issue i h { a := some a, d := some d } none anyMode
    (fun v s =>
      let now := s.leaseNow % 2 ^ 64
      if v.a.toNat ≤ now then s.finish i d (BitVec.ofNat 64 now)
      else (s.later (v.a.toNat - now) (.leasewaitReturn s.me s.mx)).block (.lease v.a.toNat)) s

/-- LEASEWAIT_RETURN (11 R233): the count is reached, and the thread goes on. -/
def doLeasewaitReturn (core ctx : Nat) (s : State) : State :=
  match (s.ctx core ctx).wait with
  | .lease target => if target ≤ s.leaseNow % 2 ^ 64 then s.wake core ctx (.lease target) else s
  | _ => s

/-- `rdclk` (11 R233). -/
def execRdclk (h : Hd) (d : Opd) (s : State) : Res :=
  issue (.rdclk h d) h { d := some d } none anyMode
    (fun _ s => s.finish (.rdclk h d) d (BitVec.ofNat 64 (s.leaseNow % 2 ^ 64))) s

/-- The identity word of a selector (11 R234). -/
def State.identity (s : State) (sel : Nat) : Nat :=
  let t := s.cx
  match sel with
  | 0 => putBits t.space 48 16 + putBits t.mode 46 2 + putBits t.stage 43 3 + putBits s.mx 20 5 + putBits (s.gcore s.me) 0 20
  | 1 => putBits 0xCE96 16 16 + Config.revision.toNat
  | 2 => s.cubeId % 4096
  | _ => 0

/-- `ident` (11 R234). -/
def execIdent (h : Hd) (d a : Opd) (s : State) : Res :=
  issue (.ident h d a) h { a := some a, d := some d } none anyMode
    (fun v s => s.finish (.ident h d a) d (BitVec.ofNat 64 (s.identity v.a.toNat))) s

/-- `ifence` (11 R235): a line whose fetch is under way for another thread of the core is not kept. -/
def execIfence (h : Hd) (s : State) : Res :=
  issue (.ifence h) h {} none anyMode
    (fun _ s => s.afterRelease 1 fun s =>
      let s1 : State := { s with outs := s.outs.map fun (o : Out) =>
        if o.purp = .fetch ∧ o.who.core = s.gcore s.me then { o with nocache := true } else o }
      (s1.updCore s.me fun k => { k with icache := [] }).retire (Instr.ifence h).bytes) s

/-- A number of the thread's modes 1 and 2 that a status of Table 11.8 is written with: the reply's tag. -/
def State.sendOp (s : State) (bytes : Nat) (d : Opd) : Nat × State :=
  let n := s.newId
  let t := n.2.cx
  let g := { valueTag d (t.latch.bind fun l => l.rid) 8 false 0 with
    id := n.1, pc := t.pc, latch := t.latch, left := true, back := some (t.preds, t.flags) }
  (n.1, n.2.setCx { t with tags := tblSet t.tags t.freeTag g, pc := t.pc + BitVec.ofNat 64 bytes, latch := none, got := [],
                           wait := .none, noticed := none, migrations := 0 })

/-- The answer of an operation is written for the tag that waits for it (11 R240). -/
def State.opDone (s : State) (w : Agent) (id v : Nat) : State :=
  match (s.ctx (w.core % 256) w.idx).tag id with
  | some g => s.tagDone (w.core % 256) w.idx g (BitVec.ofNat 64 v)
  | none => s

/-- A suspension or resumption is sent to the core that its target names (11 R236). -/
def suspendInstr (i : Instr) (h : Hd) (d a : Opd) (b : Option Opd) (op : Nat) (s : State) : Res :=
  issue i h { a := some a, b := b, d := some d } none systemOnly
    (fun v s =>
      let x := v.a.toNat
      if bitsOf x 63 14 ≠ 0 then s.finish i d 2#64
      else
        let r := s.sendOp i.bytes d
        r.2.emit (.suspensionRequest
          { who := { kind := .thread, core := s.gcore s.me, idx := s.mx }, id := r.1, op := op, core := bitsOf x 7 0,
            group := !bitOf x 13, slot := bitsOf x 12 8, image := v.b.toNat, space := s.cx.space, task := s.cx.isTask,
            phase := 0 })) s

/-- `suspend.l` (11 R236). -/
def execSuspendL (h : Hd) (d a : Opd) (s : State) : Res := suspendInstr (.suspendL h d a) h d a none 0 s
/-- `suspend.f` (11 R236). -/
def execSuspendF (h : Hd) (d a b : Opd) (s : State) : Res := suspendInstr (.suspendF h d a b) h d a (some b) 1 s
/-- `resume` (11 R236). -/
def execResume (h : Hd) (d a b : Opd) (s : State) : Res := suspendInstr (.resume h d a b) h d a (some b) 2 s

/-- `flt.done` (11 R237): after a release at system scope; it is no region boundary. -/
def execFltDone (h : Hd) (d a b : Opd) (s : State) : Res :=
  let i : Instr := .fltDone h d a b
  issue i h { a := some a, b := some b, d := some d } none systemOnly
    (fun v s => s.afterRelease 3 fun s =>
      let r := s.faultDone (v.a.toNat % 65536) v.b.toNat
      r.2.finish i d (BitVec.ofNat 64 r.1)) s

/-- Does every byte of a frame lie in a region? -/
def State.frameMapped (s : State) (frame bytes : Nat) : Bool :=
  (countUp 0 (bytes / 4096)).all fun k => (s.layout (frame + 4096 * k)).isSome

/-- The acceptance code of `pmove` for its descriptor words and the leaf as it stands (11 R238). -/
def State.moveCode (s : State) (pm0 pm1 pm2 leaf : Nat) : Nat :=
  let z := bitsOf pm1 1 0
  let g := bitsOf pm1 51 12 * 4096
  if bitsOf pm0 63 52 ≠ 0 || bitsOf pm0 2 0 ≠ 0 || bitsOf pm1 63 52 ≠ 0 || bitsOf pm1 11 2 ≠ 0 || bitsOf pm2 63 48 ≠ 0
      || 2 ≤ z || g % pageBytes z ≠ 0 || pm2 % 8 ≠ 0 then 2
  else if !bitOf leaf 0 || pteRWX leaf = 0 || pteBad leaf z then 6
  else if bitOf leaf 10 then 7
  else if !s.frameMapped (pteFrame leaf * 4096) (pageBytes z) || !s.frameMapped g (pageBytes z) then 8
  else if s.moving (pteFrame leaf * 4096) then 9
  else 0

/-- The leaf that a `pmove` names, as access `i` of the instruction: read in the step or, where it is held elsewhere, by a
load; one that cannot be read counts as not valid. -/
def State.readLeaf (s : State) (i pa : Nat) : Option Nat × State :=
  match s.cx.got[i]? with
  | some d => (some (ofBytes d), s)
  | none => match s.peek pa with
    | .need =>
      let id := s.tick
      (none, (s.fetchWord { kind := .walker, core := s.gcore s.me, idx := s.mx } pa 8 (.leaf s.me s.mx)).block (.access id))
    | v => (some v.value, s)

/-- `pmove` (11 R238). The streamer at the home of F's first line tells whether a move of F is in progress: a home on another
cube is asked. -/
def execPmove (h : Hd) (d a : Opd) (s : State) : Res :=
  let i : Instr := .pmove h d a
  issue i h { a := some a, d := some d } none systemOnly
    (fun v s =>
      if 2 ^ 48 ≤ v.a.toNat then s.accessError v.a.toNat
      else if v.a.toNat % 32 ≠ 0 then s.misaligned v.a.toNat
      else
        match s.readBlock 0 v.a.toNat 8 4 with
        | (none, s1) => s1
        | (some b, s1) =>
          let w (k : Nat) : Nat := nthD (wordsOf b 4) k 0
          let leafPa := bitsOf (w 0) 51 3 * 8
          match s1.readLeaf 4 leafPa with
          | (none, s1) => s1
          | (some leaf, s1) =>
          let code := s1.moveCode (w 0) (w 1) (w 2) leaf
          let f := pteFrame leaf * 4096
          match code, s1.layout f with
          | 0, some p =>
            let j : FrameJob :=
              { id := 0, kind := 0, frame := f, dest := bitsOf (w 1) 51 12 * 4096, leaf := leafPa,
                bytes := pageBytes (bitsOf (w 1) 1 0), next := 0, parts := 0, lost := false, ctr := bitsOf (w 2) 47 0,
                desc := v.a.toNat, space := s.cx.space, task := false, org := s.cx.origin,
                who := { kind := .streamer, core := p.cube * 256, idx := vaultOf (p.local_ / 128) },
                home := p.cube, hid := 0 }
            if p.cube = s.cubeId then (s1.finish i d 0#64).takeJob j fun j s => s.startJob j
            else
              let who : Agent := { kind := .thread, core := s.gcore s.me, idx := s.mx }
              let r := s1.sendOp i.bytes d
              let q : Query := { who := who, id := r.1, vault := j.who.idx, serial := 0, org := s.cx.origin, near := true }
              r.2.sendRequest p.cube 0 who r.1 (.job { j with ask := some q })
          | code, _ => s1.finish i d (BitVec.ofNat 64 code)) s

/-- `pzero` (11 R239). -/
def execPzero (h : Hd) (d a b : Opd) (s : State) : Res :=
  let i : Instr := .pzero h d a b
  issue i h { a := some a, b := some b, d := some d } none systemOnly
    (fun v s =>
      let z := bitsOf v.a.toNat 1 0
      let f := bitsOf v.a.toNat 51 12 * 4096
      let bad := bitsOf v.a.toNat 63 52 ≠ 0 || bitsOf v.a.toNat 11 2 ≠ 0 || z = 3 || f % pageBytes z ≠ 0
        || v.b.toNat % 8 ≠ 0
      if bad then s.finish i d 2#64
      else if !s.frameMapped f (pageBytes z) then s.finish i d 8#64
      else
        match s.layout f with
        | none => s.finish i d 8#64
        | some p =>
          (s.finish i d 0#64).sendJob p.cube
            { id := 0, kind := 1, frame := f, dest := 0, leaf := 0, bytes := pageBytes z, next := 0, parts := 0,
              lost := false, ctr := v.b.toNat, desc := 0, space := s.cx.space, task := false,
              org := s.cx.origin,
              who := { kind := .streamer, core := p.cube * 256, idx := vaultOf (p.local_ / 128) }, home := p.cube,
              hid := 0 } fun j s => s.startJob j) s

/-! LEASE_SKEW (16 R339, R340). -/

/-- Is an access that a thread waits for still held by a walk, a section, a fault, or an earlier access of its own? -/
def State.parked (s : State) (who : Agent) (id : Nat) : Bool :=
  let has (l : List Req) : Bool := l.any fun r => r.who == who && r.id == id
  (s.walks.any fun w => has w.accs) || (s.faults.any fun p => has p.2.accs) || has s.faultWait
    || has s.reqWait || s.slices.any fun p => has p.2.sectWait

/-- May the thread's blocked instruction be given up now (16 Table 16.3)? -/
def State.canAbandon (s : State) (c x : Nat) : Bool :=
  let t := s.ctx c x
  let who : Agent := { kind := .thread, core := s.gcore c, idx := x }
  if !t.tags.isEmpty then t.tags.all fun p => s.parked who p.2.id
  else match t.wait with
    | .access id => s.parked who id
    | .op _ => false
    | _ => true

/-- The oldest outstanding request of a context that has not left its core. -/
def Ctx.unsent (t : Ctx) : Option Tag := Ctx.oldest { t with tags := t.tags.filter fun p => !p.2.left }

/-- The blocked instruction of a thread is given up: watches are cancelled, a parked access detached, claims and queue
waits withdrawn, and its operands returned; it will be issued afresh (16 Table 16.3). Requests that have left run to their
end. -/
def State.interrupt (s : State) (c x : Nat) : State :=
  let who : Agent := { kind := .thread, core := s.gcore c, idx := x }
  let s1 := s.cancelWatch c x
  let s2 := match (s1.ctx c x).unsent, (s1.ctx c x).wait with
    | some g, _ => (s1.backTo c x g).forget who g.id
    | none, .access id => if s1.parked who id then s1.forget who id else s1
    | none, _ => s1
  s2.abandon c x

/-- The pending LEASE_SKEW is taken (16 R339). -/
def State.takeSkew (s : State) (c x : Nat) : State :=
  match (s.ctx c x).skew with
  | none => s
  | some (slice, now) =>
    let s1 := (s.interrupt c x).updCtx c x fun t => { t with skew := none }
    s1.trapAt c x .leaseSkew (s1.ctx c x).pc slice now s.regs.skews

/-- LEASE_SKEW_DELIVERY (16 R339): a free context keeps nothing pending; an active one with HELD = 0 takes the cause at
its next instruction boundary. -/
def doLeaseSkewDelivery (core ctx : Nat) (s : State) : State :=
  let t := s.ctx core ctx
  if t.cstate = .free then s.updCtx core ctx fun t => { t with skew := none }
  else if t.cstate = .active && !t.held && t.wait != .none && s.canAbandon core ctx then s.takeSkew core ctx
  else s

end Sys2Proof.Machine
end

