-- ==== Sys2Proof/Machine/Tiles.lean ====
section
/-! DEFINITION. Tiles and rings (02 R39 to R51; 12 R257, R259 to R264): placement, pecks and their full bits, ring state,
and the tile instructions but for `tzero`, which the sequencer runs. -/

namespace Sys2Proof.Machine

/-! Shapes and placement. -/

/-- Rows per slot. -/
def Tile.slotRows (t : Tile) : Nat := t.rows + 1
/-- Physical rows T (02 R40). -/
def Tile.total (t : Tile) : Nat := (t.rows + 1) * (t.slots + 1)
/-- Bytes of a row. -/
def Tile.rowBytes (t : Tile) : Nat := (t.ppr + 1) * 128
/-- Is the tile a ring? -/
def Tile.isRing (t : Tile) : Bool := t.kind == 1
/-- Rows of a tile that lie on the core with this number in its cluster (02 R41). -/
def Tile.rowsOn (t : Tile) (cic : Nat) : Nat := if t.level = 0 then t.total else (t.total + 15 - cic) / 16
/-- Pecks of a tile in a bank of a core: how many from BPECK upward. -/
def Tile.run (t : Tile) (rows bank : Nat) : Nat :=
  let j := (bank + 48 - t.bbank % 48) % 48
  if j < rows then ((rows - 1 - j) / 48 + 1) * (t.ppr + 1) else 0
/-- Does a tile hold a peck of a core? -/
def Tile.holdsPeck (t : Tile) (cic bank peck : Nat) : Bool :=
  decide (t.bpeck ≤ peck) && decide (peck < t.bpeck + t.run (t.rowsOn cic) bank)

/-- The valid entry of a handle that the core may use (02 R42, R51). -/
def Core.tile (k : Core) (h : Nat) : Option Tile := (k.tiles.find? fun e => e.1 == h && e.2.kind != 2).map fun e => e.2
/-- The entry of a handle changed. -/
def Core.setTile (k : Core) (h : Nat) (t : Tile) : Core := { k with tiles := tblSet k.tiles h t }

/-- The key of a peck in a core's tables. -/
def peckKey (bank peck : Nat) : Nat := bank * 256 + peck

/-- `tile_place` of 02 R41, for a tile of core `c`: the core and the key of the peck; the byte is `b % 128` of it. -/
def Tile.place (t : Tile) (c p b : Nat) : Nat × Nat :=
  let core := if t.level = 0 then c else c / 16 * 16 + p % 16
  let q := if t.level = 0 then p else p / 16
  (core, peckKey ((t.bbank + q) % 48) (t.bpeck + q / 48 * (t.ppr + 1) + b / 128))

/-- Is an offset inside the shape (02 R50)? -/
def Tile.inside (t : Tile) (p b : Nat) : Bool := decide (p < t.total) && decide (b < t.rowBytes)

/-- Is the peck of an offset FULL? -/
def State.peckFull (s : State) (t : Tile) (c p b : Nat) : Bool :=
  let w := t.place c p b
  memGet (s.core w.1).fulls w.2 == 1#1

/-- The byte at an offset; outside the shape it reads zero. -/
def State.tileByte (s : State) (t : Tile) (c p b : Nat) : Byte :=
  if t.inside p b then
    let w := t.place c p b
    memGet (s.core w.1).pecks (w.2 * 128 + b % 128)
  else 0#8

/-- `n` bytes of a row from byte `b`. -/
def State.tileRead (s : State) (t : Tile) (c p b n : Nat) : List Byte := (countUp b n).map fun i => s.tileByte t c p i

/-- The first byte of `n` in a row whose peck is inside the shape and EMPTY. -/
def State.firstEmpty (s : State) (t : Tile) (c p b n : Nat) : Option Nat :=
  (countUp b n).find? fun i => t.inside p i && !(s.peckFull t c p i)

/-- Bytes written to a row from byte `b` (02 R44, R50): those outside the shape are dropped, and every peck touched is
FULL. -/
def State.tileWrite (s : State) (t : Tile) (c p b : Nat) (d : List Byte) : State :=
  let s1 := ((countUp b d.length).zip d).foldl (fun s x =>
    if t.inside p x.1 then
      let w := t.place c p x.1
      s.updCore w.1 fun k =>
        { k with pecks := memSet k.pecks (w.2 * 128 + x.1 % 128) x.2, fulls := memSet k.fulls w.2 1#1 }
    else s) s
  s1.emit (.peckReadWake c)

/-- The pecks of a row set EMPTY, their data kept. -/
def State.emptyRow (s : State) (t : Tile) (c p : Nat) : State :=
  if t.total ≤ p then s
  else (countUp 0 (t.ppr + 1)).foldl (fun s j =>
    let w := t.place c p (128 * j)
    s.updCore w.1 fun k => { k with fulls := memSet k.fulls w.2 0#1 }) s

/-- TOOR records the first outside offset that a thread touches (02 R50). -/
def Ctx.toorNote (t : Ctx) (write : Bool) (h p b : Nat) : Ctx :=
  if bitOf t.toor.toNat 63 then t
  else
    let w := 2 ^ 63 + putBits (b2n write) 62 1 + putBits h 56 6 + putBits (if 1024 ≤ p then 2047 else p) 45 11
      + putBits (min b 2047) 34 11
    { t with toor := BitVec.ofNat 64 w }

/-- The access of a thread to `n` bytes of a row is noted in its TOOR when some lie outside the shape. -/
def State.noteOutside (s : State) (t : Tile) (write : Bool) (h p b n : Nat) : State :=
  match (countUp b n).find? fun i => !(t.inside p i) with
  | some i => s.updCx fun x => x.toorNote write h p i
  | none => s

/-! Allocation. -/

/-- Are the pecks that an entry needs on a core free of every other entry, and within the banks (02 R41)? -/
def Core.fits (k : Core) (cic : Nat) (t : Tile) : Bool :=
  (countUp 0 48).all fun bank =>
    let n := t.run (t.rowsOn cic) bank
    decide (n = 0) || (decide (t.bpeck + n ≤ 256) && k.tiles.all fun e =>
      let m := e.2.run (e.2.rowsOn cic) bank
      decide (m = 0) || decide (t.bpeck + n ≤ e.2.bpeck) || decide (e.2.bpeck + m ≤ t.bpeck))

/-- The cores that an entry occupies: its core, or the sixteen of its cluster (02 R42). -/
def tileCores (level c : Nat) : List Nat := if level = 0 then [c] else countUp (c / 16 * 16) 16

/-- Does the entry fit on every core that it occupies? -/
def State.fitsAll (s : State) (c : Nat) (t : Tile) : Bool :=
  (tileCores t.level c).all fun c' => (s.core c').fits (c' % 16) t

/-- The placement of an entry: the lowest BPECK, and for it the lowest BBANK (12 R260). -/
def State.placement (s : State) (c : Nat) (t : Tile) : Option Tile :=
  firstSome ((countUp 0 256).map fun peck => firstSome ((countUp 0 48).map fun bank =>
    let t1 := { t with bpeck := peck, bbank := bank }
    if s.fitsAll c t1 then some t1 else none))

/-- The pecks of an entry on a core hold zero, all FULL or all EMPTY (02 R44). -/
def Core.clearPecks (k : Core) (cic : Nat) (t : Tile) (full : Bool) : Core :=
  let mine (key : Nat) : Bool := t.holdsPeck cic (key / 256) (key % 256)
  let kept := k.fulls.filter fun e => !mine e.1
  { k with
    pecks := k.pecks.filter fun e => !mine (e.1 / 128)
    fulls := if full then
        (countUp 0 48).foldl (fun l bank =>
          (countUp t.bpeck (t.run (t.rowsOn cic) bank)).foldl (fun l p => memSet l (peckKey bank p) 1#1) l) kept
      else kept }

/-- An entry is installed with zeroed pecks, and its shadows with it (02 R42, R44). -/
def State.installTile (s : State) (c h : Nat) (t : Tile) : State :=
  (tileCores t.level c).foldl (fun s c' =>
    s.updCore c' fun k =>
      (k.clearPecks (c' % 16) t (!t.isRing)).setTile h (if c' = c then t else { t with kind := 2 })) s

/-- An entry is removed, and its shadows with it; who waits at it looks again (12 R261). -/
def State.freeTile (s : State) (c h : Nat) : State :=
  match (s.core c).tile h with
  | none => s
  | some t =>
    let s1 := (tileCores t.level c).foldl (fun s c' => s.updCore c' fun k => { k with tiles := tblDel k.tiles h }) s
    s1.emits ([.peckReadWake c, .ringTakeRetry c h] ++ if s1.tu.pool.isEmpty then [] else [.taskDecision])

/-- The tiles of a core with property `p` are freed, lowest handle first. -/
def State.freeTiles (s : State) (c : Nat) (p : Nat → Tile → Bool) : State :=
  ((s.core c).tiles.filter fun e => e.2.kind != 2 && p e.1 e.2).foldl (fun s e => s.freeTile c e.1) s

/-- The entry that a shape word asks for, with its owner; none when the shape breaks 02 R40 (12 Table 12.5). Table 2.3 gives ACORE
for CLUSTER and shadow entries; a CORE entry holds the same number (DESIGN CHOICE, log entry 109). -/
def shapeTile (a ownk ownid cic : Nat) : Option Tile :=
  let ring := bitOf a 18
  let t : Tile :=
    { kind := b2n ring, level := bitsOf a 19 19, pinned := false, ownk := ownk, ownid := ownid, rows := bitsOf a 9 0,
      ppr := bitsOf a 13 10, slots := bitsOf a 17 14, bbank := 0, bpeck := 0, head := 0, tail := 0, occ := 0,
      acore := cic }
  if bitsOf a 63 20 ≠ 0 || ring != (t.slots != 0) || 1024 < t.total
      || 256 < ceilDiv (if t.level = 0 then t.total else ceilDiv t.total 16) 48 * (t.ppr + 1) then none
  else some t

/-- TT1 of an entry (02 Table 2.3). -/
def Tile.word (t : Tile) : Nat :=
  2 ^ 63 + putBits t.kind 61 2 + putBits t.level 60 1 + putBits (b2n t.pinned) 59 1 + putBits t.ownk 57 2
    + putBits t.ownid 52 5 + putBits t.rows 42 10 + putBits t.ppr 38 4 + putBits t.slots 34 4 + putBits t.bbank 28 6
    + putBits t.bpeck 20 8 + putBits t.head 16 4 + putBits t.tail 12 4 + putBits t.occ 7 5 + putBits t.acore 0 4

/-- The entry of a TT1 word. -/
def Tile.ofWord (w : Nat) : Tile :=
  { kind := bitsOf w 62 61, level := bitsOf w 60 60, pinned := bitOf w 59, ownk := bitsOf w 58 57, ownid := bitsOf w 56 52,
    rows := bitsOf w 51 42, ppr := bitsOf w 41 38, slots := bitsOf w 37 34, bbank := bitsOf w 33 28,
    bpeck := bitsOf w 27 20, head := bitsOf w 19 16, tail := bitsOf w 15 12, occ := bitsOf w 11 7, acore := bitsOf w 3 0 }

/-- The owner's local counter set (07 R153); set 8 where the handle names no tile of the core. -/
def Core.tileSet (k : Core) (h : Nat) : Nat :=
  match k.tile h with
  | some t => if t.ownk = 0 then t.ownid else 8
  | none => 8

/-! Rings (02 Table 2.5). -/

/-- The slot at TAIL is taken. -/
def Tile.take (t : Tile) : Tile := { t with tail := (t.tail + 1) % (t.slots + 1), occ := t.occ + 1 }
/-- The slot at HEAD is popped. -/
def Tile.pop (t : Tile) : Tile := { t with head := (t.head + 1) % (t.slots + 1), occ := t.occ - 1 }

/-- A take at the owning core; those who wait at the ring look again. -/
def State.ringTake (s : State) (c h : Nat) (t : Tile) : State :=
  (s.updCore c fun k => k.setTile h t.take).emit (.ringTakeRetry c h)

/-- A pop at the owning core: the slot's pecks become EMPTY. -/
def State.ringPop (s : State) (c h : Nat) (t : Tile) : State :=
  let s1 := (countUp (t.head * t.slotRows) t.slotRows).foldl (fun s p => s.emptyRow t c p) s
  (s1.updCore c fun k => k.setTile h t.pop).emit (.ringTakeRetry c h)

/-- The waiting producers of a ring, in the order in which they found it full. -/
def Core.producers (k : Core) (h : Nat) : List RingWait := k.ringWaits.filter fun w => w.handle == h

/-- May a producer take a slot now: the ring has one, and no earlier producer waits? -/
def Core.mayTake (k : Core) (h : Nat) (t : Tile) (ctx : Option Nat) : Bool :=
  decide (t.occ ≤ t.slots) && (match k.producers h with
    | [] => true
    | w :: _ => ctx.isSome && w.ctx == ctx)

/-- A producer waits at the ring. -/
def Core.waitRing (k : Core) (w : RingWait) : Core :=
  if w.ctx.isSome && (k.ringWaits.any fun x => x.handle == w.handle && x.ctx == w.ctx) then k
  else { k with ringWaits := k.ringWaits ++ [w] }

/-- A thread no longer waits as a producer. -/
def Core.unwaitRing (k : Core) (x : Nat) : Core := { k with ringWaits := k.ringWaits.filter fun w => w.ctx != some x }

/-- The sequencer of a core looks again at the step it waits to start. -/
def State.kickSeq (s : State) (c : Nat) : State :=
  if (s.core c).seq.isSome && !s.events.contains (.sequencerStep c) then s.emit (.sequencerStep c) else s

/-- RING_TAKE_RETRY (02 R48, R49): the threads at the ring look again, and the delivery that has waited longest takes
its slot when no earlier producer waits; a delivery to a ring that is gone goes on to fail. -/
def doRingTakeRetry (core handle : Nat) (s : State) : State :=
  let k := s.core core
  let s1 := (s.kickSeq core).updCore core fun k =>
    { k with ctxs := k.ctxs.map fun (p : Nat × Ctx) => (p.1, match p.2.wait with
        | .ring h _ => if h = handle then { p.2 with wait := .none } else p.2
        | _ => p.2) }
  let gone := match k.tile handle with
    | some t => !t.isRing
    | none => true
  if gone then
    let es := (k.producers handle).filterMap fun w => w.step
    (s1.updCore core fun k => { k with ringWaits := k.ringWaits.filter fun w => w.handle != handle }).emits es
  else match k.tile handle, k.producers handle with
    | some t, w :: _ => match w.step with
      | some e => if t.occ ≤ t.slots then
          (s1.updCore core fun k => { k with ringWaits := k.ringWaits.erase w }).emitFirst [e]
        else s1
      | none => s1
    | _, _ => s1

/-- PECK_READ_WAKE (02 R45): the reads that stalled on EMPTY pecks of the core look again. -/
def doPeckReadWake (core : Nat) (s : State) : State :=
  let s1 := s.updCore core fun k =>
    { k with ctxs := k.ctxs.map fun (p : Nat × Ctx) => (p.1, match p.2.wait with
        | .peck _ => { p.2 with wait := .none }
        | .ring _ _ => { p.2 with wait := .none }
        | _ => p.2), engReads := [] }
  (s1.kickSeq core).emits ((s.core core).engReads.map fun m => .copyRead m)

/-! Directed atomics at their target (12 R257). -/

/-- A failure at a target goes to the cube's error queue and to the issuer's record (12 R257, 13 R288). -/
def State.failBoth (s : State) (e : ErrItem) : State := (s.report e).issuerItem e

/-- DIRECTED_ATOMIC_VALUE (12 R257). -/
def doDirectedAtomicValue (d : DirVal) (s : State) : State :=
  let c := d.dir.core % 256
  let k := s.core c
  let h := d.dir.handle
  let failed : ErrItem :=
    { org := d.org, source := 0, code := Cause.tileFault.code, space := d.space, addr := 0, hcube := s.cubeId, local_ := 0,
      ident := h, detail := d.dir.entry }
  let s1 := match k.tile h with
    | none => s.failBoth failed
    | some t =>
      let p := 8 * d.dir.entry / t.rowBytes
      let b := 8 * d.dir.entry % t.rowBytes
      if t.inside p b then s.tileWrite t c p b (toBytes d.value 8) else s.failBoth failed
  s1.lcAdd c (lcKey (k.tileSet h) d.dir.lc) 1

/-! Waits with a limit. -/

/-- The value that stands in a wait's note for a wait that has no request. -/
def noRequest : Nat := 2 ^ 64

/-- A thread's read stalls on an EMPTY peck (02 R45, R46). -/
def State.stallPeck (s : State) (h p b : Nat) : State :=
  let s1 := s.startLimit s.cx.fillLimit.toNat fun n => .fillWaitExpired s.me s.mx n
  (s1.updCx fun t => { t with cw := some (h, p, b, noRequest) }).block (.peck 0)

/-- The sequencer is idle: who waits for it looks again, a follow-on `mma` first (08 R179, 14 R299). -/
def State.freeSeq (s : State) (c : Nat) : State :=
  let s1 := s.updCore c fun k =>
    { k with
      seq := none
      ctxs := k.ctxs.map fun (p : Nat × Ctx) => (p.1, if p.2.wait = .seq then { p.2 with wait := .none } else p.2) }
  if (s.core c).follows.isEmpty then s1 else s1.emit (.followOnMma c none)

/-- The recorded step of an instruction of the thread, or of its trap handler, is replaced. -/
def Ctx.recordSeq (t : Ctx) (q : Option SeqSt) : Ctx :=
  { t with seqSave := (q.map fun q => { q with inner := t.held }).toList ++ t.seqSave.filter fun q => q.inner != t.held }

/-- The sequencer is given up by its thread's suspension or trap: the next step is recorded with the context (08 R180). -/
def State.releaseSeq (s : State) (c : Nat) : State :=
  match (s.core c).seq with
  | none => s
  | some q => (s.updCtx c q.ctx fun t => t.recordSeq (some q)).freeSeq c

/-- FILL_WAIT_EXPIRED (02 R46). A read whose first EMPTY peck has been filled in the meantime looks once more before the limit
counts as reached. -/
def doFillWaitExpired (core ctx id : Nat) (s : State) : State :=
  let t := s.ctx core ctx
  let stalled := match t.wait with
    | .peck _ | .seq => true
    | _ => false
  match t.cw with
  | some (h, p, b, _) =>
    if t.waitAt ≠ id then s
    else if stalled && ((s.core core).tile h).any fun e => !(s.peckFull e core p b) then
      let s1 := match (s.core core).seq with
        | some q => if q.ctx = ctx then s.releaseSeq core else s
        | none => s
      (s1.updCtx core ctx Ctx.endWait).trapAt core ctx .fillWaitExpired t.pc h p b
    else s.emits [.peckReadWake core, .fillWaitExpired core ctx id]
  | none => s

/-- Is the condition of `rwait` met on a core? -/
def State.ringCond (s : State) (c : Nat) (e : Tile) (cond : Nat) : Bool :=
  match cond with
  | 0 => e.occ != 0
  | 1 => decide (e.occ ≤ e.slots)
  | _ => e.occ != 0 && (countUp (e.head * e.slotRows) e.slotRows).all fun p =>
      (s.firstEmpty e c p 0 e.rowBytes).isNone

/-- RING_WAIT_EXPIRED (12 R263). A condition that holds by then counts as met: the `rwait` is noted as satisfied, and retires. -/
def doRingWaitExpired (core ctx id : Nat) (s : State) : State :=
  let t := s.ctx core ctx
  match t.cw with
  | some (h, cond, _, _) =>
    if t.waitAt ≠ id then s
    else match (s.core core).tile h with
      | none => s.updCtx core ctx fun t => { t with wait := .none }
      | some e =>
        if s.ringCond core e cond then s.updCtx core ctx fun t => { t with wait := .none, got := [[]] }
        else (s.updCtx core ctx Ctx.endWait).trapAt core ctx .ringWaitExpired t.pc h
          (e.head + 16 * e.tail + 256 * e.occ + 8192 * e.slots) cond
  | none => s

/-! The instructions. -/

/-- An operand that must be g0 to g15 or z (12 R259): the code of any other. -/
def needGZ (d : Opd) : Option Nat :=
  match d with
  | .g _ | .z => none
  | o => some o.code.toNat

/-- A value of an operand that raises ILLEGAL_ENCODING at issue (12 R262, R263). -/
def State.illegal (s : State) (i : Instr) : State :=
  let w (k : Nat) : Nat := (nthD (encode i) k 0#32).toNat
  s.trap .illegalEncoding (w 0) (if bitOf (w 0) 1 then w 1 else 0) (if bitOf (w 0) 1 then w 2 else 0)

/-- The value that a source operand would give now, if it can be read now (10 R205, R206). -/
def State.valueNow (s : State) (h : Hd) : Opd → Option Word
  | .g i => some (s.cx.getG i.toNat)
  | .z => some 0#64
  | .lit => h.lit
  | o => (srcQueue o).bind fun q => (readable ((s.core s.me).queue q)).head?

/-- An instruction whose operand value `o` may make it illegal when it issues: ILLEGAL_ENCODING comes before every other cause
(10 R208; 12 R262, R263). -/
def State.illegalBy (s : State) (h : Hd) (o : Opd) (bad : Word → Bool) : Bool :=
  s.cx.latch.isNone && (s.cx.getP h.pred.toNat != h.pneg) && (s.valueNow h o).any bad

@[inherit_doc State.illegalBy]
def State.orIllegal (s : State) (i : Instr) (h : Hd) (o : Opd) (bad : Word → Bool) (k : State → Res) : Res :=
  if s.illegalBy h o bad then .next (s.illegal i) else k s

/-- TILE_FAULT for a handle. -/
def State.tileFault (s : State) (h : Nat) : State := s.trap .tileFault h 0 0

/-- The tile that an instruction names, or TILE_FAULT. -/
def State.withTile (s : State) (h : Nat) (k : Tile → State) : State :=
  match (s.core s.me).tile h with
  | some t => k t
  | none => s.tileFault h

/-- The ring that an instruction names, or TILE_FAULT. -/
def State.withRing (s : State) (h : Nat) (k : Tile → State) : State :=
  s.withTile h fun t => if t.isRing then k t else s.tileFault h

/-- The owner that a thread's new tile gets: OWNK and OWNID (12 R260). -/
def Ctx.tileOwner (t : Ctx) (x : Nat) : Nat × Nat :=
  if t.gv then (0, t.group) else if t.mode != 0 then (3, x) else (1, x)

/-- `talloc` (12 R260): the result code, and the state with the tile. -/
def State.allocTile (s : State) (c h a ownk ownid : Nat) : Nat × State :=
  match shapeTile a ownk ownid (c % 16) with
  | none => if (s.core c).tiles.any fun e => e.1 == h then (1, s) else (2, s)
  | some t =>
    if (tileCores t.level c).any fun c' => (s.core c').tiles.any fun e => e.1 == h then (1, s)
    else match s.placement c t with
      | none => (3, s)
      | some t1 => (0, s.installTile c h t1)

/-- `talloc`. -/
def execTalloc (h : Hd) (d a : Opd) (t : BitVec 6) (s : State) : Res :=
  issue (.talloc h d a t) h { a := some a, d := some d } (needGZ d) anyMode
    (fun v s =>
      let own := s.cx.tileOwner s.mx
      let r := s.allocTile s.me t.toNat v.a.toNat own.1 own.2
      r.2.finish (.talloc h d a t) d (BitVec.ofNat 64 r.1)) s

/-- May a thread free a tile (02 R43)? -/
def Tile.freeBy (t : Tile) (x : Ctx) (id : Nat) : Bool :=
  !t.pinned && (x.mode != 0 || (t.ownk == 0 && x.gv && t.ownid == x.group) || (t.ownk == 1 && !x.gv && t.ownid == id))

/-- `tfree` (12 R261). -/
def execTfree (h : Hd) (t : BitVec 6) (s : State) : Res :=
  issue (.tfree h t) h {} none anyMode
    (fun _ s => s.withTile t.toNat fun e =>
      if e.freeBy s.cx s.mx then (s.freeTile s.me t.toNat).retire (Instr.tfree h t).bytes else s.tileFault t.toNat) s

/-- `tinfo` (12 Table 12.6). -/
def execTinfo (h : Hd) (d b : Opd) (t : BitVec 6) (s : State) : Res :=
  s.orIllegal (.tinfo h d b t) h b (fun v => decide (2 ≤ v.toNat)) <|
    issue (.tinfo h d b t) h { b := some b, d := some d } (needGZ d) anyMode (fun v s =>
      if 2 ≤ v.b.toNat then s.illegal (.tinfo h d b t)
      else s.withTile t.toNat fun e =>
        s.finish (.tinfo h d b t) d (if v.b = 1#64 then BitVec.ofNat 64 e.word else 0#64))

/-- Rows from `p` for `n`, as far as the shape reaches; a row beyond it is noted in TOOR as a write. -/
def State.rowsOf (s : State) (e : Tile) (h p n : Nat) : List Nat × State :=
  let s1 := if n ≠ 0 && decide (e.total < p + n) then s.updCx fun x => x.toorNote true h (max p e.total) 0 else s
  (countUp p (min n (e.total - p)), s1)

/-- `tempty` (12 Table 12.6). -/
def execTempty (h : Hd) (a b : Opd) (t : BitVec 6) (s : State) : Res :=
  issue (.tempty h a b t) h { a := some a, b := some b } none anyMode
    (fun v s => s.withTile t.toNat fun e =>
      if e.isRing then s.tileFault t.toNat
      else
        let r := s.rowsOf e t.toNat v.a.toNat v.b.toNat
        (r.1.foldl (fun s p => s.emptyRow e s.me p) r.2).retire (Instr.tempty h a b t).bytes) s

/-- `rpush` (12 R263). -/
def execRpush (h : Hd) (d : Opd) (t : BitVec 6) (s : State) : Res :=
  issue (.rpush h d t) h { d := some d } (needGZ d) anyMode
    (fun _ s => s.withRing t.toNat fun e =>
      if (s.core s.me).mayTake t.toNat e (some s.mx) then
        ((s.updCore s.me fun k => k.unwaitRing s.mx).ringTake s.me t.toNat e).finish (.rpush h d t) d
          (BitVec.ofNat 64 e.tail)
      else
        (s.updCore s.me fun k => k.waitRing { handle := t.toNat, ctx := some s.mx, step := none }).block
          (.ring t.toNat 0)) s

/-- `rpop` (12 R263). -/
def execRpop (h : Hd) (d : Opd) (t : BitVec 6) (s : State) : Res :=
  issue (.rpop h d t) h { d := some d } (needGZ d) anyMode
    (fun _ s => s.withRing t.toNat fun e =>
      if e.occ = 0 then s.block (.ring t.toNat 0)
      else (s.ringPop s.me t.toNat e).finish (.rpop h d t) d (BitVec.ofNat 64 e.head)) s

/-- `rwait` (12 R263). -/
def execRwait (h : Hd) (a b : Opd) (t : BitVec 6) (s : State) : Res :=
  let i : Instr := .rwait h a b t
  s.orIllegal i h a (fun v => decide (3 ≤ v.toNat)) <| issue i h { a := some a, b := some b } none anyMode
    (fun v s =>
      if 3 ≤ v.a.toNat then s.illegal i
      else s.withRing t.toNat fun e =>
        if !s.cx.got.isEmpty || s.ringCond s.me e v.a.toNat then (s.updCx Ctx.endWait).retire i.bytes
        else
          let s1 := s.startLimit v.b.toNat fun n => .ringWaitExpired s.me s.mx n
          (s1.updCx fun x => { x with cw := some (t.toNat, v.a.toNat, 0, noRequest) }).block (.ring t.toNat 0))

/-- `rstate` (12 R263). -/
def execRstate (h : Hd) (d : Opd) (t : BitVec 6) (s : State) : Res :=
  issue (.rstate h d t) h { d := some d } (needGZ d) anyMode
    (fun _ s => s.withRing t.toNat fun e =>
      s.finish (.rstate h d t) d (BitVec.ofNat 64 (e.head + 16 * e.tail + 256 * e.occ + 8192 * e.slots))) s

end Sys2Proof.Machine
end

