-- ==== Sys2Proof/Machine/Vector.lean ====
section
/-! DEFINITION. Vector registers, the pool, and the vector instructions (07 R168; 13 R265 to R283). -/

namespace Sys2Proof.Machine

/-! The pool. -/

/-- Group `g` of a core. -/
def Core.group (k : Core) (g : Nat) : Group := tblGet k.groups g {}
/-- That group changed. -/
def Core.updGroup (k : Core) (g : Nat) (f : Group → Group) : Core :=
  { k with groups := tblSet k.groups g (f (k.group g)) }
/-- Blocks that no group holds (07 R168). -/
def Core.freeBlocks (k : Core) : Nat := 64 - (k.groups.map fun p => p.2.blocks).foldl (· + ·) 0

/-- `n` blocks are appended to a group's window, zeroed. -/
def Core.grantBlocks (k : Core) (g n : Nat) : Core :=
  k.updGroup g fun q =>
    { q with blocks := q.blocks + n, v := q.v.filter fun e => decide (e.1 < q.blocks * 2048) }

/-- The blocks that the issuing thread's group holds. -/
def State.heldBlocks (s : State) : Nat := if s.cx.gv then ((s.core s.me).group s.cx.group).blocks else 0

/-- May the issuing thread's group name a vector register: one of a block that it holds, and that no waiting `vyield` gives up
(07 R168, 13 R269)? -/
def State.mayName (s : State) (r : Nat) : Bool :=
  let g := (s.core s.me).group s.cx.group
  decide (r < 8 * s.heldBlocks) && !(decide (8 * g.closeAt ≤ r) && decide (r < 8 * (g.closeAt + g.closing)))

/-- VPOOL for a count or register. -/
def State.vpool (s : State) (n : Nat) : State := s.trap .vpool n s.heldBlocks 0

/-- VCLAIM_SERVE (07 R168, R169): the claim at the head is met when its blocks are free. A resumption goes on by its own
step. -/
def doVclaimServe (core : Nat) (s : State) : State :=
  let k := s.core core
  match k.claims with
  | [] => s
  | q :: rest =>
    if k.freeBlocks < q.n then s
    else
      let k1 := { k with claims := rest }.grantBlocks q.group q.n
      let s1 := (s.setCore core k1).emit (.vclaimServe core)
      match q.ctx with
      | some x =>
        let s2 := s1.updCtx core x fun t =>
          { t with pc := t.pc + BitVec.ofNat 64 q.bytes, latch := none, got := [], wait := .none, waitAt := 0, cw := none,
                   migrations := 0 }
        s2
      | none => s1.emit (.suspensionRequest
          { who := { kind := .unit, core := s.gcore core, idx := 0 }, id := q.job, op := 2, core := core, group := true,
            slot := q.group, image := 0, space := 0, task := false, phase := 3 })

/-- `vclaim` (13 R269). -/
def execVclaim (h : Hd) (a : Opd) (s : State) : Res :=
  let i : Instr := .vclaim h a
  issue i h { a := some a } none anyMode
    (fun v s =>
      let n := v.a.toNat
      let k := s.core s.me
      let t := s.cx
      if !t.gv || n = 0 || 8 < n || (k.group t.group).blocks ≠ 0 || k.claims.any fun q => q.group == t.group then s.vpool n
      else
        let q : Claim := { group := t.group, n := n, ctx := some s.mx, bytes := i.bytes, job := 0 }
        ((s.setCore s.me { k with claims := k.claims ++ [q] }).block .claim).emit (.vclaimServe s.me)) s

/-- `vtry` (13 R269). -/
def execVtry (h : Hd) (a : Opd) (s : State) : Res :=
  let i : Instr := .vtry h a
  issue i h { a := some a } none anyMode
    (fun v s =>
      let n := v.a.toNat
      let k := s.core s.me
      let t := s.cx
      if !t.gv || n = 0 || 8 < (k.group t.group).blocks + n then s.vpool n
      else
        let ok := k.claims.isEmpty && decide (n ≤ k.freeBlocks)
        let s1 := if ok then s.setCore s.me (k.grantBlocks t.group n) else s
        (s1.updCx fun t => t.setP 1 ok).retire i.bytes) s

/-- Is a register of the issuing thread's group from `lo` on being written by another thread's load (13 R267)? -/
def State.pending (s : State) (p : Nat → Bool) : Bool :=
  let t := s.cx
  (s.core s.me).ctxs.any fun e => e.1 != s.mx && (match e.2.pend with
    | some r => (if r < 64 then t.gv && e.2.gv && e.2.group == t.group else true) && p r
    | none => false)

/-- The `n` blocks from block `b` on leave a group's window; those claimed after them move down. -/
def Group.yieldBlocks (q : Group) (b n : Nat) : Group :=
  { q with blocks := q.blocks - n, closeAt := 0, closing := 0, giver := none,
           v := (q.v.filter fun e => decide (e.1 < b * 2048)) ++
             ((q.v.filter fun e => decide ((b + n) * 2048 ≤ e.1)).map fun e => (e.1 - n * 2048, e.2)) }

/-- Who waits for a register that a load has written, or for the end of a `vyield`, looks again. -/
def State.wakeVreg (s : State) : State :=
  s.updCore s.me fun k => { k with ctxs := k.ctxs.map fun (p : Nat × Ctx) =>
    (p.1, if p.2.wait = .vreg then { p.2 with wait := .none } else p.2) }

/-- `vyield` (13 R269): the blocks are settled when it issues, and return once no load is writing them; a second `vyield` of the
group waits for the first. -/
def execVyield (h : Hd) (a : Opd) (s : State) : Res :=
  let i : Instr := .vyield h a
  issue i h { a := some a } none anyMode
    (fun v s =>
      let n := v.a.toNat
      let t := s.cx
      let q := (s.core s.me).group t.group
      let mine := q.giver == some s.mx
      if t.gv && q.giver.isSome && !mine then s.block .vreg
      else if !mine && (!t.gv || n = 0 || q.blocks < n) then s.vpool n
      else
        let b := if mine then q.closeAt else q.blocks - n
        if s.pending fun r => decide (8 * b ≤ r) && decide (r < 8 * (b + n)) then
          (s.updCore s.me fun k => k.updGroup t.group fun q => { q with closeAt := b, closing := n, giver := some s.mx }).block .vreg
        else
          (((s.updCore s.me fun k => k.updGroup t.group fun q => q.yieldBlocks b n).retire i.bytes).wakeVreg).emit
            (.vclaimServe s.me)) s

/-! Registers and elements. -/

/-- The 256 bytes of a vector register of the issuing thread's group. -/
def State.vreg (s : State) (r : Nat) : List Byte := memRead ((s.core s.me).group s.cx.group).v (r * 256) 256
/-- Bytes written into a vector register. -/
def State.setVreg (s : State) (r b : Nat) (d : List Byte) : State :=
  s.updCore s.me fun k => k.updGroup s.cx.group fun q => { q with v := memWrite q.v (r * 256 + b) d }
/-- Element `i` of width `w` bytes of a register's bytes. -/
def elemOf (w : Nat) (l : List Byte) (i : Nat) : Nat := ofBytes ((l.drop (i * w)).take w)
/-- Elements written into a register: pairs of index and value. -/
def State.setElems (s : State) (r w : Nat) (l : List (Nat × Nat)) : State :=
  l.foldl (fun s x => s.setVreg r (x.1 * w) (toBytes x.2 w)) s

/-- Elements of a type. -/
def elems (ty : Ty) : Nat := 256 / ty.width
/-- The enabled elements, lowest first (13 R265). -/
def Ctx.enabled (t : Ctx) (msk : BitVec 3) (n : Nat) : List Nat :=
  (countUp 0 n).filter fun i => (t.getM msk.toNat).getLsbD i

/-- The checks that come before a vector instruction's own effect: VPOOL for a register beyond the group's blocks, and
the wait for registers that another thread's load still writes (13 R267, R268). -/
def State.withRegs (s : State) (regs : List Nat) (k : State → State) : State :=
  let t := s.cx
  match if t.got.isEmpty && t.pend.isNone then regs.find? fun r => !(s.mayName r) else none with
  | some r => s.vpool r
  | none => if s.pending fun r => regs.contains r then s.block .vreg else k s

/-- The second source of an element operation: the scalar, or a register's element (13 R266). -/
def secondSrc (v : VOp) (a : Word) (l : List Byte) (i : Nat) : Nat :=
  if v.bs then a.toNat % 2 ^ (8 * v.ty.width) else elemOf v.ty.width l i

/-- Results of the enabled elements are written, their flags entered, and the instruction retires. -/
def State.vecDone (s : State) (i : Instr) (r w : Nat) (l : List (Nat × Nat × FFlags)) : State :=
  let s1 := s.setElems r w (l.map fun x => (x.1, x.2.1))
  (s1.updCx fun t => t.orFlags (l.foldl (fun f x => f ||| x.2.2) 0#5)).retire i.bytes

/-- Operands of a vector instruction whose second source may be scalar. -/
def bsRoles (a : Opd) (v : VOp) : Roles := if v.bs then { a := some a } else {}

/-- An element operation over up to three sources (13 R271). -/
def elementwise (i : Instr) (h : Hd) (a : Opd) (v : VOp) (three : Bool) (f : Nat → Nat → Nat → Nat × FFlags) (s : State) :
    Res :=
  issue i h (bsRoles a v) none anyMode
    (fun x s =>
      s.withRegs ([v.x1.toNat, v.x2.toNat] ++ (if v.bs then [] else [v.x3.toNat]) ++ (if three then [v.x4.toNat] else []))
        fun s =>
          let w := v.ty.width
          let p := s.vreg v.x2.toNat
          let q := s.vreg v.x3.toNat
          let r := s.vreg v.x4.toNat
          s.vecDone i v.x1.toNat w ((s.cx.enabled v.msk (elems v.ty)).map fun j =>
            let y := f (elemOf w p j) (secondSrc v x.a q j) (elemOf w r j)
            (j, y.1, y.2))) s

/-! Element arithmetic (13 Table 13.3). -/

/-- The fraction width of a float type. -/
def fracW (ty : Ty) : Nat := if ty == .bf16 then 7 else 23
/-- The integer that an element's bits stand for. -/
def intVal (ty : Ty) (x : Nat) : Int := if ty.isSigned then signedOf (8 * ty.width) x else ((x % 2 ^ (8 * ty.width) : Nat) : Int)
/-- An exact integer result as the bits of an element: wrapped, or saturated. -/
def fitInt (ty : Ty) (sat : Bool) (x : Int) : Nat :=
  let n := 8 * ty.width
  wrapN n (if sat then (if ty.isSigned then satI n x else satN n x) else x)

/-- An operation on exact integers, or the float operation. -/
def arithElem (v : VOp) (fi : Int → Int → Int → Int) (ff : Nat → Nat → Nat → Nat × FFlags) (a b c : Nat) :
    Nat × FFlags :=
  if v.ty.isFloat then ff a b c
  else (fitInt v.ty v.sat (fi (intVal v.ty a) (intVal v.ty b) (intVal v.ty c)), 0#5)

/-- `vadd` (13 R271). -/
def execVadd (h : Hd) (a : Opd) (v : VOp) (s : State) : Res :=
  elementwise (.vadd h a v) h a v false
    (arithElem v (fun a b _ => a + b) (fun a b _ => addF (fracW v.ty) v.rnd.toNat a b)) s
/-- `vsub` (13 R271). -/
def execVsub (h : Hd) (a : Opd) (v : VOp) (s : State) : Res :=
  elementwise (.vsub h a v) h a v false
    (arithElem v (fun a b _ => a - b) (fun a b _ => subF (fracW v.ty) v.rnd.toNat a b)) s
/-- `vmul` (13 R271). -/
def execVmul (h : Hd) (a : Opd) (v : VOp) (s : State) : Res :=
  elementwise (.vmul h a v) h a v false
    (arithElem v (fun a b _ => a * b) (fun a b _ => mulF (fracW v.ty) v.rnd.toNat a b)) s
/-- `vmin` (13 R271). -/
def execVmin (h : Hd) (a : Opd) (v : VOp) (s : State) : Res :=
  elementwise (.vmin h a v) h a v false
    (arithElem v (fun a b _ => min a b) (fun a b _ => minmaxF (fracW v.ty) false a b)) s
/-- `vmax` (13 R271). -/
def execVmax (h : Hd) (a : Opd) (v : VOp) (s : State) : Res :=
  elementwise (.vmax h a v) h a v false
    (arithElem v (fun a b _ => max a b) (fun a b _ => minmaxF (fracW v.ty) true a b)) s
/-- `vfma` (13 R271). -/
def execVfma (h : Hd) (a : Opd) (v : VOp) (s : State) : Res :=
  elementwise (.vfma h a v) h a v true
    (arithElem v (fun a b c => a * b + c) (fun a b c => fmaF (fracW v.ty) v.rnd.toNat a b c)) s

/-- An operation on one source. -/
def unary (i : Instr) (h : Hd) (v : VOp) (f : Nat → Nat × FFlags) (s : State) : Res :=
  issue i h {} none anyMode
    (fun _ s => s.withRegs [v.x1.toNat, v.x2.toNat] fun s =>
      let w := v.ty.width
      let p := s.vreg v.x2.toNat
      s.vecDone i v.x1.toNat w ((s.cx.enabled v.msk (elems v.ty)).map fun j =>
        let y := f (elemOf w p j)
        (j, y.1, y.2))) s

/-- The sign bit of an element. -/
def signBit (ty : Ty) : Nat := 2 ^ (8 * ty.width - 1)

/-- `vabs` (13 R271): on floats a bit operation. -/
def execVabs (h : Hd) (v : VOp) (s : State) : Res :=
  unary (.vabs h v) h v (fun a =>
    if v.ty.isFloat then (a % signBit v.ty, 0#5)
    else (fitInt v.ty v.sat ((intVal v.ty a).natAbs : Int), 0#5)) s
/-- `vneg` (13 R271). -/
def execVneg (h : Hd) (v : VOp) (s : State) : Res :=
  unary (.vneg h v) h v (fun a =>
    if v.ty.isFloat then (a ^^^ signBit v.ty, 0#5) else (fitInt v.ty v.sat (-(intVal v.ty a)), 0#5)) s
/-- `vrcp` (13 R272). -/
def execVrcp (h : Hd) (v : VOp) (s : State) : Res := unary (.vrcp h v) h v (rcpF (fracW v.ty) v.rnd.toNat) s
/-- `vrsqrt` (13 R272). -/
def execVrsqrt (h : Hd) (v : VOp) (s : State) : Res := unary (.vrsqrt h v) h v (rsqrtF (fracW v.ty) v.rnd.toNat) s
/-- `vexp2` (13 R272). -/
def execVexp2 (h : Hd) (v : VOp) (s : State) : Res := unary (.vexp2 h v) h v (exp2F (fracW v.ty) v.rnd.toNat) s
/-- `vlog2` (13 R272). -/
def execVlog2 (h : Hd) (v : VOp) (s : State) : Res := unary (.vlog2 h v) h v (log2F (fracW v.ty) v.rnd.toNat) s

/-- One conversion (09 Table 9.5). -/
def convert (src dst : Ty) (rnd : Nat) (sat : Bool) (x : Nat) : Nat × FFlags :=
  if src.isFloat then
    if dst.isFloat then (if dst == .bf16 then f32ToBf16 rnd x else bf16ToF32 x)
    else
      let r := fToInt (fracW src) rnd dst.isSigned (8 * dst.width) x
      (wrapN (8 * dst.width) r.1, r.2)
  else if dst.isFloat then intToF (fracW dst) rnd (intVal src x)
  else (fitInt dst (sat && decide (dst.width < src.width)) (intVal src x), 0#5)

/-- `vcvt` (13 R273). -/
def execVcvt (h : Hd) (t : Ty) (v : VOp) (s : State) : Res :=
  let i : Instr := .vcvt h t v
  issue i h {} none anyMode
    (fun _ s => s.withRegs [v.x1.toNat, v.x2.toNat] fun s =>
      let es := elems v.ty
      let ed := elems t
      let n := min es ed
      let so := if ed < es then v.part.toNat * n else 0
      let d0 := if es < ed then v.part.toNat * n else 0
      let p := s.vreg v.x2.toNat
      let m := s.cx.getM v.msk.toNat
      s.vecDone i v.x1.toNat t.width (((countUp 0 n).filter fun j => m.getLsbD (j + d0)).map fun j =>
        let y := convert v.ty t v.rnd.toNat v.sat (elemOf v.ty.width p (j + so))
        (j + d0, y.1, y.2))) s

/-! Logic, shifts, compares, select (13 R274). -/

/-- `vand`. -/
def execVand (h : Hd) (a : Opd) (v : VOp) (s : State) : Res :=
  elementwise (.vand h a v) h a v false (fun a b _ => (a &&& b, 0#5)) s
/-- `vor`. -/
def execVor (h : Hd) (a : Opd) (v : VOp) (s : State) : Res :=
  elementwise (.vor h a v) h a v false (fun a b _ => (a ||| b, 0#5)) s
/-- `vxor`. -/
def execVxor (h : Hd) (a : Opd) (v : VOp) (s : State) : Res :=
  elementwise (.vxor h a v) h a v false (fun a b _ => (a ^^^ b, 0#5)) s
/-- `vshl`. -/
def execVshl (h : Hd) (a : Opd) (v : VOp) (s : State) : Res :=
  elementwise (.vshl h a v) h a v false (fun a b _ =>
    (if 8 * v.ty.width ≤ b then 0 else a * 2 ^ b % 2 ^ (8 * v.ty.width), 0#5)) s
/-- `vshr`. -/
def execVshr (h : Hd) (a : Opd) (v : VOp) (s : State) : Res :=
  elementwise (.vshr h a v) h a v false (fun a b _ => (if 8 * v.ty.width ≤ b then 0 else a / 2 ^ b, 0#5)) s
/-- `vsha`: the sign is the top bit, whatever the type's signedness. -/
def execVsha (h : Hd) (a : Opd) (v : VOp) (s : State) : Res :=
  elementwise (.vsha h a v) h a v false (fun a b _ =>
    let n := 8 * v.ty.width
    (wrapN n (signedOf n a / ((2 ^ min b n : Nat) : Int)), 0#5)) s

/-- One comparison of `vcmp`. -/
def cmpElem (ty : Ty) (cond a b : Nat) : Bool × FFlags :=
  if ty.isFloat then cmpF (fracW ty) cond a b else (condInt cond (intVal ty a) (intVal ty b), 0#5)

/-- A mask of the indices with property `p`. -/
def maskOf (l : List Nat) : BitVec 256 := BitVec.ofNat 256 ((l.map fun i => 2 ^ i).foldl (· + ·) 0)

/-- `vcmp` (13 R274). -/
def execVcmp (h : Hd) (cond : BitVec 3) (a : Opd) (v : VOp) (s : State) : Res :=
  let i : Instr := .vcmp h cond a v
  issue i h (bsRoles a v) none anyMode
    (fun x s => s.withRegs ([v.x2.toNat] ++ (if v.bs then [] else [v.x3.toNat])) fun s =>
      let w := v.ty.width
      let p := s.vreg v.x2.toNat
      let q := s.vreg v.x3.toNat
      let r := (s.cx.enabled v.msk (elems v.ty)).map fun j => (j, cmpElem v.ty cond.toNat (elemOf w p j) (secondSrc v x.a q j))
      (s.updCx fun t =>
        (t.setM v.x1.toNat (maskOf ((r.filter fun e => e.2.1).map fun e => e.1))).orFlags
          (r.foldl (fun f e => f ||| e.2.2) 0#5)).retire i.bytes) s

/-- `vsel` (13 R274). -/
def execVsel (h : Hd) (a : Opd) (v : VOp) (s : State) : Res :=
  let i : Instr := .vsel h a v
  issue i h (bsRoles a v) none anyMode
    (fun x s => s.withRegs ([v.x1.toNat, v.x2.toNat] ++ (if v.bs then [] else [v.x3.toNat])) fun s =>
      let w := v.ty.width
      let p := s.vreg v.x2.toNat
      let q := s.vreg v.x3.toNat
      let m := s.cx.getM v.x4.toNat
      s.vecDone i v.x1.toNat w ((s.cx.enabled v.msk (elems v.ty)).map fun j =>
        (j, if m.getLsbD j then elemOf w p j else secondSrc v x.a q j, 0#5))) s

/-! Reductions and scans (13 R275, R276). -/

/-- An element's value as an instruction returns it in D: sign- or zero-extended. -/
def elemWord (ty : Ty) (x : Nat) : Word := extendVal ty.width ty.isSigned x

/-- The elements of a float type as FP32. -/
def toF32 (ty : Ty) (x : Nat) : Nat × FFlags := if ty == .bf16 then bf16ToF32 x else (x % 2 ^ 32, 0#5)
/-- An FP32 value in a float type. -/
def ofF32 (ty : Ty) (rnd x : Nat) : Nat × FFlags := if ty == .bf16 then f32ToBf16 rnd x else (x, 0#5)

/-- A float reduction: 0 add, 1 max, 2 min. -/
def redFloat (op : Nat) (ty : Ty) (rnd : Nat) (l : List (Option Nat)) : Nat × FFlags :=
  let leaves := l.map fun o => o.map (toF32 ty)
  let fl := leaves.foldl (fun f o => match o with
    | some x => f ||| x.2
    | none => f) 0#5
  let node (a b : Nat) : Nat × FFlags :=
    if op = 0 then addF 23 rnd a b else minmaxF 23 (op == 1) a b
  let r := treeJoin node 8 (leaves.map fun o => o.map fun x => x.1)
  match r.1 with
  | none => (if op = 0 then 0 else fltInf (fracW ty) (op == 1), 0#5)
  | some x =>
    let y := ofF32 ty rnd x
    (y.1, fl ||| r.2 ||| y.2)

/-- An integer reduction. -/
def redInt (op : Nat) (ty : Ty) (sat : Bool) (l : List Int) : Nat :=
  let n := 8 * ty.width
  match l with
  | [] =>
    if op = 0 then 0
    else if op = 1 then (if ty.isSigned then 2 ^ (n - 1) else 0)
    else (if ty.isSigned then 2 ^ (n - 1) - 1 else 2 ^ n - 1)
  | x :: r => fitInt ty sat (r.foldl (fun a b => if op = 0 then a + b else if op = 1 then max a b else min a b) x)

/-- A reduction (13 R275). -/
def reduce (i : Instr) (h : Hd) (d : Opd) (v : VOp) (op : Nat) (s : State) : Res :=
  issue i h { d := some d } none anyMode
    (fun _ s => s.withRegs [v.x2.toNat] fun s =>
      let w := v.ty.width
      let p := s.vreg v.x2.toNat
      let m := s.cx.getM v.msk.toNat
      let r : Nat × FFlags :=
        if v.ty.isFloat then
          redFloat op v.ty v.rnd.toNat ((countUp 0 (elems v.ty)).map fun j => if m.getLsbD j then some (elemOf w p j) else none)
        else (redInt op v.ty v.sat ((s.cx.enabled v.msk (elems v.ty)).map fun j => intVal v.ty (elemOf w p j)), 0#5)
      (s.updCx fun t => t.orFlags r.2).finish i d (elemWord v.ty r.1)) s

/-- `vred.add`. -/
def execVredAdd (h : Hd) (d : Opd) (v : VOp) (s : State) : Res := reduce (.vredAdd h d v) h d v 0 s
/-- `vred.max`. -/
def execVredMax (h : Hd) (d : Opd) (v : VOp) (s : State) : Res := reduce (.vredMax h d v) h d v 1 s
/-- `vred.min`. -/
def execVredMin (h : Hd) (d : Opd) (v : VOp) (s : State) : Res := reduce (.vredMin h d v) h d v 2 s

/-- The running sums over the enabled elements, from `acc`. -/
def scanInt (ty : Ty) (sat : Bool) (acc : Int) : List (Nat × Nat) → List (Nat × Nat × FFlags)
  | [] => []
  | (j, x) :: r =>
    let a := acc + intVal ty x
    (j, fitInt ty sat a, 0#5) :: scanInt ty sat a r

/-- The float running sums, kept in FP32. -/
def scanFloat (ty : Ty) (rnd : Nat) (acc : Nat) : List (Nat × Nat) → List (Nat × Nat × FFlags)
  | [] => []
  | (j, x) :: r =>
    let y := toF32 ty x
    let a := addF 23 rnd acc y.1
    let o := ofF32 ty rnd a.1
    (j, o.1, y.2 ||| a.2 ||| o.2) :: scanFloat ty rnd a.1 r

/-- `vscan` (13 R276). -/
def execVscan (h : Hd) (a : Opd) (v : VOp) (s : State) : Res :=
  let i : Instr := .vscan h a v
  issue i h { a := some a } none anyMode
    (fun x s => s.withRegs [v.x1.toNat, v.x2.toNat] fun s =>
      let w := v.ty.width
      let p := s.vreg v.x2.toNat
      let es := (s.cx.enabled v.msk (elems v.ty)).map fun j => (j, elemOf w p j)
      let a0 := x.a.toNat % 2 ^ (8 * w)
      let f0 := toF32 v.ty a0
      let r := if v.ty.isFloat then scanFloat v.ty v.rnd.toNat f0.1 es else scanInt v.ty v.sat (intVal v.ty a0) es
      let s1 := if v.ty.isFloat then s.updCx fun t => t.orFlags f0.2 else s
      s1.vecDone i v.x1.toNat w r) s

/-! Moving elements (13 R277). -/

/-- `vperm`. -/
def execVperm (h : Hd) (v : VOp) (s : State) : Res :=
  let i : Instr := .vperm h v
  issue i h {} none anyMode
    (fun _ s => s.withRegs [v.x1.toNat, v.x2.toNat, v.x3.toNat] fun s =>
      let w := v.ty.width
      let p := s.vreg v.x2.toNat
      let q := s.vreg v.x3.toNat
      s.vecDone i v.x1.toNat w ((s.cx.enabled v.msk (elems v.ty)).map fun j =>
        (j, elemOf w p (elemOf w q j % elems v.ty), 0#5))) s

/-- `vbcast`. -/
def execVbcast (h : Hd) (a : Opd) (v : VOp) (s : State) : Res :=
  let i : Instr := .vbcast h a v
  issue i h { a := some a } none anyMode
    (fun x s => s.withRegs [v.x1.toNat] fun s =>
      s.vecDone i v.x1.toNat v.ty.width ((s.cx.enabled v.msk (elems v.ty)).map fun j =>
        (j, x.a.toNat % 2 ^ (8 * v.ty.width), 0#5))) s

/-- `vext`. -/
def execVext (h : Hd) (d b : Opd) (v : VOp) (s : State) : Res :=
  let i : Instr := .vext h d b v
  issue i h { b := some b, d := some d } none anyMode
    (fun x s => s.withRegs [v.x2.toNat] fun s =>
      s.finish i d (elemWord v.ty (elemOf v.ty.width (s.vreg v.x2.toNat) (x.b.toNat % elems v.ty)))) s

/-- `vins`. -/
def execVins (h : Hd) (a b : Opd) (v : VOp) (s : State) : Res :=
  let i : Instr := .vins h a b v
  issue i h { a := some a, b := some b } none anyMode
    (fun x s => s.withRegs [v.x1.toNat] fun s =>
      s.vecDone i v.x1.toNat v.ty.width
        [(x.b.toNat % elems v.ty, x.a.toNat % 2 ^ (8 * v.ty.width), 0#5)]) s

/-! Tile access (13 R278). -/

/-- `vld.t`. -/
def execVldT (h : Hd) (a b : Opd) (v : VOp) (s : State) : Res :=
  let i : Instr := .vldT h a b v
  issue i h { a := some a, b := some b } none anyMode
    (fun x s => s.withRegs [v.x1.toNat] fun s => s.withTile v.x2.toNat fun t =>
      let w := v.ty.width
      let p := x.a.toNat
      let b := x.b.toNat
      let es := s.cx.enabled v.msk (elems v.ty)
      match firstSome (es.map fun j => s.firstEmpty t s.me p (b + j * w) w) with
      | some y => (s.updCx fun t => { t with pend := some v.x1.toNat }).stallPeck v.x2.toNat p y
      | none =>
        let s1 := es.foldl (fun s j => s.noteOutside t false v.x2.toNat p (b + j * w) w) s
        (s1.vecDone i v.x1.toNat w (es.map fun j => (j, ofBytes (s.tileRead t s.me p (b + j * w) w), 0#5))).wakeVreg) s

/-- `vst.t`. -/
def execVstT (h : Hd) (a b : Opd) (v : VOp) (s : State) : Res :=
  let i : Instr := .vstT h a b v
  issue i h { a := some a, b := some b } none anyMode
    (fun x s => s.withRegs [v.x1.toNat] fun s => s.withTile v.x2.toNat fun t =>
      let w := v.ty.width
      let p := x.a.toNat
      let b := x.b.toNat
      let l := s.vreg v.x1.toNat
      ((s.cx.enabled v.msk (elems v.ty)).foldl (fun s j =>
        (s.noteOutside t true v.x2.toNat p (b + j * w) w).tileWrite t s.me p (b + j * w) ((l.drop (j * w)).take w)) s).retire
          i.bytes) s

/-! Memory access (13 R279, R280): the enabled elements one after another, each as `ld` or `st`. -/

/-- The bytes of the source registers as they are when the instruction issues (13 R267): they stand first among what it has got. -/
def State.withSource (s : State) (d : List Byte) (k : List Byte → State → State) : State :=
  match s.cx.got with
  | l :: _ => k l s
  | [] => k d (s.updCx fun t => { t with got := [d] })

/-- The accesses of a vector load from the n-th on; an element is written when its value is known, and until then its register is
pending. -/
def State.loadElems (s : State) (i : Instr) (r w pol hint : Nat) (addr : Nat → Word) (n : Nat) : List Nat → State
  | [] => (s.retire i.bytes).wakeVreg
  | j :: rest =>
    let one (s : State) : State :=
      match (s.updCx fun t => { t with pend := some r }).readAt n (addr j).toNat w pol hint true with
      | (none, s1) => s1
      | (some d, s1) => (s1.setVreg r (j * w) d).loadElems i r w pol hint addr (n + 1) rest
    if n < s.cx.got.length then one s
    else s.checkEa (addr j) w fun _ => one s

/-- The stores of a vector store from the n-th on. -/
def State.storeElems (s : State) (i : Instr) (l : List Byte) (w pol hint : Nat) (addr : Nat → Word) (n : Nat) :
    List Nat → State
  | [] => s.retire i.bytes
  | j :: rest =>
    let one (s : State) : State :=
      match s.writeAt n (addr j).toNat pol hint ((l.drop (j * w)).take w) true with
      | (false, s1) => s1
      | (true, s1) => s1.storeElems i l w pol hint addr (n + 1) rest
    if n < s.cx.got.length then one s
    else s.checkEa (addr j) w fun _ => one s

/-- The scale of an index (13 Table 13.1). -/
def scaleOf (sc : BitVec 2) : Nat := 2 ^ sc.toNat

/-- The address of an indexed element. -/
def idxAddr (a : Word) (w scale : Nat) (l : List Byte) (j : Nat) : Word :=
  a + sext64 (8 * w) (elemOf w l j) * BitVec.ofNat 64 scale

/-- `vld`. -/
def execVld (h : Hd) (a b : Opd) (v : VOp) (s : State) : Res :=
  let i : Instr := .vld h a b v
  issue i h { a := some a, b := some b } none anyMode
    (fun x s => s.withRegs [v.x1.toNat] fun s =>
      let w := v.ty.width
      s.loadElems i v.x1.toNat w v.part.toNat v.hint.toNat (fun j => x.a + x.b + BitVec.ofNat 64 (j * w)) 0
        (s.cx.enabled v.msk (elems v.ty))) s

/-- `vst`. -/
def execVst (h : Hd) (a b : Opd) (v : VOp) (s : State) : Res :=
  let i : Instr := .vst h a b v
  issue i h { a := some a, b := some b } none anyMode
    (fun x s => s.withRegs [v.x1.toNat] fun s =>
      let w := v.ty.width
      s.withSource (s.vreg v.x1.toNat) fun l s =>
        s.storeElems i l w v.part.toNat v.hint.toNat (fun j => x.a + x.b + BitVec.ofNat 64 (j * w)) 1
          (s.cx.enabled v.msk (elems v.ty))) s

/-- `vgath`. -/
def execVgath (h : Hd) (a : Opd) (v : VOp) (s : State) : Res :=
  let i : Instr := .vgath h a v
  issue i h { a := some a } none anyMode
    (fun x s => s.withRegs [v.x1.toNat, v.x3.toNat] fun s =>
      let w := v.ty.width
      s.withSource (s.vreg v.x3.toNat) fun l s =>
        s.loadElems i v.x1.toNat w v.part.toNat v.hint.toNat (idxAddr x.a w (scaleOf v.sc) l) 1
          (s.cx.enabled v.msk (elems v.ty))) s

/-- `vscat`. -/
def execVscat (h : Hd) (a : Opd) (v : VOp) (s : State) : Res :=
  let i : Instr := .vscat h a v
  issue i h { a := some a } none anyMode
    (fun x s => s.withRegs [v.x1.toNat, v.x3.toNat] fun s =>
      let w := v.ty.width
      s.withSource (s.vreg v.x1.toNat ++ s.vreg v.x3.toNat) fun l s =>
        s.storeElems i (l.take 256) w v.part.toNat v.hint.toNat (idxAddr x.a w (scaleOf v.sc) (l.drop 256)) 1
          (s.cx.enabled v.msk (elems v.ty))) s

/-! Codebooks (13 R281 to R283). -/

/-- Codebook register `n`: its kind and 16 entries. -/
def Core.codebook (k : Core) (n : Nat) : Bool × List Nat := tblGet k.codebooks n (false, List.replicate 16 0)

/-- Code `n` of packed codes (09 R190). -/
def codeAt (l : List Byte) (n : Nat) : Nat :=
  let b := (nthD l (n / 2) 0#8).toNat
  if n % 2 = 0 then b % 16 else b / 16

/-- The entry of a code (09 R191): BF16 bits, or the low byte. -/
def cbEntry (kind : Bool) (es : List Nat) (c : Nat) : Nat :=
  if kind then nthD es c 0 % 256 else nthD es c 0

/-- Is a codebook register being loaded by another thread of the core? -/
def State.withCodebook (s : State) (n : Nat) (k : Bool × List Nat → State) : State :=
  if s.pending fun r => r == 64 + n then s.block .vreg else k ((s.core s.me).codebook n)

/-- `vcb` (13 R282). -/
def execVcb (h : Hd) (v : VOp) (s : State) : Res :=
  let i : Instr := .vcb h v
  issue i h {} none anyMode
    (fun _ s => s.withRegs [v.x1.toNat, v.x2.toNat] fun s => s.withCodebook v.x3.toNat fun cb =>
      if v.ty == .i8 && !cb.1 then s.tileFault 0
      else
        let e := elems v.ty
        let p := s.vreg v.x2.toNat
        s.vecDone i v.x1.toNat v.ty.width ((s.cx.enabled v.msk e).map fun j =>
          let x := cbEntry cb.1 cb.2 (codeAt p (v.part.toNat * e + j))
          (j, if v.ty == .bf16 && cb.1 then (intToF 7 0 (signedOf 8 x)).1 else x, 0#5))) s

/-- The 32 bytes that `kload` has read become the register's entries. -/
def State.setCodebook (s : State) (n : Nat) (kind : Bool) (d : List Byte) : State :=
  s.updCore s.me fun k =>
    { k with codebooks := tblSet k.codebooks n (kind, (countUp 0 16).map fun j => ofBytes ((d.drop (2 * j)).take 2)) }

/-- `kload` (13 R281, R283). -/
def execKload (h : Hd) (a b : Opd) (v : KOp) (s : State) : Res :=
  let i : Instr := .kload h a b v
  let n := v.x1.toNat
  issue i h (if v.src then { a := some a, b := some b } else { a := some a }) none anyMode
    (fun x s =>
      if (s.core s.me).seq.isSome then s.block .seq
      else if s.pending fun r => r == 64 + n then s.block .vreg
      else
        let done (s : State) (d : List Byte) : State := ((s.setCodebook n (v.ty == .i8) d).retire i.bytes).wakeVreg
        if v.src then
          s.withTile v.x2.toNat fun t =>
            if x.b.toNat % 32 ≠ 0 then s.tileFault v.x2.toNat
            else match s.firstEmpty t s.me x.a.toNat x.b.toNat 32 with
              | some y => (s.updCx fun t => { t with pend := some (64 + n) }).stallPeck v.x2.toNat x.a.toNat y
              | none => done (s.noteOutside t false v.x2.toNat x.a.toNat x.b.toNat 32)
                  (s.tileRead t s.me x.a.toNat x.b.toNat 32)
        else
          let go (s : State) : State :=
            match (s.updCx fun t => { t with pend := some (64 + n) }).readAt 0 x.a.toNat 32 1 0 false with
            | (none, s1) => s1
            | (some d, s1) => done s1 d
          if s.cx.got.isEmpty then s.checkEa x.a 32 fun _ => go s else go s) s

end Sys2Proof.Machine
end

