-- ==== Sys2Proof/Machine/Matrix.lean ====
section
/-! DEFINITION. The macro-operation sequencer and the matrix instructions (08 R179, R180; 09 R190 to R195; 13 R284 to
R288; 12 Table 12.6 for `tzero`). -/

namespace Sys2Proof

/-! The forms of `mma` (13 Table 13.5). -/

/-- Does the form accumulate integers? -/
def MOp.isInt (v : MOp) (fn : Nat) : Bool := fn == 1 || (fn == 3 && v.ty == .i8)
/-- Does it expand B through a codebook? -/
def MOp.isCb (v : MOp) : Bool := v.ty == .c4
/-- Values stored for a sparse group. -/
def MOp.stored (v : MOp) : Nat := if v.spn then 12 else 24
/-- K groups. -/
def MOp.groups (v : MOp) (fn : Nat) : Nat := if fn = 3 then (if v.spn then 8 else 4) else 2
/-- Bytes of an element of A. -/
def MOp.widthA (v : MOp) (fn : Nat) : Nat := if v.isInt fn then 1 else 2
/-- Bytes of a row of B. -/
def MOp.rowB (v : MOp) (fn : Nat) : Nat := if v.isCb then 32 else 64 * v.widthA fn

end Sys2Proof

namespace Sys2Proof.Machine

/-! Accumulators: word (i, j) of accumulator a has the key a * 4096 + 64 * i + j. -/

/-- Words of an accumulator from word `k` on. -/
def Core.accWords (k : Core) (a from_ n : Nat) : List Nat :=
  (countUp (a * 4096 + from_) n).map fun i => (memGet k.acc i).toNat
/-- Words written into an accumulator from word `from_` on. -/
def Core.setAcc (k : Core) (a from_ : Nat) (l : List Nat) : Core :=
  let lo := a * 4096 + from_
  let new := ((countUp lo l.length).zip (l.map fun v => BitVec.ofNat 32 v)).filter fun e => e.2 != 0#32
  { k with acc := (k.acc.filter fun e => decide (e.1 < lo)) ++ new ++
      k.acc.filter fun e => decide (lo + l.length ≤ e.1) }

/-! The forms of `mma` (13 Table 13.5). -/

/-- An `mma`: FN and its fields. -/
def mmaOf : Instr → Option (Nat × MOp)
  | .mmaBf16 _ _ _ v => some (0, v)
  | .mmaI8 _ _ _ v => some (1, v)
  | .mmaCb _ _ _ v => some (2, v)
  | .mmaSp _ _ _ v => some (3, v)
  | _ => none

/-- The physical row of operand row `r`: from the origin, or, of a ring, from the head it had at the first step. -/
def Tile.operandRow (t : Tile) (origin h0 r : Nat) : Nat :=
  if t.isRing then (h0 + r / t.slotRows) % (t.slots + 1) * t.slotRows + r % t.slotRows else origin + r

/-- A stretch of a tile that a step reads: the handle, the entry, the row, the first byte and the number of bytes. -/
structure SeqRead where
  h : Nat
  t : Tile
  p : Nat
  b : Nat
  n : Nat

/-- What a step reads of A: of row `i`, the columns of group `g`, or the mask and the packed values (13 R285). -/
def readsA (v : MOp) (fn : Nat) (t : Tile) (q : SeqSt) (g i : Nat) : List SeqRead :=
  let p := t.operandRow q.va q.h0a i
  let e := v.widthA fn
  if fn = 3 then [⟨v.x2.toNat, t, p, 6 * g, 6⟩, ⟨v.x2.toNat, t, p, 64 + g * v.stored * e, v.stored * e⟩]
  else [⟨v.x2.toNat, t, p, 48 * g * e, 48 * e⟩]

/-- What a step reads of row `k` of its group of B. -/
def readB (v : MOp) (fn : Nat) (t : Tile) (q : SeqSt) (g k : Nat) : SeqRead :=
  ⟨v.x3.toNat, t, t.operandRow q.vb q.h0b (48 * g + k), 0, v.rowB fn⟩

/-- What a step reads of the scales. -/
def readsScale (v : MOp) (t : Tile) : List SeqRead :=
  (if v.sav then [⟨v.sh.toNat, t, v.srow.toNat, 0, 128⟩] else [])
    ++ if v.sbv then [⟨v.sh.toNat, t, v.srow.toNat, 128, 128⟩] else []

/-- The first EMPTY peck among several reads: handle, row, byte. -/
def State.seqEmpty (s : State) (c : Nat) (l : List SeqRead) : Option (Nat × Nat × Nat) :=
  firstSome (l.map fun r => (s.firstEmpty r.t c r.p r.b r.n).map fun b => (r.h, r.p, b))

/-- The bytes of a read. -/
def State.seqBytes (s : State) (c : Nat) (r : SeqRead) : List Byte := s.tileRead r.t c r.p r.b r.n

/-! Operand values. An element is its exact value with the invalid flag of a signalling NaN; a masked position of a
sparse operand is absent. -/

/-- A BF16 operand element. -/
def bfElem (x : Nat) : XR × FFlags := (decF 7 x, snanFl 7 x)

/-- Element `k` of a row's packed values. -/
def packedAt (w : Nat) (l : List Byte) (k : Nat) : Nat := elemOf w l k

/-- The 48 raw elements of a row of A in a group; none where a sparse mask has 0 (09 R193). -/
def rawA (v : MOp) (fn : Nat) (l : List (List Byte)) : List (Option Nat) :=
  let e := v.widthA fn
  match l with
  | [m, vals] =>
    let mask := ofBytes m
    (countUp 0 48).map fun b => if bitOf mask b then some (packedAt e vals (popCount mask b)) else none
  | [vals] => (countUp 0 48).map fun b => some (elemOf e vals b)
  | _ => []

/-- The 64 raw elements of a row of B: codebook entries expanded (09 R191). -/
def rawB (v : MOp) (fn : Nat) (kb : List Nat) (kind : Bool) (l : List Byte) : List Nat :=
  if v.isCb then (countUp 0 64).map fun j => cbEntry kind kb (codeAt l j)
  else (countUp 0 64).map fun j => elemOf (v.widthA fn) l j

/-- A value of B as an operand of a float form: a KIND 1 entry is an exact integer. -/
def floatB (v : MOp) (kind : Bool) (x : Nat) : XR × FFlags :=
  if v.isCb && kind then
    let n := signedOf 8 x
    (.fin (decide (n < 0)) n.natAbs 0, 0#5)
  else bfElem x

/-- One FP32 element's update by a group (09 R194). -/
def mmaFloat (c : Nat) (a : List (Option Nat)) (b : List (XR × FFlags)) (sa sb : XR × FFlags) : Nat × FFlags :=
  let pairs := a.zip b
  let prods := pairs.filterMap fun p => p.1.map fun x => (decF 7 x, p.2.1)
  let fl := pairs.foldl (fun f p => match p.1 with
    | some x => f ||| snanFl 7 x ||| p.2.2
    | none => f) (sa.2 ||| sb.2)
  mmaElem c prods sa.1 sb.1 fl

/-- One INT32 element's update by a group, and whether it saturated (09 R195). -/
def mmaInt (c : Nat) (a : List (Option Nat)) (b : List Nat) : Nat × Bool :=
  let t := (a.zip b).foldl (fun x p => match p.1 with
    | some y => x + signedOf 8 y * signedOf 8 p.2
    | none => x) (signedOf 32 c)
  (wrapN 32 (satI 32 t), decide (satI 32 t ≠ t))

/-- Column `j` of a list of rows. -/
def column {α : Type} (d : α) (rows : List (List α)) (j : Nat) : List α := rows.map fun r => nthD r j d

/-- A scale vector: 64 values, or ones. -/
def scaleVec (named : Bool) (l : List Byte) : List (XR × FFlags) :=
  (countUp 0 64).map fun i => if named then bfElem (elemOf 2 l i) else (.fin false 1 0, 0#5)

/-- The accumulator's words after a group, their flags, and whether any saturated. -/
def mmaGroup (v : MOp) (fn : Nat) (kind : Bool) (acc : List Nat) (rowsA : List (List (Option Nat)))
    (rowsB : List (List Nat)) (sa sb : List (XR × FFlags)) : List Nat × FFlags × Bool :=
  let cell (i j : Nat) : Nat := nthD acc (64 * i + j) 0
  if v.isInt fn then
    let r := ((countUp 0 64).zip rowsA).flatMap fun a => (countUp 0 64).map fun j =>
      mmaInt (cell a.1 j) a.2 (column 0 rowsB j)
    (r.map fun x => x.1, 0#5, r.any fun x => x.2)
  else
    let one : XR × FFlags := (.fin false 1 0, 0#5)
    let cols := (countUp 0 64).map fun j => (column 0 rowsB j).map fun x => floatB v kind x
    let r := ((countUp 0 64).zip rowsA).flatMap fun a => ((countUp 0 64).zip cols).map fun b =>
      mmaFloat (cell a.1 b.1) a.2 b.2 (nthD sa a.1 one) (nthD sb b.1 one)
    (r.map fun x => x.1, r.foldl (fun f x => f ||| x.2) 0#5, false)

/-! Steps. -/

/-- What a step of the sequencer comes to: done with the new record and how many slots it pops of A's and of B's tile;
waiting for a peck or a slot; or a TILE_FAULT. -/
inductive SeqOut where
  | done (s : State) (q : SeqSt) (popA popB : Nat)
  | wait (h p b : Nat)
  | slot
  | fault (h i1 i2 : Nat)

/-- Slots of R rows that an operand of `rows` rows gives up with step `g`, of `per` rows a step. -/
def slotPops (r rows per g : Nat) : Nat :=
  ((countUp 0 (ceilDiv rows r)).filter fun q => (min ((q + 1) * r) rows - 1) / per == g).length

/-- The first row of A whose sparse mask does not hold N ones. -/
def State.badMask (s : State) (c : Nat) (v : MOp) (fn : Nat) (ta : Tile) (q : SeqSt) (g : Nat) : Option Nat :=
  if fn ≠ 3 then none
  else (countUp 0 64).find? fun i => match readsA v fn ta q g i with
    | m :: _ => popCount (ofBytes (s.seqBytes c m)) 48 != v.stored
    | [] => false

/-- Does a thread's step touch outside offsets? They go to its TOOR; a follow-on `mma` has none (02 R50, R51). -/
def State.seqNote (s : State) (q : SeqSt) (write : Bool) (l : List SeqRead) : State :=
  if q.follow.isSome then s else l.foldl (fun s r => s.noteOutside r.t write r.h r.p r.b r.n) s

/-- The entry of a tile that an instruction needs: of the scale tile only when a scale is named. -/
def Core.needTile (k : Core) (need : Bool) (h : Nat) (d : Tile) : Option Tile := if need then k.tile h else some d

/-- Step `g` of an `mma` (13 R285, R286). -/
def State.mmaStep (s : State) (c : Nat) (fn : Nat) (v : MOp) (q0 : SeqSt) : SeqOut :=
  let k := s.core c
  let g := q0.step
  match k.tile v.x2.toNat, k.tile v.x3.toNat with
  | none, _ => .fault v.x2.toNat 0 0
  | _, none => .fault v.x3.toNat 0 0
  | some ta, some tb =>
    match k.needTile (v.sav || v.sbv) v.sh.toNat ta with
    | none => .fault v.sh.toNat 0 0
    | some ts =>
      let q := if g = 0 then { q0 with h0a := ta.head, h0b := tb.head } else q0
      let la := (countUp 0 64).map fun i => readsA v fn ta q g i
      let lb := (countUp 0 48).map fun r => readB v fn tb q g r
      let ls := readsScale v ts
      let all := la.flatten ++ lb ++ ls
      match s.seqEmpty c all with
      | some e => .wait e.1 e.2.1 e.2.2
      | none =>
        match s.badMask c v fn ta q g with
        | some i => .fault v.x2.toNat i g
        | none =>
          let popA := if ta.isRing && g + 1 == v.groups fn then ceilDiv 64 ta.slotRows else 0
          let popB := if tb.isRing then slotPops tb.slotRows (48 * v.groups fn) 48 g else 0
          if ta.occ < popA || tb.occ < popB then .slot
          else
            let rowsA := la.map fun l => rawA v fn (l.map fun r => s.seqBytes c r)
            let rowsB := lb.map fun r => rawB v fn q.kb q.kbKind (s.seqBytes c r)
            let sc (b : Nat) : List Byte := s.tileRead ts c v.srow.toNat b 128
            let r := mmaGroup v fn q.kbKind (k.accWords v.x1.toNat 0 4096) rowsA rowsB
              (scaleVec v.sav (sc 0)) (scaleVec v.sbv (sc 128))
            let s1 := (s.updCore c fun k =>
              let k1 := k.setAcc v.x1.toNat 0 r.1
              { k1 with asat := if r.2.2 then k1.asat ||| (1#8 <<< v.x1.toNat) else k1.asat }).seqNote q false all
            .done s1 { q with step := g + 1, flags := q.flags ||| r.2.1 } popA popB

/-- The bytes of an accumulator row in a tile (13 Table 13.7). -/
def accBytes (ty : Ty) : Nat := match ty with
  | .i8 => 64
  | .bf16 => 128
  | _ => 256

/-- A tile row as accumulator words, with flags. -/
def rowToAcc (ty : Ty) (l : List Byte) : List (Nat × FFlags) :=
  (countUp 0 64).map fun j => match ty with
    | .i8 => (wrapN 32 (signedOf 8 (elemOf 1 l j)), 0#5)
    | .bf16 => bf16ToF32 (elemOf 2 l j)
    | _ => (elemOf 4 l j, 0#5)

/-- Accumulator words as the bytes of a tile row, with flags. -/
def accToRow (ty : Ty) (rnd : Nat) (l : List Nat) : List Byte × FFlags :=
  let r : List (List Byte × FFlags) := l.map fun w => match ty with
    | .i8 => (toBytes (wrapN 8 (satI 8 (signedOf 32 w))) 1, 0#5)
    | .bf16 => let y := f32ToBf16 rnd w; (toBytes y.1 2, y.2)
    | _ => (toBytes w 4, 0#5)
  (r.flatMap fun x => x.1, r.foldl (fun f x => f ||| x.2) 0#5)

/-- Row `i` of an `aload` (13 R287). -/
def State.aloadStep (s : State) (c : Nat) (v : AccOp) (q : SeqSt) : SeqOut :=
  match (s.core c).tile v.x2.toNat with
  | none => .fault v.x2.toNat 0 0
  | some t =>
    let r : SeqRead := ⟨v.x2.toNat, t, q.va + q.step, 0, accBytes v.ty⟩
    match s.seqEmpty c [r] with
    | some e => .wait e.1 e.2.1 e.2.2
    | none =>
      let w := rowToAcc v.ty (s.seqBytes c r)
      .done ((s.updCore c fun k => k.setAcc v.x1.toNat (64 * q.step) (w.map fun x => x.1)).seqNote q false [r])
        { q with step := q.step + 1, flags := w.foldl (fun f x => f ||| x.2) q.flags } 0 0

/-- The row that `astore` or `adrain` reads, as bytes, and the accumulator after it. -/
def State.takeRow (s : State) (c : Nat) (v : AccOp) (q : SeqSt) : (List Byte × FFlags) × State :=
  let r := accToRow v.ty v.rnd.toNat ((s.core c).accWords v.x1.toNat (64 * q.step) 64)
  (r, if v.zr then s.updCore c fun k => k.setAcc v.x1.toNat (64 * q.step) (List.replicate 64 0) else s)

/-- Row `i` of an `astore` (13 R287). -/
def State.astoreStep (s : State) (c : Nat) (v : AccOp) (q : SeqSt) : SeqOut :=
  match (s.core c).tile v.x2.toNat with
  | none => .fault v.x2.toNat 0 0
  | some t =>
    let r := s.takeRow c v q
    .done ((r.2.tileWrite t c (q.va + q.step) 0 r.1.1).seqNote q true [⟨v.x2.toNat, t, q.va + q.step, 0, accBytes v.ty⟩])
      { q with step := q.step + 1, flags := q.flags ||| r.1.2 } 0 0

/-- Row `i` of an `adrain` (13 R288): it is read and sent. -/
def State.adrainStep (s : State) (c : Nat) (v : AccOp) (q : SeqSt) : SeqOut :=
  let r := s.takeRow c v q
  let t := s.ctx c q.ctx
  let m : RowMsg :=
    { core := bitsOf q.va 19 0, handle := v.x2.toNat, row := bitsOf q.va 29 20 + q.step, data := r.1.1, lcv := bitOf q.va 34,
      lc := bitsOf q.va 33 30, tag := bitsOf q.vb 63 48, hnd := bitsOf q.vb 47 0, src := s.gcore c, par := v.par,
      space := t.space, org := t.origin, id := q.did, total := 64 }
  .done (r.2.post (m.core / 256) { kind := .thread, core := s.gcore c, idx := q.ctx } q.did (.row m))
    { q with step := q.step + 1, flags := q.flags ||| r.1.2 } 0 0

/-- Row of a `tzero` (12 Table 12.6): the rows that lie in the shape. -/
def State.tzeroStep (s : State) (c h : Nat) (q : SeqSt) : SeqOut :=
  match (s.core c).tile h with
  | none => .fault h 0 0
  | some t =>
    .done (s.tileWrite t c (q.va + q.step) 0 (List.replicate t.rowBytes 0#8)) { q with step := q.step + 1 } 0 0

/-- Steps of the instruction in the sequencer (08 Table 8.3). -/
def SeqSt.steps (q : SeqSt) : Nat :=
  match mmaOf q.i with
  | some (fn, v) => v.groups fn
  | none => match q.i with
    | .tzero .. => q.vb
    | _ => 64

/-- The next step of the instruction in the sequencer. -/
def State.seqTry (s : State) (c : Nat) (q : SeqSt) : SeqOut :=
  match mmaOf q.i with
  | some (fn, v) => s.mmaStep c fn v q
  | none => match q.i with
    | .aload _ _ v => s.aloadStep c v q
    | .astore _ _ v => s.astoreStep c v q
    | .adrain _ _ _ v => s.adrainStep c v q
    | .tzero _ _ _ h => s.tzeroStep c h.toNat q
    | _ => .done s q 0 0

/-- `n` slots of a ring are popped, one after another. -/
def State.popSlots (s : State) (c h : Nat) : Nat → State
  | 0 => s
  | n + 1 => match (s.core c).tile h with
    | some t => (s.ringPop c h t).popSlots c h n
    | none => s

/-- The handles of the two operand tiles. -/
def mmaTiles (i : Instr) : Nat × Nat :=
  match mmaOf i with
  | some (_, v) => (v.x2.toNat, v.x3.toNat)
  | none => (0, 0)

/-- SEQUENCER_STEP (08 R179, R180; 13 R286): the next step of the core's sequencer retires, waits, or faults. `fin` ends a
follow-on `mma` with its flags and a status. -/
def State.seqStep (s0 : State) (c : Nat) (fin : FollowMsg → Nat → Nat → State → State) : State :=
  match (s0.core c).seq with
  | none => s0
  | some q =>
    let s := if q.follow.isSome then s0 else { s0 with cur := (c, q.ctx) }
    match s.seqTry c q with
    | .fault h i1 i2 =>
      match q.follow with
      | some m => fin m q.flags.toNat Cause.tileFault.code (s.freeSeq c)
      | none => (s.releaseSeq c).trap .tileFault h i1 i2
    | .slot => s
    | .wait h p b =>
      if q.follow.isSome then s
      else
        let s1 := s.startLimit s.cx.fillLimit.toNat fun n => .fillWaitExpired c q.ctx n
        s1.updCx fun t => { t with cw := some (h, p, b, noRequest) }
    | .done s1 q1 pa pb =>
      let s2 := (s1.popSlots c (mmaTiles q.i).1 pa).popSlots c (mmaTiles q.i).2 pb
      let s3 := s2.updCore c fun k => { k with seq := some q1 }
      let s4 := if q.follow.isSome then s3 else s3.updCx Ctx.endWait
      if q1.step < q1.steps then s4.kickSeq c
      else match q.follow with
        | some m => fin m q1.flags.toNat 0 (s4.freeSeq c)
        | none => ((s4.freeSeq c).updCx fun t => t.orFlags q1.flags).retire q.i.bytes

/-! Issue. -/

/-- The sequencer takes an instruction of the issuing thread: from its recorded step when it is the one that was
interrupted, else from step 0 (08 R180). -/
def State.startSeq (s : State) (i : Instr) (va vb : Nat) (cb : Bool × List Nat) : State :=
  let t := s.cx
  let n := s.newId
  let fresh : SeqSt :=
    { ctx := s.mx, i := i, pc := t.pc, step := 0, h0a := 0, h0b := 0, va := va, vb := vb, flags := 0#5, kb := cb.2, kbKind := cb.1,
      did := n.1, follow := none }
  let q := match t.seqSave.find? fun q => q.inner == t.held && q.i == i && q.pc == t.pc with
    | some q => { q with ctx := s.mx }
    | none => fresh
  let s1 := (n.2.updCx fun t => t.recordSeq none).updCore s.me fun k => { k with seq := some q }
  (s1.block .seq).kickSeq s.me

/-- Does the issuing thread's group hold an accumulator? Otherwise VPOOL (13 R268). -/
def State.withAcc (s : State) (a : Nat) (k : State → State) : State :=
  if bitOf ((s.core s.me).grantOf s.cx) a then k s else s.vpool a

/-- The handle with which an `mma` faults at issue (13 R286). -/
def Core.mmaFault (k : Core) (fn : Nat) (v : MOp) (va vb : Nat) (kind : Bool) : Option Nat :=
  match k.tile v.x2.toNat, k.tile v.x3.toNat with
  | none, _ => some v.x2.toNat
  | _, none => some v.x3.toNat
  | some ta, some tb =>
    match k.needTile (v.sav || v.sbv) v.sh.toNat { ta with kind := 0 } with
    | none => some v.sh.toNat
    | some ts =>
      if ta.isRing && va != 0 then some v.x2.toNat
      else if tb.isRing && vb != 0 then some v.x3.toNat
      else if ta.isRing && v.x2 == v.x3 then some v.x3.toNat
      else if ts.isRing then some v.sh.toNat
      else if fn = 1 && v.isCb && !kind then some 0
      else none

/-- An `mma` issues: its checks, then the sequencer (13 R284, R286). -/
def mmaIssue (i : Instr) (h : Hd) (a b : Opd) (fn : Nat) (v : MOp) (s : State) : Res :=
  issue i h { a := some a, b := some b } none anyMode
    (fun x s => s.withAcc v.x1.toNat fun s =>
      let go (cb : Bool × List Nat) : State :=
        match (s.core s.me).mmaFault fn v x.a.toNat x.b.toNat cb.1 with
        | some hd => s.tileFault hd
        | none => s.startSeq i x.a.toNat x.b.toNat cb
      if v.isCb then s.withCodebook v.x4.toNat go else go (false, [])) s

/-- `mma.bf16` (13 R286). -/
def execMmaBf16 (h : Hd) (a b : Opd) (v : MOp) (s : State) : Res := mmaIssue (.mmaBf16 h a b v) h a b 0 v s
/-- `mma.i8` and `mma.i8.c4` (13 R286). -/
def execMmaI8 (h : Hd) (a b : Opd) (v : MOp) (s : State) : Res := mmaIssue (.mmaI8 h a b v) h a b 1 v s
/-- `mma.cb` (13 R286). -/
def execMmaCb (h : Hd) (a b : Opd) (v : MOp) (s : State) : Res := mmaIssue (.mmaCb h a b v) h a b 2 v s
/-- `mma.sp` (13 R286). -/
def execMmaSp (h : Hd) (a b : Opd) (v : MOp) (s : State) : Res := mmaIssue (.mmaSp h a b v) h a b 3 v s

/-- `azero` (13 R287): it completes at once. -/
def execAzero (h : Hd) (v : AccOp) (s : State) : Res :=
  issue (.azero h v) h {} none anyMode
    (fun _ s => s.withAcc v.x1.toNat fun s =>
      (s.updCore s.me fun k => k.setAcc v.x1.toNat 0 (List.replicate 4096 0)).retire (Instr.azero h v).bytes) s

/-- `aload` (13 R287). -/
def execAload (h : Hd) (a : Opd) (v : AccOp) (s : State) : Res :=
  let i : Instr := .aload h a v
  issue i h { a := some a } none anyMode
    (fun x s => s.withAcc v.x1.toNat fun s => s.withTile v.x2.toNat fun _ => s.startSeq i x.a.toNat 0 (false, [])) s

/-- `astore` (13 R287). -/
def execAstore (h : Hd) (a : Opd) (v : AccOp) (s : State) : Res :=
  let i : Instr := .astore h a v
  issue i h { a := some a } none anyMode
    (fun x s => s.withAcc v.x1.toNat fun s => s.withTile v.x2.toNat fun _ => s.startSeq i x.a.toNat 0 (false, [])) s

/-- `adrain` (13 R288). -/
def execAdrain (h : Hd) (a b : Opd) (v : AccOp) (s : State) : Res :=
  let i : Instr := .adrain h a b v
  issue i h { a := some a, b := some b } none anyMode
    (fun x s => s.withAcc v.x1.toNat fun s =>
      if fld x.a 63 35 ≠ 0 then s.structError x.a.toNat 3
      else if fld x.b 1 0 ≠ 0 then s.structError x.b.toNat 3
      else s.startSeq i x.a.toNat x.b.toNat (false, [])) s

/-- `tzero` (12 Table 12.6): it holds the sequencer for the rows that lie in the shape. -/
def execTzero (h : Hd) (a b : Opd) (t : BitVec 6) (s : State) : Res :=
  let i : Instr := .tzero h a b t
  issue i h { a := some a, b := some b } none anyMode
    (fun x s => s.withTile t.toNat fun e =>
      let r := s.rowsOf e t.toNat x.a.toNat x.b.toNat
      if r.1.isEmpty then r.2.retire i.bytes else r.2.startSeq i x.a.toNat r.1.length (false, [])) s

/-! Drained rows at their target (13 R288). -/

/-- All the rows of a drain have been written: the counter, then the handler notice. -/
def State.drainEnd (s : State) (c : Nat) (m : RowMsg) (bad : Bool) : State :=
  let s1 := if m.lcv then s.lcAdd c (lcKey ((s.core c).tileSet m.handle) m.lc) 1 else s
  let s2 := if bad then s1.failBoth
      { org := m.org, source := 0, code := Cause.tileFault.code, space := m.space, addr := 0, hcube := s.cubeId, local_ := 0,
        ident := m.handle, detail := m.row }
    else s1
  if m.hnd = 0 then s2
  else s2.emit (.inboxArrival c
    { kind := 2, src := m.src, par := m.par, len := 0, tag := m.tag, hnd := m.hnd, space := m.space, tile := 64 + m.handle,
      body := [], acq := none, org := m.org, ident := m.id, mig := none, waiter := none })

/-- DRAIN_ROW (13 R288, 02 R51): a row is written; a handle that names no tile of the core loses it. -/
def doDrainRow (r : RowMsg) (s : State) : State :=
  let c := r.core % 256
  let e := (s.core c).tile r.handle
  let s1 := match e with
    | some t => s.tileWrite t c r.row 0 r.data
    | none => s
  let mine (d : Nat × Nat × Nat × Bool) : Bool := d.1 == r.src && d.2.1 == r.id
  let old := s1.drains.find? mine
  let n := (old.map fun d => d.2.2.1).getD 0 + 1
  let bad := (old.map fun d => d.2.2.2).getD false || e.isNone
  let rest := s1.drains.filter fun d => !mine d
  if n < r.total then { s1 with drains := rest ++ [(r.src, r.id, n, bad)] }
  else { s1 with drains := rest }.drainEnd c r bad

/-! Follow-on `mma` (14 R299). -/

/-- The instruction of a word of Table 14.5. -/
def followInstr (w : Nat) : Option Instr :=
  let f (hi lo : Nat) : Nat := bitsOf w hi lo
  match Ty.ofCode (BitVec.ofNat 4 (f 61 58)) with
  | none => none
  | some ty =>
    let v : MOp :=
      { x1 := BitVec.ofNat 6 (f 57 55), x2 := BitVec.ofNat 6 (f 54 49), x3 := BitVec.ofNat 6 (f 48 43),
        x4 := BitVec.ofNat 6 (f 42 40), ty := ty, spn := bitOf w 19, sav := bitOf w 18, sbv := bitOf w 17,
        sh := BitVec.ofNat 6 (f 16 11), srow := BitVec.ofNat 10 (f 10 1) }
    let hd : Hd := { pneg := false, pred := 0#3, lit := none }
    let i : Instr := match f 63 62 with
      | 0 => .mmaBf16 hd .z .z v
      | 1 => .mmaI8 hd .z .z v
      | 2 => .mmaCb hd .z .z v
      | _ => .mmaSp hd .z .z v
    if bitOf w 0 || !i.wf then none else some i

/-- The group that holds an accumulator of a core. -/
def Core.accHolder (k : Core) (a : Nat) : Option Nat := (k.groups.find? fun g => bitOf g.2.accs a).map fun g => g.1

/-- Is a group suspended: are all its members? -/
def Core.groupSuspended (k : Core) (g : Nat) : Bool :=
  (k.group g).members.all fun x => (k.ctx x).cstate == .suspended

/-- May a follow-on `mma` run now? It waits while the group that holds its accumulator, or that held it until its full suspension,
is suspended (14 R299). -/
def Core.mayFollow (k : Core) (m : FollowMsg) : Bool :=
  let a := bitsOf m.word 57 55
  match k.accHolder a with
  | some g => !k.groupSuspended g
  | none => !(k.groups.any fun g => bitOf g.2.saved a)

/-- FOLLOW_ON_MMA (14 R299): a word arrives; the first that may run takes the sequencer when it is idle. -/
def State.followOn (s : State) (c : Nat) (m : Option FollowMsg) (fin : FollowMsg → Nat → Nat → State → State) : State :=
  let s1 := s.updCore c fun k => { k with follows := k.follows ++ m.toList }
  let k := s1.core c
  if k.seq.isSome then s1
  else match k.follows.find? k.mayFollow with
    | none => s1
    | some f =>
      let s2 := s1.updCore c fun k => { k with follows := k.follows.erase f }
      let more (s : State) : State := if (s.core c).follows.isEmpty then s else s.emit (.followOnMma c none)
      match k.accHolder (bitsOf f.word 57 55), followInstr f.word with
      | some _, some i =>
        match mmaOf i with
        | none => more s2
        | some (fn, v) =>
          let cb := k.codebook v.x4.toNat
          let va := bitsOf f.word 39 30
          let vb := bitsOf f.word 29 20
          match k.mmaFault fn v va vb cb.1 with
          | some _ => more (fin f 0 Cause.tileFault.code s2)
          | none =>
            let q : SeqSt :=
              { ctx := 32, i := i, pc := 0#64, step := 0, h0a := 0, h0b := 0, va := va, vb := vb, flags := 0#5, kb := cb.2,
                kbKind := cb.1, did := 0, follow := some f }
            (s2.updCore c fun k => { k with seq := some q }).kickSeq c
      | _, _ => more (fin f 0 0x44 s2)

end Sys2Proof.Machine
end

