-- ==== Sys2Proof/Machine/Threads.lean ====
section
/-! DEFINITION. Threads, groups, starts, launches, the inbox and migration (07 R148 to R168). -/

namespace Sys2Proof.Machine

/-! Completion adds. -/

/-- A completion add to a counter address, translated as an engine's when it is made (08 R174); a failure is recorded for
`org`, whose context 99 stands for no issuer. -/
def State.counterAdd (s : State) (space va v : Nat) (org : Origin) (ident : Nat) : State :=
  s.requestVa
    { who := { kind := .taskUnit, core := s.cubeId * 256, idx := 0 }, id := 0, org := org, space := space, va := va,
      task := true, act := .counter 0 v, words := wordMask va 8, cube := s.cubeId }
    (.add ident (org.ctx != 99))

/-! What is free on a core. -/

/-- The free contexts that a start may take, lowest first: not 31, and none that the task unit holds (08 R176). -/
def Core.freeCtxs (k : Core) : List Nat :=
  (countUp 0 31).filter fun x => (k.ctx x).cstate == .free && !(k.reserved.any fun r => r.1 == x)
/-- Is a group slot free? -/
def Core.slotFree (k : Core) (g : Nat) : Bool :=
  (k.group g).members.isEmpty && (k.group g).accs == 0 && !(k.reserved.any fun r => r.2.1 == g)
/-- Are the accumulators of a mask held by no group and held for no task? -/
def Core.accsFree (k : Core) (mask : Nat) : Bool :=
  (k.groups.all fun g => g.2.accs &&& mask == 0) && k.reserved.all fun r => r.2.2 &&& mask == 0

/-! Groups. -/

/-- A group is created (07 R154): its accumulators and counter set are zeroed, its ASAT bits cleared. -/
def Core.makeGroup (k : Core) (g accs : Nat) (members : List Nat) : Core :=
  let gone (a : Nat) : Bool := bitOf accs a
  { k with
    groups := tblSet k.groups g { members := members, accs := accs }
    acc := k.acc.filter fun e => !gone (e.1 / 4096)
    asat := k.asat &&& ~~~(BitVec.ofNat 8 accs)
    lcs := k.lcs.filter fun e => e.1 / 16 != g }

/-- A group ends (07 R154): its blocks return, its accumulators are free, its remaining tiles are freed. -/
def State.endGroup (s : State) (c g : Nat) : State :=
  let s1 := (s.freeTiles c fun _ t => t.ownk == 0 && t.ownid == g).ownerEnds c true g
  let s2 := s1.updCore c fun k => { k with groups := tblDel k.groups g, claims := k.claims.filter fun q => q.group != g }
  let s3 := if (s2.core c).claims.isEmpty then s2 else s2.emit (.vclaimServe c)
  if (s3.core c).follows.isEmpty then s3 else s3.emit (.followOnMma c none)

/-- A thread leaves its group; the last member's exit ends it. -/
def State.leaveGroup (s : State) (c x g : Nat) : State :=
  let left := ((s.core c).group g).members.erase x
  if left.isEmpty then s.endGroup c g
  else s.updCore c fun k => k.updGroup g fun q => { q with members := left }

/-! Starts. -/

/-- STATUS of a started thread (07 Table 7.1, Table 7.3). -/
def startStatus (gcore x : Nat) (q : StartReq) : Word :=
  BitVec.ofNat 64 (putBits q.space 48 16 + putBits (if q.kind = 4 then 1 else 0) 46 2 + putBits q.stage 43 3
    + (match q.group with
        | some g => 2 ^ 42 + putBits g 39 3
        | none => 0)
    + putBits q.cls 37 2 + putBits q.kind 32 3 + putBits gcore 12 20 + putBits x 7 5)

/-- The g registers from their values, g0 first. -/
def regTbl (l : List Nat) : Tbl Word :=
  ((countUp 0 16).zip l).foldl (fun t e => memSet t e.1 (BitVec.ofNat 64 e.2)) []

/-- Is local counter set 8 in use by a thread without a group or a tile of one (07 R153)? A shadow entry does not count as a
tile that is valid here (DESIGN CHOICE, log entry 113). -/
def Core.set8Used (k : Core) : Bool :=
  (k.ctxs.any fun p => p.2.cstate != .free && !p.2.gv) || k.tiles.any fun t => t.2.kind != 2 && t.2.ownk != 0

/-- A thread starts in a context (07 R155): every register has its start value, REGION.SERIAL the next one as soon as that half
of the serials is free of tags (04 R87), and the context's start number rises (16 R342). -/
def State.startThread (s : State) (c x : Nat) (q : StartReq) : State :=
  let old := s.ctx c x
  let t : Ctx := { old.freed with
    cstate := .active
    g := regTbl q.regs
    pc := BitVec.ofNat 64 q.entry
    status := startStatus (s.gcore c) x q
    startNo := old.startNo + 1#16
    ostart := old.startNo + 1#16
    record := q.record }
  let s1 := if q.group.isNone && !(s.core c).set8Used then
      s.updCore c fun k => { k with lcs := k.lcs.filter fun e => e.1 / 16 != 8 }
    else s
  let s2 := ((s1.setCtx c x t).reachBoundary c x).readDescriptor c x
  match q.acq with
  | some sc => s2.acquire c sc
  | none => s2

/-- The contexts that the starts of a wake take: the one held for a start, else the lowest free one. -/
def assignCtxs : List Nat → List StartReq → Option (List Nat)
  | _, [] => some []
  | free, q :: r =>
    match q.ctx with
    | some x => (assignCtxs free r).map fun l => x :: l
    | none => match free with
      | x :: f => (assignCtxs f r).map fun l => x :: l
      | [] => none

/-- The groups that a wake creates: slot and accumulators. -/
def wakeGroups (l : List StartReq) : List (Nat × Nat) := (l.filterMap fun q => q.group.map fun g => (g, q.accs)).eraseDups

/-- Do the groups of a wake ask for different accumulators? -/
def disjointGroups : List (Nat × Nat) → Bool
  | [] => true
  | g :: r => (r.all fun x => x.1 != g.1 && x.2 &&& g.2 == 0) && disjointGroups r

/-- May a wake's threads start: enough contexts, the group slots and the accumulators (07 R154)? What the task unit holds
for a start counts as free for it. -/
def Core.startable (k0 : Core) (l : List StartReq) : Option (List Nat) :=
  let held := l.filterMap fun q => q.ctx
  let k := { k0 with reserved := k0.reserved.filter fun r => !held.contains r.1 }
  if disjointGroups (wakeGroups l) && (wakeGroups l).all fun g => k.slotFree g.1 && k.accsFree g.2 then assignCtxs k.freeCtxs l else none

/-- The threads of a wake start together. -/
def State.startWake (s : State) (c : Nat) (l : List StartReq) (xs : List Nat) : State :=
  let pairs := l.zip xs
  let held := l.filterMap fun q => q.ctx
  let s1 := s.updCore c fun k =>
    (wakeGroups l).foldl (fun k g =>
      k.makeGroup g.1 g.2 ((pairs.filter fun p => p.1.group == some g.1).map fun p => p.2))
      { k with reserved := k.reserved.filter fun r => !held.contains r.1 }
  pairs.foldl (fun s p => s.startThread c p.2 p.1) s1

/-- Is the cluster of a core powered (17 R362)? -/
def State.clusterUp (s : State) (c : Nat) : Bool := decide (c / 16 < s.svc.powered)

/-- The wake that is looked at next: one for which the task unit holds all that it needs does not wait for others (DEDUCED
from 07 R170, log entry 121), else the one that has waited longest. -/
def Core.nextWake (k : Core) : Option (List StartReq) :=
  match k.starts.find? fun l => l.all fun q => q.ctx.isSome with
  | some l => some l
  | none => k.starts.head?

/-- START_WAIT_RETRY (07 R154; 17 R362): the wake that comes next starts when it can; later ones wait behind it,
and all wait for the cluster to be powered. The task unit hears of a chunk's start (08 R177). -/
def doStartWaitRetry (core : Nat) (s : State) : State :=
  match (s.core core).nextWake with
  | none => s
  | some l =>
    if !s.clusterUp core then s
    else match (s.core core).startable l with
    | none => s
    | some xs =>
      let s1 := (s.updCore core fun k => { k with starts := k.starts.erase l }).startWake core l xs
      let s2 := s1.emits (l.filterMap fun q => match q.record with
        | .chunk _ _ _ seq _ => some (.taskDispatch seq)
        | _ => none)
      if (s2.core core).starts.isEmpty then s2 else s2.emit (.startWaitRetry core)

/-- A wake reaches a core: it starts, or waits behind those that wait. -/
def State.wakeCore (s : State) (c : Nat) (l : List StartReq) : State :=
  (s.updCore c fun k => { k with starts := k.starts ++ [l] }).emit (.startWaitRetry c)

/-! Launches (07 R156, R157). -/

/-- A CLASS of 0 or 3 is taken as 1 (07 R155). -/
def startClass (c : Nat) : Nat := if c = 2 then 2 else 1

/-- The starts of stage `st` of a launch block on a core; `key` names the core's record of the launch. -/
def launchStage (m : LaunchMsg) (gcore key st : Nat) : List StartReq :=
  let lb (i : Nat) : Nat := nthD m.words i 0
  let e := lb (5 + st)
  (countUp 0 (bitsOf e 4 0)).map fun j =>
    { kind := 0, entry := (bitsOf (lb 0) 47 0 + 4 * bitsOf e 39 24) % 2 ^ 48, stage := st, cls := startClass (bitsOf e 15 14),
      space := m.space, regs := [gcore, st, bitsOf (lb 1) 47 0, lb 4, j],
      group := if bitOf e 13 then some (bitsOf e 12 10) else none, accs := bitsOf e 23 16, acq := m.acq,
      record := .launch key, ctx := none }

/-- The wake of a launch reaches a selected core: its threads start together, or, with none, the counter rises at
once. -/
def State.launchCore (s : State) (m : LaunchMsg) (c : Nat) : State :=
  let cctr := bitsOf (nthD m.words 2 0) 47 0
  let n := s.newId
  let l := (countUp 0 8).flatMap fun st => launchStage m (s.gcore c) n.1 st
  if l.isEmpty then s.counterAdd m.space cctr 1 m.org 0
  else
    (n.2.updCore c fun k =>
      { k with launches := k.launches ++ [{ key := n.1, left := l.length, cctr := cctr, space := m.space, org := m.org }] }).wakeCore
      c l

/-- One cube of a `launch` has answered; the last answer ends it with the number of cubes lost (14 R307). -/
def State.launchAck (s : State) (who : Agent) (id : Nat) (lost : Bool) : State :=
  match s.out who id with
  | none => s
  | some o =>
    match o.purp with
    | .cubes left n =>
      let n1 := n + b2n lost
      if left ≤ 1 then
        let s1 := s.dropOut id
        match (s1.ctx (who.core % 256) who.idx).tag id with
        | some g => s1.tagDone (who.core % 256) who.idx g (BitVec.ofNat 64 n1)
        | none => s1
      else s.updOut id fun o => { o with purp := .cubes (left - 1) n1 }
    | _ => s

/-- LAUNCH_WAKE (07 R157): the selected cores of the cube receive the wake in increasing order. -/
def doLaunchWake (m : LaunchMsg) (s : State) : State :=
  let lb3 := nthD m.words 3 0
  let cores := (countUp 0 256).filter fun c => bitOf lb3 (24 + c / 16) && bitOf lb3 (8 + c % 16)
  let s1 := cores.foldl (fun s c => s.launchCore m c) s
  if m.who.cube = s.cubeId then s1.launchAck m.who m.id false else s1

/-! Exit (07 R152). -/

/-- The handles of a task's footprint tiles on its core are freed, then its completion adds made (07 R152, 02 R52). -/
def State.taskEnd (s : State) (c seq : Nat) : State :=
  match s.tu.running.find? fun e => e.seq == seq with
  | none => s
  | some e =>
    let w (i : Nat) : Nat := nthD e.msg.words i 0
    let s1 := s.freeTiles c fun h t => t.ownk == 2 && t.ownid == e.ctx && decide (60 ≤ h)
    let s2 := { s1 with tu := { s1.tu with running := s1.tu.running.filter fun x => x.seq != seq } }
    let add (i : Nat) (s : State) : State :=
      if bitOf (w 0) (48 + i) then
        s.counterAdd (bitsOf (w 1) 63 48) (bitsOf (w (10 + i)) 47 0) (bitsOf (w (10 + i)) 63 48) e.msg.org seq
      else s
    add 1 (add 0 s2)

/-- The completion work of a start, at its origin core (07 R152). -/
def State.complete (s : State) (c : Nat) (r : StartRec) : State :=
  match r with
  | .launch key =>
    match (s.core c).launches.find? fun l => l.key == key with
    | none => s
    | some l =>
      if l.left ≤ 1 then
        (s.updCore c fun k => { k with launches := k.launches.filter fun l => l.key != key }).counterAdd l.space l.cctr 1 l.org 0
      else s.updCore c fun k =>
        { k with launches := k.launches.map fun l => if l.key = key then { l with left := l.left - 1 } else l }
  | .task seq => s.taskEnd c seq
  | .chunk cctr count space seq org => s.counterAdd space cctr count org seq
  | .handler _ | .spill | .none => s

/-- An `exit` retires: tiles, group, completion work, and the context is FREE. -/
def State.exitThread (s : State) (c x : Nat) : State :=
  let t := s.ctx c x
  let s1 := if t.gv then s.leaveGroup c x t.group
    else (s.freeTiles c fun _ e => e.ownk == 1 && e.ownid == x).ownerEnds c false x
  let s2 := if s.atOrigin c x then s1.complete c t.record
    else s1.post (t.ocore / 256) { kind := .thread, core := s.gcore c, idx := x } 0
      (.exitNote { core := t.ocore, ctx := t.octx, start := t.ostart.toNat })
  let s3 := (s2.updCtx c x fun t => t.boundary.freed).coreFreed c
  if x = 31 then s3.emit (.spillWake c) else s3

/-- `exit` (07 R152): after a release at system scope, and a region boundary. -/
def execExit (h : Hd) (s : State) : Res :=
  issue (.exit h) h {} none anyMode
    (fun _ s => s.atBoundary fun s => s.afterRelease 3 fun s => s.exitThread s.me s.mx) s

/-- EXIT_NOTICE (07 R152, R167): the completion work of a thread that ended elsewhere. -/
def doExitNotice (e : ExitNote) (s : State) : State :=
  let c := e.core % 256
  let t := s.ctx c e.ctx
  if t.cstate = .away && t.ostart.toNat == e.start then
    ((s.complete c t.record).updCtx c e.ctx Ctx.freed).coreFreed c
  else s

/-! The inbox (07 R160 to R164). -/

/-- Inbox slots in use: those of arrivals that wait, and that an `mpop` is writing out. -/
def Core.slots (k : Core) : Nat := k.inbox.length + k.popping.length

/-- The `replay` that waited for an arrival's slot goes on. -/
def State.slotTaken (s : State) (c : Nat) (a : Arrival) : State :=
  match a.waiter with
  | some (x, id) => match (s.ctx c x).tag id with
    | some g => s.tagDone c x g 0#64
    | none => s
  | none => s

/-- SPILL_WAKE (07 R163, R164): with the inbox full, EN = 1 and context 31 FREE, the spill thread starts. -/
def doSpillWake (core : Nat) (s : State) : State :=
  let k := s.core core
  if bitOf k.spillCtl.toNat 0 && (k.ctx 31).cstate == .free && decide (64 ≤ k.slots) then
    s.startThread core 31
      { kind := 4, entry := k.spillEntry.toNat, stage := 0, cls := 0, space := fld k.spillCtl 63 48,
        regs := [s.gcore core, k.slots, k.spillHeap.toNat], group := none, accs := 0, acq := none, record := .spill,
        ctx := none }
  else s

/-- INBOX_ARRIVAL (07 R160, R164): a slot is taken in arrival order; a full inbox holds the arrival at the port. -/
def doInboxArrival (core : Nat) (a : Arrival) (s : State) : State :=
  let c := core % 256
  let k := s.core c
  if k.slots < 64 && k.held.isEmpty then
    let s1 := ((s.setCore c { k with inbox := k.inbox ++ [a] }).slotTaken c a).emit (.handlerStart c)
    if k.slots = 63 then s1.emit (.spillWake c) else s1
  else (s.setCore c { k with held := k.held ++ [a] }).emit (.spillWake c)

/-- INBOX_HELD_RETRY (07 R164): a freed slot goes to the arrival held longest. -/
def doInboxHeldRetry (core : Nat) (s : State) : State :=
  let k := s.core core
  match k.held with
  | [] => if s.migWait.isEmpty then s else s.emit (.migratingContextArrival none)
  | a :: rest =>
    if k.slots < 64 then
      let s1 := ((s.setCore core { k with inbox := k.inbox ++ [a], held := rest }).slotTaken core a).emits
        [.handlerStart core, .inboxHeldRetry core]
      if k.slots = 63 then s1.emit (.spillWake core) else s1
    else s.emit (.spillWake core)

/-- A slot of the inbox has been freed: what waits for one goes on. -/
def State.slotFreed (s : State) (c : Nat) : State :=
  s.emits
    (if (s.core c).held.isEmpty then (if s.migWait.isEmpty then [] else [.migratingContextArrival none])
      else [.inboxHeldRetry c])

/-- An arrival leaves its slot of the inbox. -/
def State.freeSlot (s : State) (c : Nat) (a : Arrival) : State :=
  (s.updCore c fun k => { k with inbox := k.inbox.erase a }).slotFreed c

/-- Does a PAR = 0 handler run on the core (07 R161)? -/
def Core.serialHandler (k : Core) : Bool :=
  k.ctxs.any fun p => (p.2.cstate == .active || p.2.cstate == .suspended) && p.2.record == .handler false

/-- The core's AWAY context to which a migrating thread returns (07 R167). -/
def State.awayHome (s : State) (c : Nat) (words : List Nat) : Option Nat :=
  let st := nthD words 17 0
  let x := bitsOf st 11 7
  if bitsOf st 31 12 = s.gcore c && (s.ctx c x).cstate == .away then some x else none

/-- The context that an arrival takes now. -/
def State.arrivalCtx (s : State) (c : Nat) (a : Arrival) : Option Nat :=
  let k := s.core c
  if a.kind = 3 then
    match s.awayHome c a.body with
    | some x => some x
    | none => k.freeCtxs.head?
  else if !a.par && k.serialHandler then none
  else k.freeCtxs.head?

/-- A handler starts (07 R161, Table 7.3); its STAGE is 0, as that of the spill thread (DESIGN CHOICE, log entry 116). -/
def State.startHandler (s : State) (c x : Nat) (a : Arrival) : State :=
  s.startThread c x
    { kind := 3, entry := a.hnd, stage := 0, cls := 0, space := a.space, regs := [a.src, a.tag, a.tile, a.len] ++ a.body,
      group := none, accs := 0, acq := a.acq, record := .handler a.par, ctx := none }

/-- A migrating context goes on in a context of the core (07 R166, R167). The packet of Table 7.8 carries no masks: a context that
has had another owner holds zeros in them (02 R55), the thread's own AWAY context and every trap register free values. A PAR = 0
handler does not count as one on the core it visits (DESIGN CHOICE, log entry 115). -/
def State.placeMigrant (s : State) (c x : Nat) (m : MigCtx) : State :=
  let old := s.ctx c x
  let w (i : Nat) : Nat := nthD m.words i 0
  let away := old.cstate == .away
  let fr (i : Nat) : Word := Config.freeWord (s.tick + i)
  let t : Ctx := { old.freed with
    cstate := .active
    g := regTbl (m.words.take 16)
    pc := BitVec.ofNat 64 (bitsOf (w 16) 47 0)
    status := setFld (BitVec.ofNat 64 (w 17)) 35 35 0
    flags := BitVec.ofNat 5 (bitsOf (w 18) 12 8)
    preds := BitVec.ofNat 8 (2 * bitsOf (w 18) 6 0 + 1)
    fillLimit := BitVec.ofNat 16 (bitsOf (w 18) 63 48)
    toor := BitVec.ofNat 64 (w 19)
    masks := if away then (countUp 1 7).foldl (fun l i => memSet l i (Config.freeMask (s.tick + i))) [] else []
    trapCause := setFld (fr 1) 63 8 0
    trapPc := fr 2, trapStatus := fr 3, info0 := fr 4, info1 := fr 5, info2 := fr 6
    ostart := BitVec.ofNat 16 m.start
    migrations := m.migrations
    relScope := m.relScope
    errRec := if away then old.errRec else 0#64
    errn := if away then old.errn else 0
    record := if away then old.record else .none }
  (({ s with tick := s.tick + 8 }.setCtx c x t).reachBoundary c x).readDescriptor c x

/-- HANDLER_START (07 R160, R161): the first arrival in slot order that a context can take moves into it. -/
def doHandlerStart (core : Nat) (s : State) : State :=
  let k := s.core core
  match k.inbox.find? fun a => (s.arrivalCtx core a).isSome with
  | none => s
  | some a =>
    match if s.clusterUp core then s.arrivalCtx core a else none with
    | none => s
    | some x =>
      let s1 := s.freeSlot core a
      let s2 := match a.mig with
        | some m => s1.placeMigrant core x m
        | none => s1.startHandler core x a
      if k.inbox.length ≤ 1 then s2 else s2.emit (.handlerStart core)

/-! Migration (07 R166). -/

/-- The inbox arrival of a migrating context. -/
def migArrival (m : MigCtx) : Arrival :=
  { kind := 3, src := m.fromCore, par := false, len := 160, tag := m.start, hnd := 0, space := 0, tile := 0, body := m.words,
    acq := none, org := ⟨0, 0, 0⟩, ident := 0, mig := some m, waiter := none }

/-- Can a core take a migrating context: a FREE context, or its own AWAY one, and a free inbox slot? -/
def State.takesMigrant (s : State) (m : MigCtx) (c : Nat) : Bool :=
  let k := s.core c
  decide (k.slots < 64) && k.held.isEmpty && (!k.freeCtxs.isEmpty || (s.awayHome c m.words).isSome)

/-- The core that a migrating context goes to (07 R166): the lowest core of the home vault's cluster that can take it, else the
lowest of the cube. -/
def State.migrantCore (s : State) (m : MigCtx) : Option Nat :=
  let cl := match s.layout m.pa with
    | some p => vaultOf (p.local_ / 128) / 4
    | none => 0
  firstSome [(countUp (16 * cl) 16).find? (s.takesMigrant m), (countUp 0 256).find? (s.takesMigrant m)]

/-- MIGRATING_CONTEXT_ARRIVAL (07 R166, R164): a context arrives, or a place has become free; the contexts at the port are taken
in their order of arrival, each as soon as a core can take it. -/
def doMigratingContextArrival (arrived : Option MigCtx) (s : State) : State :=
  let wait := s.migWait ++ arrived.toList
  match wait with
  | [] => s
  | m :: rest =>
    match s.migrantCore m with
    | some c =>
      let s1 := doInboxArrival c (migArrival m) { s with migWait := rest }
      if rest.isEmpty then s1 else s1.emit (.migratingContextArrival none)
    | none => { s with migWait := wait }

/-- A context packet that failed end to end is restored on the core it left: the access is then performed remotely, and a
`migrate` answers 0 (07 R166). -/
def State.restoreMigrant (s : State) (m : MigCtx) : State :=
  let words := match m.dreg with
    | some d => setNth m.words d 0
    | none => m.words
  doInboxArrival (m.fromCore % 256) (migArrival { m with words := words, migrations := 8 }) s

end Sys2Proof.Machine
end

