-- ==== Sys2Proof/Machine/Messages.lean ====
section
/-! DEFINITION. Task, message and roaming instructions (14 R290 to R293, R303, R305 to R312). -/

namespace Sys2Proof.Machine

/-! Common to engine commands. -/

/-- Is the command a synchronising instruction: has it a flag (14 R291)? -/
def flagged : Option EFlags → Bool
  | some f => f.acq || f.rel
  | none => false

/-- The scope of a command's acquire, if it asks for one. -/
def acqScope : Option EFlags → Option Nat
  | some f => if f.acq then some f.scope.toNat else none
  | none => none

/-- A flagged command is a boundary and begins with a release at its scope (14 R291). -/
def State.syncGate (s : State) (x : Option EFlags) (k : State → State) : State :=
  match x with
  | some f => if f.acq || f.rel then s.atBoundary fun s => s.afterRelease f.scope.toNat k else k s
  | none => k s

/-- The request of a command has left; its answer ends the instruction (14 R293). `va` is what a precise REMOTE_LOST
names. -/
def State.sendCmd (s : State) (bytes : Nat) (d : Opd) (va : Nat) (x : Option EFlags) : Nat × State :=
  let n := s.newId
  let t := n.2.cx
  let g := { valueTag d (t.latch.bind fun l => l.rid) 8 false va with
    id := n.1, pc := t.pc, latch := t.latch, left := true, bound := flagged x, back := some (t.preds, t.flags) }
  (n.1, n.2.setCx { t with tags := tblSet t.tags t.freeTag g, pc := t.pc + BitVec.ofNat 64 bytes, latch := none, got := [],
                           wait := .none, noticed := none, migrations := 0 })

/-- The agent that the issuing thread is. -/
def State.meAgent (s : State) : Agent := { kind := .thread, core := s.gcore s.me, idx := s.mx }

/-- A command that needs no answer retires. -/
def State.retireCmd (s : State) (bytes : Nat) (x : Option EFlags) : State :=
  if flagged x then s.retireBoundary bytes else s.retire bytes

/-- The 128 bytes of a descriptor, as 16 words, read by a `wt` load at home (14 R292). -/
def State.withDescriptor (s : State) (va : Nat) (k : List Nat → State → State) : State :=
  match s.readAt 0 va 128 1 0 false with
  | (none, s1) => s1
  | (some b, s1) => k (wordsOf b 16) s1

/-- The physical address of an access that is only translated, read as access `i` of the instruction (14 R305, R312). -/
def State.withTranslation (s : State) (i va : Nat) (k : Nat → State → State) : State :=
  if i < s.cx.got.length then k (s.cx.gotWord i) s
  else
    let x := s.newOut (s.threadReq va (.translate 0)) .buf
    (x.2.emit (.sectionLookup x.1)).block (.access x.1.id)

/-- The cube that is home of a physical address. -/
def State.cubeOf (s : State) (pa : Nat) : Nat := ((s.layout pa).map fun p => p.cube).getD s.cubeId

/-! Tasks, job cards and launches. -/

/-- A task packet or job card leaves for a task unit, and the thread waits for its sequence number. -/
def State.sendTask (s : State) (i : Instr) (d : Opd) (va cube : Nat) (job : Bool) (ws : List Nat) (x : Option EFlags) : State :=
  let org := s.cx.origin
  let who := s.meAgent
  let w1 := putBits s.cx.space 48 16 + bitsOf (nthD ws 1 0) 47 0
  let r := s.sendCmd i.bytes d va x
  r.2.post cube who r.1 (.task { who := who, id := r.1, org := org, job := job, words := setNth ws 1 w1, acq := acqScope x })

/-- `spawn` (14 R305). -/
def execSpawn (h : Hd) (d a : Opd) (x : Option EFlags) (s : State) : Res :=
  let i : Instr := .spawn h d a x
  issue i h { a := some a, d := some d } none anyMode
    (fun v s => s.syncGate x fun s => s.checkEa v.a 128 fun va =>
      s.withDescriptor va fun ws s =>
        if bitOf (nthD ws 0 0) 52 then
          s.withTranslation 1 (bitsOf (nthD ws 2 0) 47 0) fun pa s => s.sendTask i d va (s.cubeOf pa) false ws x
        else s.sendTask i d va s.cubeId false ws x) s

/-- `job` (14 R306). -/
def execJob (h : Hd) (d a b : Opd) (x : Option EFlags) (s : State) : Res :=
  let i : Instr := .job h d a b x
  issue i h { a := some a, b := some b, d := some d } none anyMode
    (fun v s =>
      if fld v.b 63 13 ≠ 0 then s.structError v.b.toNat 5
      else s.syncGate x fun s => s.checkEa v.a 128 fun va =>
        s.withDescriptor va fun ws s =>
          s.sendTask i d va (if bitOf v.b.toNat 12 then fld v.b 11 0 else s.cubeId) true ws x) s

/-- Is a launch block malformed (07 R156)? -/
def launchBad (ws : List Nat) : Bool :=
  let w (i : Nat) : Nat := nthD ws i 0
  let st := (countUp 5 8).map w
  let grouped := st.filter fun e => bitOf e 13
  bitsOf (w 0) 63 48 != 0 || bitsOf (w 1) 63 48 != 0 || bitsOf (w 2) 63 48 != 0 || bitsOf (w 3) 7 0 != 0
    || bitsOf (w 0) 1 0 != 0 || bitsOf (w 2) 2 0 != 0 || w 13 != 0 || w 14 != 0 || w 15 != 0
    || (st.any fun e => bitsOf e 63 40 != 0 || bitsOf e 9 5 != 0)
    || decide (bitsOf (w 3) 51 40 < bitsOf (w 3) 63 52)
    || decide (31 < (st.map fun e => bitsOf e 4 0).foldl (· + ·) 0)
    || (st.any fun e => !bitOf e 13 && bitsOf e 23 16 != 0)
    || grouped.any fun e => grouped.any fun f => bitsOf e 12 10 == bitsOf f 12 10 && bitsOf e 23 16 != bitsOf f 23 16

/-- `launch` (14 R307, 07 R156, R157). -/
def execLaunch (h : Hd) (d a : Opd) (x : Option EFlags) (s : State) : Res :=
  let i : Instr := .launch h d a x
  issue i h { a := some a, d := some d } none anyMode
    (fun v s => s.syncGate x fun s => s.checkEa v.a 128 fun va =>
      s.withDescriptor va fun ws s =>
        if launchBad ws then s.structError va 2
        else
          let lo := bitsOf (nthD ws 3 0) 63 52
          let n := bitsOf (nthD ws 3 0) 51 40 + 1 - lo
          let who := s.meAgent
          let m : LaunchMsg := { who := who, id := 0, org := s.cx.origin, space := s.cx.space, words := ws, acq := acqScope x }
          let r := s.sendCmd i.bytes d va x
          let o : Out := { id := r.1, who := who, req := s.threadReq va (.translate 0), purp := .cubes n 0 }
          let s1 := { r.2 with outs := r.2.outs ++ [o] }
          (countUp lo n).foldl (fun s c => s.post c who r.1 (.launch { m with id := r.1 })) s1) s

/-! Messages. -/

/-- `send` (14 R308). -/
def execSend (h : Hd) (a b : Opd) (f : EFlags) (par : Bool) (nw : BitVec 4) (target : BitVec 20) (s : State) : Res :=
  let i : Instr := .send h a b f par nw target
  issue i h { a := some a, b := some b } none anyMode
    (fun v s =>
      if 2 ^ 48 ≤ v.a.toNat || fld v.a 1 0 ≠ 0 then s.structError v.a.toNat 5
      else if fld v.b 63 23 ≠ 0 then s.structError v.b.toNat 5
      else if 12 < nw.toNat then s.structError nw.toNat 5
      else s.syncGate (some f) fun s =>
        let n := s.newId
        let m : Arrival :=
          { kind := 1, src := s.gcore s.me, par := par, len := 8 * nw.toNat, tag := fld v.b 15 0, hnd := v.a.toNat,
            space := s.cx.space, tile := if bitOf v.b.toNat 22 then 64 + fld v.b 21 16 else 0,
            body := (countUp 4 nw.toNat).map fun k => (s.cx.getG k).toNat, acq := acqScope (some f), org := s.cx.origin,
            ident := n.1, mig := none, waiter := none }
        (n.2.retireCmd i.bytes (some f)).post (target.toNat / 256) s.meAgent n.1 (.arrival target.toNat m)) s

/-- The arrival record of an inbox slot (14 Table 14.7). Of a migrating thread the tag holds its start number. -/
def arrivalRecord (a : Arrival) : List Nat :=
  let head := [putBits a.kind 60 4 + putBits a.src 40 20 + putBits (b2n a.par) 39 1 + putBits a.len 31 8,
    putBits a.tag 48 16 + putBits a.hnd 0 48, putBits a.space 48 16 + putBits a.tile 0 7, 0]
  (head ++ a.body ++ List.replicate 28 0).take 32

/-- The arrival of a record; none when it is malformed (14 R310). What the record does not carry of a message's acquire is
made good by an acquire at system scope. -/
def recordArrival (ws : List Nat) (waiter : Nat × Nat) (org : Origin) : Option Arrival :=
  let w (i : Nat) : Nat := nthD ws i 0
  let kind := bitsOf (w 0) 63 60
  let len := bitsOf (w 0) 38 31
  if kind = 0 || 4 ≤ kind || bitsOf (w 0) 30 0 ≠ 0 || bitsOf (w 2) 47 7 ≠ 0 || w 3 ≠ 0
      || (if kind = 3 then len ≠ 160 else 96 < len) then none
  else
    let body := (ws.drop 4).take (if kind = 3 then 20 else ceilDiv len 8)
    some
      { kind := kind, src := bitsOf (w 0) 59 40, par := bitOf (w 0) 39, len := len, tag := bitsOf (w 1) 63 48,
        hnd := bitsOf (w 1) 47 0, space := bitsOf (w 2) 63 48, tile := bitsOf (w 2) 6 0, body := body, acq := some 3, org := org,
        ident := 0,
        mig := if kind = 3 then
            some { words := body, va := 0, fromCore := bitsOf (w 0) 59 40, fromCtx := 0, pa := 0, migrations := 0,
                   start := bitsOf (w 1) 63 48, dreg := none }
          else none,
        waiter := some waiter }

/-- `replay` (14 R310). -/
def execReplay (h : Hd) (a : Opd) (s : State) : Res :=
  let i : Instr := .replay h a
  issue i h { a := some a } none systemOnly
    (fun v s => s.checkEa v.a 256 fun va =>
      match s.readBlock 0 va 128 2 with
      | (none, s1) => s1
      | (some b, s1) =>
        let r := s1.sendCmd i.bytes .z va none
        match recordArrival (wordsOf b 32) (s.mx, r.1) s.cx.origin with
        | none => s1.structError va 5
        | some m => r.2.emit (.inboxArrival s.me m)) s

/-- The arrival that an `mpop` of the issuing thread takes: the one it already holds, else the oldest. -/
def State.takeArrival (s : State) : Option (Arrival × State) :=
  let k := s.core s.me
  match k.popping.find? fun p => p.1 == s.mx with
  | some p => some (p.2, s)
  | none => match k.inbox with
    | [] => none
    | a :: r => some (a, s.setCore s.me { k with inbox := r, popping := k.popping ++ [(s.mx, a)] })

/-- `mpop` (14 R309). -/
def execMpop (h : Hd) (d a : Opd) (s : State) : Res :=
  let i : Instr := .mpop h d a
  issue i h { a := some a, d := some d } none systemOnly
    (fun v s => s.checkEa v.a 256 fun va =>
      match s.takeArrival with
      | none => s.finish i d 0#64
      | some (m, s1) =>
        let b := bytesOfWords (arrivalRecord m)
        match s1.writeAt 0 va 1 0 (b.take 128) false with
        | (false, s2) => s2
        | (true, s2) => match s2.writeAt 1 (va + 128) 1 0 (b.drop 128) false with
          | (false, s3) => s3
          | (true, s3) =>
            ((s3.finish i d (BitVec.ofNat 64 (nthD (arrivalRecord m) 0 0))).updCore s.me fun k =>
              { k with popping := k.popping.filter fun p => p.1 != s.mx }).slotFreed s.me) s

/-! Roaming. -/

/-- `roam` (14 R311). -/
def execRoam (h : Hd) (d a : Opd) (s : State) : Res :=
  let i : Instr := .roam h d a
  issue i h { a := some a, d := some d } none anyMode
    (fun v s =>
      if fld v.a 63 1 ≠ 0 then s.structError v.a.toNat 5
      else
        let old := s.cx.roam
        (s.finish i d (BitVec.ofNat 64 (b2n old))).updCx fun t => { t with status := setFld t.status 36 36 v.a.toNat }) s

/-- The g register of a destination. -/
def gOf : Opd → Option Nat
  | .g i => some i.toNat
  | _ => none

/-- `migrate` (14 R312). -/
def execMigrate (h : Hd) (d a : Opd) (s : State) : Res :=
  let i : Instr := .migrate h d a
  issue i h { a := some a, d := some d } none anyMode
    (fun v s => s.checkEa v.a 1 fun va => s.withTranslation 0 va fun pa s =>
      if s.cx.roam && !s.anchored s.me s.mx && s.cubeOf pa != s.cubeId then
        s.departReady fun s => (s.finish i d 1#64).depart va pa (gOf d)
      else s.finish i d 0#64) s

/-! Contributions to reducing streams. -/

/-- `nred` (14 R303): it retires once the contribution has been translated and sent. -/
def execNred (h : Hd) (a : Opd) (f : EFlags) (vs : BitVec 6) (rop : BitVec 3) (stream : BitVec 13) (cidx : BitVec 6)
    (s : State) : Res :=
  let i : Instr := .nred h a f vs rop stream cidx
  issue i h { a := some a } none anyMode
    (fun v s => s.withRegs [vs.toNat] fun s =>
      if 55 < cidx.toNat then s.structError cidx.toNat 5
      else s.syncGate (some f) fun s => s.checkEa v.a 256 fun va =>
        s.sendTagged i.bytes (s.threadReq va (.red rop.toNat stream.toNat cidx.toNat (s.vreg vs.toNat)))
          { ackTag va with bound := flagged (some f) }) s

end Sys2Proof.Machine
end

