-- ==== Sys2Proof/Machine/Tasks.lean ====
section
/-! DEFINITION. The task unit (07 R158, R159; 08 R171 to R177; 02 R52, R54). -/

namespace Sys2Proof

/-- Word `i` of a packet or card. -/
def TaskMsg.w (t : TaskMsg) (i : Nat) : Nat := nthD t.words i 0
/-- SPACE. -/
def TaskMsg.space (t : TaskMsg) : Nat := bitsOf (t.w 1) 63 48
/-- Is footprint `f` declared? -/
def TaskMsg.fpv (t : TaskMsg) (f : Nat) : Bool := !t.job && bitOf (t.w 0) (52 + f)
/-- Is wait `k` present? -/
def TaskMsg.wv (t : TaskMsg) (k : Nat) : Bool := !t.job && bitOf (t.w 0) (50 + k)
/-- Footprint word `f`. -/
def TaskMsg.foot (t : TaskMsg) (f : Nat) : Nat := t.w (2 + f)
/-- ACCMASK of a task; a card has none. -/
def TaskMsg.accs (t : TaskMsg) : Nat := if t.job then 0 else bitsOf (t.w 1) 47 40
/-- The shape word that a footprint asks for (02 R40). -/
def TaskMsg.shape (t : TaskMsg) (f : Nat) : Nat :=
  let w := t.foot f
  bitsOf w 58 49 + putBits (bitsOf w 62 59) 10 4 + putBits (bitsOf w 63 63) 19 1

end Sys2Proof

namespace Sys2Proof.Machine

/-- The task unit as an agent. -/
def State.taskAgent (s : State) : Agent := { kind := .taskUnit, core := s.cubeId * 256, idx := 0 }

/-- Why a packet or card is refused at admission, by the DETAIL of 07 R158; 0 when it is not. -/
def taskRefusal (t : TaskMsg) : Nat :=
  let w := t.w
  let fs := (countUp 0 4).filter fun f => bitOf (w 0) (52 + f)
  let reserved := if t.job then
      bitsOf (w 0) 55 48 != 0 || bitsOf (w 3) 26 0 != 0 || bitsOf (w 4) 63 48 != 0
        || (countUp 6 10).any fun i => w i != 0
    else
      bitsOf (w 0) 1 0 != 0 || bitsOf (w 1) 34 0 != 0 || (fs.any fun f => bitOf (w (2 + f)) 48)
        || (bitOf (w 0) 50 && bitsOf (w 6) 63 48 != 0) || (bitOf (w 0) 51 && bitsOf (w 8) 63 48 != 0)
  let shape := !t.job && fs.any fun f => (shapeTile (t.shape f) 2 0 0).isNone
  let addr := if t.job then bitsOf (w 4) 2 0 != 0
    else (countUp 0 2).any fun k =>
      (bitOf (w 0) (50 + k) && bitsOf (w (6 + 2 * k)) 2 0 != 0) || (bitOf (w 0) (48 + k) && bitsOf (w (10 + k)) 2 0 != 0)
  if reserved then 1 else if shape then 2 else if addr then 3
  else if t.job && (bitsOf (w 2) 31 16 == 0 || bitsOf (w 2) 15 0 == 0) then 4 else 0

/-- The answer to whoever sent a packet or card: its sequence number, or 2^64 - 1 (14 R305, 17 R353). -/
def State.taskAnswer (s : State) (t : TaskMsg) (v : Nat) : State :=
  match t.e2e with
  | some (src, cls, seq) => s.sendAnswer 1 src cls seq s.taskAgent (.done t.who t.id v .ok) 0 0
  | none => match t.who.kind with
    | .thread => s.opDone t.who t.id v
    | .host => s.emit (.doorbellResult t.who.idx v)
    | _ => s

/-- A failure of a task goes to the cube's queue and, when a thread sent the packet, to its error record. -/
def State.taskFail (s : State) (t : TaskMsg) (code addr ident detail : Nat) : State :=
  let e : ErrItem :=
    { org := t.org, source := 5, code := code, space := t.space, addr := addr, hcube := s.cubeId, local_ := 0, ident := ident,
      detail := detail }
  if t.org.ctx = 99 then s.report e else s.failBoth e

/-- The pool entry with a sequence number. -/
def State.task (s : State) (seq : Nat) : Option TaskEnt := s.tu.pool.find? fun e => e.seq == seq
/-- It is changed. -/
def State.updTask (s : State) (seq : Nat) (f : TaskEnt → TaskEnt) : State :=
  { s with tu := { s.tu with pool := s.tu.pool.map fun e => if e.seq = seq then f e else e } }
/-- A pool entry is freed: an arrival held at an input may take its place. -/
def State.freeTask (s : State) (seq : Nat) : State :=
  let tu := { s.tu with
    pool := s.tu.pool.filter fun e => e.seq != seq
    queues := s.tu.queues.map fun (q : Nat × List Nat) => (q.1, q.2.filter fun x => x != seq) }
  let s1 := { s with tu := tu }
  let s2 := if tu.inputs.all fun q => q.2.isEmpty then s1 else s1.emit (.taskAdmission 0 none)
  if tu.pool.isEmpty then s2 else s2.emit .taskDecision

/-! Admission (08 R171). -/

/-- A request of the task unit in a task's space; U is required (08 R174). -/
def State.taskReq (s : State) (t : TaskMsg) (va : Nat) (act : Act) : Req :=
  { who := s.taskAgent, id := 0, org := t.org, space := t.space, va := va, task := true, act := act, words := wordMask va 8,
    cube := s.cubeId }

/-- A task becomes READY: it joins the tail of its queue, and its home cluster is looked up (08 R172, R176). -/
def State.readyTask (s : State) (seq : Nat) : State :=
  match s.task seq with
  | none => s
  | some e =>
    let s1 := s.updTask seq fun e => { e with st := 1 }
    let q := tblGet s1.tu.queues e.queue []
    let s2 := { s1 with tu := { s1.tu with queues := tblSet s1.tu.queues e.queue (q ++ [seq]) } }
    if e.msg.fpv 0 then
      s2.requestVa { s2.taskReq e.msg (bitsOf (e.msg.foot 0) 47 0) (.translate 0) with probe := true } (.taskHome seq)
    else (s2.updTask seq fun e => { e with homeKnown := true }).emit .taskDecision

/-- A packet or card is accepted or refused; the record of a refusal holds 0 in ADDR and ID (DESIGN CHOICE, log entry 117). -/
def State.admitTask (s : State) (t : TaskMsg) : State :=
  let why := taskRefusal t
  if why ≠ 0 then (s.taskFail t Cause.accessError.code 0 0 why).taskAnswer t (2 ^ 64 - 1)
  else
    let seq := s.tu.next.toNat
    let s1 := ({ s with tu := { s.tu with next := s.tu.next + 1#64 } }).taskAnswer t seq
    if t.job && bitsOf (t.w 2) 63 32 == 0 then s1
    else
      let ws := (countUp 0 2).filter t.wv
      let e : TaskEnt :=
        { seq := seq, msg := t, st := 0, waits := ws, dealt := 0, core := 0, ctx := 0, group := none, copies := 0,
          prio := bitsOf (t.w 0) 63 62, queue := bitsOf (t.w 0) 61 56, homeKnown := false, home := none }
      let s2 := { s1 with tu := { s1.tu with pool := s1.tu.pool ++ [e] } }
      if ws.isEmpty then s2.readyTask seq
      else ws.foldl (fun s k =>
        s.requestVa (s.taskReq t (bitsOf (t.w (6 + 2 * k)) 47 0) (.watch (t.w (7 + 2 * k)))) (.taskWait seq k)) s2

/-- TASK_ADMISSION (08 R171): an arrival stands at its input; the inputs are served one at a time, in rotation from the one accepted
last, while the pool has room. -/
def doTaskAdmission (input : Nat) (t : Option TaskMsg) (s : State) : State :=
  let s1 := match t with
    | some m => { s with tu := { s.tu with inputs := tblSet s.tu.inputs input (tblGet s.tu.inputs input [] ++ [m]) } }
    | none => s
  let tu := s1.tu
  if 4096 ≤ tu.pool.length then s1
  else
    match ((countUp 1 3).map fun k => (tu.lastInput + k) % 3).find? fun i => !(tblGet tu.inputs i []).isEmpty with
    | none => s1
    | some i => match tblGet tu.inputs i [] with
      | [] => s1
      | m :: rest =>
        let tu1 := { tu with inputs := tblSet tu.inputs i rest, lastInput := if taskRefusal m = 0 then i else tu.lastInput }
        let s2 := { s1 with tu := tu1 }.admitTask m
        if tu1.inputs.all fun q => q.2.isEmpty then s2 else s2.emit (.taskAdmission i none)

/-! Waits (08 R172 to R174). -/

/-- A watch of a task, sent or not, is given up. -/
def State.cancelTaskWait (s : State) (o : Out) : State :=
  let s1 := (s.detach o.who o.id).dropOut o.id
  match o.req.exp with
  | some _ => s1.requestPa { unitReq o.who o.req.pa (.unwatch o.id) with space := o.req.space } (.quiet 5 o.id)
  | none => s1

/-- A task is refused after its acceptance: its other watches are cancelled, its pool entry freed (08 Table 8.2). -/
def State.refuseTask (s : State) (seq code addr detail : Nat) : State :=
  match s.task seq with
  | none => s
  | some e =>
    let mine := s.outs.filter fun o => match o.purp with
      | .taskWait q _ => q == seq
      | _ => false
    ((mine.foldl (fun s o => s.cancelTaskWait o) s).taskFail e.msg code addr seq detail).freeTask seq

/-- SATISFIED for a task's wait. -/
def State.taskSatisfied (s : State) (id : Nat) : State :=
  match s.out s.taskAgent id with
  | none => s
  | some o => match o.purp with
    | .taskWait seq k =>
      let s1 := (s.dropOut id).updTask seq fun e => { e with waits := e.waits.filter fun x => x != k }
      match s1.task seq with
      | some e => if e.waits.isEmpty then s1.readyTask seq else s1
      | none => s1
    | _ => s

/-- DROPPED for a task's wait: code 0x06, DETAIL 6. -/
def State.taskDropped (s : State) (id : Nat) : State :=
  match s.out s.taskAgent id with
  | none => s
  | some o => match o.purp with
    | .taskWait seq _ => (s.dropOut id).refuseTask seq Cause.accessError.code o.req.va 6
    | _ => s

/-- The answer to a watch registration of a task: a failure refuses the task. -/
def State.taskWaitAnswer (s : State) (o : Out) (seq : Nat) (st : Status) : State :=
  match st with
  | .ok => s
  | .fail code i1 _ => (s.dropOut o.id).refuseTask seq code o.req.va (if code = Cause.remoteLost.code then i1 else 0)

/-! Choosing a core (08 R175, R176). -/

/-- The state with a task's footprint entries installed on a core, if all fit there; they are owned by context `x` and
pinned (02 R52). -/
def State.placeFoots (s : State) (t : TaskMsg) (c x : Nat) : List Nat → Option State
  | [] => some s
  | f :: r =>
    let a := s.allocTile c (60 + f) (t.shape f) 2 x
    if a.1 = 0 then
      (a.2.updCore c fun k => match k.tile (60 + f) with
        | some e => k.setTile (60 + f) { e with pinned := true }
        | none => k).placeFoots t c x r
    else none

/-- The declared footprints of a task. -/
def taskFoots (t : TaskMsg) : List Nat := (countUp 0 4).filter t.fpv

/-- A group slot for a task's accumulators: none needed, or the lowest free one. -/
def Core.taskSlot (k : Core) (accs : Nat) : Option (Option Nat) :=
  if accs = 0 then some none
  else if k.accsFree accs then ((countUp 0 8).find? k.slotFree).map some else none

/-- What a core offers a task: its lowest free context, a group slot, and the state with the footprints placed. -/
def State.offer (s : State) (t : TaskMsg) (c : Nat) : Option (Nat × Option Nat × State) :=
  match (s.core c).freeCtxs, (s.core c).taskSlot t.accs with
  | x :: _, some g => (s.placeFoots t c x (taskFoots t)).map fun s1 => (x, g, s1)
  | _, _ => none

/-- Mesh distance between two cores (08 R176). -/
def meshDist (a b : Nat) : Nat :=
  (meshCol a - meshCol b) + (meshCol b - meshCol a) + (meshRow a - meshRow b) + (meshRow b - meshRow a)

/-- The cores in the order in which a task with this home cluster takes them: its cluster, then by distance. -/
def coresFor (home : Nat) : List Nat :=
  countUp (16 * home) 16 ++ (countUp 0 31).flatMap fun d =>
    (countUp 0 256).filter fun c => c / 16 != home && meshDist c (16 * home) == d

/-- `choose_core` with what the core offers. -/
def State.chooseCore (s : State) (t : TaskMsg) (home : Nat) : Option (Nat × Nat × Option Nat × State) :=
  firstSome ((coresFor home).map fun c => (s.offer t c).map fun o => (c, o.1, o.2.1, o.2.2))

/-- `choose_chunk_core` (08 R177). -/
def State.chunkCore (s : State) (clmask : Nat) : Option Nat :=
  let cs := (countUp 0 256).filter fun c => bitOf clmask (c / 16) && !((s.core c).freeCtxs.isEmpty)
  let active (c : Nat) : Nat := ((s.core c).ctxs.filter fun p => p.2.cstate == .active).length
  cs.foldl (fun best c => match best with
    | none => some c
    | some b => if active c < active b then some c else some b) none

/-- A context, and a group slot with accumulators, are held on a core. -/
def Core.hold (k : Core) (x : Nat) (g : Option Nat) (accs : Nat) : Core :=
  { k with reserved := k.reserved ++ [(x, g.getD 8, accs)] }

/-- Chunk size of a card with `rem` records left (08 R177). -/
def chunkSize (clmask rem minch : Nat) : Nat :=
  let p := 16 * popCount clmask 16
  min rem (max (max minch 1) (ceilDiv rem (2 * p)))

/-- A chunk of a card is dealt to a core: it takes a placement slot until its thread starts, and a card with no records left leaves
its queue. -/
def State.dealChunk (s : State) (e : TaskEnt) (c : Nat) : State :=
  match (s.core c).freeCtxs with
  | [] => s
  | x :: _ =>
    let t := e.msg
    let count := bitsOf (t.w 2) 63 32
    let n := chunkSize (bitsOf (t.w 2) 15 0) (count - e.dealt) (bitsOf (t.w 3) 63 32)
    let stage := bitsOf (t.w 3) 31 29
    let q : StartReq :=
      { kind := 2, entry := bitsOf (t.w 0) 47 2 * 4, stage := stage, cls := startClass (bitsOf (t.w 3) 28 27), space := t.space,
        regs := [s.gcore c, stage, bitsOf (t.w 1) 47 0 + e.dealt * bitsOf (t.w 2) 31 16, n, e.dealt, t.w 5], group := none,
        accs := 0, acq := t.acq, record := .chunk (bitsOf (t.w 4) 47 0) n t.space e.seq t.org, ctx := some x }
    let s1 := ((s.updCore c fun k => k.hold x none 0).wakeCore c [q]).updTask e.seq fun e => { e with dealt := e.dealt + n }
    { s1 with tu := { s1.tu with
      placing := s1.tu.placing ++ [e.seq]
      queues := if e.dealt + n < count then s1.tu.queues
        else s1.tu.queues.map fun (q : Nat × List Nat) => (q.1, q.2.filter fun y => y != e.seq) } }

/-- A task is placed: what it needs is held, its footprints stand installed, and their sources are looked up for their
copies; with none declared it is dispatched. -/
def State.placeTask (s : State) (e : TaskEnt) (c x : Nat) (g : Option Nat) : State :=
  let fs := (taskFoots e.msg)
  let s1 := (s.updCore c fun k => k.hold x g e.msg.accs).updTask e.seq fun e =>
    { e with st := 2, core := c, ctx := x, group := g, copies := fs.length }
  let s2 := { s1 with tu := { s1.tu with
    queues := s1.tu.queues.map fun (q : Nat × List Nat) => (q.1, q.2.filter fun y => y != e.seq) } }
  if fs.isEmpty then s2.emit (.taskDispatch e.seq)
  else fs.foldl (fun s f =>
    s.requestVa { s.taskReq e.msg (bitsOf (e.msg.foot f) 47 0) (.translate 0) with probe := true } (.taskCopy e.seq f)) s2

/-- One queue's head is tried: the state after the decision, if it can be made. -/
def State.tryHead (s : State) (p q : Nat) : Option State :=
  match tblGet s.tu.queues q [] with
  | [] => none
  | seq :: _ => match s.task seq with
    | none => none
    | some e =>
      let moved (s : State) : State := { s with tu := { s.tu with last := tblSet s.tu.last p q } }
      if e.prio ≠ p || !e.homeKnown then none
      else if e.msg.job then (s.chunkCore (bitsOf (e.msg.w 2) 15 0)).map fun c => moved (s.dealChunk e c)
      else
        let next := (s.tu.lastCluster + 1) % 16
        (s.chooseCore e.msg (e.home.getD next)).map fun o =>
          let s1 := moved (o.2.2.2.placeTask e o.1 o.2.1 o.2.2.1)
          if e.home.isNone then { s1 with tu := { s1.tu with lastCluster := next } } else s1

/-- TASK_DECISION (08 R175): the first head in order of priority and rotation that can be placed. -/
def doTaskDecision (s : State) : State :=
  if 16 ≤ s.tu.slotsUsed then s
  else
    let order := (countUp 0 4).flatMap fun p => (countUp 1 64).map fun k => (p, (tblGet s.tu.last p 63 + k) % 64)
    match firstSome (order.map fun (x : Nat × Nat) => s.tryHead x.1 x.2) with
    | some s1 => if s1.tu.pool.isEmpty then s1 else s1.emit .taskDecision
    | none => s

/-- The answer to the look-up of a task's home cluster (08 R176). -/
def State.taskHomeAnswer (s : State) (o : Out) (seq : Nat) (a : Ans) : State :=
  let h := match a.st with
    | .ok => some (vaultOf (a.mask / 128) / 4)
    | .fail .. => none
  ((s.dropOut o.id).updTask seq fun e => { e with homeKnown := true, home := h }).emit .taskDecision

/-! Footprint copies (02 R52, R54). -/

/-- The copy command of a footprint: its rows are consecutive at the source and in the tile's linear order. It acquires
at system scope, and reports to the task unit under the number 4 * seq + f. -/
def State.footCopy (s : State) (e : TaskEnt) (f : Nat) : CopyCmd :=
  let w := e.msg.foot f
  let n := (bitsOf w 58 49 + 1) * (bitsOf w 62 59 + 1)
  { who := s.taskAgent, id := 4 * e.seq + f, org := e.msg.org, kind := 3, space := e.msg.space, task := true,
    words := [putBits 1 60 2 + putBits 7 56 4, bitsOf w 47 0, putBits (s.gcore e.core) 44 20 + putBits (60 + f) 38 6,
      putBits n 40 24 + 128, 128] ++ List.replicate 11 0,
    acq := true, rel := false, scope := 3, vault := 0 }

/-- The source of a footprint has been looked up: its copy goes to the streamer of its home's vault, or, when that is
not known, of the chosen core's own vault (14 R296). -/
def State.taskCopyAnswer (s : State) (o : Out) (seq f : Nat) (a : Ans) : State :=
  let s1 := s.dropOut o.id
  match s1.task seq with
  | none => s1
  | some e =>
    let own := e.core / 16 * 4 + e.core % 16 / 4
    match a.st with
    | .ok => s1.post a.n s.taskAgent (4 * seq + f) (.copyCmd { s1.footCopy e f with vault := vaultOf (a.mask / 128) })
    | .fail .. => s1.emit (.copyCommand { s1.footCopy e f with vault := own })

/-- What is held for a task on its core is let go. -/
def State.unhold (s : State) (e : TaskEnt) : State :=
  (s.updCore e.core fun k => { k with reserved := k.reserved.filter fun r => r.1 != e.ctx }).coreFreed e.core

/-- A footprint copy has ended (02 R52, R54): the last one dispatches the task; a failed chunk ends it. -/
def State.footprintDone (s : State) (seq f status : Nat) : State :=
  match s.task seq with
  | none => s
  | some e =>
    if e.st ≠ 2 then s
    else if status ≠ 0 then
      let s1 := s.freeTiles e.core fun h t => t.ownk == 2 && t.ownid == e.ctx && decide (60 ≤ h)
      ((s1.unhold e).report
        { org := e.msg.org, source := 5, code := status, space := e.msg.space, addr := bitsOf (e.msg.foot f) 47 0,
          hcube := s.cubeId, local_ := 0, ident := seq, detail := f }).freeTask seq
    else
      let s1 := s.updTask seq fun e => { e with copies := e.copies - 1 }
      if e.copies ≤ 1 then s1.emit (.taskDispatch seq) else s1

/-- A chunk of a card has started: its placement slot is free, and with the last one the card's pool entry (08 R177). -/
def State.chunkStarted (s : State) (e : TaskEnt) : State :=
  let s1 := { s with tu := { s.tu with placing := s.tu.placing.erase e.seq } }
  if bitsOf (e.msg.w 2) 63 32 ≤ e.dealt && !s1.tu.placing.contains e.seq then s1.freeTask e.seq else s1.emit .taskDecision

/-- TASK_DISPATCH (08 Table 8.2, R177): the task's thread starts, and its pool entry and placement slot are freed; or a chunk has
started. -/
def doTaskDispatch (seq : Nat) (s : State) : State :=
  match s.task seq with
  | none => s
  | some e =>
    if e.msg.job then s.chunkStarted e else
    let t := e.msg
    let stage := bitsOf (t.w 1) 39 37
    let arg (k : Nat) : Nat := if k % 2 = 0 then bitsOf (t.w (12 + k / 2)) 31 0 else bitsOf (t.w (12 + k / 2)) 63 32
    let q : StartReq :=
      { kind := 1, entry := bitsOf (t.w 0) 47 0, stage := stage, cls := startClass (bitsOf (t.w 1) 36 35), space := t.space,
        regs := [s.gcore e.core, stage, seq, 0] ++ (countUp 0 8).map arg, group := e.group, accs := t.accs,
        acq := if t.wv 0 || t.wv 1 || !(taskFoots t).isEmpty then some 3 else t.acq, record := .task seq, ctx := some e.ctx }
    let s1 := s.freeTask seq
    ({ s1 with tu := { s1.tu with running := s1.tu.running ++ [{ e with st := 3 }] } }).wakeCore e.core [q]

end Sys2Proof.Machine
end

