-- ==== Sys2Proof/Machine/Copy.lean ====
section
/-! DEFINITION. Copies (14 R294 to R299): the copy instructions, the streamers, their chunks, tile endpoints, completion, and
the follow-on `mma`. A streamer makes one access at a time, and one chunk of one command; the spec allows more at once. -/

namespace Sys2Proof.Machine

/-! The descriptor (14 Table 14.3). -/

/-- Source kind. -/
def srcKind (ws : List Nat) : Nat := bitsOf (nthD ws 0 0) 63 62
/-- Destination kind. -/
def dstKind (ws : List Nat) : Nat := bitsOf (nthD ws 0 0) 61 60
/-- Element size in bytes. -/
def elemSize (ws : List Nat) : Nat := 2 ^ bitsOf (nthD ws 0 0) 59 56
/-- Dimensions used. -/
def copyDims (ws : List Nat) : List Nat := countUp 0 (bitsOf (nthD ws 0 0) 55 54 + 1)
/-- COUNT of a dimension. -/
def copyCount (ws : List Nat) (d : Nat) : Nat := bitsOf (nthD ws (3 + 2 * d) 0) 63 40
/-- The stride of a dimension at the source or the destination. -/
def copyStride (ws : List Nat) (dst : Bool) (d : Nat) : Int := signedOf 40 (nthD ws (3 + 2 * d + b2n dst) 0)
/-- Bytes that the command copies. -/
def copyBytes (ws : List Nat) : Nat := (copyDims ws).foldl (fun n d => n * copyCount ws d) (elemSize ws)
/-- The address word of a side. -/
def sideWord (ws : List Nat) (dst : Bool) : Nat := nthD ws (1 + b2n dst) 0
/-- The kind of a side. -/
def sideKind (ws : List Nat) (dst : Bool) : Nat := if dst then dstKind ws else srcKind ws

/-- Is an address word's reserved part zero? -/
def sideOk (ws : List Nat) (dst : Bool) : Bool :=
  let w := sideWord ws dst
  match sideKind ws dst with
  | 0 => bitsOf w 63 48 == 0
  | 1 => bitsOf w 15 0 == 0
  | 2 => bitsOf w 51 37 == 0
  | _ => false

/-- Is the descriptor malformed for `cpy` (0), `cpy.mma` (1) or `cpyr` (2) (14 R294)? -/
def copyBad (kind : Nat) (ws : List Nat) : Bool :=
  let w (i : Nat) : Nat := nthD ws i 0
  let used := copyDims ws
  bitsOf (w 0) 52 48 != 0 || bitsOf (w 0) 31 0 != 0 || !sideOk ws false || !sideOk ws true
    || decide (8 < bitsOf (w 0) 59 56) || ((countUp 0 4).any fun d => bitsOf (w (4 + 2 * d)) 63 40 != 0)
    || (used.any fun d => copyCount ws d == 0)
    || ((countUp 0 4).any fun d => !used.contains d && (w (3 + 2 * d) != 0 || w (4 + 2 * d) != 0))
    || decide (2 ^ 40 < copyBytes ws)
    || bitsOf (w 12) 63 48 != 0 || bitsOf (w 13) 63 48 != 0
    || bitsOf (w 11) 2 0 != 0 || bitsOf (w 13) 4 0 != 0 || bitsOf (w 12) 1 0 != 0
    || (if kind = 2 then bitsOf (w 14) 63 55 != 0 || bitsOf (w 14) 32 0 != 0 else w 14 != 0)
    || (if kind = 1 then (followInstr (w 15)).isNone || dstKind ws != 1 else w 15 != 0)
    || (kind == 2 && (dstKind ws != 0 || elemSize ws != 256 || w 2 % 256 != 0
          || (used.any fun d => copyStride ws true d % 256 != 0) || decide (55 < bitsOf (w 14) 38 33) || bitsOf (w 14) 54 52 == 7))

/-! Where the bytes lie (14 R295). -/

/-- Displacement of element `e` on a side. -/
def elemDisp (ws : List Nat) (dst : Bool) (e : Nat) : Int :=
  ((copyDims ws).foldl (fun (x : Int × Nat) d =>
    (x.1 + (x.2 % copyCount ws d : Nat) * copyStride ws dst d, x.2 / copyCount ws d)) ((0 : Int), e)).1

/-- The address of byte `p` in copy order on a side: a virtual address, or an offset in the tile's linear order or in the
cube, 2^40 standing for one below 0. -/
def byteAddr (ws : List Nat) (dst : Bool) (p : Nat) : Nat :=
  let w := sideWord ws dst
  let d := elemDisp ws dst (p / elemSize ws) + (p % elemSize ws : Nat)
  match sideKind ws dst with
  | 0 => wrapN 64 ((bitsOf w 47 0 : Int) + d)
  | 1 => let o := (bitsOf w 37 16 : Int) + d; if o < 0 then 2 ^ 40 else o.toNat
  | _ => let o := (bitsOf w 36 0 : Int) + d; if o < 0 then 2 ^ 40 else o.toNat

/-- The address word of the failing side for byte `p` (14 Table 14.6). -/
def byteWord (ws : List Nat) (dst : Bool) (p : Nat) : Nat :=
  let w := sideWord ws dst
  let a := byteAddr ws dst p
  match sideKind ws dst with
  | 0 => a
  | 1 => putBits (bitsOf w 63 38) 38 26 + putBits a 16 22
  | _ => putBits (bitsOf w 63 52) 52 12 + putBits a 0 37

/-- Do two addresses of a side lie in one page or block? -/
def samePage (kind a b : Nat) : Bool := kind == 1 || a / 4096 == b / 4096
/-- Bytes from an address to the end of its page. -/
def pageRest (kind a : Nat) : Nat := if kind = 1 then 4096 else 4096 - a % 4096

/-- Length of the chunk that begins at byte `p0`, of which `n` bytes are found (14 R295). -/
def chunkLen (ws : List Nat) (total p0 : Nat) : Nat → Nat → Nat
  | 0, n => n
  | f + 1, n =>
    let p := p0 + n
    let a := byteAddr ws false p
    let b := byteAddr ws true p
    if total ≤ p || 4096 ≤ n || !samePage (srcKind ws) a (byteAddr ws false p0) || !samePage (dstKind ws) b (byteAddr ws true p0)
      then n
    else
      let run := min (elemSize ws - p % elemSize ws) (min (pageRest (srcKind ws) a) (pageRest (dstKind ws) b))
      chunkLen ws total p0 f (min 4096 (n + run))

/-- The runs of consecutive addresses of a chunk on a side: offset in the chunk, address, length; in memory, no run crosses
a line. -/
def sideRuns (ws : List Nat) (dst : Bool) (p0 len : Nat) : Nat → Nat → List (Nat × Nat × Nat)
  | 0, _ => []
  | f + 1, n =>
    if len ≤ n then []
    else
      let p := p0 + n
      let a := byteAddr ws dst p
      let r := min (len - n) (min (elemSize ws - p % elemSize ws) (if sideKind ws dst = 1 then len else 128 - a % 128))
      (n, a, r) :: sideRuns ws dst p0 len f (n + r)

/-- Neighbouring runs joined. -/
def joinRuns (mem : Bool) : List (Nat × Nat × Nat) → List (Nat × Nat × Nat)
  | [] => []
  | a :: r => match joinRuns mem r with
    | b :: t =>
      if a.2.1 + a.2.2 = b.2.1 && (!mem || a.2.1 / 128 == b.2.1 / 128) then (a.1, a.2.1, a.2.2 + b.2.2) :: t else a :: b :: t
    | [] => [a]

/-- The accesses of a chunk on a side. -/
def chunkRuns (ws : List Nat) (dst : Bool) (p0 len : Nat) : List (Nat × Nat × Nat) :=
  joinRuns (sideKind ws dst != 1) (sideRuns ws dst p0 len len 0)

/-- The first address of each page that runs lie in. -/
def pagesOf (l : List (Nat × Nat × Nat)) : List (Nat × Nat × Nat) :=
  l.foldl (fun k r => if k.any fun x => x.2.1 / 4096 == r.2.1 / 4096 then k else k ++ [(0, r.2.1, 0)]) []

/-! Streamers. -/

/-- The streamer of a vault as an agent. -/
def State.streamAgent (s : State) (v : Nat) : Agent := { kind := .streamer, core := s.cubeId * 256, idx := v }
/-- The streamer of a vault. -/
def State.streamer (s : State) (v : Nat) : Streamer := tblGet s.streamers v {}
/-- It is changed. -/
def State.updStreamer (s : State) (v : Nat) (f : Streamer → Streamer) : State :=
  { s with streamers := tblSet s.streamers v (f (s.streamer v)) }
/-- A command of a streamer. -/
def State.copyJob (s : State) (v serial : Nat) : Option CopyJob := (s.streamer v).cmds.find? fun j => j.serial == serial
/-- It is replaced. -/
def State.putCopy (s : State) (v : Nat) (j : CopyJob) : State :=
  s.updStreamer v fun q => { q with cmds := q.cmds.map fun x => if x.serial = j.serial then j else x }
/-- A command id (14 R296). -/
def State.copyId (s : State) (v serial : Nat) : Nat := putBits s.cubeId 52 12 + putBits v 46 6 + putBits serial 0 32

/-! Accesses of a chunk. -/

/-- A request of a command. -/
def State.copyReq (s : State) (v : Nat) (j : CopyJob) (va n : Nat) (act : Act) : Req :=
  { who := s.streamAgent v, id := 0, org := j.cmd.org, space := j.cmd.space, va := va, task := j.cmd.task, act := act,
    words := wordMask va n, cube := s.cubeId }

/-- A request under a translation of its page already made. -/
def underPage (t r : Req) : Req :=
  { r with pa := t.pa - t.va % 4096 + r.va % 4096, pin := t.pin, exp := t.exp }

/-- A chunk fails: it ends with a status. -/
def State.copyFail (s : State) (v : Nat) (j : CopyJob) (status : Nat) (dst : Bool) : State :=
  (s.putCopy v { j with chunk := { j.chunk with bad := some (status, dst) } }).emit (.copyChunk v j.serial)

/-- An access of a chunk to memory at one side, under the chunk's translation, or, when its lease has ended, a new one (05 R108, R112). -/
def State.copyAccess (s : State) (v : Nat) (j : CopyJob) (dst : Bool) (a n : Nat) (act : Act) : State :=
  let r := s.copyReq v j a n act
  let p : Purp := .copy v j.serial
  if sideKind j.cmd.words dst = 2 then
    if 0x1800000000 < a + n then s.copyFail v j Cause.accessError.code dst
    else
      let x := s.newOut { r with pa := a, direct := true, space := 0 } p
      x.2.post (bitsOf (sideWord j.cmd.words dst) 63 52) x.1.who x.1.id (.req x.1)
  else
    match (if dst then j.chunk.dst.toList else j.chunk.srcs).find? fun t => t.va / 4096 == a / 4096 with
    | some t => if s.leaseOver t then s.requestVa r p else s.requestPa (underPage t r) p
    | none => s

/-- An access of a chunk to a tile. -/
def State.copyTile (s : State) (v : Nat) (j : CopyJob) (dst : Bool) (k : CopyMsg → CopyMsg) : State :=
  let w := sideWord j.cmd.words dst
  let x := s.newOut (s.copyReq v j 0 0 (.load 0 1 0)) (.copy v j.serial)
  let m := k { who := x.1.who, id := x.1.id, core := bitsOf w 63 44, handle := bitsOf w 43 38, slot := j.slot }
  x.2.post (m.core / 256) m.who m.id (if dst then .copyWrite m else .copyRead m)

/-- Bytes of a chunk from an offset. -/
def Chunk.bytes (k : Chunk) (o n : Nat) : List Byte := (k.buf.drop o).take n

/-- The next access of the chunk under way is made. -/
def State.copyIssue (s : State) (v : Nat) (j : CopyJob) : State :=
  let ws := j.cmd.words
  let k := j.chunk
  let s := s.putCopy v j
  match k.todo with
  | [] => s
  | (o, a, n) :: _ =>
    match k.stage with
    | 0 => if 2 ^ 48 ≤ a then s.copyFail v j Cause.accessError.code false
      else s.requestVa (s.copyReq v j a 1 (.translate 0)) (.copy v j.serial)
    | 1 => if srcKind ws = 1 then s.copyTile v j false fun m => { m with reads := k.todo.map fun t => t.2 }
      else s.copyAccess v j false a n (.load n 1 0)
    | 2 => if 2 ^ 48 ≤ a then s.copyFail v j Cause.accessError.code true
      else s.requestVa (s.copyReq v j a 1 (.translate 1)) (.copy v j.serial)
    | _ =>
      if j.cmd.kind = 2 then
        let w := nthD ws 14 0
        if 2 ^ 48 ≤ a then s.copyFail v j Cause.accessError.code true
        else s.requestVa (s.copyReq v j a 128 (.red (bitsOf w 54 52) (bitsOf w 51 39) (bitsOf w 38 33) k.buf)) (.copy v j.serial)
      else if dstKind ws = 1 then
        s.copyTile v j true fun m => { m with pieces := k.todo.map fun t => (t.2.1, k.bytes t.1 t.2.2) }
      else s.copyAccess v j true a n (.store 1 0 (k.bytes o n))

/-- A chunk enters a stage with its accesses. -/
def State.copyStage (s : State) (v : Nat) (j : CopyJob) (stage : Nat) : State :=
  let ws := j.cmd.words
  let len := j.chunk.len
  let todo := match stage with
    | 0 => pagesOf (chunkRuns ws false j.pos len)
    | 1 => chunkRuns ws false j.pos len
    | 2 => [(0, byteAddr ws true j.pos, 0)]
    | _ => if j.cmd.kind = 2 then [(0, byteAddr ws true j.pos, 256)] else chunkRuns ws true j.pos len
  s.copyIssue v { j with chunk := { j.chunk with stage := stage, todo := todo } }

/-- The stage after a chunk's sources are translated: its destination is, if it is so too (05 R112); then it is read. -/
def CopyJob.afterSrc (j : CopyJob) : Nat := if dstKind j.cmd.words = 0 && j.cmd.kind != 2 then 2 else 1

/-- The next chunk of a command begins: it is translated first. -/
def State.copyBegin (s : State) (v : Nat) (j : CopyJob) : State :=
  let ws := j.cmd.words
  let len := if j.cmd.kind = 2 then 256 else chunkLen ws (copyBytes ws) j.pos 4096 0
  let k : Chunk := { len := len, buf := List.replicate len 0#8, inside := 2 ^ len - 1 }
  s.copyStage v { j with chunk := k } (if srcKind ws = 0 then 0 else j.afterSrc)

/-- COPY_START (14 R296): the first waiting command starts once every earlier one has completed, its record written. -/
def doCopyStart (vault : Nat) (s : State) : State :=
  let q := s.streamer vault
  if q.cmds.any fun j => j.st != 0 then s
  else match q.cmds.find? fun j => j.st == 0 with
    | some j => s.copyBegin vault { j with st := 1 }
    | none => s

/-- The rest of a chunk after an access of it: the next one, or the next stage. -/
def State.copyOn (s : State) (v : Nat) (j : CopyJob) : State :=
  if !j.chunk.todo.isEmpty then s.copyIssue v j
  else match j.chunk.stage with
    | 0 => s.copyStage v j j.afterSrc
    | 1 => s.copyStage v j 3
    | 2 => s.copyStage v j 1
    | _ => (s.putCopy v j).emit (.copyChunk v j.serial)

/-! Completion (14 R297). -/

/-- A failure of a record or counter write goes to the issuing cube's error queue. -/
def State.copyReport (s : State) (v : Nat) (j : CopyJob) (code addr : Nat) : State :=
  s.post (j.cmd.org.core / 256) (s.streamAgent v) 0 (.errItem
    { org := ⟨j.cmd.org.core / 256 * 256, 99, 0⟩, source := 3, code := code, space := j.cmd.space, addr := addr,
      hcube := s.cubeId, local_ := 0, ident := s.copyId v j.serial, detail := 0 })

/-- CR1 and CR2, CR3 of the record. -/
def CopyJob.record (j : CopyJob) : Nat × Nat × Nat :=
  let f := j.first.getD (0, false, 0)
  (putBits (b2n f.2.1) 56 1 + putBits f.1 48 8 + putBits j.done 0 40, f.2.2,
   putBits j.flags 32 5 + min j.nfail (2 ^ 32 - 1))

/-- A streamer accepts a command (14 R296): its serial. -/
def State.copyAccept (s : State) (v : Nat) (c : CopyCmd) : Nat × State :=
  let q := s.streamer v
  let n := if q.serial = 2 ^ 32 - 1 then 1 else q.serial + 1
  (n, (s.updStreamer v fun q => { q with serial := n, cmds := q.cmds ++ [{ serial := n, cmd := c }] }).emit (.copyStart v))

/-- The command has completed: its entry is freed, its issuer's handler notice sent, and the next may start. -/
def State.copyEnd (s : State) (v : Nat) (j : CopyJob) : State :=
  let w (i : Nat) : Nat := nthD j.cmd.words i 0
  let r := j.record
  let tile := dstKind j.cmd.words = 1
  let core := if tile then bitsOf (w 2) 63 44 else j.cmd.who.core
  let hnd := bitsOf (w 12) 47 0
  let status := (j.first.getD (0, false, 0)).1
  let s1 := s.updStreamer v fun q =>
    { q with
      cmds := q.cmds.filter fun x => x.serial != j.serial
      finished := (q.finished ++ [(j.serial, status, j.done)]).drop (q.finished.length + 1 - 256) }
  let s2 := if hnd = 0 then s1
    else s1.post (core / 256) (s.streamAgent v) 0 (.arrival core
      { kind := 2, src := j.cmd.who.core, par := bitOf (w 0) 53, len := 16, tag := bitsOf (w 0) 47 32, hnd := hnd,
        space := j.cmd.space, tile := if tile then 64 + bitsOf (w 2) 43 38 else 0, body := [s.copyId v j.serial, r.1], acq := none,
        org := j.cmd.org, ident := s.copyId v j.serial, mig := none, waiter := none })
  let s3 := if j.cmd.kind ≠ 3 then s2
    else if j.cmd.who.cube = s.cubeId then s2.footprintDone (j.cmd.id / 4) (j.cmd.id % 4) status
    else s2.post j.cmd.who.cube (s.streamAgent v) 0 (.done j.cmd.who j.cmd.id status .ok)
  match (s3.streamer v).waiting with
  | [] => s3.emit (.copyStart v)
  | c :: rest => ((s3.updStreamer v fun q => { q with waiting := rest }).copyAccept v c).2

/-- CVAL is added to CTR. -/
def State.copyCounter (s : State) (v : Nat) (j : CopyJob) : State :=
  let w := nthD j.cmd.words 11 0
  let ctr := bitsOf w 47 0
  if ctr = 0 then s.copyEnd v j
  else (s.putCopy v { j with st := 5 }).requestVa (s.copyReq v j ctr 8 (.counter 0 (bitsOf w 63 48))) (.copy v j.serial)

/-- With the release flag, every acknowledgement of the command's writes is collected before the add (04 R90). -/
def State.copyAcks (s : State) (v : Nat) (j : CopyJob) : State :=
  let owing := s.outs.any fun o => match o.purp with
    | .copy v' n => v' == v && n == j.serial
    | _ => false
  if j.cmd.rel && owing then s.putCopy v { j with st := 4 } else s.copyCounter v j

/-- The completion record is written. -/
def State.copyRecord (s : State) (v : Nat) (j : CopyJob) : State :=
  let rec_ := bitsOf (nthD j.cmd.words 13 0) 47 0
  let r := j.record
  if rec_ = 0 then s.copyAcks v j
  else (s.putCopy v { j with st := 3 }).requestVa
    (s.copyReq v j rec_ 32 (.store 1 0 (bytesOfWords [s.copyId v j.serial, r.1, r.2.1, r.2.2]))) (.copy v j.serial)

/-- The last chunk has ended: the follow-on `mma` is handed to the destination core (14 R299), or the record follows. -/
def State.copyLast (s : State) (v : Nat) (j : CopyJob) : State :=
  if j.cmd.kind = 1 && j.nfail == 0 then
    let core := bitsOf (nthD j.cmd.words 2 0) 63 44
    (s.putCopy v { j with st := 2 }).post (core / 256) (s.streamAgent v) j.serial
      (.follow { who := s.streamAgent v, serial := j.serial, core := core, word := nthD j.cmd.words 15 0 })
  else s.copyRecord v { j with st := 3 }

/-- The follow-on `mma` of a command has ended (14 R299). -/
def State.copyFollowed (s : State) (v serial flags status : Nat) : State :=
  match s.copyJob v serial with
  | none => s
  | some j =>
    let j1 := { j with flags := flags }
    s.copyRecord v (if status = 0 then j1
      else { j1 with nfail := 1, first := some (status, true, sideWord j.cmd.words true) })

/-- COPY_CHUNK (14 R295, R297): a chunk has ended, with OK, TRIMMED or another status; the next one begins, or the command
completes. -/
def doCopyChunk (vault serial : Nat) (s : State) : State :=
  match s.copyJob vault serial with
  | none => s
  | some j =>
    let k := j.chunk
    let inside := popCount k.inside k.len
    let res : Nat × Bool × Nat := match k.bad with
      | some (st, dst) => (st, dst, 0)
      | none => if inside = k.len then (0, false, inside) else (0x43, k.stage == 4, inside)
    let j1 : CopyJob := { j with
      pos := j.pos + k.len
      done := j.done + res.2.2
      nfail := j.nfail + b2n (res.1 != 0)
      first := if res.1 ≠ 0 && j.first.isNone then some (res.1, res.2.1, byteWord j.cmd.words res.2.1 j.pos) else j.first }
    if copyBytes j.cmd.words ≤ j1.pos then s.copyLast vault j1 else s.copyBegin vault j1

/-- The number of a command's access has been answered. `data` and `mask` are what a read found, and which of the bytes lie
inside a tile. -/
def State.copyAnswer (s : State) (v serial : Nat) (req : Req) (st : Status) (data : List Byte) (a : Ans) : State :=
  match s.copyJob v serial with
  | none => s
  | some j =>
    let k := j.chunk
    match st with
    | .fail code _ _ =>
      if j.st = 1 then s.copyFail v j code (decide (2 ≤ k.stage))
      else if j.st = 3 then (s.copyReport v j code (bitsOf (nthD j.cmd.words 13 0) 47 0)).copyAcks v j
      else (s.copyReport v j code (bitsOf (nthD j.cmd.words 11 0) 47 0)).copyEnd v j
    | .ok =>
      if j.st = 3 then s.copyAcks v j
      else if j.st = 5 then s.copyEnd v j
      else if j.st ≠ 1 then s
      else
        let rest := k.todo.tail
        match k.stage with
        | 0 => s.copyOn v { j with chunk := { k with todo := rest, srcs := k.srcs ++ [req] } }
        | 1 =>
          if srcKind j.cmd.words = 1 then
            s.copyOn v { j with chunk := { k with todo := [], buf := data, inside := k.inside &&& a.mask } }
          else s.copyOn v { j with chunk := { k with todo := rest, buf := overlay k.buf ((k.todo.head?.map fun t => t.1).getD 0) data } }
        | 2 => s.copyOn v { j with chunk := { k with todo := rest, dst := some req } }
        | _ =>
          if dstKind j.cmd.words = 1 then
            let both := k.inside &&& a.mask
            s.copyOn v { j with
              slot := if a.n = 0 then j.slot else some (a.n - 1)
              chunk := { k with todo := [], stage := if popCount k.inside k.len = k.len && both != k.inside then 4 else 3, inside := both } }
          else s.copyOn v { j with chunk := { k with todo := rest } }

/-- The last acknowledgement of a request of a command has come: one that waits to add its counter looks again. -/
def State.copyAcked (s : State) (v serial : Nat) : State :=
  match s.copyJob v serial with
  | some j => if j.st = 4 then s.copyAcks v j else s
  | none => s

/-! Commands and queries. -/

/-- The answer to a copy instruction (14 R296): D and c1; REMOTE_LOST is taken elsewhere. -/
def State.copyIssued (s : State) (who : Agent) (id v : Nat) : State :=
  let c := who.core % 256
  match (s.ctx c who.idx).tag id with
  | some _ => (s.replyPred c who.idx 1 (v != 0)).opDone who id v
  | none => s

/-- COPY_COMMAND (14 R296): accepted while fewer than 32 commands are held; a footprint's copy waits for room. -/
def doCopyCommand (c : CopyCmd) (s : State) : State :=
  let q := s.streamer c.vault
  let answer (s : State) (v : Nat) : State :=
    match c.e2e with
    | some (src, cls, seq) => s.sendAnswer 1 src cls seq (s.streamAgent c.vault) (.done c.who c.id v .ok) 0 0
    | none => if c.who.kind = .thread then s.copyIssued c.who c.id v else s
  if q.cmds.length < 32 then
    let r := s.copyAccept c.vault { c with e2e := none }
    answer r.2 (s.copyId c.vault r.1)
  else if c.kind = 3 then answer (s.updStreamer c.vault fun q => { q with waiting := q.waiting ++ [{ c with e2e := none }] }) 0
  else answer s 0

/-- The state word of a command (14 R298). -/
def State.copyState (s : State) (v serial : Nat) : Nat :=
  match s.copyJob v serial with
  | some j => putBits (if j.st = 0 then 1 else 2) 56 8 + putBits (j.first.getD (0, false, 0)).1 48 8 + putBits j.done 0 40
  | none => match (s.streamer v).finished.find? fun f => f.1 == serial with
    | some f => putBits 3 56 8 + putBits f.2.1 48 8 + putBits f.2.2 0 40
    | none => 0

/-- A query is answered. -/
def State.answerQuery (s : State) (q : Query) (v : Nat) : State :=
  match q.e2e with
  | some (src, cls, seq) => s.sendAnswer 1 src cls seq (s.streamAgent q.vault) (.done q.who q.id v .ok) 0 0
  | none => s.opDone q.who q.id v

/-- CPYSTAT_QUERY (14 R298). -/
def doCpystatQuery (q : Query) (s : State) : State := s.answerQuery q (s.copyState q.vault q.serial)

/-! Tile endpoints (14 R295; 02 R44, R45, R48, R51). -/

/-- A piece of a tile's linear order cut at its rows: row, byte, offset in the piece, length. -/
def rowPieces (rowBytes o : Nat) : Nat → Nat → Nat → List (Nat × Nat × Nat × Nat)
  | 0, _, _ => []
  | f + 1, at_, n =>
    if n = 0 then []
    else
      let b := (o + at_) % rowBytes
      let r := min n (rowBytes - b)
      ((o + at_) / rowBytes, b, at_, r) :: rowPieces rowBytes o f (at_ + r) (n - r)

/-- The rows of several pieces; the offsets count on from piece to piece. -/
def allPieces (rowBytes : Nat) : Nat → List (Nat × Nat) → List (Nat × Nat × Nat × Nat)
  | _, [] => []
  | base, (o, n) :: r =>
    ((rowPieces rowBytes o (n + 1) 0 n).map fun x => (x.1, x.2.1, base + x.2.2.1, x.2.2.2)) ++ allPieces rowBytes (base + n) r

/-- The answer of a core to an access of a copy engine. -/
def State.tileAnswer (s : State) (c : CopyMsg) (a : Ans) : State :=
  match c.e2e with
  | some (src, cls, seq) => s.sendAnswer 1 src cls seq { kind := .thread, core := c.core, idx := 0 } (.data a) 0 0
  | none => s.emit (.data a)

/-- An empty answer to it. -/
def copyAns (c : CopyMsg) (st : Status) : Ans :=
  { who := c.who, id := c.id, st := st, mask := 0, data := [], dirty := 0, n := 0, value := 0, flags := 0, tagSet := 0 }

/-- COPY_READ: a home serves the read as a `wt` load (14 R295), or a core reads its tile: bytes outside read as zero, an
EMPTY peck stalls the read, and a handle that names no tile fails it. -/
def doCopyRead (c : CopyMsg) (s : State) : State :=
  match c.req with
  | some r => doReq r s
  | none =>
    let core := c.core % 256
    match (s.core core).tile c.handle with
    | none => s.tileAnswer c (copyAns c (.fail Cause.tileFault.code 0 0))
    | some t =>
      let ps := allPieces t.rowBytes 0 c.reads
      if ps.any fun x => (s.firstEmpty t core x.1 x.2.1 x.2.2.2).isSome then
        s.updCore core fun k => { k with engReads := k.engReads ++ [c] }
      else
        let data := ps.flatMap fun x => s.tileRead t core x.1 x.2.1 x.2.2.2
        let mask := ps.foldl (fun m x => if t.inside x.1 x.2.1 then m ||| ((2 ^ x.2.2.2 - 1) * 2 ^ x.2.2.1) else m) 0
        s.tileAnswer c { copyAns c .ok with data := data, mask := mask }

/-- COPY_WRITE: a home performs the write as a `wt` store, or a core writes its tile, taking a slot of a ring for the
command's first write (02 R48). -/
def doCopyWrite (c : CopyMsg) (s : State) : State :=
  match c.req with
  | some r => doReq r s
  | none =>
    let core := c.core % 256
    match (s.core core).tile c.handle with
    | none => s.tileAnswer c (copyAns c (.fail Cause.tileFault.code 0 0))
    | some t =>
      let write (s : State) (slot : Option Nat) : State :=
        let base := (slot.getD 0) * t.slotRows
        let limit := if t.isRing then t.slotRows else t.total
        let bytes := c.pieces.flatMap fun p => p.2
        let ps := (allPieces t.rowBytes 0 (c.pieces.map fun p => (p.1, p.2.length))).filter fun x => decide (x.1 < limit)
        let s1 := ps.foldl (fun s x => s.tileWrite t core (base + x.1) x.2.1 ((bytes.drop x.2.2.1).take x.2.2.2)) s
        let mask := ps.foldl (fun m x => m ||| ((2 ^ x.2.2.2 - 1) * 2 ^ x.2.2.1)) 0
        s1.tileAnswer c { copyAns c .ok with mask := mask, n := match slot with
          | some k => k + 1
          | none => 0 }
      if !t.isRing then write s none
      else match c.slot with
        | some k => write s (some k)
        | none =>
          if (c.turn && decide (t.occ ≤ t.slots)) || (s.core core).mayTake c.handle t none then
            write (s.ringTake core c.handle t) (some t.tail)
          else s.updCore core fun k => k.waitRing { handle := c.handle, ctx := none, step := some (.copyWrite { c with turn := true }) }

/-! The follow-on `mma` (14 R299). -/

/-- A follow-on `mma` has ended at its core: the streamer hears of it. -/
def followDone (m : FollowMsg) (flags status : Nat) (s : State) : State :=
  match m.e2e with
  | some (src, cls, seq) => s.sendAnswer 1 src cls seq { kind := .thread, core := m.core, idx := 0 }
      (.done m.who m.serial (flags * 256 + status) .ok) 0 0
  | none => s.copyFollowed m.who.idx m.serial flags status

/-- SEQUENCER_STEP (08 R179, R180; 13 R286). -/
def doSequencerStep (core : Nat) (s : State) : State := s.seqStep core followDone

/-- FOLLOW_ON_MMA (14 R299). -/
def doFollowOnMma (core : Nat) (m : Option FollowMsg) (s : State) : State := s.followOn core m followDone

/-! The instructions. -/

/-- A translation whose failure is an answer: the physical address, if the access may be made (14 R296, R315). -/
def State.withSoft (s : State) (i va : Nat) (act : Act) (k : Option Nat → State → State) : State :=
  if i < s.cx.got.length then k (if (nthD s.cx.got i []).isEmpty then none else some (s.cx.gotWord i)) s
  else
    let x := s.newOut (s.threadReq va act) .soft
    (x.2.emit (.sectionLookup x.1)).block (.access x.1.id)

/-- The vault beside a core (14 R296). -/
def ownVault (c : Nat) : Nat := 4 * (c / 16) + c % 16 / 4

/-- The streamer of a command: of the vault that homes the first source byte, else of the core's own vault. -/
def State.withStreamer (s : State) (ws : List Nat) (k : Nat → Nat → State → State) : State :=
  let own (s : State) : State := k s.cubeId (ownVault s.me) s
  match srcKind ws with
  | 0 => s.withSoft 1 (bitsOf (sideWord ws false) 47 0) (.translate 0) fun pa s =>
      match pa.bind s.layout with
      | some p => k p.cube (vaultOf (p.local_ / 128)) s
      | none => own s
  | 2 => let w := sideWord ws false; k (bitsOf w 63 52) (vaultOf (bitsOf w 36 0 / 128)) s
  | _ => own s

/-- A copy instruction: 0 `cpy`, 1 `cpy.mma`, 2 `cpyr` (14 R294, R296). -/
def copyInstr (i : Instr) (h : Hd) (d a : Opd) (x : Option EFlags) (kind : Nat) (s : State) : Res :=
  issue i h { a := some a, d := some d } none anyMode
    (fun v s => s.syncGate x fun s => s.checkEa v.a 128 fun va => s.withDescriptor va fun ws s =>
      if s.cx.isTask && (srcKind ws == 2 || dstKind ws == 2) then s.trap .privilege (word0 i) 0 0
      else if copyBad kind ws then s.structError va 4
      else s.withStreamer ws fun cube vault s =>
        let who := s.meAgent
        let org := s.cx.origin
        let f (p : EFlags → Bool) : Bool := (x.map p).getD false
        let r := s.sendCmd i.bytes d va x
        r.2.post cube who r.1 (.copyCmd
          { who := who, id := r.1, org := org, kind := kind, space := s.cx.space, task := s.cx.isTask, words := ws,
            acq := f fun e => e.acq, rel := f fun e => e.rel, scope := (x.map fun e => e.scope.toNat).getD 0, vault := vault })) s

/-- `cpy` (14 R294). -/
def execCpy (h : Hd) (d a : Opd) (x : Option EFlags) (s : State) : Res := copyInstr (.cpy h d a x) h d a x 0 s
/-- `cpy.mma` (14 R294, R299). -/
def execCpyMma (h : Hd) (d a : Opd) (x : Option EFlags) (s : State) : Res := copyInstr (.cpyMma h d a x) h d a x 1 s
/-- `cpyr` (14 R294, R300). -/
def execCpyr (h : Hd) (d a : Opd) (x : Option EFlags) (s : State) : Res := copyInstr (.cpyr h d a x) h d a x 2 s

/-- `cpystat` (14 R298): an id whose reserved bits are not 0 is one that the streamer does not hold. -/
def execCpystat (h : Hd) (d a : Opd) (s : State) : Res :=
  let i : Instr := .cpystat h d a
  issue i h { a := some a, d := some d } none anyMode
    (fun v s =>
      let who := s.meAgent
      let r := s.sendCmd i.bytes d v.a.toNat none
      r.2.post (fld v.a 63 52) who r.1 (.query
        { who := who, id := r.1, vault := fld v.a 51 46, serial := if fld v.a 45 32 = 0 then fld v.a 31 0 else 0,
          org := s.cx.origin, near := false })) s

end Sys2Proof.Machine
end

