-- ==== Sys2Proof/Machine/NearBank.lean ====
section
/-! DEFINITION. Near-bank commands (14 R313 to R316; 08 R181; 09 R196, R197; 02 R33; 04 R91, R92): the instructions, a
vault's channel, its bursts, and their completion. -/

namespace Sys2Proof

/-- NB word `i`. -/
def NbCmd.w (c : NbCmd) (i : Nat) : Nat := nthD c.words i 0
/-- MASK. -/
def NbCmd.mask (c : NbCmd) : Nat := bitsOf (c.w 1) 63 56
/-- The banks of MASK. -/
def NbCmd.banks (c : NbCmd) : List Nat := (countUp 0 8).filter fun b => bitOf c.mask b
/-- LEN. -/
def NbCmd.len (c : NbCmd) : Nat := bitsOf (c.w 2) 18 0
/-- SEGW. -/
def NbCmd.segw (c : NbCmd) : Nat := bitsOf (c.w 2) 31 20
/-- OPR. -/
def NbCmd.opr (c : NbCmd) : Nat := bitsOf (c.w 1) 52 51
/-- Input width. -/
def NbCmd.iw (c : NbCmd) : Nat := if bitOf (c.w 1) 50 then 2 else 4
/-- Output width. -/
def NbCmd.ow (c : NbCmd) : Nat := if bitOf (c.w 1) 49 then 2 else 4
/-- SCALE. -/
def NbCmd.scale (c : NbCmd) : Nat := bitsOf (c.w 2) 63 32
/-- CTR. -/
def NbCmd.ctr (c : NbCmd) : Nat := bitsOf (c.w 3) 47 0
/-- REC. -/
def NbCmd.rec_ (c : NbCmd) : Nat := bitsOf (c.w 4) 47 0
/-- Bytes of one segment: of `nb.comb`, the whole range. -/
def NbCmd.seg (c : NbCmd) : Nat := if c.kind = 2 then c.segw else c.len

/-- Is the descriptor malformed (14 R313)? -/
def NbCmd.bad (c : NbCmd) : Bool :=
  let w := c.w
  bitsOf (w 0) 63 48 != 0 || bitsOf (w 0) 20 0 != 0 || bitOf (w 1) 48 || bitsOf (w 1) 11 0 != 0 || bitOf (w 2) 19
    || bitsOf (w 4) 63 48 != 0 || w 6 != 0 || w 7 != 0
    || c.mask == 0 || c.opr == 3 || c.len == 0 || decide (262144 < c.len) || (c.scale != 0 && c.opr != 2)
    || c.ctr % 8 != 0 || c.rec_ % 32 != 0
    || (if c.kind = 1 then
        bitsOf (w 1) 55 30 != 0 || c.scale != 0 || c.segw != 0
      else
        w 5 != 0 || bitsOf (w 1) 47 30 % c.iw != 0 || bitsOf (w 1) 29 12 % c.iw != 0 || c.len % c.iw != 0
          || (if c.kind = 0 then c.segw != 0
            else c.segw == 0 || decide (2048 < c.segw) || c.segw % c.iw != 0 || c.len % c.segw != 0))

/-- The source ranges, as bank and bank offset. -/
def NbCmd.sources (c : NbCmd) : List (Nat × Nat) :=
  if c.kind = 1 then [] else c.banks.map fun b => (b, bitsOf (c.w 1) 47 30)
/-- The destination ranges. -/
def NbCmd.dests (c : NbCmd) : List (Nat × Nat) :=
  let d := bitsOf (c.w 1) 29 12
  if c.kind = 1 then c.banks.map fun b => (b, d) else [(bitsOf (c.w 1) 55 53, d)]
/-- Bytes of a destination range. -/
def NbCmd.out (c : NbCmd) : Nat := if c.kind = 1 then c.len else c.seg / c.iw * c.ow

/-- The status of the ranges, and the stone offset of the one that fails: CROSS, then RANGE (14 R314). -/
def NbCmd.rangeStatus (c : NbCmd) : Nat × Nat :=
  let all := (c.sources.map fun r => (r.1, r.2, c.len)) ++ c.dests.map fun r => (r.1, r.2, c.out)
  match all.find? fun r => decide (2 ^ 21 < r.1 * 2 ^ 18 + r.2.1 + r.2.2) with
  | some r => (0x41, r.1 * 2 ^ 18 + r.2.1)
  | none => match all.find? fun r => decide (2 ^ 18 < r.2.1 + r.2.2) with
    | some r => (0x42, r.1 * 2 ^ 18 + r.2.1)
    | none => (0, 0)

/-- The leaf value of an element read (09 R196). -/
def NbCmd.leaf (c : NbCmd) (x : Nat) : Nat × FFlags :=
  let a := nbLeaf (c.iw == 2) x
  if c.opr ≠ 2 then a
  else
    let d := subF 23 0 a.1 c.scale
    let e := nbExp d.1
    (e.1, a.2 ||| d.2 ||| e.2)

/-- A bank's segments folded at one element, in increasing order (14 R314): `xs` are the element's values. -/
def NbCmd.fold (c : NbCmd) : Nat × FFlags → List Nat → Nat × FFlags
  | a, [] => a
  | a, x :: r =>
    let l := c.leaf x
    let n := nbNode c.opr a.1 l.1
    c.fold (n.1, a.2 ||| l.2 ||| n.2) r

/-- One bank's value of an element. -/
def NbCmd.bankValue (c : NbCmd) : List Nat → Nat × FFlags
  | [] => (0, 0#5)
  | x :: r => c.fold (c.leaf x) r

end Sys2Proof

namespace Sys2Proof.Machine

/-! The instructions. -/

/-- `nb.comb` (0), `nb.fill` (1), `nb.red` (2): the descriptor is read, and the command leaves once its stone is
translated, after the thread's earlier `clean` and `flush` have completed (04 R91; 14 R315). -/
def nbInstr (i : Instr) (h : Hd) (a : Opd) (x : Option EFlags) (kind : Nat) (s : State) : Res :=
  issue i h { a := some a } none anyMode
    (fun v s => s.syncGate x fun s => if s.cx.maint ≠ 0 then s.block .acks else s.checkEa v.a 64 fun va =>
      match s.readAt 0 va 64 1 0 false with
      | (none, s1) => s1
      | (some b, s1) =>
        let f (p : EFlags → Bool) : Bool := (x.map p).getD false
        let c : NbCmd :=
          { kind := kind, words := wordsOf b 8, acq := f fun e => e.acq, rel := f fun e => e.rel,
            scope := (x.map fun e => e.scope.toNat).getD 0 }
        if c.bad then s1.structError va 6
        else s1.sendTagged i.bytes (s1.threadReq (bitsOf (c.w 0) 47 0) (.nb c)) { ackTag va with bound := flagged x }) s

/-- `nb.comb` (14 R313 to R315). -/
def execNbComb (h : Hd) (a : Opd) (x : Option EFlags) (s : State) : Res := nbInstr (.nbComb h a x) h a x 0 s
/-- `nb.fill` (14 R313 to R315). -/
def execNbFill (h : Hd) (a : Opd) (x : Option EFlags) (s : State) : Res := nbInstr (.nbFill h a x) h a x 1 s
/-- `nb.red` (14 R313 to R315). -/
def execNbRed (h : Hd) (a : Opd) (x : Option EFlags) (s : State) : Res := nbInstr (.nbRed h a x) h a x 2 s

/-- `nb.stat` (14 R316). -/
def execNbStat (h : Hd) (d a : Opd) (s : State) : Res :=
  let i : Instr := .nbStat h d a
  issue i h { a := some a, d := some d } none anyMode
    (fun v s => s.checkEa v.a 1 fun va => s.withTranslation 0 va fun pa s =>
      let who := s.meAgent
      let org := s.cx.origin
      let p := s.layout pa
      let r := s.sendCmd i.bytes d va none
      r.2.post ((p.map fun p => p.cube).getD s.cubeId) who r.1 (.query
        { who := who, id := r.1, vault := (p.map fun p => vaultOf (p.local_ / 128)).getD 0, serial := 0, org := org,
          near := true })) s

/-! A vault's channel. -/

/-- The controller of a vault as an agent. -/
def State.vaultAgent (s : State) (v : Nat) : Agent := { kind := .unit, core := s.cubeId * 256, idx := v }
/-- A vault. -/
def State.vault (s : State) (v : Nat) : Vault := tblGet s.vaults v {}
/-- It is changed. -/
def State.updVault (s : State) (v : Nat) (f : Vault → Vault) : State := { s with vaults := tblSet s.vaults v (f (s.vault v)) }
/-- A command of its channel is replaced. -/
def State.putNb (s : State) (v : Nat) (j : NbJob) : State :=
  s.updVault v fun q => { q with fifo := q.fifo.map fun x => if x.key = j.key then j else x }
/-- The stone's first byte, as a local offset. -/
def NbJob.stone (j : NbJob) : Nat := j.req.local_ / 2 ^ 21 * 2 ^ 21
/-- A range of a command's stone, in lines. -/
def NbJob.lines (j : NbJob) (r : Nat × Nat) (n : Nat) : Nat × Nat :=
  let a := j.stone + r.1 * 2 ^ 18 + r.2
  (a / 128, (a + n - 1) / 128)

/-- The command at the front whose burst is still to come takes its turn: a rejected one is complete, another asks for a
combine grant (08 R181). -/
def State.vaultNext (s : State) (v : Nat) : State :=
  match (s.vault v).fifo.find? fun j => decide (j.st < 4) with
  | none => s
  | some j =>
    if j.st ≠ 0 then s
    else if j.status ≠ 0 then s.emit (.nbBurstComplete v)
    else
      let s1 := s.putNb v { j with st := 1 }
      let g := (v, stoneOf (j.stone / 128))
      if s.grants < 768 then { s1 with grants := s.grants + 1 }.emit (.combineGrant g.1 g.2)
      else { s1 with grantQueue := s1.grantQueue ++ [g] }

/-- The lines that a command touches, as ranges. -/
def NbJob.touched (j : NbJob) : List (Nat × Nat) :=
  (j.cmd.sources.map fun r => j.lines r j.cmd.len) ++ j.cmd.dests.map fun r => j.lines r j.cmd.out

/-- Into its vault's channel: the destination's cached lines are dropped, and the ranges held (02 R33; 04 R92). -/
def State.nbEnter (s : State) (v : Nat) (j : NbJob) : State :=
  let s1 := s.updVault v fun q => { q with fifo := q.fifo ++ [j] }
  if j.status ≠ 0 then s1.vaultNext v
  else
    let c := j.cmd
    let dst := c.dests.map fun r => j.lines r c.out
    let s2 := dst.foldl (fun s r => (countUp r.1 (r.2 + 1 - r.1)).foldl (fun s l => s.dropLine l) s) s1
    { s2 with nbBusy := s2.nbBusy ++ j.touched.map fun (r : Nat × Nat) => (j.key, r.1, r.2) }.vaultNext v

/-- NB_COMMAND_ACCEPT (14 R314, R315): the command enters its vault's channel with the status it will have if it is
rejected, and its sender hears of it. The vault takes its own descriptor of the region (01 R24). A page that has moved passes the
command on, one that is moving keeps it waiting (04 R93). -/
def doNbCommandAccept (r : Req) (c : NbCmd) (s : State) : State :=
  let enter (r : Req) (v : Nat) (x : Nat × Nat) (s : State) : State :=
    let n := s.newId
    (n.2.answerAck r (r.ans .ok)).nbEnter v { key := n.1, req := r, cmd := c, status := x.1, faddr := x.2 }
  if c.status ≠ 0 then enter r c.vault (c.status, c.w 0) s
  else if (s.placeOf r).isNone then enter r 0 (0x40, c.w 0) s
  else s.acceptAt r fun p s =>
    let r1 := { r with local_ := p.local_ }
    let stone := p.local_ / 2 ^ 21 * 2 ^ 14
    if s.vaultFailed (p.local_ / 128) then (s.vaultDropped (p.local_ / 128)).answerAck r (r.ans .ok)
    else if !r.compute || decide (p.gran < 21) then enter r1 (vaultOf (p.local_ / 128)) (0x40, c.w 0) s
    else if c.rangeStatus.1 ≠ 0 then enter r1 (vaultOf (p.local_ / 128)) c.rangeStatus s
    else match s.holds.find? fun h => decide (stone ≤ h.line) && decide (h.line < stone + 2 ^ 14), tblGet s.stubs stone 0 with
      | some h, _ => s.holdRequest h.line r.event
      | none, 0 => enter r1 (vaultOf (p.local_ / 128)) (0, 0) s
      | none, g + 1 =>
        if tblGet s.stubs (stone + 2 ^ 14 - 1) 0 = 0 then enter r1 (vaultOf (p.local_ / 128)) (0x40, c.w 0) s
        else s.throughStub r1 stone g

/-- A burst runs, or goes on: it ends after a time that the spec leaves open. -/
def State.nbRun (s : State) (v : Nat) (j : NbJob) : State :=
  (s.putNb v { j with st := 2 }).later (Config.burst s.tick) (.nbBurstComplete v)

/-- COMBINE_GRANT (08 R181): the burst that asked for it starts. -/
def doCombineGrant (vault bgroup : Nat) (s : State) : State :=
  match (s.vault vault).fifo.find? fun j => j.st == 1 && stoneOf (j.stone / 128) == bgroup with
  | some j => s.nbRun vault j
  | none => s

/-- A grant is free again: the oldest request takes it. -/
def State.grantFreed (s : State) : State :=
  match s.grantQueue with
  | [] => { s with grants := s.grants - 1 }
  | g :: r => { s with grantQueue := r }.emit (.combineGrant g.1 g.2)

/-- The ordinary requests that wait at a vault with numbers below `n` are served; the bound of the next one runs. -/
def State.serveWaiting (s : State) (v n : Nat) : State :=
  let q := s.vault v
  let rest := q.waiting.filter fun w => decide (n ≤ w.1)
  let s1 := (s.updVault v fun q => { q with waiting := rest, pausing := none }).emitFirst
    ((q.waiting.filter fun w => decide (w.1 < n)).map fun w => w.2.2)
  match rest with
  | w :: _ => s1.later (w.2.1 + s.vaultBound - s.leaseNow) (.vaultBoundExpiry v)
  | [] => s1

/-- VAULT_BOUND_EXPIRY (08 R181): once the oldest request that waits has waited for its bound, the burst pauses, at most two
commands later; every request that waited when the bound expired is then served, and the burst resumes. -/
def doVaultBoundExpiry (vault : Nat) (s : State) : State :=
  let q := s.vault vault
  match q.waiting, q.fifo.find? fun j => j.st == 2 with
  | [], _ => s
  | _, none => if q.fifo.any fun j => j.st == 3 then s else s.serveWaiting vault s.tick
  | w :: _, some j =>
    match q.pausing with
    | some p =>
      if s.leaseNow < p.2 then s
      else ((s.putNb vault { j with st := 3 }).emitFirst [.burstResume vault]).serveWaiting vault p.1
    | none =>
      if s.leaseNow < w.2.1 + s.vaultBound then s.later (w.2.1 + s.vaultBound - s.leaseNow) (.vaultBoundExpiry vault)
      else
        let n := s.newId
        let d := min 13 (Config.safePoint n.1)
        (n.2.updVault vault fun q => { q with pausing := some (n.1, s.leaseNow + d) }).later d (.vaultBoundExpiry vault)

/-- BURST_RESUME (08 R181). -/
def doBurstResume (vault : Nat) (s : State) : State :=
  match (s.vault vault).fifo.find? fun j => j.st == 3 with
  | some j => s.nbRun vault j
  | none => s

/-! The burst (14 R314). -/

/-- Elements of `w` bytes of a byte list, one each `step` bytes from byte `at_`, `n` of them. -/
def elemsAt (w at_ step n : Nat) (d : List Byte) : List Nat :=
  (countUp 0 n).map fun k => ofBytes ((d.drop (at_ + k * step)).take w)

/-- Element `e` of the result: the tree over the banks' values; `data` are the source ranges, by bank. -/
def nbElement (c : NbCmd) (data : List (Nat × List Byte)) (e : Nat) : Nat × FFlags :=
  let leaves := (countUp 0 8).map fun b =>
    (data.find? fun x => x.1 == b).map fun x => c.bankValue (elemsAt c.iw (e * c.iw) c.seg (c.len / c.seg) x.2)
  let fl := leaves.foldl (fun f x => f ||| (x.map fun y => y.2).getD 0#5) 0#5
  let t := treeJoin (nbNode c.opr) 3 (leaves.map fun x => x.map fun y => y.1)
  let v := t.1.getD 0
  if c.ow = 2 then
    let r := f32ToBf16 0 v
    (r.1, fl ||| t.2 ||| r.2)
  else (v, fl ||| t.2)

/-- Did element `e` receive a poisoned input? -/
def State.nbHurt (s : State) (j : NbJob) (e : Nat) : Bool :=
  let c := j.cmd
  c.sources.any fun r => (countUp 0 (c.len / c.seg)).any fun k =>
    s.poisoned ((j.stone + r.1 * 2 ^ 18 + r.2 + k * c.seg + e * c.iw) / 128)

/-- Bytes written to the banks at a local offset: words written whole lose their poison. -/
def State.bankWrite (s : State) (local_ : Nat) (d : List Byte) : State :=
  (countUp (local_ / 128) ((local_ + d.length - 1) / 128 + 1 - local_ / 128)).foldl (fun s l =>
    let lo := max local_ (l * 128)
    let hi := min (local_ + d.length) (l * 128 + 128)
    s.unpoison l (fullMask lo (hi - lo))) { s with dense := memWrite s.dense local_ d }

/-- The command is performed: the state, the flags, and whether an input was poisoned. -/
def State.nbPerform (s : State) (j : NbJob) : State × FFlags × Bool :=
  let c := j.cmd
  let at_ (r : Nat × Nat) : Nat := j.stone + r.1 * 2 ^ 18 + r.2
  if c.kind = 1 then
    let pat := (countUp 0 c.len).map fun k => BitVec.ofNat 8 (c.w 5 / 256 ^ (k % 8))
    (c.dests.foldl (fun s r => s.bankWrite (at_ r) pat) s, 0#5, false)
  else
    let data := c.sources.map fun r => (r.1, memRead s.dense (at_ r) c.len)
    let es := countUp 0 (c.seg / c.iw)
    let out := es.map fun e => nbElement c data e
    let d := (c.dests.head?.map at_).getD 0
    let s1 := s.bankWrite d (out.flatMap fun x => toBytes x.1 c.ow)
    let hurt := es.filter fun e => s.nbHurt j e
    (hurt.foldl (fun s e => s.setPoison ((d + e * c.ow) / 128)) s1, out.foldl (fun f x => f ||| x.2) 0#5, !hurt.isEmpty)

/-! Completion (14 R315). -/

/-- A request of a command's completion. -/
def State.nbReq (s : State) (v : Nat) (j : NbJob) (va n : Nat) (act : Act) : Req :=
  { who := s.vaultAgent v, id := 0, org := j.req.org, space := j.req.space, va := va, task := j.req.task, act := act,
    words := wordMask va n, cube := s.cubeId }

/-- The command has completed. -/
def State.nbEnd (s : State) (v : Nat) (j : NbJob) : State :=
  let q := s.vault v
  let rest := q.fifo.filter fun x => x.key != j.key
  s.updVault v fun q =>
    { q with fifo := rest, last := (q.last.filter fun l => l.1 != j.req.org) ++ [(j.req.org, j.status)] }

/-- CVAL is added to CTR. -/
def State.nbCounter (s : State) (v : Nat) (j : NbJob) : State :=
  if j.cmd.ctr = 0 then s.nbEnd v j
  else (s.putNb v { j with st := 6 }).requestVa
    (s.nbReq v j j.cmd.ctr 8 (.counter 0 (bitsOf (j.cmd.w 3) 63 48))) (.near v)

/-- With the release flag, every acknowledgement of the record is collected before the add (04 R90). -/
def State.nbAcks (s : State) (v : Nat) (j : NbJob) : State :=
  let owing := s.outs.any fun o => match o.purp with
    | .near v' => v' == v
    | _ => false
  if j.cmd.rel && owing then s.putNb v { j with st := 5 } else s.nbCounter v j

/-- The first command of the channel whose burst has ended writes its record. -/
def State.nbFinish (s : State) (v : Nat) : State :=
  match (s.vault v).fifo with
  | [] => s
  | j :: _ =>
    if j.st ≠ 4 then s
    else if j.cmd.rec_ = 0 then s.nbAcks v j
    else (s.putNb v { j with st := 7 }).requestVa
      (s.nbReq v j j.cmd.rec_ 32 (.store 1 0 (bytesOfWords
        [0, putBits j.status 48 8 + putBits j.done 0 40, j.faddr,
         putBits j.flags 32 5 + b2n (j.status != 0)]))) (.near v)

/-- A step of the completion is over, and the next command may complete. -/
def State.nbStepped (s : State) (v : Nat) : State :=
  match (s.vault v).fifo with
  | j :: _ => if j.st = 4 then s.nbFinish v else s
  | [] => s

/-- A record or counter that could not be written goes to the issuing cube's error queue. -/
def State.nbReport (s : State) (v : Nat) (j : NbJob) (code addr : Nat) : State :=
  s.post (j.req.org.core / 256) (s.vaultAgent v) 0 (.errItem
    { org := ⟨j.req.org.core / 256 * 256, 99, 0⟩, source := 4, code := code, space := j.req.space, addr := addr,
      hcube := s.cubeId, local_ := 0, ident := 0, detail := 0 })

/-- A request of a command's completion has been answered. -/
def State.nbAnswer (s : State) (v : Nat) (st : Status) : State :=
  match (s.vault v).fifo with
  | [] => s
  | j :: _ =>
    let s1 := match st with
      | .fail code _ _ => s.nbReport v j code (if j.st = 7 then j.cmd.rec_ else j.cmd.ctr)
      | .ok => s
    if j.st = 7 then (s1.nbAcks v j).nbStepped v
    else if j.st = 6 then (s1.nbEnd v j).nbStepped v
    else s1

/-- The last acknowledgement of a record has come. -/
def State.nbAcked (s : State) (v : Nat) : State :=
  match (s.vault v).fifo with
  | j :: _ => if j.st = 5 then (s.nbAcks v j).nbStepped v else s
  | [] => s

/-- NB_BURST_COMPLETE (14 R315): the command's effect stands, the accesses that it held follow, and its record and counter
are written in channel order. -/
def doNbBurstComplete (vault : Nat) (s : State) : State :=
  match (s.vault vault).fifo.find? fun j => decide (j.st < 4) with
  | none => s
  | some j =>
    if j.status ≠ 0 then ((s.putNb vault { j with st := 4 }).vaultNext vault).nbFinish vault
    else if j.st ≠ 2 then s
    else
      let r := s.nbPerform j
      let j1 := { j with st := 4, status := if r.2.2 then Cause.poison.code else 0, flags := r.2.1.toNat,
                         done := j.cmd.out * j.cmd.dests.length }
      let s1 := r.1.putNb vault j1
      let s2 := { s1 with nbBusy := s1.nbBusy.filter fun b => b.1 != j.key, nbQueue := [] }.emitFirst s1.nbQueue
      let next := ((s2.vault vault).fifo.find? fun x => decide (x.st < 4) && x.status == 0).map fun x => x.key
      (((s2.serveWaiting vault (next.getD s2.tick)).grantFreed).vaultNext vault).nbFinish vault

/-- NB_STAT_QUERY (14 R316). -/
def doNbStatQuery (q : Query) (s : State) : State :=
  let v := s.vault q.vault
  let n := (v.fifo.filter fun j => j.req.org == q.org).length
  let st := ((v.last.find? fun l => l.1 == q.org).map fun l => l.2).getD 0
  s.answerQuery q (min n 255 + 256 * st)

end Sys2Proof.Machine
end

