-- ==== Sys2Proof/Machine/Experts.lean ====
section
/-! DEFINITION. The routing engines (15): their instructions, the phases of a run, its completion, pause and abort. An engine
makes one access at a time, and issues one token at a time; the spec allows more at once. -/

namespace Sys2Proof

/-- Word `i` of the run's descriptor (15 Table 15.6). -/
def Machine.Engine.w (e : Machine.Engine) (i : Nat) : Nat := nthD e.words i 0
/-- Word `i` of the configuration (15 Table 15.4). -/
def Machine.Engine.xc (e : Machine.Engine) (i : Nat) : Nat := nthD e.cfg i 0
/-- Tokens. -/
def Machine.Engine.tokens (e : Machine.Engine) : Nat := bitsOf (e.w 3) 63 40
/-- Choices per token. -/
def Machine.Engine.k (e : Machine.Engine) : Nat := bitsOf (e.w 3) 39 37 + 1
/-- Row bytes D. -/
def Machine.Engine.rowBytes (e : Machine.Engine) : Nat := (bitsOf (e.w 3) 36 28 + 1) * 32
/-- NEXP. -/
def Machine.Engine.nexp (e : Machine.Engine) : Nat := e.table.length
/-- Ranked mode. -/
def Machine.Engine.ranked (e : Machine.Engine) : Bool := bitOf (e.xc 1) 51
/-- Expert `i` of the snapshot. -/
def Machine.Engine.expert (e : Machine.Engine) (i : Nat) : Machine.Expert := nthD e.table i ⟨0, 0, 0, 0, 0, 0⟩
/-- Address of choice (t, c) or of its return-map entry, in the array of word `i`. -/
def Machine.Engine.entryVa (e : Machine.Engine) (i : Nat) : Nat := bitsOf (e.w i) 47 0 + 4 * (e.cursor * e.k + e.c)
/-- Address of the row of the token at the cursor. -/
def Machine.Engine.rowVa (e : Machine.Engine) : Nat := bitsOf (e.w 0) 47 0 + e.cursor * e.rowBytes
/-- Address of the slot of the choice under way. -/
def Machine.Engine.slotVa (e : Machine.Engine) : Nat := (e.expert e.e).buf + e.slot * e.rowBytes

/-- A failure of the run: its status, whether at a destination, and its address (15 R327). Only the first is kept. -/
def Machine.Engine.fails (e : Machine.Engine) (st : Nat) (dst : Bool) (va : Nat) : Machine.Engine :=
  if e.first.isSome then e else { e with first := some (st, dst, va) }

/-- A lost cube is marked (15 R330). -/
def Machine.Engine.marks (e : Machine.Engine) (st i1 : Nat) : Machine.Engine :=
  if st = Machine.Cause.remoteLost.code then { e with lost := e.lost ++ [i1] } else e

end Sys2Proof

namespace Sys2Proof.Machine

/-! Access. -/

/-- Engine `n`. -/
def State.engine (s : State) (n : Nat) : Engine := tblGet s.engines n {}
/-- It is replaced. -/
def State.putEngine (s : State) (n : Nat) (e : Engine) : State := { s with engines := tblSet s.engines n e }
/-- It as an agent. -/
def State.engineAgent (s : State) (n : Nat) : Agent := { kind := .engine, core := s.cubeId * 256, idx := n }

/-- A request of an engine. -/
def State.engineReq (s : State) (n : Nat) (e : Engine) (va len : Nat) (act : Act) : Req :=
  { who := s.engineAgent n, id := 0, org := e.org, space := e.space, va := va, task := e.task, act := act,
    words := wordMask va len, cube := s.cubeId }

/-- The engine makes an access; an address past the virtual space fails. -/
def State.engineSend (s : State) (n : Nat) (e : Engine) (what : EWhat) (va len : Nat) (act : Act) : State :=
  let r := s.engineReq n e va len act
  let s1 := s.putEngine n { e with what := what }
  if 2 ^ 48 < va + len then
    let x := s1.newOut r (.engine n)
    x.2.emit (.data (x.1.fail .accessError 0 0))
  else s1.requestVa r (.engine n)

/-- The pieces of a range that lie in one line each: offset, address, length. -/
def linePieces (va n : Nat) : List (Nat × Nat × Nat) :=
  (countUp (va / 128) ((va + n + 127) / 128 - va / 128)).map fun l =>
    (max va (l * 128) - va, max va (l * 128), min (va + n) (l * 128 + 128) - max va (l * 128))

/-! Completion (15 R327, R329). -/

/-- The run is over: DONE or ABORTED, or FREE when its owner has ended. -/
def State.engineEnd (s : State) (n : Nat) (e : Engine) : State :=
  s.putEngine n (if e.orphan then { serial := e.serial }
    else { e with state := if e.abort then 5 else 4, what := .idle, abort := false, pause := false, cause := 0 })

/-- CVAL is added to CTR. -/
def State.engineCounter (s : State) (n : Nat) (e : Engine) : State :=
  let ctr := bitsOf (e.w 4) 47 0
  if ctr = 0 then s.engineEnd n e else s.engineSend n e .add ctr 8 (.counter 0 (bitsOf (e.w 4) 63 48))

/-- With the release flag, every acknowledgement of the run's writes is collected before the add (04 R90). -/
def State.engineAcks (s : State) (n : Nat) (e : Engine) : State :=
  let owing := s.outs.any fun o => match o.purp with
    | .engine m => m == n
    | _ => false
  if e.rel && owing then s.putEngine n { e with what := .acks } else s.engineCounter n e

/-- The completion record is written. -/
def State.engineComplete (s : State) (n : Nat) (e : Engine) : State :=
  let rec_ := bitsOf (e.w 5) 47 0
  let f := e.first.getD (0, false, 0)
  let cr0 := putBits s.cubeId 52 12 + putBits n 50 2 + putBits e.serial 0 32
  let cr1 := putBits (b2n f.2.1) 56 1 + putBits (if e.abort then 0x46 else f.1) 48 8 + putBits e.done 0 40
  let cr3 := putBits e.flags 32 5 + min (if e.phase = 3 then e.nfail else e.drops) (2 ^ 32 - 1)
  if rec_ = 0 then s.engineAcks n e
  else s.engineSend n e .record rec_ 32 (.store 1 0 (bytesOfWords [cr0, cr1, f.2.2, cr3]))

/-- At a boundary (15 R328, R329): an abort completes the run, a suspended owner pauses it, else it goes on. -/
def State.engineBoundary (s : State) (n : Nat) (e : Engine) : State :=
  let e := { e with what := .idle }
  if e.abort then s.engineComplete n e
  else if e.pause then s.putEngine n { e with state := 3, cause := 1, pause := false }
  else (s.putEngine n e).emit (e.nextStep n)

/-! COUNT (15 R323). -/

/-- ENGINE_COUNT: the next choice is read; after the last, OFFSET begins. -/
def doEngineCount (engine : Nat) (s : State) : State :=
  let e := s.engine engine
  if e.state ≠ 2 || e.phase ≠ 0 || e.what ≠ .idle then s
  else if e.tokens ≤ e.cursor then s.engineBoundary engine { e with phase := 1, cursor := 0, c := 0 }
  else if e.c = 0 && (e.abort || e.pause) then s.engineBoundary engine e
  else s.engineSend engine e .count (e.entryVa 1) 4 (.load 4 1 0)

/-- After a choice of COUNT: the next of the token, or a token boundary. -/
def State.engineCounted (s : State) (n : Nat) (e : Engine) : State :=
  if e.c + 1 < e.k then (s.putEngine n { e with c := e.c + 1, what := .idle }).emit (.engineCount n)
  else s.engineBoundary n { e with c := 0, cursor := e.cursor + 1 }

/-! OFFSET (15 R324). -/

/-- The expert at the cursor is done: in arrival mode the next follows at once, in ranked mode at a boundary. -/
def State.engineExpertDone (s : State) (n : Nat) (e : Engine) : State :=
  let e1 := { e with cursor := e.cursor + 1, what := .idle }
  if e1.nexp ≤ e1.cursor then s.engineBoundary n { e1 with phase := 2, cursor := 0, c := 0 }
  else if e.ranked || e.abort then s.engineBoundary n e1
  else (s.putEngine n e1).emit (.engineOffsetExpert n)

/-- The expert ends without a base, its choices to be dropped with status `st`. -/
def State.engineExpertFails (s : State) (n : Nat) (e : Engine) (st : Nat) : State :=
  s.engineExpertDone n { e with base := tblSet e.base e.cursor 0, bstat := tblSet e.bstat e.cursor st }

/-- The claim of the expert's slots, then, in ranked mode, the turn add. -/
def State.engineFill (s : State) (n : Nat) (e : Engine) : State :=
  let x := e.expert e.cursor
  let cnt := tblGet e.n e.cursor 0
  if cnt ≠ 0 then s.engineSend n e .fill x.fill 8 (.counter 1 cnt)
  else if e.ranked then s.engineSend n e .next x.turn 8 (.counter 0 1)
  else s.engineExpertDone n e

/-- The turn wait of the expert at the cursor is registered, with its limit. -/
def State.engineTurn (s : State) (n : Nat) (e : Engine) : State :=
  let lim := bitsOf (e.xc 1) 38 23
  let i := s.newId
  let s1 := if lim = 0 then i.2 else i.2.later (cyclesToCounts lim) (.turnWaitExpired n i.1)
  s1.engineSend n { e with wid := i.1 } .turn (e.expert e.cursor).turn 8
    (.watch ((e.xc 6 + bitsOf (e.xc 1) 50 39) % 2 ^ 64))

/-- ENGINE_OFFSET_EXPERT (15 R324): the next expert obtains its base. -/
def doEngineOffsetExpert (engine : Nat) (s : State) : State :=
  let e := s.engine engine
  if e.state ≠ 2 || e.phase ≠ 1 || e.what ≠ .idle then s
  else if e.abort || (e.pause && e.ranked) then s.engineBoundary engine e
  else if e.ranked then s.engineTurn engine e
  else s.engineFill engine e

/-- The watch of a turn wait is given up. -/
def State.cancelTurn (s : State) (n : Nat) : State :=
  let mine := s.outs.filter fun o => match o.purp, o.req.act with
    | .engine m, .watch _ => m == n
    | _, _ => false
  mine.foldl (fun s o =>
    let s1 := (s.detach o.who o.id).dropOut o.id
    match o.req.exp with
    | some _ => s1.requestPa { unitReq o.who o.req.pa (.unwatch o.id) with space := o.req.space } (.quiet 6 o.id)
    | none => s1) s

/-- TURN_WAIT_EXPIRED (15 R328): the engine pauses with cause 2, its cursor at the expert. -/
def doTurnWaitExpired (engine id : Nat) (s : State) : State :=
  let e := s.engine engine
  if e.state ≠ 2 || e.what ≠ .turn || e.wid ≠ id then s
  else (s.cancelTurn engine).putEngine engine { e with state := 3, cause := 2, what := .idle, pause := false }

/-- SATISFIED for a turn wait. -/
def State.engineSatisfied (s : State) (n id : Nat) : State :=
  let e := s.engine n
  if e.what ≠ .turn then s else (s.dropOut id).engineFill n { e with what := .idle }

/-- DROPPED for a turn wait (15 R324). -/
def State.engineDropped (s : State) (n id : Nat) : State :=
  let e := s.engine n
  if e.what ≠ .turn then s
  else (s.dropOut id).engineExpertFails n (e.fails Cause.accessError.code true (e.expert e.cursor).turn) Cause.accessError.code

/-! SCATTER (15 R325, R326). -/

/-- ENGINE_TOKEN_ISSUE (15 R325, R331): the token at the cursor begins, with its first choice in SCATTER and its first
return-map entry in COMBINE. -/
def doEngineTokenIssue (engine : Nat) (s : State) : State :=
  let e := s.engine engine
  if e.state ≠ 2 || e.phase < 2 || e.what ≠ .idle then s
  else if e.tokens ≤ e.cursor then s.engineComplete engine e
  else if e.abort || e.pause then s.engineBoundary engine e
  else
    let e1 := { e with c := 0, bad := false, acc := if e.phase = 3 then List.replicate (e.rowBytes / 2) 0 else [] }
    if e.phase = 2 then s.engineSend engine e1 .choice (e1.entryVa 1) 4 (.load 4 1 0)
    else s.engineSend engine e1 .entry (e1.entryVa 2) 4 (.load 4 1 0)

/-- The token's accesses have all been answered. -/
def State.engineSettle (s : State) (n : Nat) (e : Engine) : State :=
  (s.putEngine n { e with what := .idle }).emit (.tokenSettled n e.cursor)

/-- TOKEN_SETTLED (15 R325, R327): the cursor moves past the token. -/
def doTokenSettled (engine token : Nat) (s : State) : State :=
  let e := s.engine engine
  if e.state ≠ 2 || e.cursor ≠ token || e.what ≠ .idle then s
  else
    let e1 := { e with cursor := token + 1, c := 0 }
    if e1.tokens ≤ e1.cursor then s.engineComplete engine e1 else s.engineBoundary engine e1

/-- After a choice: the next one of the token, or the token is settled. -/
def State.engineNextChoice (s : State) (n : Nat) (e : Engine) : State :=
  if e.c + 1 < e.k then
    let e1 := { e with c := e.c + 1 }
    s.engineSend n e1 .choice (e1.entryVa 1) 4 (.load 4 1 0)
  else s.engineSettle n e

/-- A choice's return-map entry is written: its slot, or all ones for a drop. -/
def State.engineMap (s : State) (n : Nat) (e : Engine) : State :=
  let v := if e.reason = 0 then e.e * 65536 + e.slot else 0xFFFFFFFF
  s.engineSend n e .map (e.entryVa 2) 4 (.store 1 0 (toBytes v 4))

/-- `drop` (15 R326). -/
def State.engineDrop (s : State) (n : Nat) (e : Engine) (expert reason slot : Nat) : State :=
  s.engineMap n { e with e := expert, reason := reason, slot := slot }

/-- The drop is counted, and appended when there is a drop counter. -/
def State.engineDropped2 (s : State) (n : Nat) (e : Engine) : State :=
  let e1 := { e with drops := e.drops + 1 }
  let ctr := bitsOf (e.xc 4) 47 0
  if ctr = 0 then s.engineNextChoice n e1 else s.engineSend n e1 .dropAdd ctr 8 (.counter 1 1)

/-- The record of a drop (15 Table 15.7). -/
def State.engineDropRec (s : State) (n : Nat) (e : Engine) (old : Nat) : State :=
  let idx := wrapN 64 ((old : Int) - (e.xc 5 : Nat))
  let drop := bitsOf (e.xc 2) 47 0
  if drop = 0 || bitsOf (e.xc 3) 63 32 ≤ idx then s.engineNextChoice n e
  else s.engineSend n e .dropRec (drop + 16 * idx) 16 (.store 1 0 (bytesOfWords
    [putBits e.cursor 40 24 + putBits e.c 37 3 + putBits e.e 16 16 + putBits e.reason 8 8,
     putBits s.cubeId 52 12 + putBits n 50 2 + putBits e.slot 0 32]))

/-- The page that a chunk's next line needs and that is not translated yet: an address in it, and the class of access. A row's copy
has both its pages translated before it begins (05 R112). -/
def engineLacks (e : Engine) (what : EWhat) (a : Nat) : Option (Nat × Nat) :=
  let has (l : List Req) (a : Nat) : Bool := l.any fun t => t.va / 4096 == a / 4096
  let dst := e.slotVa + e.off
  if e.chunk.stage = 1 then
    if !has e.chunk.srcs a then some (a, 0)
    else if what = .row && !has e.chunk.dst.toList dst then some (dst, 1) else none
  else if !has e.chunk.dst.toList a then some (a, 1) else none

/-- The next line of a chunk that is read (stage 1) or written (stage 3), under the chunk's translation, or, when its lease has ended, a
new one (05 R108, R112). -/
def State.engineLine (s : State) (n : Nat) (e : Engine) (what : EWhat) : State :=
  match e.chunk.todo with
  | [] => s
  | (o, a, len) :: _ =>
    match engineLacks e what a with
    | some (va, cls) => s.engineSend n e what va 1 (.translate cls)
    | none =>
      let act : Act := if e.chunk.stage = 1 then .load len 1 0 else .store 1 0 (e.chunk.bytes o len)
      match (if e.chunk.stage = 1 then e.chunk.srcs else e.chunk.dst.toList).find? fun t => t.va / 4096 == a / 4096 with
      | some t =>
        if s.leaseOver t then s.engineSend n e what a len act
        else (s.putEngine n { e with what := what }).requestPa (underPage t (s.engineReq n e a len act)) (.engine n)
      | none => s.engineSend n e what a len act

/-- Length of the chunk at offset `o` of a row, from address `a` to `b` (14 R295). -/
def rowChunk (d o a b : Nat) : Nat := min (d - o) (min (4096 - a % 4096) (4096 - b % 4096))

/-- The next chunk of a row's copy begins; after the last, the map entry is written or the choice dropped. -/
def State.engineRow (s : State) (n : Nat) (e : Engine) : State :=
  if e.rowBytes ≤ e.off then
    (if e.reason = 0 then s.engineMap n e else s.engineDrop n e e.e e.reason e.slot)
  else
    let a := e.rowVa + e.off
    let len := rowChunk e.rowBytes e.off a (e.slotVa + e.off)
    let k : Chunk := { len := len, stage := 1, todo := linePieces a len }
    s.engineLine n { e with chunk := k } .row

/-- `scatter` for the choice just read (15 R325). -/
def State.engineChoice (s : State) (n : Nat) (e : Engine) (word : Nat) : State :=
  let x := word % 65536
  let r := tblGet e.rank x 0
  if e.nexp ≤ x then s.engineDrop n e x 2 0xFFFFFFFF
  else if tblGet e.n x 0 ≤ r then s.engineDrop n e x 3 0xFFFFFFFF
  else
    let e1 := { e with rank := tblSet e.rank x (r + 1) }
    match tblGet e.base x 0 with
    | 0 => s.engineDrop n e1 x (tblGet e.bstat x 0) 0xFFFFFFFF
    | b + 1 =>
      let slot := b + r
      if (e.expert x).cap ≤ slot then s.engineDrop n e1 x 1 (slot % 2 ^ 32)
      else if e.lost.contains (e.expert x).home then s.engineDrop n e1 x 0x11 slot
      else s.engineRow n { e1 with e := x, slot := slot, off := 0, reason := 0 }

/-! COMBINE (15 R331). -/

/-- The next chunk of a token's output row begins; after the last, the token is settled. -/
def State.engineOutput (s : State) (n : Nat) (e : Engine) : State :=
  if e.rowBytes ≤ e.off then s.engineSettle n { e with nfail := e.nfail + b2n e.bad }
  else
    let a := e.rowVa + e.off
    let len := rowChunk e.rowBytes e.off a a
    let data := ((e.acc.drop (e.off / 2)).take (len / 2)).flatMap fun x => toBytes (f32ToBf16 0 x).1 2
    s.engineLine n { e with chunk := { len := len, stage := 3, todo := linePieces a len, buf := data } } .output

/-- After a choice of COMBINE: the next one's map entry, or the output row with the flags of its rounding. -/
def State.engineCombined (s : State) (n : Nat) (e : Engine) : State :=
  if e.c + 1 < e.k then
    let e1 := { e with c := e.c + 1 }
    s.engineSend n e1 .entry (e1.entryVa 2) 4 (.load 4 1 0)
  else
    let fl := e.acc.foldl (fun f x => f ||| (f32ToBf16 0 x).2) 0#5
    s.engineOutput n { e with off := 0, bad := false, flags := (BitVec.ofNat 5 e.flags ||| fl).toNat }

/-- The token fails: it writes no output row. -/
def State.engineTokenFails (s : State) (n : Nat) (e : Engine) (st va : Nat) : State :=
  s.engineSettle n { e.fails st false va with nfail := e.nfail + 1 }

/-- The return-map entry of a choice has been read. -/
def State.engineEntry (s : State) (n : Nat) (e : Engine) (m : Nat) : State :=
  if m = 0xFFFFFFFF then s.engineCombined n e
  else
    let x := m / 65536
    let slot := m % 65536
    if e.nexp ≤ x || (e.expert x).cap ≤ slot then s.engineTokenFails n e 0x47 (e.entryVa 2)
    else s.engineSend n { e with e := x, slot := slot } .gate (e.entryVa 1) 4 (.load 4 1 0)

/-- One element of a row joins the sum: `acc + g * x`, rounded once. -/
def combineElem (gate : Nat × FFlags) (acc x : Nat) : Nat × FFlags :=
  let v := bf16ToF32 x
  let r := fmaF 23 0 gate.1 v.1 acc
  (r.1, gate.2 ||| v.2 ||| r.2)

/-- The row of a choice has been read. -/
def State.engineGathered (s : State) (n : Nat) (e : Engine) : State :=
  let g := bf16ToF32 e.gate
  let xs := (countUp 0 (e.rowBytes / 2)).map fun i => ofBytes ((e.chunk.buf.drop (2 * i)).take 2)
  let r := (e.acc.zip xs).map fun p => combineElem g p.1 p.2
  let fl := r.foldl (fun f x => f ||| x.2) 0#5
  s.engineCombined n { e with acc := r.map fun x => x.1, flags := (BitVec.ofNat 5 e.flags ||| fl).toNat }

/-! Answers. -/

/-- A page of a chunk has been translated, for reading or for writing: it is noted. -/
def Chunk.noted (k : Chunk) (r : Req) : Option Chunk :=
  match r.act with
  | .translate 0 => some { k with srcs := k.srcs ++ [r] }
  | .translate _ => some { k with dst := some r }
  | _ => none

/-- A chunk's page is translated, or a line of it has been answered: the next line, the writing, or the end of the chunk. -/
def State.engineChunk (s : State) (n : Nat) (e : Engine) (req : Req) (st : Status) (data : List Byte) : State :=
  let k := e.chunk
  let out := e.what == .output
  let dst := k.stage == 3 || req.act == .translate 1
  let next (e : Engine) : State := if out then s.engineOutput n e else s.engineRow n e
  match st with
  | .fail code i1 _ =>
    let e1 := (e.fails code dst ((if out then e.rowVa else if dst then e.slotVa else e.rowVa) + e.off)).marks code i1
    next { e1 with off := e.off + k.len, bad := true, reason := if out || e.reason ≠ 0 then e.reason else code }
  | .ok =>
    match k.noted req with
    | some k1 => s.engineLine n { e with chunk := k1 } e.what
    | none =>
    let k1 := { k with todo := k.todo.tail, buf := if k.stage = 1 then k.buf ++ data else k.buf }
    if !k1.todo.isEmpty then s.engineLine n { e with chunk := k1 } e.what
    else if k.stage = 1 then
      s.engineLine n { e with chunk := { k1 with stage := 3, todo := linePieces (e.slotVa + e.off) k.len } } .row
    else next { e with off := e.off + k.len, done := e.done + k.len }

/-- An access of an engine has been answered. -/
def State.engineAnswer (s : State) (n : Nat) (req : Req) (st : Status) (data : List Byte) (value : Nat) : State :=
  let e := s.engine n
  let word := ofBytes data
  let x := e.expert e.cursor
  match e.what, st with
  | .count, .ok =>
    let i := word % 65536
    s.engineCounted n (if i < e.nexp then { e with n := tblSet e.n i (tblGet e.n i 0 + 1) } else e)
  | .count, .fail code i1 _ => s.engineCounted n ((e.fails code false (e.entryVa 1)).marks code i1)
  | .turn, .ok => s
  | .turn, .fail code i1 _ => s.engineExpertFails n ((e.fails code true x.turn).marks code i1) code
  | .fill, .ok =>
    let b := if value < x.fbase then 65535 else value - x.fbase
    let e1 := { e with base := tblSet e.base e.cursor (b + 1), what := .idle }
    if e.abort then s.engineComplete n e1
    else if e.ranked then s.engineSend n e1 .next x.turn 8 (.counter 0 1) else s.engineExpertDone n e1
  | .fill, .fail code i1 _ =>
    let e1 := (e.fails code true x.fill).marks code i1
    if e.abort then s.engineComplete n e1
    else if e.ranked && code ≠ Cause.remoteLost.code then
      s.engineSend n { e1 with bstat := tblSet e.bstat e.cursor code } .next x.turn 8 (.counter 0 1)
    else s.engineExpertFails n e1 code
  | .next, .ok => s.engineExpertDone n e
  | .next, .fail code i1 _ =>
    let e1 := (e.fails code true x.turn).marks code i1
    if code = Cause.remoteLost.code then s.engineExpertFails n e1 code else s.engineExpertDone n e1
  | .choice, .ok => s.engineChoice n e word
  | .choice, .fail code i1 _ => s.engineDrop n ((e.fails code false (e.entryVa 1)).marks code i1) 0xFFFF code 0xFFFFFFFF
  | .row, _ => s.engineChunk n e req st data
  | .output, _ => s.engineChunk n e req st data
  | .map, _ =>
    let e1 := match st with
      | .fail code i1 _ => (e.fails code true (e.entryVa 2)).marks code i1
      | .ok => e
    if e.reason = 0 then s.engineNextChoice n e1 else s.engineDropped2 n e1
  | .dropAdd, .ok => s.engineDropRec n e value
  | .dropAdd, .fail code i1 _ => s.engineNextChoice n ((e.fails code true (bitsOf (e.xc 4) 47 0)).marks code i1)
  | .dropRec, .ok => s.engineNextChoice n e
  | .dropRec, .fail code i1 _ => s.engineNextChoice n ((e.fails code true (bitsOf (e.xc 2) 47 0)).marks code i1)
  | .entry, .ok => s.engineEntry n e word
  | .entry, .fail code i1 _ => s.engineTokenFails n (e.marks code i1) code (e.entryVa 2)
  | .gate, .ok =>
    s.engineLine n { e with gate := word / 65536, off := 0,
                            chunk := { len := e.rowBytes, stage := 1, todo := linePieces e.slotVa e.rowBytes } } .gather
  | .gate, .fail code i1 _ => s.engineTokenFails n (e.marks code i1) code (e.entryVa 1)
  | .gather, .ok =>
    match e.chunk.noted req with
    | some k => s.engineLine n { e with chunk := k } .gather
    | none =>
    let k := { e.chunk with todo := e.chunk.todo.tail, buf := e.chunk.buf ++ data }
    if k.todo.isEmpty then s.engineGathered n { e with chunk := k } else s.engineLine n { e with chunk := k } .gather
  | .gather, .fail code i1 _ =>
    s.engineTokenFails n (e.marks code i1) code ((e.chunk.todo.head?.map fun t => t.2.1).getD e.slotVa)
  | .record, _ =>
    let s1 := match st with
      | .fail code _ _ => s.report
          { org := e.org, source := 6, code := code, space := e.space, addr := bitsOf (e.w 5) 47 0, hcube := s.cubeId, local_ := 0,
            ident := e.serial, detail := 0 }
      | .ok => s
    s1.engineAcks n e
  | .add, _ =>
    let s1 := match st with
      | .fail code _ _ => s.report
          { org := e.org, source := 6, code := code, space := e.space, addr := bitsOf (e.w 4) 47 0, hcube := s.cubeId, local_ := 0,
            ident := e.serial, detail := 0 }
      | .ok => s
    s1.engineEnd n e
  | .acks, _ | .idle, _ => s

/-- The last acknowledgement of a write of an engine has come. -/
def State.engineAcked (s : State) (n : Nat) : State :=
  let e := s.engine n
  if e.what = .acks then s.engineAcks n e else s

/-! The instructions (15 R318 to R321). -/

/-- The engine that a value names; bits [63:2] must be 0 (15 R319). -/
def State.withEngine (s : State) (v : Word) (k : Nat → State → State) : State :=
  if fld v 63 2 ≠ 0 then s.structError v.toNat 0x0A else k v.toNat s

/-- Is the issuing thread the owner of the engine? -/
def State.ownsEngine (s : State) (e : Engine) : Bool :=
  let t := s.cx
  e.ownedBy s.me t.gv (if t.gv then t.group else s.mx)

/-- Is a configuration descriptor malformed (15 R320)? -/
def configBad (ws : List Nat) : Bool :=
  let w (i : Nat) : Nat := nthD ws i 0
  bitsOf (w 0) 63 48 != 0 || bitsOf (w 1) 22 0 != 0 || bitsOf (w 2) 63 48 != 0 || bitsOf (w 3) 31 0 != 0
    || bitsOf (w 4) 63 48 != 0 || w 7 != 0 || (!bitOf (w 1) 51 && bitsOf (w 1) 50 23 != 0)
    || w 0 % 64 != 0 || w 2 % 16 != 0 || w 4 % 8 != 0 || (w 2 != 0 && w 4 == 0)

/-- Is an expert entry malformed (15 R321)? -/
def expertBad (ranked : Bool) (ws : List Nat) : Bool :=
  let w (i : Nat) : Nat := nthD ws i 0
  bitsOf (w 0) 51 48 != 0 || bitsOf (w 2) 63 48 != 0 || (ws.drop 4).any (fun x => x != 0)
    || bitsOf (w 0) 47 0 % 32 != 0 || bitsOf (w 1) 47 0 == 0 || bitsOf (w 1) 47 0 % 8 != 0
    || ranked != (w 2 != 0) || w 2 % 8 != 0

/-- An expert of its entry's words. -/
def expertOf (ws : List Nat) : Expert :=
  let w (i : Nat) : Nat := nthD ws i 0
  { home := bitsOf (w 0) 63 52, buf := bitsOf (w 0) 47 0, cap := bitsOf (w 1) 63 48, fill := bitsOf (w 1) 47 0,
    turn := bitsOf (w 2) 47 0, fbase := w 3 }

/-- The expert table is read, entry by entry, from entry `i` on: none while it is under way, or after a trap. -/
def State.readExperts (s : State) (table i : Nat) (ranked : Bool) : Nat → Option (List Expert) × State
  | 0 => (some [], s)
  | k + 1 =>
    let va := table + 64 * i
    if 2 ^ 48 ≤ va then (none, s.accessError va)
    else match s.readAt (i + 1) va 64 1 0 false with
    | (none, s1) => (none, s1)
    | (some b, s1) =>
      let ws := wordsOf b 8
      if expertBad ranked ws then (none, s1.structError va 8)
      else match s1.readExperts table (i + 1) ranked k with
        | (some r, s2) => (some (expertOf ws :: r), s2)
        | (none, s2) => (none, s2)

/-- `xcfg` (15 R317, R320, R321). -/
def execXcfg (h : Hd) (d a b : Opd) (s : State) : Res :=
  let i : Instr := .xcfg h d a b
  issue i h { a := some a, b := some b, d := some d } none anyMode
    (fun v s => s.withEngine v.b fun n s => s.checkEa v.a 64 fun va =>
      match s.readAt 0 va 64 1 0 false with
      | (none, s1) => s1
      | (some blk, s1) =>
        let ws := wordsOf blk 8
        if configBad ws then s1.structError va 7
        else match s1.readExperts (nthD ws 0 0) 0 (bitOf (nthD ws 1 0) 51) (bitsOf (nthD ws 1 0) 63 52 + 1) with
          | (none, s2) => s2
          | (some table, s2) =>
            let e := s2.engine n
            let t := s2.cx
            if e.state ≠ 0 && !s2.ownsEngine e then s2.finish i d 2#64
            else if t.roam && !s2.anchored s.me s.mx then s2.finish i d 3#64
            else if e.state = 2 || e.state = 3 then s2.finish i d 1#64
            else
              (s2.finish i d 0#64).putEngine n
                { state := 1, ocore := s.me, ogv := t.gv, oslot := if t.gv then t.group else s.mx, space := t.space,
                  task := t.isTask, org := t.origin, cfg := ws, table := table, serial := e.serial }) s

/-- Is a route or combine descriptor malformed (15 R322)? -/
def routeBad (ws : List Nat) : Bool :=
  let w (i : Nat) : Nat := nthD ws i 0
  bitsOf (w 0) 63 48 != 0 || bitsOf (w 1) 63 48 != 0 || bitsOf (w 2) 63 48 != 0 || bitsOf (w 3) 27 0 != 0
    || bitsOf (w 5) 63 48 != 0 || w 6 != 0 || w 7 != 0 || bitsOf (w 3) 63 40 == 0
    || w 0 % 32 != 0 || w 1 % 4 != 0 || w 2 % 4 != 0 || bitsOf (w 4) 47 0 % 8 != 0 || w 5 % 32 != 0

/-- The start of a run (15 R317, R322, R331). -/
def runInstr (i : Instr) (h : Hd) (d a b : Opd) (x : Option EFlags) (combine : Bool) (s : State) : Res :=
  issue i h { a := some a, b := some b, d := some d } none anyMode
    (fun v s => s.withEngine v.b fun n s => s.syncGate x fun s => s.checkEa v.a 64 fun va =>
      match s.readAt 0 va 64 1 0 false with
      | (none, s1) => s1
      | (some blk, s1) =>
        let ws := wordsOf blk 8
        let fin (s : State) (v : Word) : State :=
          let s2 := s.finish i d v
          if flagged x then s2.updCx Ctx.boundary else s2
        if routeBad ws then s1.structError va 9
        else
          let e := s1.engine n
          if !s1.ownsEngine e then fin s1 2#64
          else if e.state ≠ 1 && e.state ≠ 4 then fin s1 1#64
          else
            let t := s1.cx
            let e1 : Engine := { e with
              state := 2, cause := 0, space := t.space, task := t.isTask, org := t.origin, words := ws,
              rel := (x.map fun f => f.rel).getD false, phase := if combine then 3 else 0, cursor := 0, c := 0, drops := 0,
              serial := (e.serial + 1) % 2 ^ 32, what := .idle, lost := [], first := none, done := 0, nfail := 0, flags := 0,
              bad := false, pause := false, abort := false,
              n := if combine then e.n else [], rank := if combine then e.rank else [],
              base := if combine then e.base else [], bstat := if combine then e.bstat else [] }
            ((fin s1 0#64).putEngine n e1).emit (e1.nextStep n)) s

/-- `xroute` (15 R322). -/
def execXroute (h : Hd) (d a b : Opd) (x : Option EFlags) (s : State) : Res :=
  runInstr (.xroute h d a b x) h d a b x false s
/-- `xcombine` (15 R331). -/
def execXcombine (h : Hd) (d a b : Opd) (x : Option EFlags) (s : State) : Res :=
  runInstr (.xcombine h d a b x) h d a b x true s

/-- The word of an engine that a selector names (15 R332). -/
def Engine.word (e : Engine) (cube sel : Nat) : Nat :=
  if sel = 0 then putBits e.state 60 4 + putBits (if e.state = 0 then 0 else e.phase) 58 2 + putBits e.cause 56 2
    + putBits e.cursor 32 24 + min e.drops (2 ^ 32 - 1)
  else if sel = 1 then
    (if e.state = 0 || e.orphan then 0
     else putBits e.space 48 16 + putBits (cube * 256 + e.ocore) 28 20 + putBits (b2n e.ogv) 27 1
      + (if e.ogv then putBits e.oslot 24 3 else putBits e.oslot 19 5))
  else if 0x1000 ≤ sel && sel < 0x1000 + e.nexp then
    putBits (tblGet e.n (sel - 0x1000) 0) 32 32 + putBits (tblGet e.rank (sel - 0x1000) 0) 0 32
  else if 0x2000 ≤ sel && sel < 0x2000 + e.nexp then
    (match tblGet e.base (sel - 0x2000) 0 with
      | 0 => 2 ^ 64 - 1
      | b + 1 => b)
  else 0

/-- `xstat` (15 R332). -/
def execXstat (h : Hd) (d a b : Opd) (s : State) : Res :=
  let i : Instr := .xstat h d a b
  issue i h { a := some a, b := some b, d := some d } none anyMode
    (fun v s => s.withEngine v.a fun n s =>
      let e := s.engine n
      let hidden := s.cx.isTask && e.state != 0 && e.space != s.cx.space
      s.finish i d (BitVec.ofNat 64 (if hidden then 0 else e.word s.cubeId v.b.toNat))) s

/-- `xresume` (15 R328): the turn wait is registered again. -/
def execXresume (h : Hd) (d a : Opd) (s : State) : Res :=
  let i : Instr := .xresume h d a
  issue i h { a := some a, d := some d } none anyMode
    (fun v s => s.withEngine v.a fun n s =>
      let e := s.engine n
      if !s.ownsEngine e then s.finish i d 2#64
      else if e.state ≠ 3 || e.cause ≠ 2 then s.finish i d 1#64
      else ((s.finish i d 0#64).putEngine n { e with state := 2, cause := 0 }).emit (.engineOffsetExpert n)) s

/-- `xabort` (15 R329): a paused run, or one that waits for its turn, completes now; another at its next boundary. -/
def execXabort (h : Hd) (d a : Opd) (s : State) : Res :=
  let i : Instr := .xabort h d a
  issue i h { a := some a, d := some d } none anyMode
    (fun v s => s.withEngine v.a fun n s =>
      let e := s.engine n
      if !s.ownsEngine e && s.cx.isTask then s.finish i d 2#64
      else if (e.state ≠ 2 && e.state ≠ 3) || e.what = .record || e.what = .acks || e.what = .add then s.finish i d 1#64
      else
        let s1 := s.finish i d 0#64
        let e1 := { e with abort := true, state := 2, cause := 0 }
        if e.state = 3 then s1.engineComplete n { e1 with what := .idle }
        else if e.what = .turn then (s1.cancelTurn n).engineComplete n { e1 with what := .idle }
        else s1.putEngine n e1) s

end Sys2Proof.Machine
end

