-- ==== Sys2Proof/Machine/Suspend.lean ====
section
/-! DEFINITION. Suspension and resumption (16 R344 to R348; 11 R236): the checks, the light suspension, the save image, and
the restoration. One unit of the core carries each request out, access by access. -/

namespace Sys2Proof.Machine

/-! The target. -/

/-- The contexts of a target, lowest first. -/
def Core.targets (k : Core) (group : Bool) (slot : Nat) : List Nat :=
  if group then (countUp 0 32).filter fun x => (k.group slot).members.contains x else [slot]

/-- Is a context SUSPENDED? -/
def Core.suspended (k : Core) (x : Nat) : Bool := (k.ctx x).cstate == .suspended
/-- Is it fully suspended? -/
def Core.full (k : Core) (x : Nat) : Bool := ((k.ctx x).susp.map fun r => r.full).getD false

/-- The tiles of a target, lowest handle first (16 R345). -/
def Core.tilesOf (k : Core) (group : Bool) (slot : Nat) : List (Nat × Tile) :=
  let xs := k.targets group slot
  k.tiles.filter fun e => e.2.kind != 2
    && ((e.2.ownk == 0 && group && e.2.ownid == slot) || ((e.2.ownk == 1 || e.2.ownk == 2) && xs.contains e.2.ownid))

/-- The result code that refuses a request, 0 when it is taken up (11 R236). -/
def State.suspRefusal (s : State) (m : SuspMsg) : Nat :=
  let k := s.core m.core
  let xs := k.targets m.group m.slot
  let t := k.ctx m.slot
  if m.group && (8 ≤ m.slot || xs.isEmpty) then 2
  else if !m.group && (m.slot = 31 || t.cstate = .free || t.gv) then 2
  else if m.op = 1 && m.image % 4096 ≠ 0 then 2
  else if m.op ≠ 2 && m.who.core == s.gcore m.core && xs.contains m.who.idx then 3
  else if !m.group && t.cstate = .away then 4
  else if m.op = 2 then (if xs.any k.suspended then 0 else 4)
  else if xs.all k.suspended && (m.op = 0 || xs.any k.full) then 4
  else 0

/-! A request under way. -/

/-- The request with a number. -/
def State.suspJob (s : State) (id : Nat) : Option SuspJob := s.susps.find? fun j => j.id == id
/-- It is replaced. -/
def State.putSusp (s : State) (j : SuspJob) : State := { s with susps := s.susps.map fun x => if x.id = j.id then j else x }
/-- Do two requests name one target? -/
def sameTarget (a b : SuspMsg) : Bool := a.core == b.core && a.group == b.group && a.slot == b.slot

/-- A request is answered; the next one for its target begins (11 R236). -/
def State.suspDone (s : State) (j : SuspJob) (code : Nat) : State :=
  let s1 := { s with susps := s.susps.filter fun x => x.id != j.id }.opDone j.m.who j.m.id code
  match s1.susps.find? fun x => sameTarget x.m j.m with
  | some w => s1.emit (.suspensionRequest { w.m with phase := 1 })
  | none => s1

/-- The next access of a request is made: a read, a write, or, with neither, a translation for write. -/
def State.suspIssue (s : State) (j : SuspJob) : State :=
  match j.todo with
  | [] => s
  | (a, n, d) :: _ =>
    let act : Act := if n ≠ 0 then .load n 1 0 else if d.isEmpty then .translate 1 else .store 1 0 d
    let r : Req :=
      { who := coreAgent (s.gcore j.m.core), id := 0, org := { core := j.m.who.core, ctx := j.m.who.idx, start := 0 },
        space := j.m.space, va := a, task := j.m.task, act := act, words := wordMask a (max n d.length), cube := s.cubeId,
        probe := true }
    let s1 := s.putSusp j
    if 2 ^ 48 ≤ a then
      let x := s1.newOut r (.susp j.id)
      x.2.emit (.data (x.1.fail .accessError 0 0))
    else s1.requestVa r (.susp j.id)

/-- Writes of consecutive bytes, line by line. -/
def lineWrites : Nat → Nat → List Byte → List (Nat × Nat × List Byte)
  | 0, _, _ => []
  | k + 1, a, d => if d.isEmpty then [] else (a, 0, d.take 128) :: lineWrites k (a + 128) (d.drop 128)
/-- Reads of `n` consecutive lines. -/
def lineReads (a n : Nat) : List (Nat × Nat × List Byte) := (countUp 0 n).map fun i => (a + 128 * i, 128, [])

/-! The light suspension (16 R344). -/

/-- Has every request of a context left its core, or been parked? -/
def State.settled (s : State) (c x : Nat) : Bool :=
  (s.core c).suspended x && (s.ctx c x).tags.all fun p =>
    p.2.left || s.parked { kind := .thread, core := s.gcore c, idx := x } p.2.id

/-- Is a thread in the middle of an instruction that runs to its end: accesses of it have been answered, or one is under way
(16 Table 16.3; 13 R289)? -/
def State.midInstr (s : State) (c x : Nat) : Bool :=
  let t := s.ctx c x
  match t.wait with
  | .none => !t.got.isEmpty
  | .access id => !s.parked { kind := .thread, core := s.gcore c, idx := x } id
  | .op _ => true
  | _ => false

/-- The threads of a target stop issuing, each at its next instruction boundary. -/
def State.stopThreads (s : State) (m : SuspMsg) : State :=
  let s1 := (((s.core m.core).targets m.group m.slot).filter fun x =>
      !(s.core m.core).suspended x && !s.midInstr m.core x).foldl (fun s x =>
    let s0 := match (s.core m.core).seq with
      | some q => if q.ctx = x then s.releaseSeq m.core else s
      | none => s
    s0.updCtx m.core x fun t => { t with cstate := .suspended, susp := some ⟨false, 0, 0, [], false⟩ }) s
  s1.ownerSuspended m.core m.group m.slot

/-- Once every thread is settled, their blocked instructions take the fates of 16 Table 16.3; a suspension is a boundary. -/
def State.settle (s : State) (m : SuspMsg) : State :=
  (((s.core m.core).targets m.group m.slot).filter fun x =>
    match (s.ctx m.core x).susp with
    | some r => !r.settled
    | none => false).foldl (fun s x =>
      ((s.interrupt m.core x).updCtx m.core x fun t => { t with susp := t.susp.map fun r => { r with settled := true } }).reachBoundary
        m.core x) s

/-! The save image (16 R345, R346). -/

/-- REGION as the save area holds it (04 Table 4.4). -/
def Ctx.regionWord (t : Ctx) : Nat := putBits t.tch 42 22 + putBits t.tcl 20 22 + t.serial.toNat

/-- TAGS of the save area: eight tags of two words. -/
def Ctx.tagWords (t : Ctx) : List Nat :=
  (countUp 0 8).flatMap fun k => match t.tags.find? fun p => p.1 == k with
    | some (_, g) => [putBits g.fcause 56 8 + putBits g.dest 51 5 + putBits g.dkind 48 3 + g.pc.toNat % 2 ^ 48, g.finfo1]
    | none => [0, 0]

/-- The 768 bytes of a saved context: its save area (16 Table 16.7), and its mask registers. -/
def State.saveArea (s : State) (c x : Nat) : List Byte :=
  let t := s.ctx c x
  bytesOfWords (t.packed (s.statusWord c x)
      ++ [t.regionWord, t.ackWord, t.pendWord, t.trapCause.toNat, t.trapPc.toNat, t.trapStatus.toNat, t.info0.toNat,
          t.info1.toNat, t.info2.toNat, t.errRec.toNat, t.errn, 0]
      ++ t.tagWords ++ List.replicate 16 0)
    ++ ((countUp 1 7).flatMap fun i => toBytes (t.getM i).toNat 32) ++ List.replicate 32 0#8

/-- Bytes of a tile's F bits, padded to 64. -/
def Tile.fullBytes (t : Tile) : Nat := ceilDiv (t.total * (t.ppr + 1)) 512 * 64
/-- Bytes that a tile takes in an image. -/
def Tile.imageBytes (t : Tile) : Nat := 64 + t.fullBytes + t.total * t.rowBytes

/-- A tile in an image: its entry, its F bits, its rows. -/
def State.saveTile (s : State) (c : Nat) (e : Nat × Tile) : List Byte :=
  let t := e.2
  let f := (countUp 0 (t.total * (t.ppr + 1))).foldl (fun m i =>
    if s.peckFull t c (i / (t.ppr + 1)) (i % (t.ppr + 1) * 128) then m ||| 2 ^ i else m) 0
  toBytes t.word 8 ++ toBytes e.1 8 ++ List.replicate 48 0#8 ++ toBytes f t.fullBytes
    ++ (countUp 0 t.total).flatMap fun p => s.tileRead t c p 0 t.rowBytes

/-- Accumulators of a mask, lowest first. -/
def accList (mask : Nat) : List Nat := (countUp 0 8).filter fun a => bitOf mask a

/-- The words SH0 to SH6 of a target. -/
def State.imageHeader (s : State) (m : SuspMsg) : List Nat :=
  let k := s.core m.core
  let xs := k.targets m.group m.slot
  let g : Group := if m.group then k.group m.slot else {}
  let ts := k.tilesOf m.group m.slot
  let sh4 := 512 + 768 * xs.length
  let sh5 := sh4 + 2048 * g.blocks
  let sh6 := sh5 + 16384 * (accList g.accs).length
  let size := sh6 + (ts.map fun e => e.2.imageBytes).foldl (· + ·) 0
  [ putBits 1 48 16 + putBits xs.length 40 8 + putBits g.blocks 32 8 + putBits g.accs 24 8
      + putBits (k.asat.toNat &&& g.accs) 16 8 + putBits ts.length 8 8 + b2n (!m.group),
    size, putBits (s.gcore m.core) 44 20 + putBits m.slot 39 5, xs.foldl (fun w x => w + 2 ^ x) 0, sh4, sh5, sh6 ]

/-- The sections of the image after the header. -/
def State.imageBody (s : State) (m : SuspMsg) : List Byte :=
  let k := s.core m.core
  let g : Group := if m.group then k.group m.slot else {}
  ((k.targets m.group m.slot).flatMap fun x => s.saveArea m.core x)
    ++ memRead g.v 0 (2048 * g.blocks)
    ++ ((accList g.accs).flatMap fun a => (countUp (a * 4096) 4096).flatMap fun i => toBytes (memGet k.acc i).toNat 4)
    ++ (k.tilesOf m.group m.slot).flatMap fun e => s.saveTile m.core e

/-- From here on replies to the target's contexts belong to the image, at each context's area. -/
def State.markFull (s : State) (m : SuspMsg) : State :=
  let xs := (s.core m.core).targets m.group m.slot
  (countUp 0 xs.length).foldl (fun s i =>
    s.updCtx m.core (nthD xs i 0) fun t =>
      { t with susp := some ⟨true, m.image + 512 + 768 * i, m.space, [], true⟩ }) s

/-- A save that did not succeed leaves the contexts light-suspended. -/
def State.markLight (s : State) (m : SuspMsg) : State :=
  ((s.core m.core).targets m.group m.slot).foldl (fun s x =>
    s.updCtx m.core x fun t => { t with susp := some ⟨false, 0, 0, [], true⟩ }) s

/-- The replies that came while the image was written are written into it. -/
def State.flushKept (s : State) (c x : Nat) : State :=
  match (s.ctx c x).susp with
  | none => s
  | some r =>
    let t := s.ctx c x
    let s1 := { s with susps := s.susps.map fun (j : SuspJob) =>
      if j.m.op = 1 && j.m.core == c && j.step == 4 then { j with step := 5 } else j }
    let s2 := s1.updCtx c x fun t => { t with susp := some { r with kept := r.kept.filter fun e => e.1 == 24 } }
    if r.kept.isEmpty then s2
    else
      let s3 := r.kept.foldl (fun s e =>
        if e.1 < 16 then s.imageWrite c x (8 * e.1) (toBytes e.2 8) e.1 e.2
        else if e.1 < 24 then s.imageWrite c x 144 (toBytes (t.preds.toNat / 2) 1) e.1 e.2
        else s) s2
      ((s3.imageWrite c x 256 (bytesOfWords t.tagWords) 99 0).ackChanged c x).imageWrite c x 176
        (toBytes t.pendWord 8) 99 0

/-- What the target held on the core is free. -/
def State.freeTarget (s : State) (j : SuspJob) : State :=
  let m := j.m
  let c := m.core
  let k := s.core c
  let xs := k.targets m.group m.slot
  let s1 := (k.tilesOf m.group m.slot).foldl (fun s e => s.freeTile c e.1) s
  let s2 := s1.updCore c fun k =>
    if m.group then { k.updGroup m.slot fun g => { g with saved := g.accs, accs := 0, blocks := 0, closeAt := 0, closing := 0, giver := none, v := [] } with
      asat := k.asat &&& ~~~(BitVec.ofNat 8 (k.group m.slot).accs) } else k
  let s3 := xs.foldl (fun s x => s.flushKept c x) s2
  (if (s3.core c).claims.isEmpty then s3 else s3.emit (.vclaimServe c)).coreFreed c

/-! The restoration (16 R348). -/

/-- Word `i` of the header read. -/
def SuspJob.sh (j : SuspJob) (i : Nat) : Nat := nthD j.hdr i 0
/-- The bytes read so far. -/
def SuspJob.bytes (j : SuspJob) : List Byte := j.got.flatMap fun d => d
/-- The tiles of the image whose headers have been read: handle, entry, offset. -/
def SuspJob.saved (j : SuspJob) : List (Nat × Tile × Nat) :=
  ((countUp 0 ((j.hdr.length - 8) / 3)).map fun i =>
    (nthD j.hdr (9 + 3 * i) 0, Tile.ofWord (nthD j.hdr (8 + 3 * i) 0), nthD j.hdr (10 + 3 * i) 0))

/-- Does the header fit the target? -/
def State.headerFits (s : State) (j : SuspJob) : Bool :=
  let m := j.m
  let xs := (s.core m.core).targets m.group m.slot
  bitsOf (j.sh 0) 63 48 == 1 && bitsOf (j.sh 0) 0 0 == b2n (!m.group)
    && j.sh 2 == putBits (s.gcore m.core) 44 20 + putBits m.slot 39 5
    && j.sh 3 == xs.foldl (fun w x => w + 2 ^ x) 0

/-- The state with the target's tiles placed again at their handles, if they all fit (12 R260). -/
def State.placeSaved (s : State) (c : Nat) : List (Nat × Tile × Nat) → Option State
  | [] => some s
  | (h, t, _) :: r =>
    if (s.core c).tiles.any fun e => e.1 == h then none
    else match s.placement c t with
      | some t1 => (s.installTile c h { t1 with acore := c % 16 }).placeSaved c r
      | none => none

/-- Reservation of the accumulators and the tiles: none when any is held elsewhere. -/
def State.reserveTarget (s : State) (j : SuspJob) : Option State :=
  let m := j.m
  let accs := bitsOf (j.sh 0) 31 24
  if m.group && !(s.core m.core).accsFree accs then none
  else
    let s1 := if m.group then s.updCore m.core fun k => k.updGroup m.slot fun g => { g with accs := accs, saved := 0 } else s
    s1.placeSaved m.core j.saved

/-- The resources' contents, from the bytes of the image between SH4 and SIZE; what has not been read is zero. -/
def State.restoreResources (s : State) (j : SuspJob) : State :=
  let m := j.m
  let c := m.core
  let d := j.bytes
  let at_ (o n : Nat) : List Byte := (d.drop (o - j.sh 4)).take n
  let accs := accList (bitsOf (j.sh 0) 31 24)
  let s1 := if m.group then s.updCore c fun k =>
      let k1 := k.updGroup m.slot fun g => { g with v := memWrite [] 0 (at_ (j.sh 4) (2048 * g.blocks)) }
      let words (i : Nat) : List (Nat × Nat) :=
        (countUp 0 4096).map fun w => (nthD accs i 0 * 4096 + w, ofBytes (at_ (j.sh 5 + 16384 * i + 4 * w) 4))
      let acc := ((countUp 0 accs.length).flatMap words).foldl (fun t e => memSet t e.1 (BitVec.ofNat 32 e.2)) k1.acc
      let mask := BitVec.ofNat 8 (bitsOf (j.sh 0) 31 24)
      { k1 with acc := acc, asat := (k1.asat &&& ~~~mask) ||| (BitVec.ofNat 8 (bitsOf (j.sh 0) 23 16) &&& mask) }
    else s
  j.saved.foldl (fun s e =>
    match (s.core c).tile e.1 with
    | none => s
    | some t =>
      let o := e.2.2 + 64
      let f := ofBytes (at_ o t.fullBytes)
      let s2 := (countUp 0 t.total).foldl (fun s p =>
        s.tileWrite t c p 0 (at_ (o + t.fullBytes + p * t.rowBytes) t.rowBytes)) s
      let s3 := (countUp 0 (t.total * (t.ppr + 1))).foldl (fun s i =>
        let w := t.place c (i / (t.ppr + 1)) (i % (t.ppr + 1) * 128)
        s.updCore w.1 fun k => { k with fulls := memSet k.fulls w.2 (if bitOf f i then 1#1 else 0#1) }) s2
      s3.updCore c fun k => k.setTile e.1
        { t with head := e.2.1.head, tail := e.2.1.tail, occ := e.2.1.occ, pinned := e.2.1.ownk == 2 || e.2.1.pinned }) s1

/-- A context takes from its area the fields that software may write, and its masks. -/
def Ctx.restore (t : Ctx) (d : List Byte) : Ctx :=
  let w (i : Nat) : Word := BitVec.ofNat 64 (nthD (wordsOf d 64) i 0)
  let pfw := w 18
  { t with
    g := (countUp 0 16).foldl (fun l i => memSet l i (w i)) []
    pc := BitVec.ofNat 64 (fld (w 16) 47 0)
    fillLimit := BitVec.ofNat 16 (fld pfw 63 48)
    flags := BitVec.ofNat 5 (fld pfw 12 8)
    preds := BitVec.ofNat 8 (2 * fld pfw 6 0 + 1)
    toor := w 19
    trapCause := w 23, trapPc := w 24, trapStatus := w 25, info0 := w 26, info1 := w 27, info2 := w 28, errRec := w 29
    masks := (countUp 1 7).foldl (fun l i =>
      memSet l i (BitVec.ofNat 256 (ofBytes ((d.drop (512 + 32 * (i - 1))).take 32)))) [] }

/-- A reply kept for the context is applied. -/
def Ctx.applyKept (t : Ctx) (r : Nat × Nat) : Ctx :=
  if r.1 < 16 then t.setG r.1 (BitVec.ofNat 64 r.2)
  else if r.1 < 24 then t.setP (r.1 - 16) (r.2 != 0)
  else if r.1 = 24 then t.orFlags (BitVec.ofNat 5 r.2)
  else t

/-- The contexts, from the bytes of the image's thread section. -/
def State.restoreContexts (s : State) (j : SuspJob) : State :=
  let m := j.m
  let xs := (s.core m.core).targets m.group m.slot
  (countUp 0 xs.length).foldl (fun s i =>
    s.updCtx m.core (nthD xs i 0) fun t =>
      let t1 := t.restore ((j.bytes.drop (768 * i)).take 768)
      { (((t.susp.map fun r => r.kept).getD []).foldl Ctx.applyKept t1) with susp := some ⟨false, 0, 0, [], true⟩ }) s

/-- The threads of the target issue again (16 R348): one whose tag holds a failure traps first. -/
def State.goOn (s : State) (m : SuspMsg) : State :=
  let s1 := ((s.core m.core).targets m.group m.slot).foldl (fun s x =>
    let t := s.ctx m.core x
    if t.cstate ≠ .suspended then s
    else
      let s1 := (s.updCtx m.core x fun t => { t with cstate := .active, susp := none }).readDescriptor m.core x
      match Ctx.oldest { t with tags := t.tags.filter fun p => p.2.fcause != 0 } with
      | some g => (s1.backTo m.core x g).trapAt m.core x (causeOf g.fcause) g.pc g.finfo1 0 0
      | none => s1) s
  let s2 := s1.ownerResumed m.core m.group m.slot
  if (s2.core m.core).follows.isEmpty then s2 else s2.emit (.followOnMma m.core none)

/-! The steps. -/

/-- A request looks again a lease count later. -/
def State.suspPoll (s : State) (j : SuspJob) : State := s.later 1 (.suspensionRequest { j.m with phase := 2 })

/-- A save has met a fault: the target stays light-suspended. -/
def State.saveFault (s : State) (j : SuspJob) : State :=
  if j.m.op = 1 then (s.markLight j.m).suspDone j 5 else s.suspDone j 5

/-- Replies to the target's save images are under way. -/
def State.repliesOut (s : State) (m : SuspMsg) : Bool :=
  s.outs.any fun o => match o.purp with
    | .image c x _ _ => c == m.core && ((s.core m.core).targets m.group m.slot).contains x
    | _ => false

/-- A request goes on once the accesses of its step have been answered. -/
def State.suspOn (s : State) (j : SuspJob) : State :=
  let m := j.m
  let s := s.putSusp j
  let size := j.sh 1
  match j.step with
  | 0 =>
    let s := s.stopThreads m
    if !((s.core m.core).targets m.group m.slot).all (s.settled m.core) then s.suspPoll j
    else
      let s1 := s.settle m
      if m.op = 0 then s1.suspDone j 0
      else
        let h := s1.imageHeader m
        s1.suspIssue { j with
          step := 1
          hdr := h
          todo := lineWrites 4 m.image (bytesOfWords h ++ List.replicate (512 - 56) 0#8) }
  | 1 =>
    let pages := countUp (m.image / 4096 + 1) ((m.image + size - 1) / 4096 - m.image / 4096)
    let j1 := { j with step := 2, todo := pages.map fun p => (p * 4096, 0, []) }
    if pages.isEmpty then
      (s.markFull m).suspIssue { j with step := 3, todo := lineWrites size (m.image + 512) (s.imageBody m) }
    else s.suspIssue j1
  | 2 => (s.markFull m).suspIssue { j with step := 3, todo := lineWrites size (m.image + 512) (s.imageBody m) }
  | 3 | 4 =>
    let owing := s.outs.any fun o => match o.purp with
      | .susp id => id == j.id
      | _ => false
    if owing then s.putSusp { j with step := 4 } else ((s.putSusp { j with step := 4 }).freeTarget j).suspDone j 0
  | 10 =>
    let j1 := { j with hdr := (wordsOf j.bytes 7) ++ [0], got := [] }
    if !s.headerFits j1 then s.suspDone j 2
    else if bitsOf (j1.sh 0) 15 8 = 0 then
      match s.reserveTarget j1 with
      | none => s.suspDone j 4
      | some s1 => (s1.putSusp { j1 with step := 12 }).emit (.suspensionRequest { m with phase := 2 })
    else s.suspIssue { j1 with step := 11, todo := [(m.image + j1.sh 6, 64, [])] }
  | 11 =>
    let ws := wordsOf j.bytes 2
    let last := j.saved.getLast?
    let off := match last with
      | some e => e.2.2 + e.2.1.imageBytes
      | none => j.sh 6
    let j1 := { j with hdr := j.hdr ++ [nthD ws 0 0, nthD ws 1 0 % 64, off], got := [] }
    let t := Tile.ofWord (nthD ws 0 0)
    if 2 ≤ t.kind then s.suspDone j 2
    else if j1.saved.length < bitsOf (j.sh 0) 15 8 then
      s.suspIssue { j1 with todo := [(m.image + off + t.imageBytes, 64, [])] }
    else match s.reserveTarget j1 with
      | none => s.suspDone j 4
      | some s1 => (s1.putSusp { j1 with step := 12 }).emit (.suspensionRequest { m with phase := 2 })
  | 12 =>
    let n := bitsOf (j.sh 0) 39 32
    if !m.group || n = 0 then (s.putSusp { j with step := 13 }).emit (.suspensionRequest { m with phase := 3 })
    else
      let q : Claim := { group := m.slot, n := n, ctx := none, bytes := 0, job := j.id }
      ((s.putSusp { j with step := 13 }).updCore m.core fun k => { k with claims := q :: k.claims }).emit (.vclaimServe m.core)
  | 13 =>
    let n := ceilDiv (size - j.sh 4) 128
    let j1 := { j with step := 14, got := [], todo := lineReads (m.image + j.sh 4) n }
    if n = 0 then (s.putSusp j1).emit (.suspensionRequest { m with phase := 2 }) else s.suspIssue j1
  | 14 =>
    if s.repliesOut m then s.suspPoll j
    else
      let s1 := s.restoreResources j
      s1.suspIssue { j with
        step := 15
        got := []
        todo := lineReads (m.image + 512) (6 * ((s.core m.core).targets m.group m.slot).length) }
  | _ => ((s.restoreContexts j).goOn m).suspDone j 0

/-- An access of a request has failed. -/
def State.suspFault (s : State) (j : SuspJob) : State :=
  match j.step with
  | 14 => ((s.restoreResources j).restoreContexts { j with got := [] }).suspDone j 5
  | 15 => (s.restoreContexts j).suspDone j 5
  | _ => s.saveFault j

/-- An access of a request has been answered. -/
def State.suspAnswer (s : State) (id : Nat) (st : Status) (data : List Byte) : State :=
  match s.suspJob id with
  | none => s
  | some j =>
    match st with
    | .fail .. => s.suspFault j
    | .ok =>
      let j1 := { j with todo := j.todo.tail, got := if 10 ≤ j.step then j.got ++ [data] else j.got }
      if j1.todo.isEmpty then s.suspOn j1 else s.suspIssue j1

/-- The last acknowledgement of an image write has come. -/
def State.suspAcked (s : State) (id : Nat) : State :=
  match s.suspJob id with
  | some j => if j.step = 4 then s.suspOn j else s
  | none => s

/-- A request that has reached its turn begins. -/
def State.suspBegin (s : State) (j : SuspJob) : State :=
  let m := j.m
  let code := s.suspRefusal m
  if code ≠ 0 then s.suspDone j code
  else if m.op ≠ 2 then s.suspOn { j with step := 0 }
  else if ((s.core m.core).targets m.group m.slot).any (s.core m.core).full then
    s.suspIssue { j with step := 10, todo := lineReads m.image 1 }
  else (s.goOn m).suspDone j 0

/-- SUSPENSION_REQUEST (11 R236; 16 R344 to R348). Phase 0: a request has arrived, and begins unless an earlier one for its
target is under way; 1: it begins now; 2: it looks again; 3: its blocks have been claimed. -/
def doSuspensionRequest (m : SuspMsg) (s : State) : State :=
  match m.phase with
  | 0 =>
    let j : SuspJob := { id := m.id, m := m, step := 9 }
    let busy := s.susps.any fun x => sameTarget x.m m
    let s1 := { s with susps := s.susps ++ [j] }
    if busy then s1 else s1.suspBegin j
  | 1 => match s.suspJob m.id with
    | some j => if j.step = 9 then s.suspBegin j else s
    | none => s
  | _ => match s.suspJob m.id with
    | some j => if j.todo.isEmpty then s.suspOn j else s
    | none => s

end Sys2Proof.Machine
end

