-- ==== Sys2Proof/Machine/Errors.lean ====
section
/-! DEFINITION. The cube's error queue and issuers' error records (16 R341, R342), and errors of the memory and failed
vaults (16 R343; 17 R364, R365). -/

namespace Sys2Proof.Machine

/-- A record goes to the cube's error queue (16 R341). -/
def State.queueError (s : State) (e : ErrItem) (norec : Bool) : State := s.putItem (.err e norec)

/-- Does the context still answer for a start (16 R342)? -/
def Ctx.answersFor (t : Ctx) (start : Nat) : Bool := t.cstate != .free && t.startNo.toNat == start

/-- ERROR_RECORD_ITEM (16 R341, R342): the area record of the origin context, whose outcome decides NOREC of the queue
record; an item of the queue alone is queued. -/
def doErrorRecordItem (e : ErrItem) (s : State) : State :=
  if e.queue || e.org.ctx = 99 then s.queueError e false
  else
    let c := e.org.core % 256
    let t := s.ctx c e.org.ctx
    let log := if 16 < fld t.errRec 4 0 then 0 else fld t.errRec 4 0
    let va := fld t.errRec 47 6 * 64 + 64 * (t.errn % 2 ^ log)
    if log = 0 || !t.answersFor e.org.start || decide (2 ^ 48 < va + 64) then s.queueError e true
    else
      let d := bytesOfWords (errWords e false 0 s.leaseNow t.errn)
      let r : Req :=
        { who := coreAgent (s.gcore c), id := 0, org := e.org, space := t.space, va := va, task := t.isTask,
          act := .store 1 0 d }
      (s.updCtx c e.org.ctx fun t => { t with errn := t.errn + 1 }).requestVa r (.area c e.org.ctx e)

/-- The write of an area record has ended: PEND is set, also in the save image of a suspended context, and the queue
record follows (16 R342). -/
def State.areaAnswer (s : State) (c x : Nat) (e : ErrItem) (ok : Bool) : State :=
  if !ok then s.queueError e true
  else
    let s1 := if (s.ctx c x).answersFor e.org.start then
        let s2 := s.updCtx c x fun t => { t with errRec := setFld t.errRec 5 5 1 }
        s2.imageWrite c x 232 (toBytes (s2.ctx c x).errRec.toNat 8) 99 0
      else s
    s1.queueError e false

/-- A vault fails (17 R364, R365). -/
def doVaultFailure (vault : Nat) (s : State) : State :=
  if s.svc.failed.contains vault then s
  else { s with svc := { s.svc with failed := vault :: s.svc.failed } }.setReplace 4

/-- UNCORRECTABLE_ERROR (16 R343; 17 R365): the line is poisoned at its home, with a record; the sixteenth line of a vault
struck within a grain fails the vault. -/
def doUncorrectableError (line : Nat) (s : State) : State :=
  let s1 := (s.setPoison line).report
    { org := ⟨s.cubeId * 256, 0, 0⟩, source := 1, code := Cause.poison.code, space := 0, addr := 0, hcube := s.cubeId,
      local_ := line * 128, ident := 0, detail := 0 }
  let recent := (line, s.leaseNow) :: s.svc.struck.filter fun p => p.1 != line && decide (s.leaseNow < p.2 + 1024)
  let s2 := { s1 with svc := { s1.svc with struck := recent } }
  if 16 ≤ (recent.filter fun p => vaultOf p.1 == vaultOf line).length then doVaultFailure (vaultOf line) s2 else s2

/-- CORRECTED_ERROR (17 R364): more than 1,024 within one grain set the ECC cause. -/
def doCorrectedError (_line : Nat) (s : State) : State :=
  let recent := s.leaseNow :: s.svc.corrected.filter fun t => decide (s.leaseNow < t + 1024)
  let s1 := { s with svc := { s.svc with corrected := recent } }
  if 1024 < recent.length then s1.setReplace 5 else s1

end Sys2Proof.Machine
end

