-- ==== Sys2Proof/Machine/HostPort.lean ====
section
/-! DEFINITION. The CXL port (17 R350 to R354; 03 R75): the host's accesses to the window, snoops to the host, and the
injection aperture. An access names its offset in the decoder's range. -/

namespace Sys2Proof.Machine

/-- The port as an agent. -/
def State.hostAgent (s : State) : Agent := { kind := .host, core := s.cubeId * 256, idx := 0 }

/-- The physical address at an offset of the decoder's range, while the window is open (17 R351). -/
def State.hostPa (s : State) (off : Nat) : Option Nat :=
  let log := fld s.regs.hwinSize 5 0
  let base := fld s.regs.hwinBase 51 28 * 2 ^ 28
  if bitOf s.regs.hostCtl.toNat 0 && decide (28 ≤ log) && decide (log ≤ 52) && base % 2 ^ log == 0 && decide (off < 2 ^ log)
  then some (base + off) else none

/-- A failed access of the host is recorded (17 R351). -/
def State.hostError (s : State) (code i2 : Nat) : State :=
  s.report
    { org := ⟨s.cubeId * 256, 0, 0⟩, source := 8, code := code, space := 0, addr := 0, hcube := bitsOf i2 63 52,
      local_ := bitsOf i2 36 0, ident := 0, detail := 0 }

/-- A read of the host is answered. -/
def State.hostReply (s : State) (off : Nat) (data : List Byte) (poison : Bool) : State :=
  { s with svc := { s.svc with answers := s.svc.answers ++ [{ gpa := off, data := data, poison := poison }] } }

/-- An access of the host to one 64-byte line: kind 0 a read that takes the line exclusive, 1 shared, 2 without caching,
3 a write, 4 a write-back (03 R75). With no home, a read is answered with poison and a write dropped. -/
def State.hostAccess (s : State) (kind off : Nat) (act : Act) : State :=
  if s.svc.recovery then s
  else
    match s.hostPa (off / 64 * 64) with
    | none =>
      let s1 := s.hostError Cause.accessError.code 0
      if kind < 3 then s1.hostReply off [] true else s1
    | some pa =>
      s.requestPa
        { unitReq s.hostAgent pa act with va := pa, at_ := off, words := wordMask pa 64, dest := off } (.host kind)

/-- HOST_READ_EXCLUSIVE (03 R75). -/
def doHostReadExclusive (off : Nat) (s : State) : State := s.hostAccess 0 off (.load 64 3 0)
/-- HOST_READ_SHARED (03 R75). -/
def doHostReadShared (off : Nat) (s : State) : State := s.hostAccess 1 off (.load 64 2 0)
/-- HOST_READ_NOCACHE (03 R75). -/
def doHostReadNocache (off : Nat) (s : State) : State := s.hostAccess 2 off (.load 64 1 0)
/-- HOST_WRITE (03 R75). -/
def doHostWrite (off : Nat) (data : List Byte) (s : State) : State := s.hostAccess 3 off (.store 1 0 (data.take 64))
/-- HOST_WRITEBACK (03 R75): a write-back, or the eviction of a clean line. -/
def doHostWriteback (off : Nat) (dirty : Bool) (data : List Byte) (s : State) : State :=
  let m := wordMask (off / 64 * 64) 64
  s.hostAccess 4 off
    (.wb m (if dirty then m else 0) (overlay (List.replicate 128 0#8) (off / 64 * 64 % 128) (data.take 64)))

/-! The injection aperture (17 R353). -/

/-- Slot `k` of the aperture. -/
def State.hslot (s : State) (k : Nat) : HSlot := tblGet s.svc.slots k {}
/-- It is changed. -/
def State.updHslot (s : State) (k : Nat) (f : HSlot → HSlot) : State :=
  { s with svc := { s.svc with slots := tblSet s.svc.slots k (f (s.hslot k)) } }

/-- SLOT_PACKET_WRITE (17 R353): discarded while the slot is busy. -/
def doSlotPacketWrite (slot word value : Nat) (s : State) : State :=
  if 32 ≤ slot || 16 ≤ word || (s.hslot slot).busy || s.svc.recovery then s
  else s.updHslot slot fun h =>
    { h with words := setNth (h.words ++ List.replicate (16 - h.words.length) 0) word (value % 2 ^ 64) }

/-- A write of the host with an earlier number is not performed yet. -/
def State.hostWriting (s : State) (before : Nat) : Bool :=
  s.outs.any fun o => decide (o.id < before) && match o.purp with
    | .host k => k == 3
    | _ => false

/-- The packet of a slot is presented to the task unit; its SPACE is used as written. -/
def State.present (s : State) (slot kind : Nat) : State :=
  s.emit (.taskAdmission 2 (some
    { who := { s.hostAgent with idx := slot }, id := 0, org := ⟨s.cubeId * 256, 99, 0⟩, job := kind == 2,
      words := (countUp 0 16).map fun i => nthD (s.hslot slot).words i 0, acq := some 3 }))

/-- The doorbells before which no write of the host is still to be performed present their packets. -/
def State.ringBells (s : State) : State :=
  let go (b : Nat × Nat × Nat) : Bool := !s.hostWriting b.2.2
  (s.svc.bells.filter go).foldl (fun s b => s.present b.1 b.2.1)
    { s with svc := { s.svc with bells := s.svc.bells.filter fun b => !go b } }

/-- DOORBELL (17 R353): the packet is taken as it stands and presented once the host's earlier writes are performed;
a malformed doorbell, or one while HOST_CTL.INJ = 0, is refused. -/
def doDoorbell (slot value : Nat) (s : State) : State :=
  if 32 ≤ slot || (s.hslot slot).busy || s.svc.recovery then s
  else
    let s1 := s.updHslot slot fun h => { h with result := 2 ^ 64 - 2, busy := true }
    if !bitOf s.regs.hostCtl.toNat 1 || value = 0 || 2 < value then s1.emit (.doorbellResult slot (2 ^ 64 - 1))
    else { s1 with svc := { s1.svc with bells := s1.svc.bells ++ [(slot, value, s.tick)] } }.ringBells

/-- DOORBELL_RESULT (17 R353, R354). -/
def doDoorbellResult (slot value : Nat) (s : State) : State :=
  (s.updHslot slot fun h => { h with result := value, busy := false }).sendMsix 2

/-! Answers to the host's accesses. -/

/-- An access of the host goes on: a read is answered once its words, and a grant, have come; a write is performed once
its acknowledgements have. -/
def State.hostTry (s : State) (o : Out) (kind : Nat) : State :=
  if kind < 3 then
    if o.lacks ≠ 0 || (kind = 0 && !o.granted) then s
    else
      let s1 := s.hostReply o.req.dest (o.bytes 64) false
      if 0 < o.acks then s1.updOut o.id fun (o : Out) => { o with purp := Purp.host 5 } else s1.dropOut o.id
  else if (o.granted || kind = 5) && o.acks ≤ 0 then (s.dropOut o.id).ringBells
  else s

/-- An access of the host has failed: a read is answered with poison, a write dropped (17 R351). -/
def State.hostFail (s : State) (o : Out) (kind code i2 : Nat) : State :=
  let s1 := s.dropOut o.id
  let s2 := if code = Cause.poison.code then s1 else s1.hostError code i2
  if kind < 3 then s2.hostReply o.req.dest [] true else s2.ringBells

/-! Snoops (03 R75; 17 R352). -/

/-- A message for the host leaves as a back-invalidation snoop, whose answer is awaited for 1 ms. -/
def State.hostSnoop (s : State) (m : Msg) : State :=
  let n := s.newId
  let q : Snoop := { id := n.1, msg := m }
  { n.2 with svc := { n.2.svc with snoops := n.2.svc.snoops ++ [q] } }.later 100000 (.snoopTimeout n.1)

/-- The state after the host has answered a snoop with property `p`, if one is waiting. -/
def State.takeSnoop (s : State) (p : Msg → Bool) : Option State :=
  match s.svc.snoops.find? fun q => p q.msg with
  | some q => some { s with svc := { s.svc with snoops := s.svc.snoops.filter fun x => x.id != q.id } }
  | none => none

/-- SNOOP_TIMEOUT (17 R352): the host is a lost registrant. -/
def doSnoopTimeout (id : Nat) (s : State) : State :=
  match s.svc.snoops.find? fun q => q.id == id with
  | none => s
  | some q =>
    let s1 := { s with svc := { s.svc with snoops := s.svc.snoops.filter fun x => x.id != id } }
    let lost (m : CohMsg) (kind : Nat) (r : Option Req) : State := s1.post m.home s1.hostAgent 0 (.hostLost m kind r)
    match q.msg with
    | .inv m => lost m 3 none
    | .fwdRead m r | .fwdOwn m r => lost m 0 (some r)
    | .revoke m => lost m 1 none
    | .revokeWb m => lost m 2 none
    | _ => s1

end Sys2Proof.Machine
end

