-- ==== Sys2Proof/Machine/Links.lean ====
section
/-! DEFINITION. The link ports (06 R119 to R123, R130, R134, R145, R146): sending by bundles under limits, receiving,
replay, training, fencing and loss. A packet's `hop` is, inside the router, the level of the link it goes to next. -/

namespace Sys2Proof.Machine

/-! Sending. -/

/-- The virtual channel of a packet's next link (06 R129). -/
def chanOf (p : Packet) : Nat := p.cls * 7 + p.hop
/-- Flits of a packet. -/
def flitsOf (p : Packet) : Nat := 1 + p.len
/-- The limit of a channel toward the peer (06 R130). -/
def Port.limit (q : Port) (c : Nat) : Nat := tblGet q.limTx c 137
/-- The limit granted to the peer. -/
def Port.granted (q : Port) (c : Nat) : Nat := tblGet q.limRx c 137
/-- Unreturned flits of a channel. -/
def Port.unretOf (q : Port) (c : Nat) : Nat := tblGet q.unret c 0
/-- The unused limit of a channel. -/
def Port.room (q : Port) (c : Nat) : Nat := q.limit c - q.unretOf c
/-- The flits of a channel change in number. -/
def Port.addUnret (q : Port) (c n : Nat) : Port := { q with unret := tblSet q.unret c (q.unretOf c + n) }
/-- Flits of a channel are returned. -/
def Port.subUnret (q : Port) (c n : Nat) : Port := { q with unret := tblSet q.unret c (q.unretOf c - n) }
/-- Flits in the replay buffer. -/
def Port.replayFlits (q : Port) : Nat := (q.replay.map fun x => x.flits.length).foldl (· + ·) 0
/-- Do packets leave by the port? -/
def Port.sends (q : Port) : Bool := q.state == 2 || q.state == 3

/-- Bundles of eight flits, filled with IDLE (06 R122), from bundle number `n`; `k` bounds their number. -/
def bundlesOf (n : Nat) : Nat → List Flit → List Bundle
  | 0, _ => []
  | k + 1, l =>
    if l.isEmpty then []
    else
      let b := l.take 8
      { num := n, good := true, flits := b ++ List.replicate (8 - b.length) .idle } :: bundlesOf ((n + 1) % 4096) k (l.drop 8)

/-- Flits leave on the line. -/
def Port.sendLine (q : Port) (l : List Flit) : Port :=
  { q with line := q.line ++ bundlesOf q.txNum l.length l, txNum := (q.txNum + ceilDiv l.length 8) % 4096 }

/-- Is a control flit repeated by a replay? -/
def repeated : Flit → Bool
  | .credit _ | .limits _ | .limitAck | .fence | .fenceAck | .stomp => true
  | _ => false

/-- A control flit leaves in a bundle of its own. -/
def State.sendCtrl (s : State) (p : Nat) (f : Flit) : State :=
  s.updPort p fun q =>
    if !q.lanesOn then q
    else { (q.sendLine [f]) with ctl := if repeated f && q.state != 1 then q.ctl ++ [(q.txNum, f)] else q.ctl }

/-- The entry that sends next: of the packets sent again the first; the packet in progress; else one of a channel with
unused limit, which the spec does not order. -/
def Port.pick (q : Port) (turn : Nat) : Option (Bool × Nat × Queued) :=
  let ok (c : Nat) (e : Queued) : Bool := decide (e.sent < e.have_) && decide (0 < q.room c) && decide (q.replayFlits < 1024)
  match q.resend with
  | e :: _ => if ok (chanOf e.pkt) e then some (true, chanOf e.pkt, e) else none
  | [] =>
    match q.cur with
    | some c => match tblGet q.outq c [] with
      | e :: _ => if ok c e then some (false, c, e) else none
      | [] => none
    | none =>
      let l := q.outq.filterMap fun p => match p.2 with
        | e :: _ => if ok p.1 e then some (p.1, e) else none
        | [] => none
      match l[turn % max 1 l.length]? with
      | some (c, e) => some (false, c, e)
      | none => none

/-- The header flit as it leaves: AGE gains the time held here and LFLY (06 R141). -/
def headOf (q : Port) (now : Nat) (p : Packet) : Flit :=
  .head { p with age := min 2047 (p.age + (now - p.at_) + q.lfly), at_ := 0 }

/-- The entry after one flit has left it in bundle `bn`: the queue without it when it is done, the replay buffer with the
flit. -/
def Port.sendFlit (q : Port) (again : Bool) (c bn : Nat) (e : Queued) : Port :=
  let e1 := { e with sent := e.sent + 1, freed := max e.freed (e.sent + 1) }
  let done := e1.sent == flitsOf e.pkt
  let q1 := if again then { q with resend := if done then q.resend.drop 1 else e1 :: q.resend.drop 1 }
    else
      let rest := (tblGet q.outq c []).drop 1
      { q with outq := tblSet q.outq c (if done then rest else e1 :: rest), cur := if done then none else some c }
  let q2 := q1.addUnret c 1
  if e.sent = 0 then { q2 with replay := q2.replay ++ [{ pkt := e.pkt, flits := [bn], bad := e.bad }] }
  else match q2.replay.getLast? with
    | some r => { q2 with replay := q2.replay.dropLast ++ [{ r with flits := r.flits ++ [bn], bad := r.bad || e.bad }] }
    | none => q2

/-- The flits that can leave now, with the input slots that they free: port and channel. -/
def pumpLoop (now turn : Nat) : Nat → Port → List Flit → List (Nat × Nat) → Port × List Flit × List (Nat × Nat)
  | 0, q, acc, cr => (q, acc, cr)
  | k + 1, q, acc, cr =>
    match q.pick turn with
    | none => (q, acc, cr)
    | some (again, c, e) =>
      let f := if e.sent = 0 then headOf q now e.pkt else .body (!e.bad)
      let cr1 := if e.freed ≤ e.sent && e.sent < e.cut then cr ++ e.from_.toList else cr
      pumpLoop now turn k (q.sendFlit again c ((q.txNum + acc.length / 8) % 4096) e) (acc ++ [f]) cr1

/-- Slots of an input buffer are freed and returned to the sender (06 R130). -/
def State.returnSlots (s : State) (p c n : Nat) : State :=
  if n = 0 then s
  else (s.updPort p fun q => { q with held := tblSet q.held c (tblGet q.held c 0 - n) }).sendCtrl p (.credit [(c, n)])

/-- Slots freed one by one, returned together. -/
def State.returnAll (s : State) (l : List (Nat × Nat)) : State :=
  l.eraseDups.foldl (fun s x => s.returnSlots x.1 x.2 (l.filter fun y => y == x).length) s

/-- Is everything sent, acknowledged and returned (06 R146)? -/
def Port.drained (q : Port) : Bool :=
  (q.outq.all fun p => p.2.isEmpty) && q.resend.isEmpty && q.replay.isEmpty && q.unret.all fun p => p.2 == 0

/-- A fencing port that has drained says so once. -/
def State.fenceCheck (s : State) (p : Nat) : State :=
  let q := s.port p
  if q.state = 3 && q.drained && (q.fencing || !q.fenceSent) then s.emit (.fenceDrained p) else s

/-- What can leave a port leaves. -/
def State.pump (s : State) (p : Nat) : State :=
  let q := s.port p
  if !q.sends then s
  else
    let r := pumpLoop s.leaseNow (Config.turn s.tick) 1024 q [] []
    ((s.updPort p fun _ => r.1.sendLine r.2.1).returnAll r.2.2).fenceCheck p

/-! Packets that are given up. -/

/-- The queue entries of a port. -/
def Port.entries (q : Port) : List Queued := (q.outq.flatMap fun p => p.2) ++ q.resend

/-- The output ports that hold an entry of the packet coming in on `p`, not yet whole. -/
def comingFrom (p : Nat) (e : Queued) : Bool :=
  decide (e.have_ < flitsOf e.pkt) && (match e.from_ with
    | some x => x.1 == p
    | none => false)

/-- Entries without those with property `f`; a packet in progress among them leaves its channel free. -/
def Port.without (q : Port) (f : Queued → Bool) : Port :=
  { q with
    outq := q.outq.map fun p => (p.1, p.2.filter fun e => !f e)
    resend := q.resend.filter fun e => !f e
    cur := if q.entries.any fun e => f e && decide (0 < e.sent) then none else q.cur }

/-- Entries of a packet coming in on `p` that is given up when the packet or its last bundle fails: it is not whole, or a flit of it
came in a bundle whose tag is not found good. -/
def unsureFrom (p : Nat) (e : Queued) : Bool :=
  comingFrom p e || (decide (e.cut < 16) && (match e.from_ with
    | some x => x.1 == p
    | none => false))

/-- The slots of the input buffer that an entry still holds: port and channel, one for each. -/
def Queued.slots (e : Queued) : List (Nat × Nat) :=
  match e.from_ with
  | some x => List.replicate (min (min e.have_ (flitsOf e.pkt)) e.cut - e.freed) x
  | none => []

/-- Port `o` gives up what it has of the packets that fail on port `p`: STOMP follows one that it has begun to send. -/
def State.stompOut (s : State) (p o : Nat) : State :=
  let begun := (s.port o).entries.any fun e => unsureFrom p e && decide (0 < e.sent)
  let s1 := s.updPort o fun q => q.without (unsureFrom p)
  if !begun then s1
  else
    (s1.updPort o fun q => match q.replay.getLast? with
      | some r => { q with replay := q.replay.dropLast ++ [{ r with stomped := true }] }
      | none => q).sendCtrl o .stomp

/-- The packets not received whole on port `p` are discarded (06 R134): STOMP follows what has been forwarded of them, and their
slots are returned. -/
def State.dropPartial (s : State) (p : Nat) : State :=
  let a := (s.port p).partials
  let s1 := { s with events := s.events.filter fun e => match e with
      | .packetForward (some i) k => !(i == p && (a.map fun (a : Partial) => a.pkt) == some k)
      | _ => true }.updPort p fun q => { q with partials := none }
  let l := (countUp 0 16).flatMap fun o => (s1.port o).entries.filter (unsureFrom p)
  let back := match a with
    | some a => if a.mode = 1 || l.any (comingFrom p) then []
        else List.replicate (min a.got a.cut) (p, a.pkt.cls * 7 + (a.pkt.hop - 1))
    | none => []
  let outs := (countUp 0 16).filter fun o => (s1.port o).entries.any (unsureFrom p)
  (outs.foldl (fun s o => s.stompOut p o) s1).returnAll (l.flatMap Queued.slots ++ back)

/-! Loss (06 R145). -/

/-- The sources that a request packet answers to: its own, and each contributor's. -/
def packetSources (p : Packet) : List (Nat × Nat × Nat) := (p.src, p.cls, p.seq) :: p.contribs.map fun e => (e.cube, e.cls, e.seq)

/-- An answer that the router makes in place of the destination of `p`, to one of its sources. -/
def State.synthesize (s : State) (p : Packet) (pt : Nat) (x : Nat × Nat × Nat) (m : Msg) (opx : Nat) : State :=
  s.emit (.packetForward none
    { s.packetFor pt 2 x.1 x.2.2 (routerAgent s.cubeId) m with src := p.dst, opx := opx, aux := x.2.1, contribs := [] })

/-- Is the packet a request that is answered under its SEQ? -/
def isRequest (p : Packet) : Bool := p.pt == 0 || p.pt == 4

/-- REMOTE_LOST for the requests among the packets of a lost port; other packets seek another route, but those for the
lost peer. A copy of a multicast has no SEQ to answer; its source sends it again. -/
def State.lose (s : State) (peer : Nat) (p : Packet) : State :=
  if p.pt = 5 then s
  else if isRequest p then
    (packetSources p).foldl (fun s x => s.synthesize p 1 x
      (.remoteLost (routerAgent s.cubeId) 0 peer (p.dst != peer)) (256 * b2n (p.dst != peer) + Cause.remoteLost.code)) s
  else if p.dst = peer then s
  else s.emit (.packetForward none p)

/-- A port without traffic, in a state. -/
def Port.emptied (q : Port) (st : Nat) : Port :=
  { state := st, mode := q.mode, lfly := q.lfly, tagfail := q.tagfail, peer := q.peer, peerPort := q.peerPort,
    lanesOn := q.lanesOn, line := q.line, epoch := q.epoch + 1 }

/-- While the boot ROM waits for its ports, the last to leave TRAINING lets it go on: the clusters are powered, cluster c
20c µs after the first (17 R356, R362). -/
def State.portsSettled (s : State) : State :=
  if s.svc.boot.isSome && s.svc.powered = 0 && !((countUp 0 16).any fun p => (s.port p).state == 1) then
    (countUp 0 16).foldl (fun s c => if c = 0 then s.emit (.clusterPowerUp 0) else s.later (2000 * c) (.clusterPowerUp c)) s
  else s

/-- A port is lost (06 R145; 17 R364): it is ISOLATED, its packets are answered or rerouted, and a record is written. -/
def State.portLost (s : State) (p : Nat) : State :=
  let s := s.dropPartial p
  let q := s.port p
  let back := q.entries.flatMap Queued.slots
  let pkts := (q.replay.map fun r => r.pkt) ++ (q.entries.filter fun e => e.sent == 0).map fun e => e.pkt
  let times := s.leaseNow :: s.regs.lossTimes.filter fun t => decide (s.leaseNow < t + 1048576)
  let s1 := (s.updPort p fun q => q.emptied 5).returnAll back
  let coming := (countUp 0 16).filter fun i => q.entries.any (comingFrom i)
  let s2 := coming.foldl (fun s i => s.updPort i fun q =>
    { q with partials := q.partials.map fun (a : Partial) => { a with mode := 1 } }) s1
  let s3 := pkts.foldl (fun s k => s.lose q.peer k) s2
  let s4 := ({ s3 with regs := { s3.regs with lossTimes := times } }.report
    { org := ⟨s.cubeId * 256, 0, 0⟩, source := 2, code := Cause.remoteLost.code, space := 0, addr := 0, hcube := s.cubeId,
      local_ := 0, ident := 0, detail := q.peer })
  if 4 ≤ times.length then s4.setReplace 3 else s4

/-! Receiving. -/

/-- A flit enters the input buffer: the packet's slots held, and the flits of the period counted (06 R130). -/
def Port.take (q : Port) (c : Nat) : Port :=
  { q with held := tblSet q.held c (tblGet q.held c 0 + 1), used := tblSet q.used c (tblGet q.used c 0 + 1) }

/-- Does a packet end at this cube: its destination, or a copy of a multicast tree? -/
def State.endsHere (s : State) (p : Packet) : Bool := p.dst == s.cubeId || (p.pt == 5 && !p.rty)

/-- The tail of a packet has come: one that ends here gives its slots back and is committed; one that waits to be merged is forwarded. -/
def State.tailCame (s : State) (p : Nat) : State :=
  match (s.port p).partials with
  | none => s
  | some a =>
    let c := a.pkt.cls * 7 + (a.pkt.hop - 1)
    let s1 := s.updPort p fun q => { q with partials := none }
    if s.endsHere a.pkt then (s1.returnSlots p c a.got).emit (.packetCommit p a.pkt)
    else if a.mode = 2 then s1.emit (.packetForward (some p) a.pkt)
    else s1

/-- One more flit of the packet coming in, in a bundle whose tag is `sure` or not; of one that is dropped the slot is given back at
once. A corrupted flit spoils the packet's ECHK (06 R128). -/
def State.gotFlit (s : State) (p : Nat) (sure whole : Bool) : State :=
  match (s.port p).partials with
  | none => s
  | some a =>
    let cut (n c : Nat) : Nat := if sure then c else min n c
    let k := { a.pkt with good := a.pkt.good && whole }
    let s1 := { s with events := s.events.map fun e =>
        if e = Ev.packetForward (some p) a.pkt then Ev.packetForward (some p) k else e }.updPort p
      fun q => { q with partials := some { a with pkt := k, got := a.got + 1, cut := cut a.got a.cut } }
    let grow (e : Queued) : Queued :=
      if comingFrom p e then { e with have_ := e.have_ + 1, cut := cut e.have_ e.cut, bad := e.bad || !whole } else e
    let outs := (countUp 0 16).filter fun o => (s1.port o).entries.any (comingFrom p)
    let s2 := outs.foldl (fun s o => s.updPort o fun q =>
      { q with outq := q.outq.map fun x => (x.1, x.2.map grow), resend := q.resend.map grow }) s1
    if sure && a.mode = 1 then s2.returnSlots p (a.pkt.cls * 7 + (a.pkt.hop - 1)) 1 else s2

/-- One flit of a good bundle on a port that is up; control flits make their steps due. -/
def State.takeFlit (s : State) (p : Nat) (f : Flit) : State :=
  match f with
  | .head k =>
    let c := k.cls * 7 + k.hop
    let k1 := { k with hop := k.hop + 1, at_ := s.leaseNow }
    let s1 := s.updPort p fun q => { (q.take c) with partials := some { pkt := k1, got := 1 } }
    let s2 := if s1.endsHere k1 then s1 else s1.emit (.packetForward (some p) k1)
    if k.len = 0 then s2.tailCame p else s2
  | .body whole =>
    match (s.port p).partials with
    | none => s
    | some a =>
      let s1 := (s.updPort p fun q => q.take (a.pkt.cls * 7 + (a.pkt.hop - 1))).gotFlit p true whole
      if a.got + 1 = flitsOf a.pkt then s1.tailCame p else s1
  | .stomp | .idle => s
  | .back n => s.emit (.back p n)
  | .lreplay n => s.emit (.lreplay p n)
  | .credit l => s.emit (.credit p l)
  | .limits l => s.emit (.limits p l)
  | .limitAck => s.emit (.limitAck p)
  | .fence => s.emit (.fenceMsg p)
  | .fenceAck => s.emit (.fenceAck p)
  | .hello c k t => s.emit (.hello p c k t)
  | .helloAck c k t => s.emit (.helloAck p c k t)
  | .reserved _ => s.updPort p fun q => { q with tagfail := q.tagfail + 1 }

/-- The flits of a bundle up to a STOMP, and those after it. -/
def State.takeFlits (s : State) (p : Nat) : List Flit → State × Option (List Flit)
  | [] => (s, none)
  | .stomp :: r => (s, some r)
  | f :: r => (s.takeFlit p f).takeFlits p r

/-- One flit of a bundle whose tag will be found bad (06 R134): it is sent on as it arrives, and holds no slot once its bundle is
discarded. A packet that ends here, or that waits to be merged, goes no further. -/
def State.passFlit (s : State) (p : Nat) (f : Flit) : State :=
  match f with
  | .head k =>
    let k1 := { k with hop := k.hop + 1, at_ := s.leaseNow }
    let s1 := s.updPort p fun q => { q with partials := some { pkt := k1, got := 1, cut := 0 } }
    if s1.endsHere k1 then s1
    else if k.len = 0 then (s1.updPort p fun q => { q with partials := none }).emit (.packetForward (some p) k1)
    else s1.emit (.packetForward (some p) k1)
  | .body whole =>
    match (s.port p).partials with
    | none => s
    | some a =>
      let s1 := s.gotFlit p false whole
      if a.got + 1 = flitsOf a.pkt then
        (s1.updPort p fun q => { q with partials := none }).returnSlots p (a.pkt.cls * 7 + (a.pkt.hop - 1))
          (if s.endsHere a.pkt || a.mode = 2 then min a.got a.cut else 0)
      else s1
  | _ => s

/-- All output ports send what they can. -/
def State.pumpAll (s : State) : State := (countUp 0 16).foldl (fun s o => s.pump o) s

/-- A bundle of an exchange (06 R121): only HELLO and HELLO_ACK have a meaning. -/
def State.trainingBundle (s : State) (p : Nat) (b : Bundle) : State :=
  let q := s.port p
  if !q.blockLock then s
  else
    let reserved := (b.flits.filter fun f => match f with
      | .reserved _ => true
      | _ => false).length
    let s1 := s.updPort p fun q =>
      { q with rxNum := (q.rxNum + 1) % 4096, tagfail := q.tagfail + (if b.good then reserved else 1) }
    if !b.good then s1
    else s1.emitFirst (b.flits.filterMap fun f => match f with
      | .hello c k t => some (.hello p c k t)
      | .helloAck c k t => some (.helloAck p c k t)
      | _ => none)

/-- A bundle's tag has failed, or a bundle is missing (06 R134). -/
def State.badBundle (s : State) (p num : Nat) : State :=
  let q := s.port p
  let s1 := s.updPort p fun q => { q with tagfail := q.tagfail + 1, unsure := false }
  if q.discarding && num ≠ q.rxNum then s1
  else
    let n := if q.failNum = q.rxNum && 0 < q.fails then q.fails + 1 else 1
    if 16 ≤ n then s1.portLost p
    else
      ((s1.dropPartial p).updPort p fun q => { q with discarding := true, failNum := q.rxNum, fails := n }).sendCtrl p
        (.lreplay q.rxNum)

/-- Does a bundle hold a flit that its sender keeps until it is acknowledged? One of IDLE and BACK alone is not answered. -/
def keptBundle (b : Bundle) : Bool := b.flits.any fun f => match f with
  | .idle | .back _ => false
  | _ => true

/-- A bundle whose tag is bad arrives (06 R134): its flits are sent on first, then its tag is tested. -/
def State.passBundle (s : State) (p : Nat) (b : Bundle) : State :=
  let before := s.events
  let r := b.flits.foldl (fun s f => s.passFlit p f) { s.updPort p fun q => { q with unsure := true } with events := [] }
  { r with events := r.events ++ Ev.bundleReceive p { b with flits := [] } :: before }.pumpAll

/-- BUNDLE_RECEIVE (06 R122, R134): the next bundle with a good tag is acknowledged and its flits taken; a failed one is
discarded with what follows until the replay begins. A STOMP is performed before the flits behind it. -/
def doBundleReceive (port : Nat) (b : Bundle) (s : State) : State :=
  let q := s.port port
  if q.state = 0 || q.state = 5 || !q.lanesOn then s
  else
    let s0 := s.updPort port fun q => { q with heard := s.leaseNow }
    if q.state = 1 then s0.trainingBundle port b
    else if !b.good then
      (if b.num = q.rxNum && !q.discarding && !q.unsure && !b.flits.isEmpty then s0.passBundle port b else s0.badBundle port b.num)
    else if b.num ≠ q.rxNum then (if q.discarding then s0 else s0.badBundle port b.num)
    else
      let before := s0.events
      let r := { s0 with events := [] }.takeFlits port b.flits
      let s1 := { r.1 with events := r.1.events ++ before }
      match r.2 with
      | some rest => (s1.emitFirst [.stompFlit port, .bundleReceive port { b with flits := rest }]).pumpAll
      | none =>
        let s2 := s1.updPort port fun q => { q with rxNum := (q.rxNum + 1) % 4096, discarding := false, fails := 0 }
        (if keptBundle b then s2.sendCtrl port (.back b.num) else s2).pumpAll

/-- STOMP (06 R134, R128): the packet coming in is discarded, and counted. -/
def doStompFlit (port : Nat) (s : State) : State :=
  match (s.port port).partials with
  | none => s
  | some _ => (s.dropPartial port).updPort port fun q => { q with tagfail := q.tagfail + 1 }

/-! Acknowledgement and replay. -/

/-- Is bundle `x` at or before bundle `n`, modulo 4,096? -/
def bundleUpTo (x n : Nat) : Bool := decide ((n + 4096 - x) % 4096 < 2048)

/-- Has every flit of a sent packet left, with STOMP or without? -/
def SentPkt.whole (r : SentPkt) : Bool := r.stomped || r.flits.length == flitsOf r.pkt

/-- BACK (06 R123, R134): the replay buffer frees the packets it covers. -/
def doBack (port num : Nat) (s : State) : State :=
  ((s.updPort port fun q =>
    { q with replay := q.replay.filter fun r => !(r.whole && r.flits.all fun x => bundleUpTo x num)
             ctl := q.ctl.filter fun c => !bundleUpTo c.1 num }).pump port).fenceCheck port

/-- The port sends again, as bundle `from_` and those after it, from bundle `num` on: first the control flits that were lost, then, from its HEAD, every packet
not received whole before that bundle (06 R134). -/
def Port.replayFrom (q : Port) (num from_ : Nat) : Port :=
  let lost (x : Nat) : Bool := !bundleUpTo x ((num + 4095) % 4096)
  let again (r : SentPkt) : Bool := !r.whole || r.flits.any lost
  let q1 := q.replay.foldl (fun q r => q.subUnret (chanOf r.pkt) (r.flits.filter lost).length) q
  let inProgress := q1.entries.filter fun e => decide (0 < e.sent)
  let l := (q1.replay.filter fun r => again r && !r.stomped).map fun r =>
    match inProgress.find? fun e => e.pkt == r.pkt with
    | some e => { e with sent := 0 }
    | none => { pkt := r.pkt, have_ := flitsOf r.pkt, bad := r.bad }
  let ctl := (q1.ctl.filter fun c => lost c.1).map fun c => c.2
  let q2 := { q1 with
    outq := q1.outq.map fun p => (p.1, p.2.filter fun e => e.sent == 0), cur := none
    resend := l ++ q1.resend.filter fun e => e.sent == 0
    replay := q1.replay.filter fun r => !again r, ctl := q1.ctl.filter fun c => !lost c.1, txNum := from_ }
  if ctl.isEmpty then q2
  else { (q2.sendLine ctl) with ctl := q2.ctl ++ ctl.map fun f => (from_, f) }

/-- LREPLAY (06 R134). -/
def doLreplay (port num : Nat) (s : State) : State := (s.updPort port fun q => q.replayFrom num num).pump port

/-! Limits (06 R130). -/

/-- CREDIT: slots are returned. -/
def doCredit (port : Nat) (l : List (Nat × Nat)) (s : State) : State :=
  ((s.updPort port fun q => l.foldl (fun q x => q.subUnret x.1 x.2) q).pump port).fenceCheck port

/-- The targets of the period that ends. -/
def Port.newTargets (q : Port) : List Nat :=
  let u (c : Nat) : Nat := tblGet q.used c 0
  let sum := ((countUp 0 21).map u).foldl (· + ·) 0
  (countUp 0 21).map fun c => if sum = 0 then 137 else 9 + 2883 * u c / sum

/-- LIMIT_PERIOD: the targets are set, and the lowered limits announced; while an exchange is not answered, nothing is announced and
the period's targets are dropped (log entry 112). A port that has nothing to send then sends a bundle of IDLE (06 R122). -/
def doLimitPeriod (port epoch : Nat) (s : State) : State :=
  let q := s.port port
  if q.state < 2 || 4 < q.state || q.epoch ≠ epoch then s
  else
    let t := q.newTargets
    let l := (countUp 0 21).map fun c => min (nthD t c 137) (q.granted c)
    let s1 := s.updPort port fun q => { q with used := [], targets := if q.targets.isEmpty then t else q.targets }
    let s2 := if q.targets.isEmpty then s1.sendCtrl port (.limits l)
      else if (q.pick 0).isNone then s1.sendCtrl port .idle else s1
    s2.later 66 (.limitPeriod port epoch)

/-- LIMITS at the sender: they take effect, and LIMIT_ACK answers. -/
def doLimits (port : Nat) (l : List Nat) (s : State) : State :=
  ((s.updPort port fun q => { q with limTx := (countUp 0 21).zip l }).sendCtrl port .limitAck).pump port

/-- The raised limits, as far as the room of the buffer goes; which of them are reduced the spec leaves open, and here the channels
take the room in the order of their numbers (log entry 112). -/
def raiseLimits (q : Port) : List Nat → Nat → List (Nat × Nat)
  | [], _ => []
  | c :: r, room =>
    let t := nthD q.targets c 137
    let low := min t (q.granted c)
    let m := max (tblGet q.held c 0) low
    let g := if t ≤ m then t else min t (m + room)
    (c, g) :: raiseLimits q r (room - (g - m))

/-- LIMIT_ACK at the receiver: the raised limits are announced (06 R130, step 4). -/
def doLimitAck (port : Nat) (s : State) : State :=
  let q := s.port port
  if q.targets.isEmpty then s
  else
    let base := ((countUp 0 21).map fun c =>
      max (tblGet q.held c 0) (min (nthD q.targets c 137) (q.granted c))).foldl (· + ·) 0
    let l := raiseLimits q (countUp 0 21) (3072 - base)
    (s.updPort port fun q => { q with targets := [], limRx := l }).sendCtrl port (.limits (l.map fun x => x.2))

/-! Training (06 R121). -/

/-- Training begins; a port not UP within 10 ms is DOWN again. -/
def State.train (s : State) (p : Nat) : State :=
  let s1 := s.updPort p fun q => { q.emptied 1 with lanesOn := true }
  s1.later 1000000 (.trainingTimeout p (s1.port p).epoch)

/-- The lanes are turned off: the port is DOWN. -/
def State.down (s : State) (p : Nat) : State := (s.updPort p fun q => { q.emptied 0 with lanesOn := false }).portsSettled

/-- An end that has sent and received HELLO_ACK is UP. -/
def State.maybeUp (s : State) (p : Nat) : State :=
  let q := s.port p
  if q.state = 1 && q.ackSent && q.ackGot then
    let e := q.epoch + 1
    (((s.updPort p fun q => { q with state := 2, epoch := e, heard := s.leaseNow }).later 66 (.limitPeriod p e)).later 263
      (.linkSilenceTimeout p e)).portsSettled
  else s

/-- LANE_LOCK (06 R121, step 1). -/
def doLaneLock (port : Nat) (s : State) : State :=
  s.updPort port fun q => if q.state = 1 then { q with laneLock := true } else q

/-- BLOCK_LOCK (06 R121, step 2): the exchange begins. -/
def doBlockLock (port : Nat) (s : State) : State :=
  let q := s.port port
  if q.state = 1 && q.laneLock && !q.blockLock then
    (s.updPort port fun q => { q with blockLock := true }).emit (.helloInterval port q.epoch)
  else s

/-- HELLO_INTERVAL (06 R121, step 3). -/
def doHelloInterval (port epoch : Nat) (s : State) : State :=
  let q := s.port port
  if q.state = 1 && q.blockLock && q.epoch = epoch then
    (s.sendCtrl port (.hello s.cubeId port s.cubeSet)).later 66 (.helloInterval port epoch)
  else s

/-- HELLO (06 R121): the peer is noted and answered. An end that is UP answers again and sends anew from bundle 0, for the
peer has taken nothing yet. -/
def doHello (port cube peer : Nat) (set : Bool) (s : State) : State :=
  let q := s.port port
  if !s.cubeSet || !set then s
  else if q.state = 1 && q.blockLock then
    (((s.updPort port fun q => { q with peer := cube, peerPort := peer, ackSent := true }).sendCtrl port
      (.helloAck s.cubeId port s.cubeSet)).updPort port fun q => { q with txNum := 0 }).maybeUp port
  else if q.state = 2 then
    let first := match (q.replay.flatMap fun r => r.flits) ++ q.ctl.map fun c => c.1 with
      | [] => q.txNum
      | x :: _ => x
    ((s.sendCtrl port (.helloAck s.cubeId port s.cubeSet)).updPort port fun q =>
      q.replayFrom first 0).pump port
  else s

/-- HELLO_ACK (06 R121): the next bundle received is bundle 0. -/
def doHelloAck (port _cube _peer : Nat) (_set : Bool) (s : State) : State :=
  let q := s.port port
  if q.state = 1 && q.blockLock then (s.updPort port fun q => { q with ackGot := true, rxNum := 0 }).maybeUp port else s

/-- TRAINING_TIMEOUT (06 R121). -/
def doTrainingTimeout (port epoch : Nat) (s : State) : State :=
  let q := s.port port
  if q.state = 1 && q.epoch = epoch then s.down port else s

/-! Modes, fencing and silence (06 R145, R146). -/

/-- PORT_ENABLE (06 Table 6.11). -/
def doPortEnable (port : Nat) (s : State) : State :=
  match (s.port port).state with
  | 1 | 2 => s
  | 3 => (s.portLost port).train port
  | _ => s.train port

/-- PORT_FENCE (06 R146). -/
def doPortFence (port : Nat) (s : State) : State :=
  if (s.port port).state = 2 then (s.updPort port fun q => { q with state := 3 }).fenceCheck port else s

/-- PORT_DISABLE (06 Table 6.11). -/
def doPortDisable (port : Nat) (s : State) : State :=
  match (s.port port).state with
  | 0 => s
  | 2 | 3 => (s.portLost port).down port
  | _ => s.down port

/-- FENCE_DRAINED (06 R146): FENCE is sent, or the peer's answered. -/
def doFenceDrained (port : Nat) (s : State) : State :=
  let q := s.port port
  if q.state ≠ 3 || !q.drained then s
  else if q.fencing then (s.sendCtrl port .fenceAck).updPort port fun q => { q with state := 4 }
  else if q.fenceSent then s
  else (s.sendCtrl port .fence).updPort port fun q => { q with fenceSent := true }

/-- FENCE (06 R146). -/
def doFenceMsg (port : Nat) (s : State) : State :=
  let q := s.port port
  if q.state = 4 then s.sendCtrl port .fenceAck
  else if q.state = 2 || q.state = 3 then (s.updPort port fun q => { q with state := 3, fencing := true }).fenceCheck port
  else s

/-- FENCE_ACK (06 R146). -/
def doFenceAck (port : Nat) (s : State) : State :=
  s.updPort port fun q => if q.state = 3 && q.fenceSent then { q with state := 4 } else q

/-- LINK_SILENCE_TIMEOUT (06 R134): no flit for 4,096 link cycles, 263 lease counts. -/
def doLinkSilenceTimeout (port epoch : Nat) (s : State) : State :=
  let q := s.port port
  if q.epoch ≠ epoch || !q.sends then s
  else if q.heard + 263 ≤ s.leaseNow then s.portLost port
  else s.later (q.heard + 263 - s.leaseNow) (.linkSilenceTimeout port epoch)

/-- LANE_LOCK_LOST (06 R145, R146). -/
def doLaneLockLost (port : Nat) (s : State) : State :=
  let q := s.port port
  match q.state with
  | 0 => s
  | 1 => s.updPort port fun q => { q with laneLock := false, blockLock := false }
  | 2 | 3 => s.portLost port
  | _ => if q.mode = 0 then (s.down port).train port else s.down port

end Sys2Proof.Machine
end

