-- ==== Sys2Proof/Machine/Router.lean ====
section
/-! DEFINITION. The router (06 R129, R131, R132, R142, R143): the choice of a link, and the merging of atomics and of
contributions to reducing streams. -/

namespace Sys2Proof.Machine

/-! Element operations of reducing contributions (14 Table 14.9). -/

/-- Width in bytes of the elements of an operation. -/
def redWidth (rop : Nat) : Nat := if rop = 1 then 2 else 4

/-- One element: the old value and the contribution. -/
def redElem (rop old x : Nat) : Nat × FFlags :=
  match rop with
  | 0 => addF 23 0 old x
  | 1 => addF 7 0 old x
  | 2 => ((old + x) % 2 ^ 32, 0#5)
  | 3 => minmaxF 23 true old x
  | 4 => minmaxF 23 false old x
  | 5 => (if signedOf 32 old < signedOf 32 x then x else old, 0#5)
  | 6 => (if signedOf 32 x < signedOf 32 old then x else old, 0#5)
  | _ => (x, 0#5)

/-- `n` elements of two byte strings, and the flags raised. -/
def redBytes (rop : Nat) : Nat → List Byte → List Byte → List Byte × FFlags
  | 0, _, _ => ([], 0#5)
  | n + 1, a, b =>
    let w := redWidth rop
    let x := redElem rop (ofBytes (a.take w)) (ofBytes (b.take w))
    let r := redBytes rop n (a.drop w) (b.drop w)
    (toBytes x.1 w ++ r.1, x.2 ||| r.2)

/-- A 256-byte block. -/
def redBlock (rop : Nat) (a b : List Byte) : List Byte × FFlags := redBytes rop (256 / redWidth rop) a b

/-! Routes. -/

/-- The valid alternatives of a destination: number, port and hops (06 R131). -/
def State.alternatives (s : State) (dst : Nat) : List (Nat × Nat × Nat) :=
  let e := (memGet s.fabric.routes dst).toNat
  ((countUp 0 4).filter fun i => bitOf e (16 * i + 15)).map fun i =>
    (i, bitsOf e (16 * i + 14) (16 * i + 11), bitsOf e (16 * i + 10) (16 * i + 8))

/-- The port by which a packet leaves (06 R132): for ORD alternative 0; else, of those whose port is UP and whose hops are
still allowed, the one with the most unused limit, and of those the lowest. -/
def State.chooseRoute (s : State) (p : Packet) : Option Nat :=
  let ok (a : Nat × Nat × Nat) : Bool := (s.port a.2.1).state == 2 && decide (a.2.2 ≤ 7 - p.hop) && decide (p.hop ≤ 6)
  let l := ((s.alternatives p.dst).filter fun a => p.cls != 0 || a.1 == 0).filter ok
  let room (a : Nat × Nat × Nat) : Nat := (s.port a.2.1).room (chanOf p)
  let best := (l.map room).foldl max 0
  (l.find? fun a => room a == best).map fun a => a.2.1

/-- No route: NACK NO_ROUTE to each source of a request, and to the source of a multicast under its group and number; an RSP packet
is discarded (06 R132). -/
def State.noRoute (s : State) (p : Packet) : State :=
  if p.cls = 2 then s
  else if p.pt = 5 then s.synthesize p 3 (p.src, p.cls, p.opx) (.mcNack p.aux) (putBits 5 60 4)
  else
    (packetSources p).foldl (fun s x => s.synthesize p 3 x
      (.nack { who := routerAgent s.cubeId, id := 0, reason := 5, ver := 0, hint := none }) (putBits 5 60 4)) s

/-! Merging (06 R142, R143). -/

/-- The source of a packet as a contributor. -/
def contribOf (p : Packet) (bit : Nat) : Contrib := { cube := p.src, cls := p.cls, seq := p.seq, sag := p.sag, bit := bit }

/-- The packet that `b` merged into `a` makes, when they may merge; both are whole. -/
def mergePackets (a b : Packet) : Option Packet :=
  if a.rty || b.rty || a.pt != b.pt || a.op != b.op || a.pa != b.pa || a.dst != b.dst || a.ver != b.ver || !a.good || !b.good
  then none
  else match a.msg, b.msg with
  | .req r, .req q =>
    match r.act, q.act with
    | .atomic op form ty v cmp mg none, .atomic _ form' ty' v' _ mg' none =>
      let float := ty == .f32 || ty == .bf16
      if 5 < op || form ≠ 0 || form' ≠ 0 || ty != ty' || (float && op == 0 && !(mg && mg'))
          || decide (30 < r.others.length + q.others.length) then none
      else
        let x := if float && op = 0 then addF (if ty = .f32 then 23 else 7) 0 (v % 2 ^ (8 * atomWidth ty)) (v' % 2 ^ (8 * atomWidth ty))
          else atomNew op ty (v % 2 ^ (8 * atomWidth ty)) v' 0
        let f := (BitVec.ofNat 5 r.mflags ||| BitVec.ofNat 5 q.mflags ||| x.2).toNat
        let r1 := { r with
          act := .atomic op form ty x.1 cmp mg none, mflags := f, others := r.others ++ contribOf b 0 :: q.others }
        some { a with
          msg := .req r1, contribs := r1.others, len := ceilDiv r1.others.length 4, opx := x.1
          aux := elemCode ty * 2 ^ 10 + f * 2 ^ 5 + r1.others.length }
    | .red rop stream c d, .red _ stream' c' d' =>
      if stream ≠ stream' || redMask r &&& redMask q ≠ 0 || decide (30 < r.others.length + q.others.length) then none
      else
        let x := redBlock rop d d'
        let f := (BitVec.ofNat 5 r.mflags ||| BitVec.ofNat 5 q.mflags ||| x.2).toNat
        let r1 := { r with act := .red rop stream c x.1, mflags := f, others := r.others ++ contribOf b c' :: q.others }
        some { a with msg := .req r1, contribs := r1.others, opx := f * 2 ^ 59 + redMask r1 }
    | _, _ => none
  | _, _ => none

/-- The last packet queued on a channel, if no flit of it has left, it is whole, and its bundles' tags are good. -/
def Port.mergeInto (q : Port) (c : Nat) : Option Queued :=
  match (tblGet q.outq c []).getLast? with
  | some e => if e.sent = 0 && flitsOf e.pkt ≤ e.have_ && e.cut = 16 && !e.bad then some e else none
  | none => none

/-! Forwarding. -/

/-- A packet enters the queue of an output port. -/
def State.enqueue (s : State) (o : Nat) (e : Queued) : State :=
  (s.updPort o fun q => { q with outq := tblSet q.outq (chanOf e.pkt) (tblGet q.outq (chanOf e.pkt) [] ++ [e]) }).pump o

/-- A packet comes in on port `i` and is given up: its slots are returned, now and as its other flits come. -/
def State.giveUp (s : State) (i have_ : Nat) (p : Packet) : State :=
  (s.updPort i fun q => { q with partials := q.partials.map fun (a : Partial) =>
    if a.pkt = p then { a with mode := 1 } else a }).returnSlots i (p.cls * 7 + (p.hop - 1)) have_

/-- The last packet queued on its channel becomes the merged one, which no longer stands in an input buffer. -/
def State.replaceLast (s : State) (o : Nat) (e : Queued) (m : Packet) : State :=
  let c := chanOf e.pkt
  let s1 := s.updPort o fun q =>
    { q with outq := tblSet q.outq c ((tblGet q.outq c []).dropLast ++ [{ pkt := m, have_ := flitsOf m }]) }
  s1.returnAll e.slots

/-- PACKET_FORWARD (06 R132, R134, R142): a packet of this cube, or one that comes in on `port`, takes its link as soon as
its first flit is here; one that could be merged waits for its tail first, and one whose bundle's tag is not yet tested is not
merged. -/
def doPacketForward (port : Option Nat) (p : Packet) (s : State) : State :=
  if p.dst = s.cubeId && !(p.pt == 5 && !p.rty) then s.emit (.packetCommit 16 p)
  else
    let have_ := match port with
      | some i => match (s.port i).partials with
        | some a => if a.pkt = p then a.got else flitsOf p
        | none => flitsOf p
      | none => flitsOf p
    let unsure := match port with
      | some i => (s.port i).unsure
      | none => false
    match s.chooseRoute p with
    | none =>
      if unsure then s.giveUp (port.getD 16) 0 p
      else
        let s1 := match port with
          | some i => s.giveUp i have_ p
          | none => s
        s1.noRoute p
    | some o =>
      let q := s.port o
      let merged := if unsure then none else (q.mergeInto (chanOf p)).bind fun e => (mergePackets e.pkt p).map fun m => (e, m)
      match merged, port with
      | some (e, m), none => s.replaceLast o e m
      | some (e, m), some i =>
        if have_ < flitsOf p then
          s.updPort i fun q => { q with partials := q.partials.map fun (a : Partial) => { a with mode := 2 } }
        else (s.replaceLast o e m).returnSlots i (p.cls * 7 + (p.hop - 1)) have_
      | none, none => s.enqueue o { pkt := p, have_ := have_ }
      | none, some i =>
        s.enqueue o { pkt := p, have_ := have_, from_ := some (i, p.cls * 7 + (p.hop - 1)), cut := if unsure then 0 else 16 }

end Sys2Proof.Machine
end

