-- ==== Sys2Proof/Machine/EndToEnd.lean ====
section
/-! DEFINITION. The end-to-end unit (06 R125, R126, R135 to R144; 01 R18 to R20; 14 R301 to R304): duplicate windows,
acknowledgement, retry, NACKs, reducing streams and multicasts. -/

namespace Sys2Proof.Machine

/-! The end of a request of this cube. -/

/-- Those that wait for a place are sent, in order, as far as there is room; one whose lease has ended is translated again (05
R108). -/
def State.sendWaiting (s : State) : List E2EOut → State
  | [] => s
  | w :: r =>
    if 1024 ≤ s.fabric.outstanding w.dest w.cls then s
    else
      let s1 := { s with fabric := { s.fabric with waiting := s.fabric.waiting.erase w } }
      (match w.pkt.msg, w.relay with
        | .req q, none => if s.leaseOver q then s1.emit (.sectionLookup { q with again := true }) else s1.sendNow w
        | _, _ => s1.sendNow w).sendWaiting r

/-- A request is no longer outstanding; one that waited for a place is sent. -/
def State.endE2E (s : State) (o : E2EOut) : State :=
  let f := s.fabric
  { s with fabric := { f with outs := f.outs.filter fun (x : E2EOut) => !x.hit o.dest o.cls o.seq } }.sendWaiting
    (f.waiting.filter fun w => w.dest == o.dest && w.cls == o.cls)

/-- The outstanding request of a destination, class and SEQ. -/
def State.e2eOut (s : State) (dst cls seq : Nat) : Option E2EOut := s.fabric.outs.find? fun (o : E2EOut) => o.hit dst cls seq

/-- A failure of a message that no instruction waits for goes to its issuer's error record (06 R138). -/
def State.lostItem (s : State) (org : Origin) (code space ident cube : Nat) : State :=
  s.issuerItem
    { org := org, source := 0, code := code, space := space, addr := 0, hcube := cube, local_ := 0, ident := ident,
      detail := cube }

/-- A command of a thread that waits for its answer fails: precisely, with the address it names and the cube (14 R293); a
footprint's copy fails its task. -/
def State.commandFails (s : State) (who : Agent) (id : Nat) (foot : Bool) (code cube : Nat) : State :=
  if foot then s.footprintDone (id / 4) (id % 4) code
  else
    let c := who.core % 256
    match (s.ctx c who.idx).tag id with
    | some g => s.tagTrap c who.idx g code g.va cube 0
    | none => s

/-- A message of the cube's own units, which no instruction waits for, is lost: a record says so (06 R138). -/
def State.unitLost (s : State) (code cube : Nat) : State :=
  s.report
    { org := ⟨s.cubeId * 256, 0, 0⟩, source := 2, code := code, space := 0, addr := 0, hcube := cube, local_ := 0, ident := 0,
      detail := cube }

/-- A request has failed: what its message was for ends (06 R138; 03 R74; 04 R84; 01 R18). -/
def State.e2eFails (s : State) (o : E2EOut) (code i1 i2 : Nat) : State :=
  match o.pkt.msg with
  | .req r =>
    match o.relay with
    | some q => s.answer q true (.data (q.ans (.fail code i1 i2)))
    | none => s.emit (.data { r.ans (.fail code i1 i2) with who := o.who, id := o.id })
  | .inv m => s.emit (.remoteLostAtHome m 3 none)
  | .fwdRead m r | .fwdOwn m r => s.emit (.remoteLostAtHome m 0 (some r))
  | .revoke m => s.emit (.remoteLostAtHome m 1 none)
  | .revokeWb m => s.emit (.remoteLostAtHome m 2 none)
  | .check c => s.emit (.checkAnswer { c with live := false, e2e := none })
  | .lineInstall m => s.moveLost m.job
  | .job j =>
    let s1 := match j.ask with
      | some q => s.opDone q.who q.id 0
      | none => s
    s1.jobLost j o.dest
  | .launch m => (s.lostItem m.org code m.space m.id o.dest).launchAck m.who m.id true
  | .task t => s.commandFails t.who t.id false code o.dest
  | .copyCmd c => s.commandFails c.who c.id (c.kind == 3) code o.dest
  | .query q => s.commandFails q.who q.id false code o.dest
  | .copyRead c | .copyWrite c => s.emit (.data (copyAns c (.fail code i1 i2)))
  | .arrival _ a => s.lostItem a.org code a.space a.ident o.dest
  | .row r => s.lostItem r.org Cause.remoteLost.code r.space r.handle o.dest
  | .dirVal d => s.lostItem d.org code d.space d.dir.handle o.dest
  | .migrate m => s.restoreMigrant m
  | .follow m => s.copyFollowed (m.who.idx % 64) m.serial 0 code
  | _ => s.unitLost code o.dest

/-! Retry (06 R138). -/

/-- The record of an outstanding request changed. -/
def State.setE2E (s : State) (o : E2EOut) : State :=
  { s with fabric := { s.fabric with outs := s.fabric.outs.map fun (x : E2EOut) => if x.hit o.dest o.cls o.seq then o else x } }

/-- An outstanding request is sent again; under an expired lease it is translated again first. -/
def State.sendAgain (s : State) (o : E2EOut) (timed : Bool) : State :=
  match o.pkt.msg, o.relay with
  | .req r, none =>
    if s.leaseOver r then s.emit (.sectionLookup { r with again := true, reseq := some (o.dest, o.cls, o.seq) })
    else s.resendAs o.dest o.cls o.seq timed (.req { r with cube := s.cubeId, at_ := s.leaseNow, age := 0 })
  | .req r, some _ =>
    s.resendAs o.dest o.cls o.seq timed (.req { r with age := min 2047 (r.age + (s.leaseNow - r.at_)), at_ := s.leaseNow })
  | m, _ => s.resendAs o.dest o.cls o.seq timed m

/-- Retries of one request before it fails (06 Table 6.5). -/
def Fabric.retries (f : Fabric) : Nat := max 1 f.rlim

/-- Is a request still awaited by its agent? One whose new translation has failed, and a watch that is cancelled, is not. -/
def State.wanted (s : State) (who : Agent) (r : Req) : Bool := r.exp.isNone || (s.out who r.id).isSome

/-- Is an outstanding request to be sent again under its SEQ? A cancelled watch is, for its cancellation follows it. -/
def State.awaited (s : State) (o : E2EOut) : Bool :=
  match o.pkt.msg, o.relay with
  | .req r, none => match r.act with
    | .watch _ => true
    | _ => s.wanted o.who r
  | _, _ => true

/-- A multicast is over: the issuer hears of it. -/
def State.mcEnd (s : State) (m : McOut) : State :=
  ({ s with fabric := { s.fabric with mcOuts := s.fabric.mcOuts.filter fun (x : McOut) => !(x.group == m.group && x.seq == m.seq) } }).emit
    (.data { who := m.who, id := m.id, st := .ok, mask := 0, data := [], dirty := 0, n := 0, value := 0, flags := 0,
             tagSet := 0 })

/-- The record of a multicast changed. -/
def State.setMc (s : State) (m : McOut) : State :=
  { s with fabric := { s.fabric with mcOuts := s.fabric.mcOuts.map fun (x : McOut) => if x.group = m.group ∧ x.seq = m.seq then m else x } }

/-- A unicast copy of a multicast for a cube (06 R144). -/
def State.mcCopy (s : State) (m : McOut) (cube : Nat) : Packet :=
  { s.packetFor 5 1 cube 0 (routerAgent s.cubeId) (.mcast m.msg) with rty := true, opx := m.seq, aux := m.group }

/-- A multicast is sent again to a cube that has not acknowledged it. -/
def State.mcResend (s : State) (m : McOut) (cube : Nat) : State :=
  if cube = s.cubeId then s.emit (.mcast m.msg 0 true) else s.emit (.packetForward none (s.mcCopy m cube))

/-- The retry timer of a multicast: the cubes that have not acknowledged are sent it again; in the end each is reported to
the issuer (14 R304). -/
def State.mcTimeout (s : State) (group seq : Nat) : State :=
  match s.fabric.mcOuts.find? fun (m : McOut) => m.group == group && m.seq == seq with
  | none => s
  | some m =>
    if s.fabric.retries ≤ m.tries then
      (m.left.foldl (fun s c => s.lostItem m.msg.org Cause.remoteLost.code m.msg.space group c) s).mcEnd m
    else
      let s1 := s.setMc { m with tries := m.tries + 1 }
      (m.left.foldl (fun s c => s.mcResend m c) s1).later s.fabric.timerCounts (.retryTimeout group 3 seq s.leaseNow)

/-- A timeout of an outstanding request: it is sent again, or, after its last retry, fails with REMOTE_LOST (06 R138). -/
def State.timeout (s : State) (o : E2EOut) : State :=
  if !s.awaited o then s.endE2E o
  else if s.fabric.retries ≤ o.tries then (s.endE2E o).e2eFails o Cause.remoteLost.code o.dest 0
  else
    let o1 := { o with tries := o.tries + 1, sent := s.leaseNow }
    let s1 := s.setE2E o1
    match o.pkt.msg, o.relay with
    | .req r, none =>
      if s.leaseOver r then
        (s1.sendAgain o1 true).later s.fabric.timerCounts (.retryTimeout o.dest o.cls o.seq s.leaseNow)
      else s1.sendAgain o1 true
    | _, _ => s1.sendAgain o1 true

/-- RETRY_TIMEOUT (06 R138). Class 3 stands for a multicast. -/
def doRetryTimeout (dest cls seq sent : Nat) (s : State) : State :=
  if cls = 3 then s.mcTimeout dest seq
  else match s.e2eOut dest cls seq with
  | none => s
  | some o => if o.sent ≠ sent || o.paused then s else s.timeout o

/-! Answers. -/

/-- An answer carries the agent that this cube keeps for the request (06 R125). -/
def answerFor (o : E2EOut) (m : Msg) : Msg :=
  match m with
  | .data a => .data { a with who := o.who, id := o.id }
  | m => m

/-- The RESP of a request is delivered. -/
def State.deliver (s : State) (o : E2EOut) (m : Msg) (ret : Bool) : State :=
  match o.relay with
  | some q => match m with
    | .done _ _ _ (.fail code i1 i2) => s.e2eFails o code i1 i2
    | .data a => if ret then s.answerRetained q (.data { a with who := q.who, id := q.id })
        else s.answer q true (.data { a with who := q.who, id := q.id })
    | m => s.answer q true m
  | none => match m with
    | .done _ _ _ (.fail code i1 i2) => s.e2eFails o code i1 i2
    | .done _ _ v .ok => match o.pkt.msg with
      | .copyCmd c => if c.kind = 3 then s else s.copyIssued c.who c.id v
      | .job j => match j.ask with
        | some q => s.opDone q.who q.id v
        | none => s
      | .query q => s.opDone q.who q.id v
      | .task t => if t.who.kind = .thread then s.opDone t.who t.id v else s
      | .follow f => s.copyFollowed (f.who.idx % 64) f.serial (v / 256) (v % 256)
      | _ => s
    | m => match msgEvent (answerFor o m) with
      | some e => s.emit e
      | none => s

/-- RESP (06 R125, R137, R145): a retained response is acknowledged; a loss in transit is a timeout. -/
def doResp (p : Packet) (s : State) : State :=
  let cls := p.aux % 4
  let ret := bitOf p.aux 2
  let s1 := if ret then s.sendAnswer 2 p.src cls p.seq (routerAgent s.cubeId) .retAck 0 0 else s
  match p.msg with
  | .errItem e => s1.emit (.errorRecordItem e)
  | m => match s1.e2eOut p.src cls p.seq with
    | none => s1
    | some o => match m with
      | .remoteLost _ _ cube transit =>
        if transit then (if o.paused then s1 else s1.timeout o)
        else (s1.endE2E o).e2eFails o Cause.remoteLost.code cube 0
      | m => (s1.endE2E o).deliver o m ret

/-- Does an ACK end the request for its agent: nothing else is answered (06 R137)? -/
def ackEnds : Act → Bool
  | .atomic _ form .. => form == 0
  | .counter op _ => op == 0
  | .watch _ | .unwatch _ | .red .. | .nb _ => true
  | _ => false

/-- An ACK for one request of this cube. -/
def State.acked (s : State) (dst cls seq : Nat) : State :=
  match s.e2eOut dst cls seq with
  | none => s
  | some o =>
    let s1 := s.endE2E o
    match o.pkt.msg with
    | .req r => match o.relay with
      | some q => if q.e2e.isSome || ackEnds q.act then s1.answerAck q (q.ans .ok) else s1
      | none => if ackEnds r.act then s1.emit (.data { r.ans .ok with who := o.who, id := o.id }) else s1
    | .launch m => s1.launchAck m.who m.id false
    | _ => s1

/-- An acknowledgement of a multicast from a cube (06 R144). -/
def State.mcAcked (s : State) (group seq cube : Nat) : State :=
  match s.fabric.mcOuts.find? fun (m : McOut) => m.group == group && m.seq == seq with
  | none => s
  | some m =>
    let m1 := { m with left := m.left.filter fun c => c != cube }
    if m1.left.isEmpty then s.mcEnd m
    else s.setMc m1

/-- A unicast copy of a multicast met NO_ROUTE: after a wait it is sent again to its cube (06 R132, Table 6.7). -/
def State.mcNacked (s : State) (group seq cube : Nat) : State :=
  match s.fabric.mcOuts.find? fun (m : McOut) => m.group == group && m.seq == seq && m.left.contains cube with
  | none => s
  | some m => s.later 1024 (.packetForward none (s.mcCopy m cube))

/-- ACK (06 R124, R137, R144): of a request and of those named in its body, of a retained response, or of a multicast. -/
def doAck (p : Packet) (s : State) : State :=
  match p.msg with
  | .retAck => { s with fabric := { s.fabric with retained := s.fabric.retained.filter fun (r : Retained) =>
      !(r.src == p.src && r.cls == p.aux % 4 && r.seq == p.seq) } }
  | .mcAck g => s.mcAcked g p.seq p.src
  | _ => p.contribs.foldl (fun s e => s.acked p.src e.cls e.seq) (s.acked p.src (p.aux % 4) p.seq)

/-! NACKs (01 R19, 06 R139). -/

/-- MAP_UNSTABLE (01 R19). -/
def mapUnstable : Status := .fail Cause.accessError.code 0 3

/-- A request becomes a new one to a cube with a version (01 R19), translated again first when its lease has ended (05 R108). -/
def State.redirect (s : State) (who : Agent) (relay : Option Req) (r : Req) (cube ver : Nat) : State :=
  let r1 := { r with ver := ver }
  match relay with
  | some q => if cube = s.cubeId then s.emit { r1 with e2e := q.e2e, others := q.others }.event
      else s.sendRelay cube who q (.req { r1 with age := min 2047 (r.age + (s.leaseNow - r.at_)), at_ := s.leaseNow })
  | none =>
    let s1 := s.updOut r.id fun (o : Out) => { o with req := { o.req with redirects := r.redirects, waits := r.waits } }
    if !s.wanted who r then s
    else if s.leaseOver r then s1.emit (.sectionLookup { r with again := true })
    else s1.post cube who r.id (.req { r1 with cube := s.cubeId, at_ := s.leaseNow, age := 0, e2e := none })

/-- The newer of two versions, by the test of R18. -/
def newerVer (a b : Nat) : Nat := if 1 ≤ verDiff a b && verDiff a b ≤ 8 then a else b

/-- A reserved reason is counted in the error queue (06 Table 6.7). -/
def State.reservedNack (s : State) (n : NackMsg) (cube : Nat) : State :=
  s.report
    { org := ⟨s.cubeId * 256, 0, 0⟩, source := 2, code := Cause.accessError.code, space := 0, addr := 0, hcube := cube,
      local_ := 0, ident := n.id, detail := n.reason }

/-- A wait of 1,024 counts before a request is sent again, the 65th of which fails it (01 R19). -/
def State.backoff (s : State) (o : E2EOut) (n : NackMsg) : State :=
  if 64 < o.waits + 1 then
    (s.endE2E o).e2eFails o Cause.accessError.code 0 3
  else (s.setE2E { o with waits := o.waits + 1, paused := true, unseen := n.reason == 5 }).later 1024 (.backoffExpiry n)

/-- Does `a` come before `b` in SEQ order? -/
def seqLe (a b : E2EOut) : Bool := decide ((b.seq + 2 ^ 24 - a.seq) % 2 ^ 24 < 2 ^ 23)

/-- A request put in its place in a list in SEQ order. -/
def insertSeq (o : E2EOut) : List E2EOut → List E2EOut
  | [] => [o]
  | x :: r => if seqLe o x then o :: x :: r else x :: insertSeq o r

/-- NACK of a request sent to another cube. -/
def State.nackRemote (s : State) (n : NackMsg) (o : E2EOut) : State :=
  match n.reason, o.pkt.msg with
  | 0, .req r | 3, .req r =>
    let s1 := s.endE2E o
    if 8 < r.redirects + 1 then s1.e2eFails o Cause.accessError.code 0 3
    else s1.redirect o.who o.relay { r with redirects := r.redirects + 1 } (n.hint.getD o.dest) n.ver
  | 1, .req _ | 2, .req _ | 5, _ | 6, _ => s.backoff o n
  | 4, .req r =>
    let s1 := s.endE2E o
    match o.relay with
    | some q => s1.nackReq q 4 0 none
    | none => s1.emit (.sectionLookup { r with again := true })
  | 7, .req r => s.resendAs o.dest o.cls o.seq true (.req r)
  | 8, _ =>
    let l := s.fabric.outs.filter fun (x : E2EOut) => x.dest == o.dest && x.cls == 0 && (!x.paused || x.unseen)
    (l.foldr insertSeq []).foldl (fun s x => s.sendAgain x false) s
  | k, _ => if 9 ≤ k then s.reservedNack n o.dest else s

/-- NACK of a request at a home of this cube. -/
def State.nackLocal (s : State) (n : NackMsg) (o : Out) : State :=
  let r := o.req
  match n.reason with
  | 0 | 3 =>
    if 8 < r.redirects + 1 then s.emit (.data (r.ans mapUnstable))
    else s.redirect o.who none { r with redirects := r.redirects + 1 } (n.hint.getD s.cubeId) n.ver
  | 4 => s.emit (.sectionLookup { r with again := true })
  | k =>
    if 9 ≤ k then s.reservedNack n s.cubeId
    else if 64 < r.waits + 1 then s.emit (.data (r.ans mapUnstable))
    else (s.updOut o.id fun (o : Out) => { o with req := { o.req with waits := o.req.waits + 1 } }).later 1024 (.backoffExpiry n)

/-- NACK (01 R19; 06 R139): one for a request that is not outstanding is ignored. -/
def doNack (n : NackMsg) (s : State) : State :=
  match n.e2e with
  | some (dst, cls, seq) => match s.e2eOut dst cls seq with
    | some o => if o.paused then s else s.nackRemote n o
    | none => s
  | none => match s.out n.who n.id with
    | some o => s.nackLocal n o
    | none => s

/-- Where, and with which version, a request goes after a wait (01 R19; 06 Table 6.7). Of an address in no region R19 says nothing:
its request goes where it went, with its version (log entry 111). -/
def State.afterWait (s : State) (r : Req) (n : NackMsg) (dst : Nat) : Nat × Nat :=
  match s.layout r.pa with
  | some p => if n.reason = 5 || n.reason = 6 then (dst, r.ver) else (p.cube, newerVer p.ver n.ver)
  | none => (dst, r.ver)

/-- BACKOFF_EXPIRY (01 R19; 06 Table 6.7): a request is sent as a new one, after MOVING or NEWER_VERSION laid out anew, after NO_ROUTE
or BUSY to the same destination. One of class ORD that met NO_ROUTE keeps its SEQ: its destination has not seen it, and accepts none
after it before it (06 R136; log entry 81). -/
def doBackoffExpiry (n : NackMsg) (s : State) : State :=
  match n.e2e with
  | some (dst, cls, seq) => match s.e2eOut dst cls seq with
    | none => s
    | some o =>
      if !o.paused then s
      else if n.reason = 5 && o.cls = 0 then
        match o.pkt.msg, o.relay with
        | .req r, none => if s.leaseOver r then
            (s.setE2E { o with paused := false, sent := s.leaseNow }).sendAgain o true else s.sendAgain o true
        | _, _ => s.sendAgain o true
      else match o.pkt.msg with
        | .req r =>
          let x := s.afterWait r n o.dest
          (s.endE2E o).redirect o.who o.relay { r with waits := o.waits } x.1 x.2
        | m => (s.endE2E o).sendTracked
            { o with pkt := { s.packetFor (msgPt m) o.cls o.dest 0 o.who m with sag := o.pkt.sag }, paused := false, tries := 0 }
  | none => match s.out n.who n.id with
    | none => s
    | some o =>
      let x := s.afterWait o.req n s.cubeId
      s.redirect o.who none o.req x.1 x.2

/-! Windows (06 R136). -/

/-- What a window says of a SEQ. -/
inductive Seen where
  | new | dup
  | gap (expected : Nat)
  deriving DecidableEq, Repr

/-- How far `a` stands above `b`, modulo 2^24. -/
def seqAbove (a b : Nat) : Nat := (a + 2 ^ 24 - b % 2 ^ 24) % 2 ^ 24

/-- The window test of a SEQ in class ORD or another. -/
def windowTest (w : Option Window) (ord : Bool) (seq : Nat) : Seen :=
  if ord then
    let e := match w with
      | some w => (w.high + 1) % 2 ^ 24
      | none => 0
    let d := seqAbove seq e
    if d = 0 then .new else if d < 2 ^ 23 then .gap e else .dup
  else match w with
    | none => .new
    | some w =>
      let d := seqAbove seq w.high
      if d ≠ 0 && d < 2 ^ 23 then .new
      else if d = 0 || 1024 < seqAbove w.high seq || w.seen.contains seq then .dup else .new

/-- The window with a SEQ recorded. -/
def windowTake (w : Option Window) (seq : Nat) : Window :=
  match w with
  | none => { high := seq, seen := [] }
  | some w =>
    let d := seqAbove seq w.high
    if d ≠ 0 && d < 2 ^ 23 then
      { high := seq, seen := (w.high :: w.seen).filter fun x => decide (seqAbove seq x ≤ 1024) }
    else { w with seen := seq :: w.seen }

/-- The window of a key, if one is kept. -/
def windowOf (t : Tbl Window) (k : Nat) : Option Window := (t.find? fun p => p.1 == k).map fun p => p.2

/-- A SEQ is recorded; what is kept for requests that leave the window is freed (06 R137). -/
def State.record (s : State) (x : Nat × Nat × Nat) : State :=
  let f := s.fabric
  let k := e2eKey x.1 x.2.1
  let w := windowTake (windowOf f.windows k) x.2.2
  let old (r : Retained) : Bool := r.src == x.1 && r.cls == x.2.1 && decide (1024 < seqAbove w.high r.seq)
    && decide (seqAbove w.high r.seq < 2 ^ 23)
  { s with fabric := { f with
      windows := tblSet f.windows k w
      retained := f.retained.filter fun r => !old r
      answered := f.answered.filter fun r => !old r } }

/-- Each contributor of a request in turn: what the windows say of it, those before it taken. -/
def testAll (t : Tbl Window) : List (Nat × Nat × Nat) → List ((Nat × Nat × Nat) × Seen)
  | [] => []
  | x :: r =>
    let k := e2eKey x.1 x.2.1
    let v := windowTest (windowOf t k) (x.2.1 == 0) x.2.2
    let t1 := match v with
      | .new => tblSet t k (windowTake (windowOf t k) x.2.2)
      | _ => t
    (x, v) :: testAll t1 r

/-! Requests from other cubes. -/

/-- Is an OP assigned (06 Table 6.4, 14 Table 14.2)? -/
def opAssigned (op : Nat) : Bool :=
  (1 ≤ op && op ≤ 0x14) || (0x20 ≤ op && op ≤ 0x27) || (0x30 ≤ op && op ≤ 0x35) || (0x40 ≤ op && op ≤ 0x43)
    || (0x50 ≤ op && op ≤ 0x5C) || (0x60 ≤ op && op ≤ 0x67)

/-- Is a request refused unread: a reserved OP, SAG or element type (06 R124 to R126)? The messages to which the spec gives no OP are
known by what they carry (log entry 122). -/
def packetReserved (p : Packet) : Bool :=
  (!opAssigned p.op && msgOp p.msg != 0) || decide (0xD8 ≤ p.sag) || (decide (0x20 ≤ p.op) && decide (p.op ≤ 0x27) && decide (6 ≤ bitsOf p.aux 12 10))

/-- The message of a packet as its unit receives it: where to answer, and of a request the header's fields. -/
def received (p : Packet) (x : Nat × Nat × Nat) : Msg :=
  match p.msg with
  | .req r => .req { r with e2e := some x, age := p.age, at_ := p.at_, ver := p.ver, others := p.contribs }
  | .task t => .task { t with e2e := some x }
  | .copyCmd c => .copyCmd { c with e2e := some x }
  | .copyRead c => .copyRead { c with e2e := some x }
  | .copyWrite c => .copyWrite { c with e2e := some x }
  | .query q => .query { q with e2e := some x }
  | .check c => .check { c with e2e := some x }
  | .follow m => .follow { m with e2e := some x }
  | .job j => .job { j with ask := j.ask.map fun q => { q with e2e := some x } }
  | m => m

/-- Is a request answered later, by the unit it is for? -/
def answeredLater : Msg → Bool
  | .req _ | .task _ | .copyCmd _ | .copyRead _ | .copyWrite _ | .query _ | .check _ | .follow _ => true
  | .job j => j.ask.isSome
  | _ => false

/-- Whose request an answer ends: an answer that a stub's cube receives goes on to it. -/
def answerTo : Msg → Option Nat
  | .fill a | .data a | .grant a | .ackWt a | .nocache a => some a.who.cube
  | .wbAck m => some m.writer.cube
  | _ => none

/-- A message from another cube is given to its unit. -/
def State.performMsg (s : State) (m : Msg) : State :=
  match m with
  | .job j => match j.ask with
    | some q => if s.moving j.frame then s.answerQuery q 9 else (s.takeJob j fun j s => s.startJob j).answerQuery q 0
    | none => s.takeJob j fun j s => s.startJob j
  | .done who id v st => if who.kind = .taskUnit then
      s.footprintDone (id / 4) (id % 4) (match st with
        | .ok => v
        | .fail c _ _ => c)
      else s
  | .task t => s.emit (.taskAdmission 1 (some t))
  | m => match answerTo m with
    | some c => if c ≠ s.cubeId then s.sendRequest c (msgCls m) (routerAgent s.cubeId) 0 m
        else (msgEvent m).toList.foldl (fun s e => s.emit e) s
    | none => (msgEvent m).toList.foldl (fun s e => s.emit e) s

/-- An ACK to one source. -/
def State.ackTo (s : State) (x : Nat × Nat × Nat) : State :=
  s.sendAnswer 2 x.1 x.2.1 x.2.2 (routerAgent s.cubeId) .none 0 0

/-- A NACK to one source. -/
def State.nackTo (s : State) (x : Nat × Nat × Nat) (reason ver : Nat) : State :=
  let n : NackMsg := { who := routerAgent s.cubeId, id := 0, reason := reason, ver := ver, hint := none }
  s.sendAnswer 3 x.1 x.2.1 x.2.2 (routerAgent s.cubeId) (.nack n) (nackOpx n) 0

/-- A request refused unread is answered ACCESS_ERROR (06 R125, R126). -/
def State.refuseTo (s : State) (x : Nat × Nat × Nat) : State :=
  s.sendAnswer 1 x.1 x.2.1 x.2.2 (routerAgent s.cubeId)
    (.done (routerAgent s.cubeId) 0 0 (.fail Cause.accessError.code 0 3)) Cause.accessError.code 0

/-- Does a duplicate of a request only read, so that it is performed again (06 R136)? -/
def readsOnly : Msg → Bool
  | .req r => match r.act with
    | .load .. | .fetch | .notice .. | .translate _ => true
    | .counter op _ => op == 3 || op == 4
    | _ => false
  | .check _ | .query _ | .copyRead _ => true
  | _ => false

/-- Is the requester registered at home for every word it asks for? -/
def State.ownsAll (s : State) (r : Req) (n : Nat) : Bool :=
  match s.placeOf r with
  | some q =>
    let line := q.local_ / 128
    (maskWords (r.want n)).all fun w => ((s.slice (sliceOf line)).regOf line w).any fun g => g.isOf r.holder
  | none => false

/-- The new read that a duplicate of a request makes (06 R136): an `own` load whose words have since gone to another reads them as a
`wt` load, and registers nothing. -/
def State.readAgain (s : State) (m : Msg) : Msg :=
  match m with
  | .req r => match r.act with
    | .load n 3 hint => if s.ownsAll r n then m else .req { r with act := .load n 1 hint }
    | _ => m
  | _ => m

/-- A duplicate is answered again (06 R136, R137): one refused unread is refused again, a read is served again, a retained or kept
answer is sent again, and what returned nothing gets a fresh ACK. -/
def State.duplicate (s : State) (p : Packet) (x : Nat × Nat × Nat) : State :=
  let f := s.fabric
  let mine (r : Retained) : Bool := r.src == x.1 && r.cls == x.2.1 && r.seq == x.2.2
  if packetReserved p then s.refuseTo x
  else if f.open_.contains x then s
  else if readsOnly p.msg then s.performMsg (s.readAgain (received p x))
  else match f.retained.find? mine with
  | some r => s.sendAnswer 1 x.1 x.2.1 x.2.2 (s.homeAgent (p.pa / 128)) r.msg (msgOpx r.msg) 4
  | none => match f.answered.find? mine with
    | some r => match r.msg with
      | .nack n => s.sendAnswer 3 x.1 x.2.1 x.2.2 (routerAgent s.cubeId) r.msg (nackOpx n) 0
      | m => s.sendAnswer 1 x.1 x.2.1 x.2.2 (routerAgent s.cubeId) m (msgOpx m) 0
    | none => s.ackTo x

/-- A request of class ORD or BULK is tested against the windows of its contributors and performed once (06 R136, R143). -/
def State.takeRequest (s : State) (p : Packet) : State :=
  let me := (p.src, p.cls, p.seq)
  let l := testAll s.fabric.windows (packetSources p)
  if l.all fun e => e.2 == Seen.new then
    let s1 := l.foldl (fun s e => s.record e.1) s
    if packetReserved p then s1.refuseTo me
    else if answeredLater p.msg then
      { s1 with fabric := { s1.fabric with open_ := s1.fabric.open_ ++ packetSources p } }.performMsg (received p me)
    else (s1.ackTo me).performMsg p.msg
  else if p.contribs.isEmpty then
    match l with
    | (x, .gap e) :: _ => s.nackTo x 8 e
    | (x, _) :: _ => s.duplicate p x
    | [] => s
  else
    l.foldl (fun s e => match e.2 with
      | .dup => s.ackTo e.1
      | .new => s.nackTo e.1 7 0
      | .gap k => s.nackTo e.1 8 k) s

/-- PACKET_COMMIT (06 R128, R133, R135, R136): a whole packet for this cube. A failed check discards it, counted at the
port; a reserved type is discarded. -/
def doPacketCommit (port : Nat) (p : Packet) (s : State) : State :=
  if !p.good then s.updPort port fun q => { q with tagfail := q.tagfail + 1 }
  else
    let key := (p.src, p.aux % 4, p.seq)
    match p.pt with
    | 0 => s.takeRequest p
    | 1 => s.emit (.resp p)
    | 2 => s.emit (.ack p)
    | 3 => match p.msg with
      | .nack n => s.emit (.nack { n with e2e := some key })
      | .mcNack g => s.mcNacked g p.seq p.src
      | _ => s
    | 4 => match p.msg with
      | .req r => s.emit (.redApply { r with
          e2e := some (p.src, p.cls, p.seq), age := p.age, at_ := p.at_, ver := p.ver, others := p.contribs })
      | _ => s
    | 5 => match p.msg with
      | .mcast m => s.emit (.mcast m p.hop p.rty)
      | _ => s
    | _ => s

/-! Reducing streams (06 R143; 14 R300 to R302). -/

/-- Lease counts after which an unused stream entry is freed (14 R301). -/
def Fabric.streamLife (f : Fabric) : Nat := 4 * (f.retries + 1) * f.timerCounts

/-- STREAM_ENTRY_IDLE (14 R301). -/
def doStreamEntryIdle (stream : Nat) (s : State) : State :=
  let f := s.fabric
  { s with fabric := { f with streams := f.streams.filter fun (e : Stream) =>
      !(e.stream == stream && decide (e.last + f.streamLife ≤ s.leaseNow)) } }

/-- The entry of a stream noted as used now. -/
def State.touchStream (s : State) (e : Stream) : State :=
  let f := s.fabric
  let e1 := { e with last := s.leaseNow }
  { s with fabric := { f with streams := (f.streams.filter fun (x : Stream) => x.stream != e.stream) ++ [e1] } }.later f.streamLife
    (.streamEntryIdle e.stream)

/-- The applied mask of a block grows. -/
def State.markStream (s : State) (stream block mask : Nat) : State :=
  let f := s.fabric
  { s with fabric := { f with streams := f.streams.map fun (x : Stream) =>
      if x.stream = stream then { x with masks := tblSet x.masks block (BitVec.ofNat 56 mask) } else x } }

/-- A contribution is applied to its block at home (14 Table 14.9), once both lines are called back. -/
def State.redDo (s : State) (r : Req) (block old new : Nat) : State :=
  let line := r.local_ / 256 * 2
  match r.act with
  | .red rop stream _ d =>
    if s.shared line allWords none then s.quiesce line allWords none r.event
    else if s.shared (line + 1) allWords none then s.quiesce (line + 1) allWords none r.event
    else if s.poisoned line || s.poisoned (line + 1) then s.poisonFail r line
    else
      let x := redBlock rop (s.homeLine line ++ s.homeLine (line + 1)) d
      let s1 := ((s.homeTouch line 0).homeTouch (line + 1) 0).homeWrite (line * 128) (x.1.take 128)
      let s2 := (s1.homeWrite (line * 128 + 128) (x.1.drop 128)).atomFlags r.pa (x.2 ||| BitVec.ofNat 5 r.mflags)
      (s2.markStream stream block (old ||| new)).answerAck r (r.ans .ok)
  | _ => s

/-- Some contributors of a merged packet have been applied and others not: each is answered for itself (06 R143). -/
def State.redSplit (s : State) (r : Req) (old : Nat) : State :=
  match r.e2e, r.act with
  | some x, .red _ _ c _ =>
    ((x, c) :: r.others.map fun e => ((e.cube, e.cls, e.seq), e.bit)).foldl (fun s e =>
      if bitOf old e.2 then s.ackTo e.1 else s.nackTo e.1 7 0) s
  | _, _ => s

/-- RED_APPLY (06 R143; 14 R300 to R302). -/
def doRedApply (r : Req) (s : State) : State :=
  s.accept r fun r s =>
    match r.act with
    | .red _ stream _ _ =>
      let line := r.local_ / 256 * 2 + 1
      if (s.holdOf line).isSome then
        { s with holds := s.holds.map fun h => if h.line = line then { h with queue := h.queue ++ [r.event] } else h }
      else
        let f := s.fabric
        let block := r.pa / 256
        let new := redMask r
        let entry := f.streams.find? fun (e : Stream) => e.stream == stream
        if entry.isNone && decide (64 ≤ f.streams.length) then s.nackReq r 6 0 none
        else
          let e := entry.getD { stream := stream, masks := [], last := 0 }
          let s1 := s.touchStream e
          let known := e.masks.any fun p => p.1 == block
          let old := (tblGet e.masks block 0#56).toNat
          if !known && decide (1024 ≤ e.masks.length) then s1.answer r true (.data (r.ans (.fail 0x45 0 0)))
          else if new &&& old = 0 then s1.redDo r block old new
          else if new &&& old = new then s1.answerAck r (r.ans .ok)
          else s1.redSplit r old
    | _ => s

/-! Multicasts (06 R144; 14 R304). -/

/-- The row of a multicast is written on this cube, once, and acknowledged. -/
def State.mcPerform (s : State) (m : McastMsg) : State :=
  let k := m.who.cube * 256 + m.group
  let w := windowOf s.fabric.mcWindows k
  let s1 := match windowTest w false m.seq with
    | .new =>
      ({ s with fabric := { s.fabric with mcWindows := tblSet s.fabric.mcWindows k (windowTake w m.seq) } }).emit (.drainRow
        { core := s.gcore m.core, handle := m.handle, row := m.row, data := m.data, lcv := m.lcv, lc := m.lc, tag := 0, hnd := 0,
          src := m.who.core, par := false, space := m.space, org := m.org, id := m.id, total := 1 })
    | _ => s
  if m.who.cube = s.cubeId then s1.mcAcked m.group m.seq s.cubeId
  else s1.sendAnswer 2 m.who.cube 1 m.seq (routerAgent s.cubeId) (.mcAck m.group) 0 0

/-- MCAST (06 R144): a copy of a tree goes on by the group's ports, and to this cube when LOCAL is set; one sent to this
cube alone is performed. `hop` is the level of the next link. -/
def doMcast (m : McastMsg) (hop : Nat) (alone : Bool) (s : State) : State :=
  if alone then s.mcPerform m
  else
    let g := (memGet s.fabric.mcGroups m.group).toNat
    let p := { s.packetFor 5 1 0 0 m.who (.mcast m) with hop := hop, src := m.who.cube, opx := m.seq, aux := m.group }
    let out := (countUp 0 16).filter fun i => bitOf g i && (s.port i).state == 2 && decide (hop ≤ 6)
    let s1 := out.foldl (fun s i => s.enqueue i { pkt := p, have_ := flitsOf p }) s
    if bitOf g 16 then s1.mcPerform m else s1

/-- `nmcast` (14 R304): the row is sent to the group; it is outstanding until every cube has acknowledged. -/
def execNmcast (h : Hd) (a b : Opd) (f : EFlags) (vs t : BitVec 6) (s : State) : Res :=
  let i : Instr := .nmcast h a b f vs t
  issue i h { a := some a, b := some b } none anyMode
    (fun v s => s.withRegs [vs.toNat] fun s =>
      if fld v.a 63 24 ≠ 0 || bitOf v.a.toNat 18 then s.structError v.a.toNat 5
      else if fld v.b 63 8 ≠ 0 then s.structError v.b.toNat 5
      else s.syncGate (some f) fun s =>
        let group := fld v.b 7 0
        let x := s.newOut (s.threadReq 0 (.red 7 0 0 [])) .red
        let s1 := x.2
        let seq := tblGet s1.fabric.mcSeq group 0
        let m : McastMsg :=
          { group := group, seq := seq, core := fld v.a 7 0, handle := t.toNat, row := fld v.a 17 8, lcv := bitOf v.a.toNat 23,
            lc := fld v.a 22 19, data := s.vreg vs.toNat, who := s.meAgent, id := x.1.id, org := s.cx.origin, space := s.cx.space }
        let o : McOut :=
          { group := group, seq := seq, who := s.meAgent, id := x.1.id, left := Config.groupCubes group, msg := m, tries := 0 }
        let s2 := { s1 with fabric := { s1.fabric with
          mcSeq := tblSet s1.fabric.mcSeq group ((seq + 1) % 2 ^ 24), mcOuts := s1.fabric.mcOuts ++ [o] } }
        let s3 := ((s2.updCx fun t => { t with engOut := t.engOut + 1 }).emit (.mcast m 0 false)).later s2.fabric.timerCounts
          (.retryTimeout group 3 seq s2.leaseNow)
        (if o.left.isEmpty then s3.mcEnd o else s3).retireCmd i.bytes (some f)) s

end Sys2Proof.Machine
end

