-- ==== Sys2Proof/Machine/Answers.lean ====
section
/-! DEFINITION. Messages of the coherence protocol at those they are for (03 R65 to R75, Tables 3.6 and 3.7): what homes send
to sharers and registrants, and the answers that end a request of a thread, a unit or the host. -/

namespace Sys2Proof.Machine

/-! The end of a unit's request. -/

/-- A failure of a request that nothing waits for, with the source, code detail and number of its record. -/
def failItem (o : Out) (source ident code i1 i2 : Nat) : ErrItem :=
  { org := o.req.org, source := source, code := code, space := o.req.space, addr := o.req.va, hcube := bitsOf i2 63 52,
    local_ := bitsOf i2 36 0, ident := ident, detail := i1 }

/-- The agent that a request was for goes on with its outcome. -/
def State.unitEnds (s : State) (o : Out) (data : List Byte) (a : Ans) : State :=
  match o.purp, a.st with
  | .quiet source ident, .fail code i1 i2 =>
    if o.who = routerAgent s.cubeId then s else s.report (failItem o source ident code i1 i2)
  | .add ident own, .fail code i1 i2 =>
    let e := failItem o 5 ident code i1 i2
    if own then s.failBoth e else s.report e
  | .copy v serial, st => s.copyAnswer v serial o.req st data a
  | .engine n, st => s.engineAnswer n o.req st data a.value
  | .near v, st => s.nbAnswer v st
  | .susp id, st => s.suspAnswer id st data
  | .image c x dest value, .fail code _ _ => s.imageFailed c x dest value code o.req.va
  | .area c x e, .ok => s.areaAnswer c x e true
  | .area c x e, .fail .. => s.areaAnswer c x e false
  | .job _, st => if st = .ok && o.acks ≠ 0 then s else s.jobAnswer o a
  | .walk id pa, .ok => s.walkAnswer id pa (some (ofBytes data))
  | .walk id pa, .fail .. => s.walkAnswer id pa none
  | .leafSet w need size, _ => s.leafAnswer w need size o a
  | .desc c x id, .ok => s.descAnswer c x id data o.req.at_
  | .desc c x id, .fail .. => s.descAnswer c x id [] o.req.at_
  | .leaf c x, .ok => (s.updCtx c x fun t => if t.wait = .access o.id then { t with got := t.got ++ [data], wait := .none } else t)
  | .leaf c x, .fail .. =>
    s.updCtx c x fun t => if t.wait = .access o.id then { t with got := t.got ++ [List.replicate 8 0#8], wait := .none } else t
  | .produced q, .ok => s.producedKnown q (some (ofBytes data))
  | .produced q, .fail .. => s.producedKnown q none
  | .recordPut q, .ok => if o.acks = 0 then s.recordStored q else s
  | .recordPut q, .fail code i1 i2 => (if q = 2 then s else s.report (failItem o 1 0 code i1 i2)).recordStored q
  | .recordAdd q, .ok => s.recordDone q
  | .recordAdd q, .fail code i1 i2 => (if q = 2 then s else s.report (failItem o 1 0 code i1 i2)).recordDone q
  | .wb, .fail code i1 i2 =>
    ((s.updCore (o.who.core % 256) fun k =>
      { k with wbuf := k.wbuf.eraseP fun l => l.space == o.req.space && l.vline == o.req.va / 128 }).emit
        (.wbBufferRetry (o.who.core % 256))).report (failItem o 0 o.id code i1 i2)
  | .maint, .fail code i1 i2 =>
    (((s.updCore (o.who.core % 256) fun k =>
      { k with wbuf := k.wbuf.eraseP fun l => l.space == o.req.space && l.vline == o.req.va / 128 }).updCtx
        (o.who.core % 256) o.req.org.ctx fun t => { t with maint := t.maint - 1 }.wakeAcks).emit
        (.wbBufferRetry (o.who.core % 256))).report (failItem o 0 o.id code i1 i2)
  | _, _ => s

/-- The last acknowledgement of a unit's request has come. -/
def State.unitAcked (s : State) (o : Out) : State :=
  match o.purp with
  | .copy v serial => s.copyAcked v serial
  | .engine n => s.engineAcked n
  | .near v => s.nbAcked v
  | .susp id => s.suspAcked id
  | .recordPut q => s.recordStored q
  | .job id => s.moveCounter id
  | _ => s

/-- Whose unit collects the acknowledgements of its stores (04 R90)? -/
def Purp.collects : Purp → Bool
  | .copy .. | .engine _ | .near _ | .susp _ | .recordPut _ | .job _ => true
  | _ => false

/-- A unit's request has its answer: it ends, unless acknowledgements of a store are still to come or it is a watch. -/
def State.unitAnswered (s : State) (o : Out) (data : List Byte) (a : Ans) : State :=
  let watch := match o.req.act, a.st with
    | .watch _, .ok => true
    | _, _ => false
  if watch then s.unitEnds o data a
  else if a.st = .ok && o.purp.collects && o.acks ≠ 0 then
    (s.updOut o.id fun _ => { o with tagged := true }).unitEnds o data a
  else (s.dropOut o.id).unitEnds o data a

/-- An answer to a unit: a load of memory is complete once all its words have come; an ACK_WT tells how many
acknowledgements to expect. -/
def State.unitTakes (s : State) (o : Out) (a : Ans) (expect : Bool) : State :=
  match o.purp with
  | .taskWait seq _ => s.taskWaitAnswer o seq a.st
  | .taskHome seq => s.taskHomeAnswer o seq a
  | .taskCopy seq f => s.taskCopyAnswer o seq f a
  | _ =>
    let o0 := if expect then { o with acks := o.acks + a.n } else o
    match o.req.act, a.st with
    | .load n _ _, .ok =>
      if n = 0 then s.unitAnswered o0 a.data a
      else
        let o1 := o0.absorb a
        let want := o.req.want n
        if want - (want &&& o1.have_) ≠ 0 then s.updOut o.id fun _ => o1
        else s.unitAnswered o1 (o1.bytes n) a
    | _, _ => s.unitAnswered o0 a.data a

/-! Answers. -/

/-- An answer to an access of the host: kind 0 brings words, 1 a grant, 2 the end of a write. -/
def State.hostTakes (s : State) (o : Out) (k : Nat) (a : Ans) (what : Nat) : State :=
  match a.st with
  | .fail code _ i2 => s.hostFail o k code i2
  | .ok =>
    let o1 := o.absorb a
    let o2 := if what = 0 then o1 else { o1 with granted := true, acks := o1.acks + a.n }
    (s.updOut o.id fun _ => o2).hostTry o2 k

/-- An answer finds the request that it is for: `thread` is what a thread's core does with it, `what` its kind for the
host. -/
def State.answered (s : State) (a : Ans) (what : Nat) (thread : Out → State) : State :=
  match s.out a.who a.id with
  | none => s
  | some o =>
    if o.who.kind = .thread then thread o
    else match o.purp with
      | .host k => s.hostTakes o k a what
      | _ => s.unitTakes o a (what != 0)

/-- FILL (03 R67). -/
def doFill (a : Ans) (s : State) : State := s.answered a 0 fun o => s.threadFill o a

/-- Is a message the forward to the host whose data an answer brings? -/
def forwardOf (a : Ans) : Msg → Bool
  | .fwdRead m r | .fwdOwn m r => r.who == a.who && r.id == a.id && a.mask == 2 ^ m.word
  | _ => false

/-- DATA (03 R67), also of the host for a forward that it was sent as a snoop (17 R352). -/
def doData (a : Ans) (s : State) : State :=
  match s.takeSnoop (forwardOf a) with
  | some s1 => s1.post a.who.cube s.hostAgent 0 (.data a)
  | none => s.answered a 0 fun o => s.threadData o a true

/-- GRANT (03 R69). -/
def doGrant (a : Ans) (s : State) : State := s.answered a 1 fun o => s.threadGranted o a
/-- ACK_WT (03 R69). -/
def doAckWt (a : Ans) (s : State) : State := s.answered a 2 fun o => s.threadAckWt o a
/-- NOCACHE (03 R68). -/
def doNocache (a : Ans) (s : State) : State := s.answered a 0 fun o => s.threadData o a false

/-! Messages of a home. -/

/-- A core's agent for a message about its copies. -/
def holderAgent (m : CohMsg) : Agent := { kind := .unit, core := m.agent, idx := 254 }

/-- INV_ACK goes to whom the write was granted. -/
def State.sendInvAck (s : State) (m : CohMsg) : State := s.post m.writer.cube (holderAgent m) m.wid (.invAck m)

/-- Has the core a fill of the line that waits for a place in its write-back buffer? -/
def State.fillComing (s : State) (m : CohMsg) : Bool :=
  (s.core (m.agent % 256)).fills.any fun e => match e with
    | .fill a | .grant a | .data a => (s.out a.who a.id).any fun o => o.req.space == m.space && o.req.va / 128 == m.vline
    | _ => false

/-- INV (03 R67): copies are dropped, after a fill that came before. -/
def doInv (m : CohMsg) (s : State) : State :=
  if m.host then s.hostSnoop (.inv m)
  else s.orHold m (s.fillComing m) (.inv m) ((s.coreInv m).sendInvAck m)

/-- FWD_READ (03 R67). -/
def doFwdRead (m : CohMsg) (r : Req) (s : State) : State :=
  if m.host then s.hostSnoop (.fwdRead m r) else s.orHold m (s.wordComing m) (.fwdRead m r) (s.coreFwdRead m r)

/-- FWD_OWN (03 R67). -/
def doFwdOwn (m : CohMsg) (r : Req) (s : State) : State :=
  if m.host then s.hostSnoop (.fwdOwn m r) else s.orHold m (s.wordComing m) (.fwdOwn m r) (s.coreFwdOwn m r)

/-- REVOKE (03 R67): the word is dropped, its value with it. -/
def doRevoke (m : CohMsg) (s : State) : State :=
  if m.host then s.hostSnoop (.revoke m) else s.orHold m (s.wordComing m) (.revoke m) ((s.clearWord m).sendInvAck m)

/-- REVOKE_WB (03 R68). -/
def doRevokeWb (m : CohMsg) (s : State) : State :=
  if m.host then s.hostSnoop (.revokeWb m) else s.orHold m (s.wordComing m) (.revokeWb m) (s.coreRevokeWb m)

/-- RWB_DATA (03 R68, R72), also of the host for a REVOKE_WB that it was sent as a snoop. -/
def doRwbData (m : CohMsg) (value : Option Nat) (s : State) : State :=
  match s.takeSnoop fun q => q == .revokeWb m with
  | some s1 => s1.post m.home s.hostAgent 0 (.rwbData m value)
  | none => s.takeRwb m value

/-- INV_ACK (03 R67, R69), also of the host: it counts for the home, the thread, the unit or the host that awaits it. -/
def doInvAck (m : CohMsg) (s : State) : State :=
  match s.takeSnoop fun q => q == .inv m || q == .revoke m with
  | some s1 => s1.sendInvAck m
  | none =>
    match m.writer.kind with
    | .home => s.holdAck m.wid []
    | .thread => s.threadInvAck m.writer
    | _ => match s.out m.writer m.wid with
      | none => s
      | some o =>
        let o1 := { o with acks := o.acks - 1 }
        let s1 := s.updOut o.id fun _ => o1
        match o.purp with
        | .host k => s1.hostTry o1 k
        | _ => if o.tagged && o1.acks = 0 then (s1.dropOut o.id).unitAcked o1 else s1

/-! Notices of watches (08 R173). -/

/-- SATISFIED. -/
def doSatisfied (who : Agent) (id value : Nat) (s : State) : State :=
  match who.kind with
  | .thread => s.threadSatisfied who id value
  | .taskUnit => s.taskSatisfied id
  | .engine => s.engineSatisfied who.idx id
  | _ => s

/-- DROPPED. -/
def doDropped (who : Agent) (id : Nat) (s : State) : State :=
  match who.kind with
  | .thread => s.threadDropped who id
  | .taskUnit => s.taskDropped id
  | .engine => s.engineDropped who.idx id
  | _ => s

end Sys2Proof.Machine
end

