-- ==== Sys2Proof/Machine/Crypto.lean ====
section
/-! DEFINITION. The two cryptographic functions that the boot ROM and the attestation unit use (17 R358, R359): SHA-512,
and Ed25519 of RFC 8032 without pre-hashing. Both are fixed by their names in the spec; byte strings are lists. -/

namespace Sys2Proof.Machine

/-! SHA-512. -/

/-- Word of 64 bits modulo 2^64. -/
def w64 (x : Nat) : Nat := x % 2 ^ 64
/-- Rotation right by `n`. -/
def ror64 (x n : Nat) : Nat := w64 (x / 2 ^ n + x * 2 ^ (64 - n))

/-- The primes up to 409: the first 80. -/
def primes80 : List Nat := (countUp 2 408).filter fun n => (countUp 2 19).all fun d => d == n || n % d != 0

/-- The `k`-th root of `x * 2^(64 k)`, rounded down: its bits below bit `n`, from the highest on, joined to those found before. -/
def rootBits (k x : Nat) : Nat → Nat → Nat
  | 0, r => r
  | n + 1, r => rootBits k x n (if (r + 2 ^ n) ^ k ≤ x * 2 ^ (64 * k) then r + 2 ^ n else r)

/-- The first 64 bits of the fractional part of the `k`-th root of a number below 2^16. -/
def rootFrac (k x : Nat) : Nat := w64 (rootBits k x 80 0)

/-- The constants of the 80 rounds, by their definition: from the cube roots of the first 80 primes. -/
def sha512Keys : List Nat := primes80.map (rootFrac 3)

/-- The initial hash value, by its definition: from the square roots of the first eight primes. -/
def sha512Start : List Nat := (primes80.take 8).map (rootFrac 2)

/-- The big-endian value of a list of bytes. -/
def ofBytesBE (l : List Byte) : Nat := l.foldl (fun n b => n * 256 + b.toNat) 0

/-- The `k` low bytes of a value, most significant first. -/
def toBytesBE (x k : Nat) : List Byte := (toBytes x k).reverse

/-- The message followed by a one bit, zeros and its length in bits, a whole number of 128-byte blocks. -/
def sha512Pad (l : List Byte) : List Byte :=
  l ++ 0x80#8 :: List.replicate ((239 - l.length % 128) % 128) 0#8 ++ toBytesBE (8 * l.length) 16

/-- The message schedule, `n` words past those of the block. `l` holds the last sixteen, the latest first. -/
def sha512Schedule : List Nat → Nat → List Nat
  | _, 0 => []
  | l, n + 1 =>
    let a := nthD l 1 0
    let b := nthD l 14 0
    let s1 := ror64 a 19 ^^^ ror64 a 61 ^^^ (a / 2 ^ 6)
    let s0 := ror64 b 1 ^^^ ror64 b 8 ^^^ (b / 2 ^ 7)
    let w := w64 (s1 + nthD l 6 0 + s0 + nthD l 15 0)
    w :: sha512Schedule (w :: l.take 15) n

/-- One round on the eight working variables. -/
def sha512Round (v : List Nat) (kw : Nat × Nat) : List Nat :=
  match v with
  | [a, b, c, d, e, f, g, h] =>
    let t1 := h + (ror64 e 14 ^^^ ror64 e 18 ^^^ ror64 e 41) + ((e &&& f) ^^^ ((2 ^ 64 - 1 - e) &&& g)) + kw.1 + kw.2
    let t2 := (ror64 a 28 ^^^ ror64 a 34 ^^^ ror64 a 39) + ((a &&& b) ^^^ (a &&& c) ^^^ (b &&& c))
    [w64 (t1 + t2), a, b, c, w64 (d + t1), e, f, g]
  | _ => v

/-- One block of 128 bytes. -/
def sha512Block (h : List Nat) (block : List Byte) : List Nat :=
  let w := (countUp 0 16).map fun i => ofBytesBE ((block.drop (8 * i)).take 8)
  let v := (sha512Keys.zip (w ++ sha512Schedule w.reverse 64)).foldl sha512Round h
  (h.zip v).map fun p => w64 (p.1 + p.2)

/-- `n` blocks. -/
def sha512Blocks : Nat → List Byte → List Nat → List Nat
  | 0, _, h => h
  | n + 1, l, h => sha512Blocks n (l.drop 128) (sha512Block h (l.take 128))

/-- SHA-512 of a byte string: 64 bytes. -/
def sha512 (l : List Byte) : List Byte :=
  let m := sha512Pad l
  (sha512Blocks (m.length / 128) m sha512Start).flatMap fun w => toBytesBE w 8

/-! Ed25519. -/

/-- The prime of the field. -/
def edP : Nat := 2 ^ 255 - 19
/-- The order of the base point. -/
def edL : Nat := 2 ^ 252 + 27742317777372353535851937790883648493
/-- The curve's constant. -/
def edD : Nat := 37095705934669439343138083508754565189542113879843219016388785533085940283555

/-- Difference in the field. -/
def fSub (a b : Nat) : Nat := (a + edP - b % edP) % edP

/-- `b` to the power given by the low `k` bits of `e`, in the field. -/
def fPow (b e : Nat) : Nat → Nat
  | 0 => 1
  | k + 1 =>
    let r := fPow b (e / 2) k
    let q := r * r % edP
    if e % 2 = 1 then q * b % edP else q

/-- The inverse in the field. -/
def fInv (x : Nat) : Nat := fPow x (edP - 2) 255

/-- A point in extended coordinates: x = X/Z, y = Y/Z, xy = T/Z. -/
structure EdPoint where
  x : Nat
  y : Nat
  z : Nat
  t : Nat
  deriving DecidableEq, Repr

/-- The sum of two points. -/
def edAdd (p q : EdPoint) : EdPoint :=
  let a := fSub p.y p.x * fSub q.y q.x % edP
  let b := (p.y + p.x) * (q.y + q.x) % edP
  let c := 2 * p.t * q.t * edD % edP
  let d := 2 * p.z * q.z % edP
  let e := fSub b a
  let f := fSub d c
  let g := (d + c) % edP
  let h := (b + a) % edP
  { x := e * f % edP, y := g * h % edP, z := f * g % edP, t := e * h % edP }

/-- The neutral point. -/
def edZero : EdPoint := { x := 0, y := 1, z := 1, t := 0 }

/-- A point times the low `k` bits of a scalar. -/
def edMul (n : Nat) (p : EdPoint) : Nat → EdPoint
  | 0 => edZero
  | k + 1 =>
    let r := edMul (n / 2) p k
    let q := edAdd r r
    if n % 2 = 1 then edAdd q p else q

/-- Are two points equal? -/
def edEq (p q : EdPoint) : Bool :=
  p.x * q.z % edP == q.x * p.z % edP && p.y * q.z % edP == q.y * p.z % edP

/-- The x of a point with the given y and sign, if there is one. -/
def edRecoverX (y sign : Nat) : Option Nat :=
  if edP ≤ y then none
  else
    let x2 := fSub (y * y) 1 * fInv (edD * y * y + 1) % edP
    if x2 = 0 then (if sign = 1 then none else some 0)
    else
      let x := fPow x2 ((edP + 3) / 8) 255
      let x1 := if x * x % edP = x2 then x else x * fPow 2 ((edP - 1) / 4) 255 % edP
      if x1 * x1 % edP ≠ x2 then none
      else some (if x1 % 2 = sign then x1 else edP - x1)

/-- The point that 32 bytes encode. -/
def edDecode (l : List Byte) : Option EdPoint :=
  let n := ofBytes l
  let y := n % 2 ^ 255
  (edRecoverX y (bitsOf n 255 255)).map fun x => { x := x, y := y, z := 1, t := x * y % edP }

/-- The 32 bytes of a point. -/
def edEncode (p : EdPoint) : List Byte :=
  let i := fInv p.z
  toBytes (p.y * i % edP + 2 ^ 255 * (p.x * i % edP % 2)) 32

/-- The base point. -/
def edBase : EdPoint :=
  let y := 4 * fInv 5 % edP
  let x := (edRecoverX y 0).getD 0
  { x := x, y := y, z := 1, t := x * y % edP }

/-- The secret scalar of a 32-byte seed. -/
def edScalar (seed : List Byte) : Nat :=
  let n := ofBytes ((sha512 seed).take 32)
  n % 2 ^ 254 / 8 * 8 + 2 ^ 254

/-- The public key of a seed. -/
def edPublic (seed : List Byte) : List Byte := edEncode (edMul (edScalar seed) edBase 255)

/-- The value of a hash as a scalar. -/
def edHash (l : List Byte) : Nat := ofBytes (sha512 l) % edL

/-- The signature of a message by a seed (RFC 8032 section 5.1.6). -/
def edSign (seed msg : List Byte) : List Byte :=
  let r := edHash ((sha512 seed).drop 32 ++ msg)
  let rp := edEncode (edMul r edBase 253)
  let k := edHash (rp ++ edPublic seed ++ msg)
  rp ++ toBytes ((r + k * edScalar seed) % edL) 32

/-- Is the signature valid (RFC 8032 section 5.1.7, the equation with the cofactor)? -/
def edVerify (key sig msg : List Byte) : Bool :=
  let s := ofBytes (sig.drop 32)
  match edDecode key, edDecode (sig.take 32) with
  | some a, some r =>
    let k := edHash (sig.take 32 ++ key ++ msg)
    decide (sig.length = 64) && decide (s < edL)
      && edEq (edMul 8 (edMul s edBase 253) 4) (edMul 8 (edAdd r (edMul k a 253)) 4)
  | _, _ => false

end Sys2Proof.Machine
end

