-- ==== Sys2Proof/Machine/Service.lean ====
section
/-! DEFINITION. Boot, identity, the mailbox and management messages, power (17 R355 to R363). -/

namespace Sys2Proof.Machine

/-! The flash (17 R358). -/

/-- `n` bytes of the flash; what nothing has programmed is erased, all ones. -/
def State.flashRead (s : State) (a n : Nat) : List Byte := (memRead s.svc.flash a n).map fun b => b ^^^ 0xFF#8
/-- Bytes programmed. -/
def State.flashWrite (s : State) (a : Nat) (d : List Byte) : State :=
  { s with svc := { s.svc with flash := memWrite s.svc.flash a (d.map fun b => b ^^^ 0xFF#8) } }
/-- Flash offset of an image slot. -/
def slotBase (k : Nat) : Nat := k * 0x1000000
/-- Flash offset of the boot-select record. -/
def bootRecord : Nat := 0x2000000
/-- The boot-select record's first eight bytes. -/
def bootMagic : Nat := 0xCE960A1E00000002

/-- The preferred slot. -/
def State.preferred (s : State) : Nat :=
  if ofBytes (s.flashRead bootRecord 8) = bootMagic && ofBytes (s.flashRead (bootRecord + 8) 1) = 1 then 1 else 0

/-- An image of a slot: header and body. -/
structure Image where
  hdr : List Byte
  body : List Byte

/-- Field of the header, as a number (17 Table 17.6). -/
def Image.field (i : Image) (at_ n : Nat) : Nat := ofBytes ((i.hdr.drop at_).take n)
/-- VER. -/
def Image.ver (i : Image) : Nat := i.field 12 4
/-- BODYLEN. -/
def Image.bodyLen (i : Image) : Nat := i.field 16 8
/-- ENTRY. -/
def Image.entry (i : Image) : Nat := i.field 24 8
/-- LOAD. -/
def Image.load (i : Image) : Nat := i.field 32 8
/-- WALKLEN. -/
def Image.walkLen (i : Image) : Nat := i.field 48 8
/-- The walk image. -/
def Image.walk (i : Image) : List Byte := (i.body.drop (i.field 40 8)).take i.walkLen
/-- The configuration block. -/
def Image.config (i : Image) : List Byte := (i.body.drop (i.field 56 8)).take 64
/-- Field of the configuration block (17 Table 17.7). -/
def Image.cfg (i : Image) (at_ n : Nat) : Nat := ofBytes ((i.config.drop at_).take n)

/-- The image of a slot as the flash holds it; one longer than a slot has no body. -/
def State.imageOf (s : State) (k : Nat) : Image :=
  let h := s.flashRead (slotBase k) 256
  let n := ofBytes ((h.drop 16).take 8)
  { hdr := h, body := if n ≤ 16776960 then s.flashRead (slotBase k + 256) n else [] }

/-- Is the image readable (17 R358)? -/
def Image.readable (i : Image) : Bool :=
  i.field 0 8 == 0xCE960A1E00000001 && i.field 8 4 == 1 && decide (1 ≤ i.bodyLen) && decide (i.bodyLen ≤ 16776960)
    && i.entry % 4 == 0 && decide (i.entry < i.bodyLen) && i.load % 0x200000 == 0 && decide (0x1000000 ≤ i.load)
    && decide (i.load + i.bodyLen ≤ 0x1800000000) && i.field 64 8 == 64
    && decide (i.field 40 8 + i.walkLen ≤ i.bodyLen) && decide (i.field 56 8 + 64 ≤ i.bodyLen)

/-- A fused value's 32 bytes. -/
def fuse (n : Nat) : List Byte := toBytes (Config.fuse n).toNat 32

/-- Does the image carry the fused key's signature (17 R358)? Fused values 1 and 2 are the hash of the key. -/
def Image.signed (i : Image) : Bool :=
  let key := (i.hdr.drop 128).take 32
  sha512 key == fuse 1 ++ fuse 2
    && edVerify key ((i.hdr.drop 160).take 64) (sha512 (i.hdr.take 160 ++ i.body))

/-- Is an entry address of the walk image 0, or a word of the walk store (17 R358)? -/
def walkEntryOk (v : Nat) : Bool :=
  v == 0 || (v % 4 == 0 && decide (0x8000000000000000 ≤ v) && decide (v < 0x8000000000040000))

/-- Are the walk image and the configuration block well formed (17 R358)? -/
def Image.formed (i : Image) : Bool :=
  decide (64 ≤ i.walkLen) && decide (i.walkLen ≤ 262144) && i.walkLen % 8 == 0
    && ((countUp 0 8).all fun k => walkEntryOk (ofBytes ((i.walk.drop (8 * k)).take 8)))
    && decide (i.cfg 0 2 < 4096) && decide (300 ≤ i.cfg 2 2) && decide (i.cfg 2 2 ≤ 950) && i.cfg 4 4 == 0 && i.cfg 32 32 == 0

/-- The code with which a slot fails, 0 when it passes (17 R355 steps 2 to 5, Table 17.3). -/
def State.slotCode (s : State) (k : Nat) : Nat :=
  let i := s.imageOf k
  if !i.readable then 1 else if !i.signed then 2 else if i.ver < s.regs.minver then 3 else if !i.formed then 4 else 0

/-! Boot (17 R355, R356, R358). -/

/-- The byte table of a list of bytes. -/
def byteTbl (a : Nat) (d : List Byte) : Tbl Byte := memWrite [] a d

/-- A 64-bit word stored in the cube's own memory. -/
def State.storeWord (s : State) (a v : Nat) : State := { s with dense := memWrite s.dense a (toBytes v 8) }

/-- The firmware space: its descriptor, a level-3 table, and a level-2 table of 64 leaves of 1 GiB (17 R358). -/
def State.firmwareSpace (s : State) : State :=
  let s1 := ({ s with regs := { s.regs with spaceTbl := 0x400000#64 } }.storeWord 0x400000 (2 ^ 63 + 0x800000)).storeWord
    0x800000 (0x801000 + 1)
  (countUp 0 64).foldl (fun s k => s.storeWord (0x801000 + 8 * k) (k * 2 ^ 30 + 0xCF)) s1

/-- A slot has passed: steps 7 and 8 of 17 R355. -/
def State.bootImage (s : State) (k : Nat) : State :=
  let i := s.imageOf k
  let cube := i.cfg 0 2
  let s1 := { s with
    cubeId := cube
    cubeSet := true
    dense := memWrite s.dense i.load i.body
    walkStore := byteTbl 0 i.walk
    map := tblSet s.map 0 { state := 1, n := 1, gran := 30, size := 36 }
    cubeList := tblSet s.cubeList 0 cube
    regs := { s.regs with
      pwrCap := BitVec.ofNat 64 (i.cfg 2 2)
      hwinBase := BitVec.ofNat 64 (bitsOf (i.cfg 8 8) 51 28 * 2 ^ 28)
      hwinSize := BitVec.ofNat 64 (i.cfg 16 8 % 64)
      hostCtl := BitVec.ofNat 64 (i.cfg 24 8 % 8)
      bootStat := BitVec.ofNat 64 (256 * k)
      fwVer := BitVec.ofNat 64 (i.ver * 2 ^ 32) }
    svc := { s.svc with image := i.body, config := i.config, boot := some (i.load + i.entry), recovery := false } }
  ((countUp 0 16).foldl (fun s p => s.train p) s1.firmwareSpace).portsSettled

/-- The checks that each slice makes for as long as the cube runs: its copy of LEASE_NOW every 1,024 counts (05 R106), and its
race-tracking entries at least once in every 65,536 mesh cycles (04 R86). -/
def sliceTimers : List Timer :=
  (countUp 0 64).map (fun k => { due := 1024, step := .leaseSkewCheck k })
    ++ (countUp 0 64).map fun k => { due := sweepCounts, step := .sweepPass k }

/-- The cube right after reset; the flash and the fused minimum are kept, and what has been answered outside. -/
def State.afterReset (s : State) : State :=
  { State.reset with
    events := []
    timers := sliceTimers
    tick := s.tick
    regs := { State.reset.regs with minver := s.regs.minver, msix := s.regs.msix }
    svc := { flash := s.svc.flash, answers := s.svc.answers, mbox := s.svc.mbox, mctp := s.svc.mctp } }

/-- CUBE_RESET (17 R355): the boot ROM tries the preferred slot, then the other; with neither the cube stays in recovery,
with the code of the slot tried last. -/
def doCubeReset (s : State) : State :=
  let s0 := s.afterReset
  let k := s0.preferred
  if s0.slotCode k = 0 then s0.bootImage k
  else if s0.slotCode (1 - k) = 0 then s0.bootImage (1 - k)
  else { s0 with
    regs := { s0.regs with bootStat := BitVec.ofNat 64 (s0.slotCode (1 - k)) }
    svc := { s0.svc with recovery := true } }

/-- Firmware starts in context 0 of core 0, in firmware mode and space 0 (17 R355, step 10; R358). -/
def State.startFirmware (s : State) (va : Nat) : State :=
  s.updCtx 0 0 fun t => { t.freed with
    cstate := .active
    pc := BitVec.ofNat 64 va
    status := BitVec.ofNat 64 (putBits 2 46 2 + putBits (s.gcore 0) 12 20)
    startNo := t.startNo + 1#16
    ostart := t.startNo + 1#16 }

/-- CLUSTER_POWER_UP (17 R362): starts and arrivals that waited for the cluster go on; with the first cluster, firmware
starts. -/
def doClusterPowerUp (cluster : Nat) (s : State) : State :=
  if 16 ≤ cluster then s
  else
    let s1 := { s with svc := { s.svc with powered := max s.svc.powered (cluster + 1) } }
    let s2 := (countUp 0 16).foldl (fun s k => s.coreFreed (16 * cluster + k)) s1
    match s.svc.boot with
    | some va => if cluster = 0 then { s2 with svc := { s2.svc with boot := none } }.startFirmware va else s2
    | none => s2

/-! Identity and attestation (17 R359). -/

/-- The seed of the identity key. -/
def identitySeed : List Byte :=
  (sha512 ([0x41#8, 0x65#8, 0x64#8, 0x61#8, 0x78#8, 0x2D#8, 0x49#8, 0x44#8] ++ fuse 0)).take 32
/-- The identity public key. -/
def identityKey : List Byte := edPublic identitySeed

/-- FW_VER as it is read. -/
def State.fwVerWord (s : State) : Nat := putBits (fld s.regs.fwVer 63 32) 32 32 + putBits s.regs.minver 0 32

/-- The report of 17 Table 17.5 for a nonce. -/
def State.report368 (s : State) (nonce : List Byte) : List Byte :=
  let m := toBytes (1 + putBits s.cubeId 16 12) 8 ++ nonce ++ toBytes s.fwVerWord 8 ++ (fuse 3 ++ fuse 4)
    ++ sha512 s.svc.image ++ sha512 (memRead s.walkStore 0 262144) ++ sha512 s.svc.config
  m ++ edSign identitySeed m

/-- The 32 bytes of GET_STATUS (17 Table 17.8). -/
def State.statusBytes (s : State) : List Byte :=
  toBytes s.regs.bootStat.toNat 8 ++ toBytes s.fwVerWord 8 ++ toBytes s.regs.health.toNat 8 ++ toBytes s.regs.pwrStat.toNat 8

/-! The commands (17 R360, R361). -/

/-- The slot in use by the running firmware is not to be changed. -/
def State.slotBusy (s : State) (k : Nat) : Bool := !s.svc.recovery && k == fld s.regs.bootStat 15 8

/-- GET_STATUS. -/
def State.cmdStatus (s : State) (body : List Byte) : MboxRet × List Byte × State :=
  if body.isEmpty then (.success, s.statusBytes, s) else (.invalidInput, [], s)
/-- GET_KEY. -/
def State.cmdKey (s : State) (body : List Byte) : MboxRet × List Byte × State :=
  if body.isEmpty then (.success, identityKey, s) else (.invalidInput, [], s)
/-- ATTEST. -/
def State.cmdAttest (s : State) (body : List Byte) : MboxRet × List Byte × State :=
  if body.length = 32 then (.success, s.report368 body, s) else (.invalidInput, [], s)

/-- The slot that the first byte of a payload names. -/
def slotByte (body : List Byte) : Nat := ofBytes (body.take 1)

/-- IMAGE_ERASE. -/
def State.cmdErase (s : State) (body : List Byte) : MboxRet × List Byte × State :=
  let k := slotByte body
  if body.length ≠ 1 || 1 < k || s.slotBusy k then (.invalidInput, [], s)
  else (.success, [], { s with svc := { s.svc with flash := s.svc.flash.filter fun p =>
    !(decide (slotBase k ≤ p.1) && decide (p.1 < slotBase (k + 1))) } })

/-- IMAGE_WRITE. -/
def State.cmdWrite (s : State) (body : List Byte) : MboxRet × List Byte × State :=
  let k := slotByte body
  let off := ofBytes ((body.drop 4).take 4)
  let d := body.drop 8
  if body.length < 8 || 1 < k || ofBytes ((body.drop 1).take 3) ≠ 0 || off % 256 ≠ 0 || d.length < 256 || 4096 < d.length
      || d.length % 256 ≠ 0 || 0x1000000 < off + d.length || s.slotBusy k then (.invalidInput, [], s)
  else (.success, [], s.flashWrite (slotBase k + off) d)

/-- IMAGE_ACTIVATE: a slot that passes is recorded as preferred, and the cube resets. -/
def State.cmdActivate (s : State) (body : List Byte) : MboxRet × List Byte × State :=
  let k := slotByte body
  if body.length ≠ 1 || 1 < k || s.slotCode k ≠ 0 then (.invalidInput, [], s)
  else (.success, [], ((s.flashWrite bootRecord (toBytes bootMagic 8)).flashWrite (bootRecord + 8) (toBytes k 1)).emitFirst [.cubeReset])

/-- SET_CAP. -/
def State.cmdCap (s : State) (body : List Byte) : MboxRet × List Byte × State :=
  if body.length ≠ 2 then (.invalidInput, [], s)
  else (.success, [], { s with regs := { s.regs with
    pwrCap := BitVec.ofNat 64 (min 950 (max 300 (ofBytes body))) } })

/-- The mailbox answers. -/
def mboxAnswer (r : MboxRet × List Byte × State) : State :=
  let s := r.2.2
  { s with svc := { s.svc with mbox := s.svc.mbox ++ [(r.1, r.2.1)] } }

/-- MBOX_GET_STATUS (17 R360). -/
def doMboxGetStatus (body : List Byte) (s : State) : State := mboxAnswer (s.cmdStatus body)
/-- MBOX_GET_KEY (17 R360). -/
def doMboxGetKey (body : List Byte) (s : State) : State := mboxAnswer (s.cmdKey body)
/-- MBOX_ATTEST (17 R360). -/
def doMboxAttest (body : List Byte) (s : State) : State := mboxAnswer (s.cmdAttest body)
/-- MBOX_IMAGE_ERASE (17 R360). -/
def doMboxImageErase (body : List Byte) (s : State) : State := mboxAnswer (s.cmdErase body)
/-- MBOX_IMAGE_WRITE (17 R360). -/
def doMboxImageWrite (body : List Byte) (s : State) : State := mboxAnswer (s.cmdWrite body)
/-- MBOX_IMAGE_ACTIVATE (17 R360). -/
def doMboxImageActivate (body : List Byte) (s : State) : State := mboxAnswer (s.cmdActivate body)
/-- MBOX_SET_CAP (17 R360); the mailbox does not serve it in recovery. -/
def doMboxSetCap (body : List Byte) (s : State) : State :=
  mboxAnswer (if s.svc.recovery then (.unsupported, [], s) else s.cmdCap body)

/-- A return code by number. -/
def mboxRet : Nat → MboxRet
  | 0 => .success | 1 => .invalidInput | 2 => .unsupported | _ => .busy

/-- MBOX_CXL_COMMAND (17 R360): a command of the CXL specification, or an opcode of neither list. -/
def doMboxCxlCommand (opcode : Nat) (body : List Byte) (s : State) : State :=
  let a := Config.cxlAnswer opcode body
  mboxAnswer (if s.svc.recovery || decide (0xC000 ≤ opcode) then (.unsupported, [], s) else (mboxRet a.1, a.2, s))

/-- The completion byte of an MCTP answer. -/
def MboxRet.byte : MboxRet → Byte
  | .success => 0#8 | .invalidInput => 1#8 | .unsupported => 2#8 | .busy => 3#8

/-- An MCTP answer: the command, the completion, the body. -/
def mctpAnswer (cmd : Byte) (r : MboxRet × List Byte × State) : State :=
  let s := r.2.2
  { s with svc := { s.svc with mctp := s.svc.mctp ++ [[cmd, r.1.byte] ++ r.2.1] } }

/-- MCTP_CONTROL (17 R361). -/
def doMctpControl (body : List Byte) (s : State) : State :=
  { s with svc := { s.svc with mctp := s.svc.mctp ++ [Config.mctpControl body] } }
/-- MCTP_GET_STATUS (17 R361). -/
def doMctpGetStatus (body : List Byte) (s : State) : State := mctpAnswer 1#8 (s.cmdStatus body)

/-- MCTP_GET_ERROR (17 R361). -/
def doMctpGetError (body : List Byte) (s : State) : State :=
  let k := ofBytes body
  let first := s.svc.count - s.svc.records.length
  mctpAnswer 2#8 (if body.length ≠ 4 || k < first || s.svc.count ≤ k then (.invalidInput, [], s)
    else (.success, bytesOfWords (nthD s.svc.records (k - first) []) ++ toBytes (s.svc.count - 1) 4, s))

/-- MCTP_GET_KEY (17 R361). -/
def doMctpGetKey (body : List Byte) (s : State) : State := mctpAnswer 3#8 (s.cmdKey body)
/-- MCTP_ATTEST (17 R361). -/
def doMctpAttest (body : List Byte) (s : State) : State := mctpAnswer 4#8 (s.cmdAttest body)
/-- MCTP_SET_CAP (17 R361). -/
def doMctpSetCap (body : List Byte) (s : State) : State := mctpAnswer 5#8 (s.cmdCap body)
/-- MCTP_IMAGE_ERASE (17 R361). -/
def doMctpImageErase (body : List Byte) (s : State) : State := mctpAnswer 6#8 (s.cmdErase body)
/-- MCTP_IMAGE_WRITE (17 R361). -/
def doMctpImageWrite (body : List Byte) (s : State) : State := mctpAnswer 7#8 (s.cmdWrite body)
/-- MCTP_IMAGE_ACTIVATE (17 R361). -/
def doMctpImageActivate (body : List Byte) (s : State) : State := mctpAnswer 8#8 (s.cmdActivate body)

/-! Power and temperature (17 R363). -/

/-- GOVERNOR_SAMPLE: the draw of 10 µs and the hottest temperatures; 100 samples make a window's average. The units draw `watts`
as far as the window's cap allows: the governor holds the rest back, so that no average passes it (00 R2). A new cap applies
from the next window. -/
def doGovernorSample (watts stack logic : Nat) (s : State) : State :=
  let cap := if s.svc.draws.isEmpty then fld s.regs.pwrCap 9 0 else s.svc.cap
  let d := s.svc.draws ++ [min watts (100 * cap - s.svc.draws.foldl (· + ·) 0)]
  let full := decide (100 ≤ d.length)
  let p0 := setFld (setFld (setFld s.regs.pwrStat 47 40 (min 255 stack)) 39 32 (min 255 logic)) 9 2 (Config.throttle s.tick)
  let p := if full then setFld p0 63 48 (d.foldl (· + ·) 0 / d.length) else p0
  { s with regs := { s.regs with pwrStat := p }, svc := { s.svc with draws := if full then [] else d, cap := cap } }

/-- THERMAL_THRESHOLD: HOT and TRIP are set at their thresholds and clear 5 °C below them. -/
def doThermalThreshold (stack logic : Nat) (s : State) : State :=
  let p := s.regs.pwrStat
  let hold (was : Bool) (l st : Nat) : Bool :=
    decide (l ≤ logic) || decide (st ≤ stack) || (was && (decide (l < logic + 5) || decide (st < stack + 5)))
  let hot := hold (bitOf p.toNat 0) 100 95
  let trip := hold (bitOf p.toNat 1) 110 100
  let p1 := setFld (setFld (setFld (setFld p 47 40 (min 255 stack)) 39 32 (min 255 logic)) 0 0 (b2n hot)) 1 1 (b2n trip)
  let s1 := { s with regs := { s.regs with pwrStat := p1 } }
  if trip then s1.setHealth (s1.regs.health ||| 1#64) else s1

end Sys2Proof.Machine
end

