-- ==== Sys2Proof/Machine/Walker.lean ====
section
/-! DEFINITION. The walker harts (05 R102 to R104): one instruction of a walk routine. A hart is an RV64IMC core with Zba,
Zbb and Zicsr, whose instruction sets the spec takes by name. -/

namespace Sys2Proof.Machine

/-! Compressed instructions, expanded to the instructions they stand for. -/

/-- I-type word. -/
def rvI (imm rs1 f3 rd op : Nat) : Nat := putBits imm 20 12 + putBits rs1 15 5 + putBits f3 12 3 + putBits rd 7 5 + op
/-- R-type word. -/
def rvR (f7 rs2 rs1 f3 rd op : Nat) : Nat := putBits f7 25 7 + putBits rs2 20 5 + rvI 0 rs1 f3 rd op
/-- S-type word. -/
def rvS (imm rs2 rs1 f3 : Nat) : Nat := putBits (imm / 32) 25 7 + putBits rs2 20 5 + rvI 0 rs1 f3 (imm % 32) 0x23
/-- J-type word of a 21-bit offset. -/
def rvJ (imm rd : Nat) : Nat :=
  putBits (imm / 2 ^ 20) 31 1 + putBits (imm / 2) 21 10 + putBits (imm / 2 ^ 11) 20 1 + putBits (imm / 2 ^ 12) 12 8
    + putBits rd 7 5 + 0x6F
/-- B-type word of a 13-bit offset. -/
def rvB (imm rs2 rs1 f3 : Nat) : Nat :=
  putBits (imm / 2 ^ 12) 31 1 + putBits (imm / 32) 25 6 + putBits rs2 20 5 + putBits rs1 15 5 + putBits f3 12 3
    + putBits (imm / 2) 8 4 + putBits (imm / 2 ^ 11) 7 1 + 0x63

/-- Sign extension of the low `n` bits of a number to `m` bits. -/
def sextTo (n m x : Nat) : Nat := wrapN m (signedOf n x)

/-- Quadrant 0. -/
def rvExpand0 (c : Nat) : Option Nat :=
  let rd := 8 + bitsOf c 4 2
  let rs1 := 8 + bitsOf c 9 7
  let w := putBits (bitsOf c 5 5) 6 1 + putBits (bitsOf c 12 10) 3 3 + putBits (bitsOf c 6 6) 2 1
  let d := putBits (bitsOf c 6 5) 6 2 + putBits (bitsOf c 12 10) 3 3
  match bitsOf c 15 13 with
  | 0 =>
    let imm := putBits (bitsOf c 10 7) 6 4 + putBits (bitsOf c 12 11) 4 2 + putBits (bitsOf c 5 5) 3 1 + putBits (bitsOf c 6 6) 2 1
    if imm = 0 then none else some (rvI imm 2 0 rd 0x13)
  | 2 => some (rvI w rs1 2 rd 0x03)
  | 3 => some (rvI d rs1 3 rd 0x03)
  | 6 => some (rvS w rd rs1 2)
  | 7 => some (rvS d rd rs1 3)
  | _ => none

/-- The arithmetic of quadrant 1. -/
def rvExpandAlu (c : Nat) : Option Nat :=
  let rd := 8 + bitsOf c 9 7
  let rs2 := 8 + bitsOf c 4 2
  let sh := putBits (bitsOf c 12 12) 5 1 + bitsOf c 6 2
  match bitsOf c 11 10, bitsOf c 12 12, bitsOf c 6 5 with
  | 0, _, _ => some (rvI sh rd 5 rd 0x13)
  | 1, _, _ => some (rvI (0x400 + sh) rd 5 rd 0x13)
  | 2, _, _ => some (rvI (sextTo 6 12 sh) rd 7 rd 0x13)
  | _, 0, 0 => some (rvR 0x20 rs2 rd 0 rd 0x33)
  | _, 0, 1 => some (rvR 0 rs2 rd 4 rd 0x33)
  | _, 0, 2 => some (rvR 0 rs2 rd 6 rd 0x33)
  | _, 0, _ => some (rvR 0 rs2 rd 7 rd 0x33)
  | _, _, 0 => some (rvR 0x20 rs2 rd 0 rd 0x3B)
  | _, _, 1 => some (rvR 0 rs2 rd 0 rd 0x3B)
  | _, _, _ => none

/-- Quadrant 1. -/
def rvExpand1 (c : Nat) : Option Nat :=
  let rd := bitsOf c 11 7
  let imm := sextTo 6 12 (putBits (bitsOf c 12 12) 5 1 + bitsOf c 6 2)
  let b (hi lo at_ n : Nat) : Nat := putBits (bitsOf c hi lo) at_ n
  let off := sextTo 9 13 (b 12 12 8 1 + b 6 5 6 2 + b 2 2 5 1 + b 11 10 3 2 + b 4 3 1 2)
  match bitsOf c 15 13 with
  | 0 => some (rvI imm rd 0 rd 0x13)
  | 1 => if rd = 0 then none else some (rvI imm rd 0 rd 0x1B)
  | 2 => some (rvI imm 0 0 rd 0x13)
  | 3 =>
    if rd = 2 then
      let i := b 12 12 9 1 + b 4 3 7 2 + b 5 5 6 1 + b 2 2 5 1 + b 6 6 4 1
      if i = 0 then none else some (rvI (sextTo 10 12 i) 2 0 2 0x13)
    else if imm = 0 then none
    else some (putBits (sextTo 6 20 (putBits (bitsOf c 12 12) 5 1 + bitsOf c 6 2)) 12 20 + putBits rd 7 5 + 0x37)
  | 4 => rvExpandAlu c
  | 5 =>
    let j := b 12 12 11 1 + b 8 8 10 1 + b 10 9 8 2 + b 6 6 7 1 + b 7 7 6 1 + b 2 2 5 1 + b 11 11 4 1 + b 5 3 1 3
    some (rvJ (sextTo 12 21 j) 0)
  | 6 => some (rvB off 0 (8 + bitsOf c 9 7) 0)
  | _ => some (rvB off 0 (8 + bitsOf c 9 7) 1)

/-- Quadrant 2. -/
def rvExpand2 (c : Nat) : Option Nat :=
  let rd := bitsOf c 11 7
  let rs2 := bitsOf c 6 2
  let hi := putBits (bitsOf c 12 12) 5 1
  match bitsOf c 15 13 with
  | 0 => some (rvI (hi + rs2) rd 1 rd 0x13)
  | 2 => if rd = 0 then none
    else some (rvI (hi + putBits (bitsOf c 6 4) 2 3 + putBits (bitsOf c 3 2) 6 2) 2 2 rd 0x03)
  | 3 => if rd = 0 then none
    else some (rvI (hi + putBits (bitsOf c 6 5) 3 2 + putBits (bitsOf c 4 2) 6 3) 2 3 rd 0x03)
  | 4 =>
    if bitsOf c 12 12 = 0 then
      if rs2 = 0 then (if rd = 0 then none else some (rvI 0 rd 0 0 0x67)) else some (rvR 0 rs2 0 0 rd 0x33)
    else if rs2 = 0 then (if rd = 0 then none else some (rvI 0 rd 0 1 0x67))
    else some (rvR 0 rs2 rd 0 rd 0x33)
  | 6 => some (rvS (putBits (bitsOf c 12 9) 2 4 + putBits (bitsOf c 8 7) 6 2) rs2 2 2)
  | 7 => some (rvS (putBits (bitsOf c 12 10) 3 3 + putBits (bitsOf c 9 7) 6 3) rs2 2 3)
  | _ => none

/-- The 32-bit instruction that a 16-bit one stands for. -/
def rvExpand (c : Nat) : Option Nat :=
  match c % 4 with
  | 0 => rvExpand0 c
  | 1 => rvExpand1 c
  | _ => rvExpand2 c

/-! Integer operations, on numbers below 2^64. -/

/-- The low 32 bits, sign extended. -/
def rvW (x : Nat) : Nat := sextTo 32 64 x
/-- Rotation left of an `n`-bit value. -/
def rvRol (n x k : Nat) : Nat := let v := x % 2 ^ n; (v * 2 ^ (k % n) + v / 2 ^ (n - k % n)) % 2 ^ n
/-- Rotation right of an `n`-bit value. -/
def rvRor (n x k : Nat) : Nat := rvRol n x (n - k % n)
/-- Shift right of an `n`-bit value, keeping its sign. -/
def rvSra (n x k : Nat) : Nat := wrapN n (signedOf n x / (2 ^ k : Nat))
/-- Each byte all ones when it is not 0. -/
def rvOrc (x : Nat) : Nat := ofBytes ((toBytes x 8).map fun b => if b = 0#8 then 0#8 else 0xFF#8)

/-- OP (RV64I, M, Zba, Zbb). -/
def rvOp (f7 f3 a b : Nat) : Option Nat :=
  let sa := signedOf 64 a
  let sb := signedOf 64 b
  let sh := b % 64
  match f7, f3 with
  | 0x00, 0 => some (a + b)
  | 0x00, 1 => some (a * 2 ^ sh)
  | 0x00, 2 => some (b2n (decide (sa < sb)))
  | 0x00, 3 => some (b2n (decide (a < b)))
  | 0x00, 4 => some (a ^^^ b)
  | 0x00, 5 => some (a / 2 ^ sh)
  | 0x00, 6 => some (a ||| b)
  | 0x00, 7 => some (a &&& b)
  | 0x20, 0 => some (a + 2 ^ 64 - b)
  | 0x20, 4 => some (a ^^^ (2 ^ 64 - 1 - b))
  | 0x20, 5 => some (rvSra 64 a sh)
  | 0x20, 6 => some (a ||| (2 ^ 64 - 1 - b))
  | 0x20, 7 => some (a &&& (2 ^ 64 - 1 - b))
  | 0x01, 0 => some (a * b)
  | 0x01, 1 => some (wrapN 64 (sa * sb / (2 ^ 64 : Nat)))
  | 0x01, 2 => some (wrapN 64 (sa * (b : Int) / (2 ^ 64 : Nat)))
  | 0x01, 3 => some (a * b / 2 ^ 64)
  | 0x01, 4 => some (divInt 64 sa sb)
  | 0x01, 5 => some (divInt 64 (a : Int) (b : Int))
  | 0x01, 6 => some (remInt 64 sa sb)
  | 0x01, 7 => some (remInt 64 (a : Int) (b : Int))
  | 0x05, 4 => some (if sa ≤ sb then a else b)
  | 0x05, 5 => some (min a b)
  | 0x05, 6 => some (if sa ≤ sb then b else a)
  | 0x05, 7 => some (max a b)
  | 0x30, 1 => some (rvRol 64 a sh)
  | 0x30, 5 => some (rvRor 64 a sh)
  | 0x10, 2 => some (2 * a + b)
  | 0x10, 4 => some (4 * a + b)
  | 0x10, 6 => some (8 * a + b)
  | _, _ => none

/-- OP-32. -/
def rvOp32 (f7 f3 rs2 a b : Nat) : Option Nat :=
  let x : Nat := a % 2 ^ 32
  let y : Nat := b % 2 ^ 32
  let sx := signedOf 32 a
  let sy := signedOf 32 b
  let sh := b % 32
  match f7, f3 with
  | 0x00, 0 => some (rvW (a + b))
  | 0x00, 1 => some (rvW (x * 2 ^ sh))
  | 0x00, 5 => some (rvW (x / 2 ^ sh))
  | 0x20, 0 => some (rvW (a + 2 ^ 64 - b))
  | 0x20, 5 => some (rvW (rvSra 32 a sh))
  | 0x01, 0 => some (rvW (a * b))
  | 0x01, 4 => some (rvW (divInt 32 sx sy))
  | 0x01, 5 => some (rvW (divInt 32 (x : Int) (y : Int)))
  | 0x01, 6 => some (rvW (remInt 32 sx sy))
  | 0x01, 7 => some (rvW (remInt 32 (x : Int) (y : Int)))
  | 0x30, 1 => some (rvW (rvRol 32 a sh))
  | 0x30, 5 => some (rvW (rvRor 32 a sh))
  | 0x10, 2 => some (2 * x + b)
  | 0x10, 4 => some (4 * x + b)
  | 0x10, 6 => some (8 * x + b)
  | 0x04, 0 => some (x + b)
  | 0x04, 4 => if rs2 = 0 then some (a % 2 ^ 16) else none
  | _, _ => none

/-- OP-IMM: `imm` is the 12-bit field. -/
def rvOpImm (imm f3 a : Nat) : Option Nat :=
  let i := sextTo 12 64 imm
  let sh := imm % 64
  match f3 with
  | 0 => some (a + i)
  | 2 => some (b2n (decide (signedOf 64 a < signedOf 64 i)))
  | 3 => some (b2n (decide (a < i)))
  | 4 => some (a ^^^ i)
  | 6 => some (a ||| i)
  | 7 => some (a &&& i)
  | 1 =>
    if imm / 64 = 0 then some (a * 2 ^ sh)
    else match imm with
      | 0x600 => some (leadZeros a 64)
      | 0x601 => some (trailZeros a 64)
      | 0x602 => some (popCount a 64)
      | 0x604 => some (sextTo 8 64 a)
      | 0x605 => some (sextTo 16 64 a)
      | _ => none
  | _ =>
    if imm / 64 = 0 then some (a / 2 ^ sh)
    else if imm / 64 = 0x10 then some (rvSra 64 a sh)
    else if imm / 64 = 0x18 then some (rvRor 64 a sh)
    else match imm with
      | 0x287 => some (rvOrc a)
      | 0x6B8 => some (ofBytes (toBytes a 8).reverse)
      | _ => none

/-- OP-IMM-32. -/
def rvOpImm32 (imm f3 a : Nat) : Option Nat :=
  let x := a % 2 ^ 32
  let sh := imm % 32
  match f3 with
  | 0 => some (rvW (a + sextTo 12 64 imm))
  | 1 =>
    if imm / 64 = 2 then some (x * 2 ^ (imm % 64))
    else if imm / 32 = 0 then some (rvW (x * 2 ^ sh))
    else match imm with
      | 0x600 => some (leadZeros x 32)
      | 0x601 => some (trailZeros x 32)
      | 0x602 => some (popCount x 32)
      | _ => none
  | 5 =>
    match imm / 32 with
    | 0x00 => some (rvW (x / 2 ^ sh))
    | 0x20 => some (rvW (rvSra 32 a sh))
    | 0x30 => some (rvW (rvRor 32 a sh))
    | _ => none
  | _ => none

/-! Control registers (05 Table 5.4). -/

/-- A register as it reads; none for an address that is no register. nwdone is write-only and reads as 0. -/
def HartCtx.csr (h : HartCtx) (n : Nat) : Option Word :=
  match n with
  | 0xFC0 => some h.nwspace
  | 0xFC1 => some h.nwva
  | 0xFC2 => some h.nwclass
  | 0xFC3 => some h.nwsdp
  | 0xFC4 => some h.nwstart
  | 0xFC5 => some h.nwctx
  | 0x7C0 => some h.nwpte
  | 0x7C1 => some h.nwpaddr
  | 0x7C2 => some h.nwsize
  | 0x7C3 => some h.nwinfo
  | 0x7C4 => some 0#64
  | _ => none

/-- A register written; none for one that cannot be. -/
def HartCtx.setCsr (h : HartCtx) (n : Nat) (v : Word) : Option HartCtx :=
  match n with
  | 0x7C0 => some { h with nwpte := v }
  | 0x7C1 => some { h with nwpaddr := v }
  | 0x7C2 => some { h with nwsize := v }
  | 0x7C3 => some { h with nwinfo := v }
  | 0x7C4 => some h
  | _ => none

/-! One instruction. -/

/-- The base of the walk store in the hart address space. -/
def walkBase : Nat := 0x8000000000000000

/-- Does a range lie in the walk store? -/
def inWalkStore (a n : Nat) : Bool := decide (walkBase ≤ a) && decide (a + n ≤ walkBase + 0x40000)

/-- What a hart reads at an address (05 R102): the walk store, or global memory as a `wt` load finds it, which may first have
to fetch the word; bad where the access traps. -/
def State.hartLoad (s : State) (known : List (Nat × Option Nat)) (a n : Nat) : Peek :=
  if a % n ≠ 0 then .bad
  else if inWalkStore a n then .val (ofBytes (memRead s.walkStore (a - walkBase) n))
  else if a < 2 ^ 52 then
    match s.peekKnown known (a / 8 * 8) with
    | .val v => .val (v / 2 ^ (8 * (a % 8)) % 2 ^ (8 * n))
    | p => p
  else .bad

/-- Does a hart run in firmware mode, in which it may write the walk store (05 R102)? It runs in the mode of the thread whose
access began its walk (DEDUCED, log entry 118). -/
def State.hartFirmware (s : State) (w : Walk) : Bool :=
  match w.accs with
  | r :: _ => r.who.kind == .thread && r.who.core / 256 == s.cubeId && (s.ctx (r.who.core % 256) r.who.idx).mode == 2
  | [] => false

/-- The outcome of one instruction: the walk context and walk store, a word to be fetched first, the end of the walk with a
code, or a trap. -/
inductive HartRes where
  | go (h : HartCtx) (store : Tbl Byte)
  | fetch (pa : Nat)
  | ends (h : HartCtx) (code : Nat)
  | trap

/-- Register `i` of a walk context. -/
def HartCtx.get (h : HartCtx) (i : Nat) : Nat := if i = 0 then 0 else (memGet h.x i).toNat
/-- It is written; x0 stays 0. -/
def HartCtx.set (h : HartCtx) (i v : Nat) : HartCtx := if i = 0 then h else { h with x := memSet h.x i (BitVec.ofNat 64 v) }

/-- One 32-bit instruction, `len` bytes long as fetched; `fw`: in firmware mode. -/
def State.hartExec (s : State) (known : List (Nat × Option Nat)) (fw : Bool) (h : HartCtx) (w len : Nat) : HartRes :=
  let rd := bitsOf w 11 7
  let f3 := bitsOf w 14 12
  let rs1 := bitsOf w 19 15
  let rs2 := bitsOf w 24 20
  let f7 := bitsOf w 31 25
  let imm := bitsOf w 31 20
  let a := h.get rs1
  let b := h.get rs2
  let pc := h.pc.toNat
  let at_ (h : HartCtx) (x : Nat) : HartRes := .go { h with pc := BitVec.ofNat 64 x } s.walkStore
  let put (v : Nat) : HartRes := at_ (h.set rd v) (pc + len)
  let opt (v : Option Nat) : HartRes := match v with
    | some x => put x
    | none => .trap
  match bitsOf w 6 0 with
  | 0x37 => put (sextTo 32 64 (w / 4096 * 4096))
  | 0x17 => put (pc + sextTo 32 64 (w / 4096 * 4096))
  | 0x6F =>
    let j := putBits (bitsOf w 31 31) 20 1 + putBits (bitsOf w 19 12) 12 8 + putBits (bitsOf w 20 20) 11 1
      + putBits (bitsOf w 30 21) 1 10
    at_ (h.set rd (pc + len)) (pc + sextTo 21 64 j)
  | 0x67 => if f3 = 0 then at_ (h.set rd (pc + len)) ((a + sextTo 12 64 imm) % 2 ^ 64 / 2 * 2) else .trap
  | 0x63 =>
    let o := putBits (bitsOf w 31 31) 12 1 + putBits (bitsOf w 7 7) 11 1 + putBits (bitsOf w 30 25) 5 6
      + putBits (bitsOf w 11 8) 1 4
    let br (t : Bool) : HartRes := at_ h (if t then pc + sextTo 13 64 o else pc + len)
    match f3 with
    | 0 => br (a == b)
    | 1 => br (a != b)
    | 4 => br (decide (signedOf 64 a < signedOf 64 b))
    | 5 => br (decide (signedOf 64 b ≤ signedOf 64 a))
    | 6 => br (decide (a < b))
    | 7 => br (decide (b ≤ a))
    | _ => .trap
  | 0x03 =>
    let n := 2 ^ (f3 % 4)
    if f3 = 7 then .trap
    else
      let x := (a + sextTo 12 64 imm) % 2 ^ 64
      match s.hartLoad known x n with
      | .val v => put (if f3 < 4 then sextTo (8 * n) 64 v else v)
      | .need => .fetch (x / 8 * 8)
      | .bad => .trap
  | 0x23 =>
    let n := 2 ^ f3
    let x := (a + sextTo 12 64 (f7 * 32 + rd)) % 2 ^ 64
    if 3 < f3 || x % n ≠ 0 || !inWalkStore x n || !fw then .trap
    else .go { h with pc := BitVec.ofNat 64 (pc + len) } (memWrite s.walkStore (x - walkBase) (toBytes b n))
  | 0x13 => opt (rvOpImm imm f3 a)
  | 0x1B => opt (rvOpImm32 imm f3 a)
  | 0x33 => opt (rvOp f7 f3 a b)
  | 0x3B => opt (rvOp32 f7 f3 rs2 a b)
  | 0x0F => if f3 = 0 then at_ h (pc + len) else .trap
  | 0x73 =>
    let v := if 4 ≤ f3 then rs1 else a
    if f3 % 4 = 0 then .trap
    else match h.csr imm with
      | none => .trap
      | some old =>
        let new := match f3 % 4 with
          | 1 => BitVec.ofNat 64 v
          | 2 => old ||| BitVec.ofNat 64 v
          | _ => old &&& ~~~(BitVec.ofNat 64 v)
        if f3 % 4 ≠ 1 && rs1 = 0 then put old.toNat
        else match h.setCsr imm new with
          | none => .trap
          | some h1 => if imm = 0x7C4 then .ends h1 new.toNat else at_ (h1.set rd old.toNat) (pc + len)
  | _ => .trap

/-- The instruction at the program counter: its 32-bit form and length; none outside the walk store, and for a 16-bit form
without a meaning. -/
def State.hartFetch (s : State) (h : HartCtx) : Option (Nat × Nat) :=
  let a := h.pc.toNat
  if a % 2 ≠ 0 || !inWalkStore a 2 then none
  else
    let c := ofBytes (memRead s.walkStore (a - walkBase) 2)
    if c % 4 ≠ 3 then (rvExpand c).map fun w => (w, 2)
    else if inWalkStore a 4 then some (ofBytes (memRead s.walkStore (a - walkBase) 4), 4)
    else none

/-- WALKER_HART_INSTRUCTION (05 R102, R103): one instruction of a walk context; a load waits for a word that is fetched, and
a trap ends the walk MALFORMED. -/
def doWalkerHartInstruction (hart : Nat) (s : State) : State :=
  match s.harts.find? fun p => p.1 == hart with
  | none => s
  | some (_, h) =>
    match s.walk h.walk with
    | none => s
    | some wk =>
      let r := match s.hartFetch h with
        | some (w, len) => s.hartExec wk.known (s.hartFirmware wk) h w len
        | none => .trap
      match r with
      | .go h1 m =>
        ({ s with harts := tblSet s.harts hart h1, walkStore := m }.updWalk h.walk fun w => { w with known := [] }).emit
          (.walkerHartInstruction hart)
      | .fetch pa => s.walkLoad wk pa
      | .ends h1 code =>
        { s with harts := tblSet s.harts hart h1 }.emit
          (.nwdone h1.walk (if code < 2 then code else 2) h1.nwpte.toNat h1.nwpaddr.toNat h1.nwsize.toNat h1.nwinfo.toNat 15)
      | .trap => s.emit (.nwdone h.walk 2 0 0 0 0 0)

end Sys2Proof.Machine
end

