-- ==== Sys2Proof/Machine/Events.lean ====
section
/-! DEFINITION. The meanings of the steps of the units: each finds what it carries in the state and does what its
operation does; a step that finds another record there changes nothing (it is not the step that is due). -/

namespace Sys2Proof.Machine

/-- CUBE_RESET (R355). -/
def execCubeReset (s : State) : Host.Outcome State Fault Refusal := .next (doCubeReset s)

/-- MAP_READ (R15). -/
def execMapRead (s : State) : Host.Outcome State Fault Refusal := .next (doMapRead s)

/-- MAP_WRITE (R15). -/
def execMapWrite (s : State) : Host.Outcome State Fault Refusal := .next (doMapWrite s)

/-- MAP_BEGIN (R15). -/
def execMapBegin (s : State) : Host.Outcome State Fault Refusal := .next (doMapBegin s)

/-- MAP_HOLD (R22). -/
def execMapHold (s : State) : Host.Outcome State Fault Refusal := .next (doMapHold s)

/-- MAP_STEP (R15). -/
def execMapStep (s : State) : Host.Outcome State Fault Refusal := .next (doMapStep s)

/-- MAP_FINISH (R15). -/
def execMapFinish (s : State) : Host.Outcome State Fault Refusal := .next (doMapFinish s)

/-- MAP_LIST_READ (R15). -/
def execMapListRead (s : State) : Host.Outcome State Fault Refusal := .next (doMapListRead s)

/-- MAP_LIST_WRITE (R15). -/
def execMapListWrite (s : State) : Host.Outcome State Fault Refusal := .next (doMapListWrite s)

/-- HOLD_TRANSFER_INSTALL (R22). -/
def execHoldTransferInstall (s : State) : Host.Outcome State Fault Refusal :=
  match s.ev with
  | some (.holdTransferInstall m) => .next (doHoldTransferInstall m s)
  | _ => .next s

/-- HOLD_COMPLETE (R22). -/
def execHoldComplete (s : State) : Host.Outcome State Fault Refusal :=
  match s.ev with
  | some (.holdComplete r) => .next (doHoldComplete r s)
  | _ => .next s

/-- REQ (R67). -/
def execReq (s : State) : Host.Outcome State Fault Refusal :=
  match s.ev with
  | some (.req r) => .next (doReq r s)
  | _ => .next s

/-- NACK (R139). -/
def execNack (s : State) : Host.Outcome State Fault Refusal :=
  match s.ev with
  | some (.nack n) => .next (doNack n s)
  | _ => .next s

/-- BACKOFF_EXPIRY (R19). -/
def execBackoffExpiry (s : State) : Host.Outcome State Fault Refusal :=
  match s.ev with
  | some (.backoffExpiry n) => .next (doBackoffExpiry n s)
  | _ => .next s

/-- FILL (R67). -/
def execFill (s : State) : Host.Outcome State Fault Refusal :=
  match s.ev with
  | some (.fill a) => .next (doFill a s)
  | _ => .next s

/-- DATA (R67). -/
def execData (s : State) : Host.Outcome State Fault Refusal :=
  match s.ev with
  | some (.data a) => .next (doData a s)
  | _ => .next s

/-- GRANT (R69). -/
def execGrant (s : State) : Host.Outcome State Fault Refusal :=
  match s.ev with
  | some (.grant a) => .next (doGrant a s)
  | _ => .next s

/-- ACK_WT (R69). -/
def execAckWt (s : State) : Host.Outcome State Fault Refusal :=
  match s.ev with
  | some (.ackWt a) => .next (doAckWt a s)
  | _ => .next s

/-- NOCACHE (R73). -/
def execNocache (s : State) : Host.Outcome State Fault Refusal :=
  match s.ev with
  | some (.nocache a) => .next (doNocache a s)
  | _ => .next s

/-- INV (R67). -/
def execInv (s : State) : Host.Outcome State Fault Refusal :=
  match s.ev with
  | some (.inv m) => .next (doInv m s)
  | _ => .next s

/-- INV_ACK (R69). -/
def execInvAck (s : State) : Host.Outcome State Fault Refusal :=
  match s.ev with
  | some (.invAck m) => .next (doInvAck m s)
  | _ => .next s

/-- FWD_READ (R67). -/
def execFwdRead (s : State) : Host.Outcome State Fault Refusal :=
  match s.ev with
  | some (.fwdRead m r) => .next (doFwdRead m r s)
  | _ => .next s

/-- FWD_OWN (R67). -/
def execFwdOwn (s : State) : Host.Outcome State Fault Refusal :=
  match s.ev with
  | some (.fwdOwn m r) => .next (doFwdOwn m r s)
  | _ => .next s

/-- REVOKE (R67). -/
def execRevoke (s : State) : Host.Outcome State Fault Refusal :=
  match s.ev with
  | some (.revoke m) => .next (doRevoke m s)
  | _ => .next s

/-- REVOKE_WB (R68). -/
def execRevokeWb (s : State) : Host.Outcome State Fault Refusal :=
  match s.ev with
  | some (.revokeWb m) => .next (doRevokeWb m s)
  | _ => .next s

/-- RWB_DATA (R72). -/
def execRwbData (s : State) : Host.Outcome State Fault Refusal :=
  match s.ev with
  | some (.rwbData m value) => .next (doRwbData m value s)
  | _ => .next s

/-- WB (R71). -/
def execWb (s : State) : Host.Outcome State Fault Refusal :=
  match s.ev with
  | some (.wb r) => .next (doWb r s)
  | _ => .next s

/-- WB_ACK (R63). -/
def execWbAck (s : State) : Host.Outcome State Fault Refusal :=
  match s.ev with
  | some (.wbAck m) => .next (doWbAck m s)
  | _ => .next s

/-- WB_BUFFER_RETRY (R63). -/
def execWbBufferRetry (s : State) : Host.Outcome State Fault Refusal :=
  match s.ev with
  | some (.wbBufferRetry core) => .next (doWbBufferRetry core s)
  | _ => .next s

/-- REMOTE_LOST_AT_HOME (R74). -/
def execRemoteLostAtHome (s : State) : Host.Outcome State Fault Refusal :=
  match s.ev with
  | some (.remoteLostAtHome m kind r) => .next (doRemoteLostAtHome m kind r s)
  | _ => .next s

/-- ATOMIC_AT_HOME (R255). -/
def execAtomicAtHome (s : State) : Host.Outcome State Fault Refusal :=
  match s.ev with
  | some (.atomicAtHome r) => .next (doAtomicAtHome r s)
  | _ => .next s

/-- COUNTER_OP_AT_HOME (R251). -/
def execCounterOpAtHome (s : State) : Host.Outcome State Fault Refusal :=
  match s.ev with
  | some (.counterOpAtHome r) => .next (doCounterOpAtHome r s)
  | _ => .next s

/-- WATCH_REGISTRATION (R173). -/
def execWatchRegistration (s : State) : Host.Outcome State Fault Refusal :=
  match s.ev with
  | some (.watchRegistration r) => .next (doWatchRegistration r s)
  | _ => .next s

/-- WATCH_REGISTRATION_RETRY (R173). -/
def execWatchRegistrationRetry (s : State) : Host.Outcome State Fault Refusal :=
  match s.ev with
  | some (.watchRegistrationRetry slice) => .next (doWatchRegistrationRetry slice s)
  | _ => .next s

/-- SATISFIED (R173). -/
def execSatisfied (s : State) : Host.Outcome State Fault Refusal :=
  match s.ev with
  | some (.satisfied who id value) => .next (doSatisfied who id value s)
  | _ => .next s

/-- DROPPED (R173). -/
def execDropped (s : State) : Host.Outcome State Fault Refusal :=
  match s.ev with
  | some (.dropped who id) => .next (doDropped who id s)
  | _ => .next s

/-- REGION_READ_NOTICE (R84). -/
def execRegionReadNotice (s : State) : Host.Outcome State Fault Refusal :=
  match s.ev with
  | some (.regionReadNotice r) => .next (doRegionReadNotice r s)
  | _ => .next s

/-- REGION_NOTICE (R84). -/
def execRegionNotice (s : State) : Host.Outcome State Fault Refusal :=
  match s.ev with
  | some (.regionNotice r) => .next (doRegionNotice r s)
  | _ => .next s

/-- CHECK (R84). -/
def execCheck (s : State) : Host.Outcome State Fault Refusal :=
  match s.ev with
  | some (.check c) => .next (doCheck c s)
  | _ => .next s

/-- CHECK_ANSWER (R84). -/
def execCheckAnswer (s : State) : Host.Outcome State Fault Refusal :=
  match s.ev with
  | some (.checkAnswer c) => .next (doCheckAnswer c s)
  | _ => .next s

/-- TAGFREE (R87). -/
def execTagfree (s : State) : Host.Outcome State Fault Refusal :=
  match s.ev with
  | some (.tagfree core tags) => .next (doTagfree core tags s)
  | _ => .next s

/-- SWEEP_PASS (R86). -/
def execSweepPass (s : State) : Host.Outcome State Fault Refusal :=
  match s.ev with
  | some (.sweepPass slice) => .next (doSweepPass slice s)
  | _ => .next s

/-- BOUNDARY_SERIAL_WAIT (R87). -/
def execBoundarySerialWait (s : State) : Host.Outcome State Fault Refusal :=
  match s.ev with
  | some (.boundarySerialWait core ctx) => .next (doBoundarySerialWait core ctx s)
  | _ => .next s

/-- PMOVE_LINE_INSTALL (R93). -/
def execPmoveLineInstall (s : State) : Host.Outcome State Fault Refusal :=
  match s.ev with
  | some (.pmoveLineInstall m) => .next (doPmoveLineInstall m s)
  | _ => .next s

/-- PMOVE_LINE_CONFIRM (R93). -/
def execPmoveLineConfirm (s : State) : Host.Outcome State Fault Refusal :=
  match s.ev with
  | some (.pmoveLineConfirm r) => .next (doPmoveLineConfirm r s)
  | _ => .next s

/-- FRAME_ZERO_REPORT (R239). -/
def execFrameZeroReport (s : State) : Host.Outcome State Fault Refusal :=
  match s.ev with
  | some (.frameZeroReport r) => .next (doFrameZeroReport r s)
  | _ => .next s

/-- SECTION_LOOKUP (R97). -/
def execSectionLookup (s : State) : Host.Outcome State Fault Refusal :=
  match s.ev with
  | some (.sectionLookup r) => .next (doSectionLookup r s)
  | _ => .next s

/-- WALK_DISPATCH (R102). -/
def execWalkDispatch (s : State) : Host.Outcome State Fault Refusal := .next (doWalkDispatch s)

/-- NWDONE (R104). -/
def execNwdone (s : State) : Host.Outcome State Fault Refusal :=
  match s.ev with
  | some (.nwdone walk code pte paddr size info level) => .next (doNwdone walk code pte paddr size info level s)
  | _ => .next s

/-- WALK_TIMEOUT (R102). -/
def execWalkTimeout (s : State) : Host.Outcome State Fault Refusal :=
  match s.ev with
  | some (.walkTimeout walk) => .next (doWalkTimeout walk s)
  | _ => .next s

/-- FAULT_WAIT_RETRY (R118). -/
def execFaultWaitRetry (s : State) : Host.Outcome State Fault Refusal := .next (doFaultWaitRetry s)

/-- LEASE_SKEW_CHECK (R106). -/
def execLeaseSkewCheck (s : State) : Host.Outcome State Fault Refusal :=
  match s.ev with
  | some (.leaseSkewCheck slice) => .next (doLeaseSkewCheck slice s)
  | _ => .next s

/-- REFERENCE_LOST (R106). -/
def execReferenceLost (s : State) : Host.Outcome State Fault Refusal := .next (doReferenceLost s)

/-- REFERENCE_RETURN (R106). -/
def execReferenceReturn (s : State) : Host.Outcome State Fault Refusal := .next (doReferenceReturn s)

/-- MIGRATION_DECAY (R113). -/
def execMigrationDecay (s : State) : Host.Outcome State Fault Refusal := .next (doMigrationDecay s)

/-- LANE_LOCK (R121). -/
def execLaneLock (s : State) : Host.Outcome State Fault Refusal :=
  match s.ev with
  | some (.laneLock port) => .next (doLaneLock port s)
  | _ => .next s

/-- BLOCK_LOCK (R121). -/
def execBlockLock (s : State) : Host.Outcome State Fault Refusal :=
  match s.ev with
  | some (.blockLock port) => .next (doBlockLock port s)
  | _ => .next s

/-- HELLO_INTERVAL (R121). -/
def execHelloInterval (s : State) : Host.Outcome State Fault Refusal :=
  match s.ev with
  | some (.helloInterval port epoch) => .next (doHelloInterval port epoch s)
  | _ => .next s

/-- HELLO (R121). -/
def execHello (s : State) : Host.Outcome State Fault Refusal :=
  match s.ev with
  | some (.hello port cube peer set) => .next (doHello port cube peer set s)
  | _ => .next s

/-- HELLO_ACK (R121). -/
def execHelloAck (s : State) : Host.Outcome State Fault Refusal :=
  match s.ev with
  | some (.helloAck port cube peer set) => .next (doHelloAck port cube peer set s)
  | _ => .next s

/-- TRAINING_TIMEOUT (R121). -/
def execTrainingTimeout (s : State) : Host.Outcome State Fault Refusal :=
  match s.ev with
  | some (.trainingTimeout port epoch) => .next (doTrainingTimeout port epoch s)
  | _ => .next s

/-- BUNDLE_RECEIVE (R134). -/
def execBundleReceive (s : State) : Host.Outcome State Fault Refusal :=
  match s.ev with
  | some (.bundleReceive port b) => .next (doBundleReceive port b s)
  | _ => .next s

/-- STOMP (R134). -/
def execStompFlit (s : State) : Host.Outcome State Fault Refusal :=
  match s.ev with
  | some (.stompFlit port) => .next (doStompFlit port s)
  | _ => .next s

/-- BACK (R134). -/
def execBack (s : State) : Host.Outcome State Fault Refusal :=
  match s.ev with
  | some (.back port num) => .next (doBack port num s)
  | _ => .next s

/-- LREPLAY (R134). -/
def execLreplay (s : State) : Host.Outcome State Fault Refusal :=
  match s.ev with
  | some (.lreplay port num) => .next (doLreplay port num s)
  | _ => .next s

/-- CREDIT (R130). -/
def execCredit (s : State) : Host.Outcome State Fault Refusal :=
  match s.ev with
  | some (.credit port l) => .next (doCredit port l s)
  | _ => .next s

/-- LIMIT_PERIOD (R130). -/
def execLimitPeriod (s : State) : Host.Outcome State Fault Refusal :=
  match s.ev with
  | some (.limitPeriod port epoch) => .next (doLimitPeriod port epoch s)
  | _ => .next s

/-- LIMITS (R130). -/
def execLimits (s : State) : Host.Outcome State Fault Refusal :=
  match s.ev with
  | some (.limits port l) => .next (doLimits port l s)
  | _ => .next s

/-- LIMIT_ACK (R130). -/
def execLimitAck (s : State) : Host.Outcome State Fault Refusal :=
  match s.ev with
  | some (.limitAck port) => .next (doLimitAck port s)
  | _ => .next s

/-- FENCE_DRAINED (R146). -/
def execFenceDrained (s : State) : Host.Outcome State Fault Refusal :=
  match s.ev with
  | some (.fenceDrained port) => .next (doFenceDrained port s)
  | _ => .next s

/-- FENCE (R146). -/
def execFenceMsg (s : State) : Host.Outcome State Fault Refusal :=
  match s.ev with
  | some (.fenceMsg port) => .next (doFenceMsg port s)
  | _ => .next s

/-- FENCE_ACK (R146). -/
def execFenceAck (s : State) : Host.Outcome State Fault Refusal :=
  match s.ev with
  | some (.fenceAck port) => .next (doFenceAck port s)
  | _ => .next s

/-- PACKET_FORWARD (R132). -/
def execPacketForward (s : State) : Host.Outcome State Fault Refusal :=
  match s.ev with
  | some (.packetForward port p) => .next (doPacketForward port p s)
  | _ => .next s

/-- PACKET_COMMIT (R128). -/
def execPacketCommit (s : State) : Host.Outcome State Fault Refusal :=
  match s.ev with
  | some (.packetCommit port p) => .next (doPacketCommit port p s)
  | _ => .next s

/-- RESP (R137). -/
def execResp (s : State) : Host.Outcome State Fault Refusal :=
  match s.ev with
  | some (.resp p) => .next (doResp p s)
  | _ => .next s

/-- ACK (R137). -/
def execAck (s : State) : Host.Outcome State Fault Refusal :=
  match s.ev with
  | some (.ack p) => .next (doAck p s)
  | _ => .next s

/-- RETRY_TIMEOUT (R138). -/
def execRetryTimeout (s : State) : Host.Outcome State Fault Refusal :=
  match s.ev with
  | some (.retryTimeout dest cls seq sent) => .next (doRetryTimeout dest cls seq sent s)
  | _ => .next s

/-- LINK_SILENCE_TIMEOUT (R134). -/
def execLinkSilenceTimeout (s : State) : Host.Outcome State Fault Refusal :=
  match s.ev with
  | some (.linkSilenceTimeout port epoch) => .next (doLinkSilenceTimeout port epoch s)
  | _ => .next s

/-- LANE_LOCK_LOST (R145). -/
def execLaneLockLost (s : State) : Host.Outcome State Fault Refusal :=
  match s.ev with
  | some (.laneLockLost port) => .next (doLaneLockLost port s)
  | _ => .next s

/-- PORT_ENABLE (R146). -/
def execPortEnable (s : State) : Host.Outcome State Fault Refusal :=
  match s.ev with
  | some (.portEnable port) => .next (doPortEnable port s)
  | _ => .next s

/-- PORT_FENCE (R146). -/
def execPortFence (s : State) : Host.Outcome State Fault Refusal :=
  match s.ev with
  | some (.portFence port) => .next (doPortFence port s)
  | _ => .next s

/-- PORT_DISABLE (R146). -/
def execPortDisable (s : State) : Host.Outcome State Fault Refusal :=
  match s.ev with
  | some (.portDisable port) => .next (doPortDisable port s)
  | _ => .next s

/-- RED_APPLY (R143). -/
def execRedApply (s : State) : Host.Outcome State Fault Refusal :=
  match s.ev with
  | some (.redApply r) => .next (doRedApply r s)
  | _ => .next s

/-- MCAST (R144). -/
def execMcast (s : State) : Host.Outcome State Fault Refusal :=
  match s.ev with
  | some (.mcast m hop alone) => .next (doMcast m hop alone s)
  | _ => .next s

/-- STREAM_ENTRY_IDLE (R301). -/
def execStreamEntryIdle (s : State) : Host.Outcome State Fault Refusal :=
  match s.ev with
  | some (.streamEntryIdle stream) => .next (doStreamEntryIdle stream s)
  | _ => .next s

/-- LAUNCH_WAKE (R157). -/
def execLaunchWake (s : State) : Host.Outcome State Fault Refusal :=
  match s.ev with
  | some (.launchWake m) => .next (doLaunchWake m s)
  | _ => .next s

/-- START_WAIT_RETRY (R154). -/
def execStartWaitRetry (s : State) : Host.Outcome State Fault Refusal :=
  match s.ev with
  | some (.startWaitRetry core) => .next (doStartWaitRetry core s)
  | _ => .next s

/-- EXIT_NOTICE (R152). -/
def execExitNotice (s : State) : Host.Outcome State Fault Refusal :=
  match s.ev with
  | some (.exitNotice e) => .next (doExitNotice e s)
  | _ => .next s

/-- INBOX_ARRIVAL (R160). -/
def execInboxArrival (s : State) : Host.Outcome State Fault Refusal :=
  match s.ev with
  | some (.inboxArrival core a) => .next (doInboxArrival core a s)
  | _ => .next s

/-- INBOX_HELD_RETRY (R164). -/
def execInboxHeldRetry (s : State) : Host.Outcome State Fault Refusal :=
  match s.ev with
  | some (.inboxHeldRetry core) => .next (doInboxHeldRetry core s)
  | _ => .next s

/-- HANDLER_START (R161). -/
def execHandlerStart (s : State) : Host.Outcome State Fault Refusal :=
  match s.ev with
  | some (.handlerStart core) => .next (doHandlerStart core s)
  | _ => .next s

/-- SPILL_WAKE (R164). -/
def execSpillWake (s : State) : Host.Outcome State Fault Refusal :=
  match s.ev with
  | some (.spillWake core) => .next (doSpillWake core s)
  | _ => .next s

/-- MIGRATING_CONTEXT_ARRIVAL (R166). -/
def execMigratingContextArrival (s : State) : Host.Outcome State Fault Refusal :=
  match s.ev with
  | some (.migratingContextArrival m) => .next (doMigratingContextArrival m s)
  | _ => .next s

/-- VCLAIM_SERVE (R168). -/
def execVclaimServe (s : State) : Host.Outcome State Fault Refusal :=
  match s.ev with
  | some (.vclaimServe core) => .next (doVclaimServe core s)
  | _ => .next s

/-- TASK_ADMISSION (R171). -/
def execTaskAdmission (s : State) : Host.Outcome State Fault Refusal :=
  match s.ev with
  | some (.taskAdmission input t) => .next (doTaskAdmission input t s)
  | _ => .next s

/-- TASK_DECISION (R175). -/
def execTaskDecision (s : State) : Host.Outcome State Fault Refusal := .next (doTaskDecision s)

/-- TASK_DISPATCH (R172). -/
def execTaskDispatch (s : State) : Host.Outcome State Fault Refusal :=
  match s.ev with
  | some (.taskDispatch seq) => .next (doTaskDispatch seq s)
  | _ => .next s

/-- SEQUENCER_STEP (R179). -/
def execSequencerStep (s : State) : Host.Outcome State Fault Refusal :=
  match s.ev with
  | some (.sequencerStep core) => .next (doSequencerStep core s)
  | _ => .next s

/-- FOLLOW_ON_MMA (R299). -/
def execFollowOnMma (s : State) : Host.Outcome State Fault Refusal :=
  match s.ev with
  | some (.followOnMma core m) => .next (doFollowOnMma core m s)
  | _ => .next s

/-- NB_COMMAND_ACCEPT (R315). -/
def execNbCommandAccept (s : State) : Host.Outcome State Fault Refusal :=
  match s.ev with
  | some (.nbCommandAccept r c) => .next (doNbCommandAccept r c s)
  | _ => .next s

/-- COMBINE_GRANT (R181). -/
def execCombineGrant (s : State) : Host.Outcome State Fault Refusal :=
  match s.ev with
  | some (.combineGrant vault bgroup) => .next (doCombineGrant vault bgroup s)
  | _ => .next s

/-- VAULT_BOUND_EXPIRY (R181). -/
def execVaultBoundExpiry (s : State) : Host.Outcome State Fault Refusal :=
  match s.ev with
  | some (.vaultBoundExpiry vault) => .next (doVaultBoundExpiry vault s)
  | _ => .next s

/-- BURST_RESUME (R181). -/
def execBurstResume (s : State) : Host.Outcome State Fault Refusal :=
  match s.ev with
  | some (.burstResume vault) => .next (doBurstResume vault s)
  | _ => .next s

/-- NB_BURST_COMPLETE (R315). -/
def execNbBurstComplete (s : State) : Host.Outcome State Fault Refusal :=
  match s.ev with
  | some (.nbBurstComplete vault) => .next (doNbBurstComplete vault s)
  | _ => .next s

/-- NB_STAT_QUERY (R316). -/
def execNbStatQuery (s : State) : Host.Outcome State Fault Refusal :=
  match s.ev with
  | some (.nbStatQuery q) => .next (doNbStatQuery q s)
  | _ => .next s

/-- PECK_READ_WAKE (R45). -/
def execPeckReadWake (s : State) : Host.Outcome State Fault Refusal :=
  match s.ev with
  | some (.peckReadWake core) => .next (doPeckReadWake core s)
  | _ => .next s

/-- FILL_WAIT_EXPIRED (R46). -/
def execFillWaitExpired (s : State) : Host.Outcome State Fault Refusal :=
  match s.ev with
  | some (.fillWaitExpired core ctx id) => .next (doFillWaitExpired core ctx id s)
  | _ => .next s

/-- RING_TAKE_RETRY (R48). -/
def execRingTakeRetry (s : State) : Host.Outcome State Fault Refusal :=
  match s.ev with
  | some (.ringTakeRetry core handle) => .next (doRingTakeRetry core handle s)
  | _ => .next s

/-- QUEUE_WAKE (R149). -/
def execQueueWake (s : State) : Host.Outcome State Fault Refusal :=
  match s.ev with
  | some (.queueWake core queue) => .next (doQueueWake core queue s)
  | _ => .next s

/-- WAIT_EXPIRED (R252). -/
def execWaitExpired (s : State) : Host.Outcome State Fault Refusal :=
  match s.ev with
  | some (.waitExpired core ctx id) => .next (doWaitExpired core ctx id s)
  | _ => .next s

/-- RING_WAIT_EXPIRED (R263). -/
def execRingWaitExpired (s : State) : Host.Outcome State Fault Refusal :=
  match s.ev with
  | some (.ringWaitExpired core ctx id) => .next (doRingWaitExpired core ctx id s)
  | _ => .next s

/-- LEASEWAIT_RETURN (R233). -/
def execLeasewaitReturn (s : State) : Host.Outcome State Fault Refusal :=
  match s.ev with
  | some (.leasewaitReturn core ctx) => .next (doLeasewaitReturn core ctx s)
  | _ => .next s

/-- DIRECTED_ATOMIC_VALUE (R257). -/
def execDirectedAtomicValue (s : State) : Host.Outcome State Fault Refusal :=
  match s.ev with
  | some (.directedAtomicValue d) => .next (doDirectedAtomicValue d s)
  | _ => .next s

/-- DRAIN_ROW (R288). -/
def execDrainRow (s : State) : Host.Outcome State Fault Refusal :=
  match s.ev with
  | some (.drainRow r) => .next (doDrainRow r s)
  | _ => .next s

/-- COPY_COMMAND (R296). -/
def execCopyCommand (s : State) : Host.Outcome State Fault Refusal :=
  match s.ev with
  | some (.copyCommand c) => .next (doCopyCommand c s)
  | _ => .next s

/-- COPY_START (R296). -/
def execCopyStart (s : State) : Host.Outcome State Fault Refusal :=
  match s.ev with
  | some (.copyStart vault) => .next (doCopyStart vault s)
  | _ => .next s

/-- COPY_CHUNK (R295). -/
def execCopyChunk (s : State) : Host.Outcome State Fault Refusal :=
  match s.ev with
  | some (.copyChunk vault serial) => .next (doCopyChunk vault serial s)
  | _ => .next s

/-- COPY_READ (R295). -/
def execCopyRead (s : State) : Host.Outcome State Fault Refusal :=
  match s.ev with
  | some (.copyRead c) => .next (doCopyRead c s)
  | _ => .next s

/-- COPY_WRITE (R295). -/
def execCopyWrite (s : State) : Host.Outcome State Fault Refusal :=
  match s.ev with
  | some (.copyWrite c) => .next (doCopyWrite c s)
  | _ => .next s

/-- CPYSTAT_QUERY (R298). -/
def execCpystatQuery (s : State) : Host.Outcome State Fault Refusal :=
  match s.ev with
  | some (.cpystatQuery q) => .next (doCpystatQuery q s)
  | _ => .next s

/-- ENGINE_COUNT (R323). -/
def execEngineCount (s : State) : Host.Outcome State Fault Refusal :=
  match s.ev with
  | some (.engineCount engine) => .next (doEngineCount engine s)
  | _ => .next s

/-- ENGINE_OFFSET_EXPERT (R324). -/
def execEngineOffsetExpert (s : State) : Host.Outcome State Fault Refusal :=
  match s.ev with
  | some (.engineOffsetExpert engine) => .next (doEngineOffsetExpert engine s)
  | _ => .next s

/-- TURN_WAIT_EXPIRED (R328). -/
def execTurnWaitExpired (s : State) : Host.Outcome State Fault Refusal :=
  match s.ev with
  | some (.turnWaitExpired engine id) => .next (doTurnWaitExpired engine id s)
  | _ => .next s

/-- ENGINE_TOKEN_ISSUE (R325). -/
def execEngineTokenIssue (s : State) : Host.Outcome State Fault Refusal :=
  match s.ev with
  | some (.engineTokenIssue engine) => .next (doEngineTokenIssue engine s)
  | _ => .next s

/-- TOKEN_SETTLED (R325). -/
def execTokenSettled (s : State) : Host.Outcome State Fault Refusal :=
  match s.ev with
  | some (.tokenSettled engine token) => .next (doTokenSettled engine token s)
  | _ => .next s

/-- LEASE_SKEW_DELIVERY (R339). -/
def execLeaseSkewDelivery (s : State) : Host.Outcome State Fault Refusal :=
  match s.ev with
  | some (.leaseSkewDelivery core ctx) => .next (doLeaseSkewDelivery core ctx s)
  | _ => .next s

/-- ERROR_RECORD_ITEM (R342). -/
def execErrorRecordItem (s : State) : Host.Outcome State Fault Refusal :=
  match s.ev with
  | some (.errorRecordItem e) => .next (doErrorRecordItem e s)
  | _ => .next s

/-- SUSPENSION_REQUEST (R344). -/
def execSuspensionRequest (s : State) : Host.Outcome State Fault Refusal :=
  match s.ev with
  | some (.suspensionRequest m) => .next (doSuspensionRequest m s)
  | _ => .next s

/-- UNCORRECTABLE_ERROR (R343). -/
def execUncorrectableError (s : State) : Host.Outcome State Fault Refusal :=
  match s.ev with
  | some (.uncorrectableError line) => .next (doUncorrectableError line s)
  | _ => .next s

/-- CORRECTED_ERROR (R364). -/
def execCorrectedError (s : State) : Host.Outcome State Fault Refusal :=
  match s.ev with
  | some (.correctedError line) => .next (doCorrectedError line s)
  | _ => .next s

/-- VAULT_FAILURE (R365). -/
def execVaultFailure (s : State) : Host.Outcome State Fault Refusal :=
  match s.ev with
  | some (.vaultFailure vault) => .next (doVaultFailure vault s)
  | _ => .next s

/-- HOST_READ_EXCLUSIVE (R75). -/
def execHostReadExclusive (s : State) : Host.Outcome State Fault Refusal :=
  match s.ev with
  | some (.hostReadExclusive off) => .next (doHostReadExclusive off s)
  | _ => .next s

/-- HOST_READ_SHARED (R75). -/
def execHostReadShared (s : State) : Host.Outcome State Fault Refusal :=
  match s.ev with
  | some (.hostReadShared off) => .next (doHostReadShared off s)
  | _ => .next s

/-- HOST_READ_NOCACHE (R75). -/
def execHostReadNocache (s : State) : Host.Outcome State Fault Refusal :=
  match s.ev with
  | some (.hostReadNocache off) => .next (doHostReadNocache off s)
  | _ => .next s

/-- HOST_WRITE (R75). -/
def execHostWrite (s : State) : Host.Outcome State Fault Refusal :=
  match s.ev with
  | some (.hostWrite off data) => .next (doHostWrite off data s)
  | _ => .next s

/-- HOST_WRITEBACK (R75). -/
def execHostWriteback (s : State) : Host.Outcome State Fault Refusal :=
  match s.ev with
  | some (.hostWriteback off dirty data) => .next (doHostWriteback off dirty data s)
  | _ => .next s

/-- SNOOP_TIMEOUT (R352). -/
def execSnoopTimeout (s : State) : Host.Outcome State Fault Refusal :=
  match s.ev with
  | some (.snoopTimeout id) => .next (doSnoopTimeout id s)
  | _ => .next s

/-- DOORBELL (R353). -/
def execDoorbell (s : State) : Host.Outcome State Fault Refusal :=
  match s.ev with
  | some (.doorbell slot value) => .next (doDoorbell slot value s)
  | _ => .next s

/-- DOORBELL_RESULT (R353). -/
def execDoorbellResult (s : State) : Host.Outcome State Fault Refusal :=
  match s.ev with
  | some (.doorbellResult slot value) => .next (doDoorbellResult slot value s)
  | _ => .next s

/-- CLUSTER_POWER_UP (R362). -/
def execClusterPowerUp (s : State) : Host.Outcome State Fault Refusal :=
  match s.ev with
  | some (.clusterPowerUp cluster) => .next (doClusterPowerUp cluster s)
  | _ => .next s

/-- GOVERNOR_SAMPLE (R363). -/
def execGovernorSample (s : State) : Host.Outcome State Fault Refusal :=
  match s.ev with
  | some (.governorSample watts stack logic) => .next (doGovernorSample watts stack logic s)
  | _ => .next s

/-- THERMAL_THRESHOLD (R363). -/
def execThermalThreshold (s : State) : Host.Outcome State Fault Refusal :=
  match s.ev with
  | some (.thermalThreshold stack logic) => .next (doThermalThreshold stack logic s)
  | _ => .next s

/-- MINVER_BURN (R357). -/
def execMinverBurn (s : State) : Host.Outcome State Fault Refusal :=
  match s.ev with
  | some (.minverBurn value) => .next (doMinverBurn value s)
  | _ => .next s

/-- REGISTER_WRITE (R230). -/
def execRegisterWrite (s : State) : Host.Outcome State Fault Refusal :=
  match s.ev with
  | some (.registerWrite num value) => .next (doRegisterWrite num value s)
  | _ => .next s

/-- MBOX_GET_STATUS (R360). -/
def execMboxGetStatus (s : State) : Host.Outcome State Fault Refusal :=
  match s.ev with
  | some (.mboxGetStatus body) => .next (doMboxGetStatus body s)
  | _ => .next s

/-- MBOX_GET_KEY (R360). -/
def execMboxGetKey (s : State) : Host.Outcome State Fault Refusal :=
  match s.ev with
  | some (.mboxGetKey body) => .next (doMboxGetKey body s)
  | _ => .next s

/-- MBOX_ATTEST (R359). -/
def execMboxAttest (s : State) : Host.Outcome State Fault Refusal :=
  match s.ev with
  | some (.mboxAttest body) => .next (doMboxAttest body s)
  | _ => .next s

/-- MBOX_IMAGE_ERASE (R360). -/
def execMboxImageErase (s : State) : Host.Outcome State Fault Refusal :=
  match s.ev with
  | some (.mboxImageErase body) => .next (doMboxImageErase body s)
  | _ => .next s

/-- MBOX_IMAGE_WRITE (R360). -/
def execMboxImageWrite (s : State) : Host.Outcome State Fault Refusal :=
  match s.ev with
  | some (.mboxImageWrite body) => .next (doMboxImageWrite body s)
  | _ => .next s

/-- MBOX_IMAGE_ACTIVATE (R360). -/
def execMboxImageActivate (s : State) : Host.Outcome State Fault Refusal :=
  match s.ev with
  | some (.mboxImageActivate body) => .next (doMboxImageActivate body s)
  | _ => .next s

/-- MBOX_SET_CAP (R360). -/
def execMboxSetCap (s : State) : Host.Outcome State Fault Refusal :=
  match s.ev with
  | some (.mboxSetCap body) => .next (doMboxSetCap body s)
  | _ => .next s

/-- MBOX_CXL_COMMAND (R360). -/
def execMboxCxlCommand (s : State) : Host.Outcome State Fault Refusal :=
  match s.ev with
  | some (.mboxCxlCommand opcode body) => .next (doMboxCxlCommand opcode body s)
  | _ => .next s

/-- MCTP_CONTROL (R361). -/
def execMctpControl (s : State) : Host.Outcome State Fault Refusal :=
  match s.ev with
  | some (.mctpControl body) => .next (doMctpControl body s)
  | _ => .next s

/-- MCTP_GET_STATUS (R361). -/
def execMctpGetStatus (s : State) : Host.Outcome State Fault Refusal :=
  match s.ev with
  | some (.mctpGetStatus body) => .next (doMctpGetStatus body s)
  | _ => .next s

/-- MCTP_GET_ERROR (R361). -/
def execMctpGetError (s : State) : Host.Outcome State Fault Refusal :=
  match s.ev with
  | some (.mctpGetError body) => .next (doMctpGetError body s)
  | _ => .next s

/-- MCTP_GET_KEY (R361). -/
def execMctpGetKey (s : State) : Host.Outcome State Fault Refusal :=
  match s.ev with
  | some (.mctpGetKey body) => .next (doMctpGetKey body s)
  | _ => .next s

/-- MCTP_ATTEST (R361). -/
def execMctpAttest (s : State) : Host.Outcome State Fault Refusal :=
  match s.ev with
  | some (.mctpAttest body) => .next (doMctpAttest body s)
  | _ => .next s

/-- MCTP_SET_CAP (R361). -/
def execMctpSetCap (s : State) : Host.Outcome State Fault Refusal :=
  match s.ev with
  | some (.mctpSetCap body) => .next (doMctpSetCap body s)
  | _ => .next s

/-- MCTP_IMAGE_ERASE (R361). -/
def execMctpImageErase (s : State) : Host.Outcome State Fault Refusal :=
  match s.ev with
  | some (.mctpImageErase body) => .next (doMctpImageErase body s)
  | _ => .next s

/-- MCTP_IMAGE_WRITE (R361). -/
def execMctpImageWrite (s : State) : Host.Outcome State Fault Refusal :=
  match s.ev with
  | some (.mctpImageWrite body) => .next (doMctpImageWrite body s)
  | _ => .next s

/-- MCTP_IMAGE_ACTIVATE (R361). -/
def execMctpImageActivate (s : State) : Host.Outcome State Fault Refusal :=
  match s.ev with
  | some (.mctpImageActivate body) => .next (doMctpImageActivate body s)
  | _ => .next s

/-- ILLEGAL_ENCODING (R209). -/
def execIllegalEncoding (s : State) : Host.Outcome State Fault Refusal :=
  match s.ev with
  | some (.illegalEncoding w0 w1 w2) => .next (doIllegalEncoding w0 w1 w2 s)
  | _ => .next s

/-- WALKER_HART_INSTRUCTION (R102). -/
def execWalkerHartInstruction (s : State) : Host.Outcome State Fault Refusal :=
  match s.ev with
  | some (.walkerHartInstruction hart) => .next (doWalkerHartInstruction hart s)
  | _ => .next s

/-- SLOT_PACKET_WRITE (R353). -/
def execSlotPacketWrite (s : State) : Host.Outcome State Fault Refusal :=
  match s.ev with
  | some (.slotPacketWrite slot word value) => .next (doSlotPacketWrite slot word value s)
  | _ => .next s

end Sys2Proof.Machine
end

