-- ==== Sys2Proof/Machine/Dispatch.lean ====
section
/-! DEFINITION. The dispatch: one arm per constructor, each one call of its meaning. -/

namespace Sys2Proof.Machine

/-- The meaning of an instruction or step on a state. -/
def exec (i : Instr) (s : State) : Host.Outcome State Fault Refusal :=
  match i with
  | .add h d a b => Sys2Proof.Machine.execAdd h d a b s
  | .sub h d a b => Sys2Proof.Machine.execSub h d a b s
  | .mul h d a b => Sys2Proof.Machine.execMul h d a b s
  | .mulhI64 h d a b => Sys2Proof.Machine.execMulhI64 h d a b s
  | .mulhN64 h d a b => Sys2Proof.Machine.execMulhN64 h d a b s
  | .divI64 h d a b => Sys2Proof.Machine.execDivI64 h d a b s
  | .divN64 h d a b => Sys2Proof.Machine.execDivN64 h d a b s
  | .remI64 h d a b => Sys2Proof.Machine.execRemI64 h d a b s
  | .remN64 h d a b => Sys2Proof.Machine.execRemN64 h d a b s
  | .minI64 h d a b => Sys2Proof.Machine.execMinI64 h d a b s
  | .minN64 h d a b => Sys2Proof.Machine.execMinN64 h d a b s
  | .maxI64 h d a b => Sys2Proof.Machine.execMaxI64 h d a b s
  | .maxN64 h d a b => Sys2Proof.Machine.execMaxN64 h d a b s
  | .addsX1 h d a b => Sys2Proof.Machine.execAddsX1 h d a b s
  | .addsX2 h d a b => Sys2Proof.Machine.execAddsX2 h d a b s
  | .addsX4 h d a b => Sys2Proof.Machine.execAddsX4 h d a b s
  | .addsX8 h d a b => Sys2Proof.Machine.execAddsX8 h d a b s
  | .add32 h e d a b => Sys2Proof.Machine.execAdd32 h e d a b s
  | .sub32 h e d a b => Sys2Proof.Machine.execSub32 h e d a b s
  | .mul32 h e d a b => Sys2Proof.Machine.execMul32 h e d a b s
  | .mulhI32 h d a b => Sys2Proof.Machine.execMulhI32 h d a b s
  | .mulhN32 h d a b => Sys2Proof.Machine.execMulhN32 h d a b s
  | .divI32 h d a b => Sys2Proof.Machine.execDivI32 h d a b s
  | .divN32 h d a b => Sys2Proof.Machine.execDivN32 h d a b s
  | .remI32 h d a b => Sys2Proof.Machine.execRemI32 h d a b s
  | .remN32 h d a b => Sys2Proof.Machine.execRemN32 h d a b s
  | .minI32 h d a b => Sys2Proof.Machine.execMinI32 h d a b s
  | .minN32 h d a b => Sys2Proof.Machine.execMinN32 h d a b s
  | .maxI32 h d a b => Sys2Proof.Machine.execMaxI32 h d a b s
  | .maxN32 h d a b => Sys2Proof.Machine.execMaxN32 h d a b s
  | .and h d a b => Sys2Proof.Machine.execAnd h d a b s
  | .or h d a b => Sys2Proof.Machine.execOr h d a b s
  | .xor h d a b => Sys2Proof.Machine.execXor h d a b s
  | .andn h d a b => Sys2Proof.Machine.execAndn h d a b s
  | .shl h d a b => Sys2Proof.Machine.execShl h d a b s
  | .shr h d a b => Sys2Proof.Machine.execShr h d a b s
  | .sha h d a b => Sys2Proof.Machine.execSha h d a b s
  | .rol h d a b => Sys2Proof.Machine.execRol h d a b s
  | .clz h d a => Sys2Proof.Machine.execClz h d a s
  | .ctz h d a => Sys2Proof.Machine.execCtz h d a s
  | .popc h d a => Sys2Proof.Machine.execPopc h d a s
  | .mov h d a => Sys2Proof.Machine.execMov h d a s
  | .bfx h d a b => Sys2Proof.Machine.execBfx h d a b s
  | .bfi h d a b => Sys2Proof.Machine.execBfi h d a b s
  | .sextI8 h d a => Sys2Proof.Machine.execSextI8 h d a s
  | .sextI16 h d a => Sys2Proof.Machine.execSextI16 h d a s
  | .sextI32 h d a => Sys2Proof.Machine.execSextI32 h d a s
  | .zextN8 h d a => Sys2Proof.Machine.execZextN8 h d a s
  | .zextN16 h d a => Sys2Proof.Machine.execZextN16 h d a s
  | .zextN32 h d a => Sys2Proof.Machine.execZextN32 h d a s
  | .sel h c d a b => Sys2Proof.Machine.execSel h c d a b s
  | .addImm h d a imm => Sys2Proof.Machine.execAddImm h d a imm s
  | .andImm h d a imm => Sys2Proof.Machine.execAndImm h d a imm s
  | .orImm h d a imm => Sys2Proof.Machine.execOrImm h d a imm s
  | .xorImm h d a imm => Sys2Proof.Machine.execXorImm h d a imm s
  | .shlImm h d a imm => Sys2Proof.Machine.execShlImm h d a imm s
  | .shrImm h d a imm => Sys2Proof.Machine.execShrImm h d a imm s
  | .shaImm h d a imm => Sys2Proof.Machine.execShaImm h d a imm s
  | .li h d imm => Sys2Proof.Machine.execLi h d imm s
  | .cmpSigned h w c d a b => Sys2Proof.Machine.execCmpSigned h w c d a b s
  | .cmpUnsigned h w c d a b => Sys2Proof.Machine.execCmpUnsigned h w c d a b s
  | .cmpFloat h bf c d a b => Sys2Proof.Machine.execCmpFloat h bf c d a b s
  | .pand h d a b => Sys2Proof.Machine.execPand h d a b s
  | .por h d a b => Sys2Proof.Machine.execPor h d a b s
  | .pxor h d a b => Sys2Proof.Machine.execPxor h d a b s
  | .pnot h d a => Sys2Proof.Machine.execPnot h d a s
  | .br h off => Sys2Proof.Machine.execBr h off s
  | .callOffset h off => Sys2Proof.Machine.execCallOffset h off s
  | .loop h d off => Sys2Proof.Machine.execLoop h d off s
  | .jmp h a => Sys2Proof.Machine.execJmp h a s
  | .callReg h d a => Sys2Proof.Machine.execCallReg h d a s
  | .ret h a => Sys2Proof.Machine.execRet h a s
  | .exit h => Sys2Proof.Machine.execExit h s
  | .yield h => Sys2Proof.Machine.execYield h s
  | .nop h => Sys2Proof.Machine.execNop h s
  | .qtry h d a b => Sys2Proof.Machine.execQtry h d a b s
  | .qcount h d a => Sys2Proof.Machine.execQcount h d a s
  | .qpeek h d a => Sys2Proof.Machine.execQpeek h d a s
  | .ld h w sx pol d a b x => Sys2Proof.Machine.execLd h w sx pol d a b x s
  | .st h w pol d a b x => Sys2Proof.Machine.execSt h w pol d a b x s
  | .ldx h w sx pol d a b x => Sys2Proof.Machine.execLdx h w sx pol d a b x s
  | .stx h w pol d a b x => Sys2Proof.Machine.execStx h w pol d a b x s
  | .aadd h form d a b v => Sys2Proof.Machine.execAadd h form d a b v s
  | .amin h form d a b v => Sys2Proof.Machine.execAmin h form d a b v s
  | .amax h form d a b v => Sys2Proof.Machine.execAmax h form d a b v s
  | .aand h form d a b v => Sys2Proof.Machine.execAand h form d a b v s
  | .aor h form d a b v => Sys2Proof.Machine.execAor h form d a b v s
  | .axor h form d a b v => Sys2Proof.Machine.execAxor h form d a b v s
  | .aswap h form d a b v => Sys2Proof.Machine.execAswap h form d a b v s
  | .acas h form d a b v => Sys2Proof.Machine.execAcas h form d a b v s
  | .cadd h scope c b => Sys2Proof.Machine.execCadd h scope c b s
  | .cfadd h scope d c b => Sys2Proof.Machine.execCfadd h scope d c b s
  | .cwait h scope lim c b x => Sys2Proof.Machine.execCwait h scope lim c b x s
  | .cpoll h scope d c b => Sys2Proof.Machine.execCpoll h scope d c b s
  | .cread h scope d c => Sys2Proof.Machine.execCread h scope d c s
  | .fenceAcq h scope => Sys2Proof.Machine.execFenceAcq h scope s
  | .fenceRel h scope => Sys2Proof.Machine.execFenceRel h scope s
  | .fenceAr h scope => Sys2Proof.Machine.execFenceAr h scope s
  | .fenceSc h scope => Sys2Proof.Machine.execFenceSc h scope s
  | .clean h a b => Sys2Proof.Machine.execClean h a b s
  | .inval h a b => Sys2Proof.Machine.execInval h a b s
  | .flush h a b => Sys2Proof.Machine.execFlush h a b s
  | .pref h hint a b => Sys2Proof.Machine.execPref h hint a b s
  | .ownrel h a b => Sys2Proof.Machine.execOwnrel h a b s
  | .sysrd h d na nb => Sys2Proof.Machine.execSysrd h d na nb s
  | .syswr h d na nb => Sys2Proof.Machine.execSyswr h d na nb s
  | .svc h a => Sys2Proof.Machine.execSvc h a s
  | .brk h a => Sys2Proof.Machine.execBrk h a s
  | .eret h => Sys2Proof.Machine.execEret h s
  | .suspendL h d a => Sys2Proof.Machine.execSuspendL h d a s
  | .suspendF h d a b => Sys2Proof.Machine.execSuspendF h d a b s
  | .resume h d a b => Sys2Proof.Machine.execResume h d a b s
  | .leasewait h d a => Sys2Proof.Machine.execLeasewait h d a s
  | .rdclk h d => Sys2Proof.Machine.execRdclk h d s
  | .ident h d a => Sys2Proof.Machine.execIdent h d a s
  | .ifence h => Sys2Proof.Machine.execIfence h s
  | .fltDone h d a b => Sys2Proof.Machine.execFltDone h d a b s
  | .pmove h d a => Sys2Proof.Machine.execPmove h d a s
  | .pzero h d a b => Sys2Proof.Machine.execPzero h d a b s
  | .vadd h a v => Sys2Proof.Machine.execVadd h a v s
  | .vsub h a v => Sys2Proof.Machine.execVsub h a v s
  | .vmul h a v => Sys2Proof.Machine.execVmul h a v s
  | .vmin h a v => Sys2Proof.Machine.execVmin h a v s
  | .vmax h a v => Sys2Proof.Machine.execVmax h a v s
  | .vfma h a v => Sys2Proof.Machine.execVfma h a v s
  | .vabs h v => Sys2Proof.Machine.execVabs h v s
  | .vneg h v => Sys2Proof.Machine.execVneg h v s
  | .vrcp h v => Sys2Proof.Machine.execVrcp h v s
  | .vrsqrt h v => Sys2Proof.Machine.execVrsqrt h v s
  | .vexp2 h v => Sys2Proof.Machine.execVexp2 h v s
  | .vlog2 h v => Sys2Proof.Machine.execVlog2 h v s
  | .vcvt h t v => Sys2Proof.Machine.execVcvt h t v s
  | .vand h a v => Sys2Proof.Machine.execVand h a v s
  | .vor h a v => Sys2Proof.Machine.execVor h a v s
  | .vxor h a v => Sys2Proof.Machine.execVxor h a v s
  | .vshl h a v => Sys2Proof.Machine.execVshl h a v s
  | .vshr h a v => Sys2Proof.Machine.execVshr h a v s
  | .vsha h a v => Sys2Proof.Machine.execVsha h a v s
  | .vcmp h cond a v => Sys2Proof.Machine.execVcmp h cond a v s
  | .vsel h a v => Sys2Proof.Machine.execVsel h a v s
  | .vredAdd h d v => Sys2Proof.Machine.execVredAdd h d v s
  | .vredMax h d v => Sys2Proof.Machine.execVredMax h d v s
  | .vredMin h d v => Sys2Proof.Machine.execVredMin h d v s
  | .vscan h a v => Sys2Proof.Machine.execVscan h a v s
  | .vperm h v => Sys2Proof.Machine.execVperm h v s
  | .vbcast h a v => Sys2Proof.Machine.execVbcast h a v s
  | .vext h d b v => Sys2Proof.Machine.execVext h d b v s
  | .vins h a b v => Sys2Proof.Machine.execVins h a b v s
  | .vldT h a b v => Sys2Proof.Machine.execVldT h a b v s
  | .vstT h a b v => Sys2Proof.Machine.execVstT h a b v s
  | .vld h a b v => Sys2Proof.Machine.execVld h a b v s
  | .vst h a b v => Sys2Proof.Machine.execVst h a b v s
  | .vgath h a v => Sys2Proof.Machine.execVgath h a v s
  | .vscat h a v => Sys2Proof.Machine.execVscat h a v s
  | .vcb h v => Sys2Proof.Machine.execVcb h v s
  | .vclaim h a => Sys2Proof.Machine.execVclaim h a s
  | .vtry h a => Sys2Proof.Machine.execVtry h a s
  | .vyield h a => Sys2Proof.Machine.execVyield h a s
  | .talloc h d a t => Sys2Proof.Machine.execTalloc h d a t s
  | .tfree h t => Sys2Proof.Machine.execTfree h t s
  | .tinfo h d b t => Sys2Proof.Machine.execTinfo h d b t s
  | .tzero h a b t => Sys2Proof.Machine.execTzero h a b t s
  | .tempty h a b t => Sys2Proof.Machine.execTempty h a b t s
  | .rpush h d t => Sys2Proof.Machine.execRpush h d t s
  | .rpop h d t => Sys2Proof.Machine.execRpop h d t s
  | .rwait h a b t => Sys2Proof.Machine.execRwait h a b t s
  | .rstate h d t => Sys2Proof.Machine.execRstate h d t s
  | .mmaBf16 h a b v => Sys2Proof.Machine.execMmaBf16 h a b v s
  | .mmaI8 h a b v => Sys2Proof.Machine.execMmaI8 h a b v s
  | .mmaCb h a b v => Sys2Proof.Machine.execMmaCb h a b v s
  | .mmaSp h a b v => Sys2Proof.Machine.execMmaSp h a b v s
  | .azero h v => Sys2Proof.Machine.execAzero h v s
  | .aload h a v => Sys2Proof.Machine.execAload h a v s
  | .astore h a v => Sys2Proof.Machine.execAstore h a v s
  | .adrain h a b v => Sys2Proof.Machine.execAdrain h a b v s
  | .kload h a b v => Sys2Proof.Machine.execKload h a b v s
  | .cpy h d a x => Sys2Proof.Machine.execCpy h d a x s
  | .cpyMma h d a x => Sys2Proof.Machine.execCpyMma h d a x s
  | .cpyr h d a x => Sys2Proof.Machine.execCpyr h d a x s
  | .cpystat h d a => Sys2Proof.Machine.execCpystat h d a s
  | .spawn h d a x => Sys2Proof.Machine.execSpawn h d a x s
  | .job h d a b x => Sys2Proof.Machine.execJob h d a b x s
  | .launch h d a x => Sys2Proof.Machine.execLaunch h d a x s
  | .send h a b f par nw target => Sys2Proof.Machine.execSend h a b f par nw target s
  | .replay h a => Sys2Proof.Machine.execReplay h a s
  | .mpop h d a => Sys2Proof.Machine.execMpop h d a s
  | .roam h d a => Sys2Proof.Machine.execRoam h d a s
  | .migrate h d a => Sys2Proof.Machine.execMigrate h d a s
  | .nmcast h a b f vs t => Sys2Proof.Machine.execNmcast h a b f vs t s
  | .nred h a f vs rop stream cidx => Sys2Proof.Machine.execNred h a f vs rop stream cidx s
  | .nbComb h a x => Sys2Proof.Machine.execNbComb h a x s
  | .nbFill h a x => Sys2Proof.Machine.execNbFill h a x s
  | .nbRed h a x => Sys2Proof.Machine.execNbRed h a x s
  | .nbStat h d a => Sys2Proof.Machine.execNbStat h d a s
  | .xcfg h d a b => Sys2Proof.Machine.execXcfg h d a b s
  | .xroute h d a b x => Sys2Proof.Machine.execXroute h d a b x s
  | .xcombine h d a b x => Sys2Proof.Machine.execXcombine h d a b x s
  | .xstat h d a b => Sys2Proof.Machine.execXstat h d a b s
  | .xresume h d a => Sys2Proof.Machine.execXresume h d a s
  | .xabort h d a => Sys2Proof.Machine.execXabort h d a s
  | .cubeReset => Sys2Proof.Machine.execCubeReset s
  | .mapRead => Sys2Proof.Machine.execMapRead s
  | .mapWrite => Sys2Proof.Machine.execMapWrite s
  | .mapBegin => Sys2Proof.Machine.execMapBegin s
  | .mapHold => Sys2Proof.Machine.execMapHold s
  | .mapStep => Sys2Proof.Machine.execMapStep s
  | .mapFinish => Sys2Proof.Machine.execMapFinish s
  | .mapListRead => Sys2Proof.Machine.execMapListRead s
  | .mapListWrite => Sys2Proof.Machine.execMapListWrite s
  | .holdTransferInstall => Sys2Proof.Machine.execHoldTransferInstall s
  | .holdComplete => Sys2Proof.Machine.execHoldComplete s
  | .req => Sys2Proof.Machine.execReq s
  | .nack => Sys2Proof.Machine.execNack s
  | .backoffExpiry => Sys2Proof.Machine.execBackoffExpiry s
  | .fill => Sys2Proof.Machine.execFill s
  | .data => Sys2Proof.Machine.execData s
  | .grant => Sys2Proof.Machine.execGrant s
  | .ackWt => Sys2Proof.Machine.execAckWt s
  | .nocache => Sys2Proof.Machine.execNocache s
  | .inv => Sys2Proof.Machine.execInv s
  | .invAck => Sys2Proof.Machine.execInvAck s
  | .fwdRead => Sys2Proof.Machine.execFwdRead s
  | .fwdOwn => Sys2Proof.Machine.execFwdOwn s
  | .revoke => Sys2Proof.Machine.execRevoke s
  | .revokeWb => Sys2Proof.Machine.execRevokeWb s
  | .rwbData => Sys2Proof.Machine.execRwbData s
  | .wb => Sys2Proof.Machine.execWb s
  | .wbAck => Sys2Proof.Machine.execWbAck s
  | .wbBufferRetry => Sys2Proof.Machine.execWbBufferRetry s
  | .remoteLostAtHome => Sys2Proof.Machine.execRemoteLostAtHome s
  | .atomicAtHome => Sys2Proof.Machine.execAtomicAtHome s
  | .counterOpAtHome => Sys2Proof.Machine.execCounterOpAtHome s
  | .watchRegistration => Sys2Proof.Machine.execWatchRegistration s
  | .watchRegistrationRetry => Sys2Proof.Machine.execWatchRegistrationRetry s
  | .satisfied => Sys2Proof.Machine.execSatisfied s
  | .dropped => Sys2Proof.Machine.execDropped s
  | .regionReadNotice => Sys2Proof.Machine.execRegionReadNotice s
  | .regionNotice => Sys2Proof.Machine.execRegionNotice s
  | .check => Sys2Proof.Machine.execCheck s
  | .checkAnswer => Sys2Proof.Machine.execCheckAnswer s
  | .tagfree => Sys2Proof.Machine.execTagfree s
  | .sweepPass => Sys2Proof.Machine.execSweepPass s
  | .boundarySerialWait => Sys2Proof.Machine.execBoundarySerialWait s
  | .pmoveLineInstall => Sys2Proof.Machine.execPmoveLineInstall s
  | .pmoveLineConfirm => Sys2Proof.Machine.execPmoveLineConfirm s
  | .frameZeroReport => Sys2Proof.Machine.execFrameZeroReport s
  | .sectionLookup => Sys2Proof.Machine.execSectionLookup s
  | .walkDispatch => Sys2Proof.Machine.execWalkDispatch s
  | .nwdone => Sys2Proof.Machine.execNwdone s
  | .walkTimeout => Sys2Proof.Machine.execWalkTimeout s
  | .faultWaitRetry => Sys2Proof.Machine.execFaultWaitRetry s
  | .leaseSkewCheck => Sys2Proof.Machine.execLeaseSkewCheck s
  | .referenceLost => Sys2Proof.Machine.execReferenceLost s
  | .referenceReturn => Sys2Proof.Machine.execReferenceReturn s
  | .migrationDecay => Sys2Proof.Machine.execMigrationDecay s
  | .laneLock => Sys2Proof.Machine.execLaneLock s
  | .blockLock => Sys2Proof.Machine.execBlockLock s
  | .helloInterval => Sys2Proof.Machine.execHelloInterval s
  | .hello => Sys2Proof.Machine.execHello s
  | .helloAck => Sys2Proof.Machine.execHelloAck s
  | .trainingTimeout => Sys2Proof.Machine.execTrainingTimeout s
  | .bundleReceive => Sys2Proof.Machine.execBundleReceive s
  | .stompFlit => Sys2Proof.Machine.execStompFlit s
  | .back => Sys2Proof.Machine.execBack s
  | .lreplay => Sys2Proof.Machine.execLreplay s
  | .credit => Sys2Proof.Machine.execCredit s
  | .limitPeriod => Sys2Proof.Machine.execLimitPeriod s
  | .limits => Sys2Proof.Machine.execLimits s
  | .limitAck => Sys2Proof.Machine.execLimitAck s
  | .fenceDrained => Sys2Proof.Machine.execFenceDrained s
  | .fenceMsg => Sys2Proof.Machine.execFenceMsg s
  | .fenceAck => Sys2Proof.Machine.execFenceAck s
  | .packetForward => Sys2Proof.Machine.execPacketForward s
  | .packetCommit => Sys2Proof.Machine.execPacketCommit s
  | .resp => Sys2Proof.Machine.execResp s
  | .ack => Sys2Proof.Machine.execAck s
  | .retryTimeout => Sys2Proof.Machine.execRetryTimeout s
  | .linkSilenceTimeout => Sys2Proof.Machine.execLinkSilenceTimeout s
  | .laneLockLost => Sys2Proof.Machine.execLaneLockLost s
  | .portEnable => Sys2Proof.Machine.execPortEnable s
  | .portFence => Sys2Proof.Machine.execPortFence s
  | .portDisable => Sys2Proof.Machine.execPortDisable s
  | .redApply => Sys2Proof.Machine.execRedApply s
  | .mcast => Sys2Proof.Machine.execMcast s
  | .streamEntryIdle => Sys2Proof.Machine.execStreamEntryIdle s
  | .launchWake => Sys2Proof.Machine.execLaunchWake s
  | .startWaitRetry => Sys2Proof.Machine.execStartWaitRetry s
  | .exitNotice => Sys2Proof.Machine.execExitNotice s
  | .inboxArrival => Sys2Proof.Machine.execInboxArrival s
  | .inboxHeldRetry => Sys2Proof.Machine.execInboxHeldRetry s
  | .handlerStart => Sys2Proof.Machine.execHandlerStart s
  | .spillWake => Sys2Proof.Machine.execSpillWake s
  | .migratingContextArrival => Sys2Proof.Machine.execMigratingContextArrival s
  | .vclaimServe => Sys2Proof.Machine.execVclaimServe s
  | .taskAdmission => Sys2Proof.Machine.execTaskAdmission s
  | .taskDecision => Sys2Proof.Machine.execTaskDecision s
  | .taskDispatch => Sys2Proof.Machine.execTaskDispatch s
  | .sequencerStep => Sys2Proof.Machine.execSequencerStep s
  | .followOnMma => Sys2Proof.Machine.execFollowOnMma s
  | .nbCommandAccept => Sys2Proof.Machine.execNbCommandAccept s
  | .combineGrant => Sys2Proof.Machine.execCombineGrant s
  | .vaultBoundExpiry => Sys2Proof.Machine.execVaultBoundExpiry s
  | .burstResume => Sys2Proof.Machine.execBurstResume s
  | .nbBurstComplete => Sys2Proof.Machine.execNbBurstComplete s
  | .nbStatQuery => Sys2Proof.Machine.execNbStatQuery s
  | .peckReadWake => Sys2Proof.Machine.execPeckReadWake s
  | .fillWaitExpired => Sys2Proof.Machine.execFillWaitExpired s
  | .ringTakeRetry => Sys2Proof.Machine.execRingTakeRetry s
  | .queueWake => Sys2Proof.Machine.execQueueWake s
  | .waitExpired => Sys2Proof.Machine.execWaitExpired s
  | .ringWaitExpired => Sys2Proof.Machine.execRingWaitExpired s
  | .leasewaitReturn => Sys2Proof.Machine.execLeasewaitReturn s
  | .directedAtomicValue => Sys2Proof.Machine.execDirectedAtomicValue s
  | .drainRow => Sys2Proof.Machine.execDrainRow s
  | .copyCommand => Sys2Proof.Machine.execCopyCommand s
  | .copyStart => Sys2Proof.Machine.execCopyStart s
  | .copyChunk => Sys2Proof.Machine.execCopyChunk s
  | .copyRead => Sys2Proof.Machine.execCopyRead s
  | .copyWrite => Sys2Proof.Machine.execCopyWrite s
  | .cpystatQuery => Sys2Proof.Machine.execCpystatQuery s
  | .engineCount => Sys2Proof.Machine.execEngineCount s
  | .engineOffsetExpert => Sys2Proof.Machine.execEngineOffsetExpert s
  | .turnWaitExpired => Sys2Proof.Machine.execTurnWaitExpired s
  | .engineTokenIssue => Sys2Proof.Machine.execEngineTokenIssue s
  | .tokenSettled => Sys2Proof.Machine.execTokenSettled s
  | .leaseSkewDelivery => Sys2Proof.Machine.execLeaseSkewDelivery s
  | .errorRecordItem => Sys2Proof.Machine.execErrorRecordItem s
  | .suspensionRequest => Sys2Proof.Machine.execSuspensionRequest s
  | .uncorrectableError => Sys2Proof.Machine.execUncorrectableError s
  | .correctedError => Sys2Proof.Machine.execCorrectedError s
  | .vaultFailure => Sys2Proof.Machine.execVaultFailure s
  | .hostReadExclusive => Sys2Proof.Machine.execHostReadExclusive s
  | .hostReadShared => Sys2Proof.Machine.execHostReadShared s
  | .hostReadNocache => Sys2Proof.Machine.execHostReadNocache s
  | .hostWrite => Sys2Proof.Machine.execHostWrite s
  | .hostWriteback => Sys2Proof.Machine.execHostWriteback s
  | .snoopTimeout => Sys2Proof.Machine.execSnoopTimeout s
  | .doorbell => Sys2Proof.Machine.execDoorbell s
  | .doorbellResult => Sys2Proof.Machine.execDoorbellResult s
  | .clusterPowerUp => Sys2Proof.Machine.execClusterPowerUp s
  | .governorSample => Sys2Proof.Machine.execGovernorSample s
  | .thermalThreshold => Sys2Proof.Machine.execThermalThreshold s
  | .minverBurn => Sys2Proof.Machine.execMinverBurn s
  | .registerWrite => Sys2Proof.Machine.execRegisterWrite s
  | .mboxGetStatus => Sys2Proof.Machine.execMboxGetStatus s
  | .mboxGetKey => Sys2Proof.Machine.execMboxGetKey s
  | .mboxAttest => Sys2Proof.Machine.execMboxAttest s
  | .mboxImageErase => Sys2Proof.Machine.execMboxImageErase s
  | .mboxImageWrite => Sys2Proof.Machine.execMboxImageWrite s
  | .mboxImageActivate => Sys2Proof.Machine.execMboxImageActivate s
  | .mboxSetCap => Sys2Proof.Machine.execMboxSetCap s
  | .mboxCxlCommand => Sys2Proof.Machine.execMboxCxlCommand s
  | .mctpControl => Sys2Proof.Machine.execMctpControl s
  | .mctpGetStatus => Sys2Proof.Machine.execMctpGetStatus s
  | .mctpGetError => Sys2Proof.Machine.execMctpGetError s
  | .mctpGetKey => Sys2Proof.Machine.execMctpGetKey s
  | .mctpAttest => Sys2Proof.Machine.execMctpAttest s
  | .mctpSetCap => Sys2Proof.Machine.execMctpSetCap s
  | .mctpImageErase => Sys2Proof.Machine.execMctpImageErase s
  | .mctpImageWrite => Sys2Proof.Machine.execMctpImageWrite s
  | .mctpImageActivate => Sys2Proof.Machine.execMctpImageActivate s
  | .illegalEncoding => Sys2Proof.Machine.execIllegalEncoding s
  | .walkerHartInstruction => Sys2Proof.Machine.execWalkerHartInstruction s
  | .slotPacketWrite => Sys2Proof.Machine.execSlotPacketWrite s

end Sys2Proof.Machine
end

