-- ==== Sys2Proof/Machine/Issue.lean ====
section
/-! DEFINITION. What a core issues next: readiness, the fetch of an instruction's bytes, and the pick of an issue slot
(07 R151, R170; 08 R178; 10 R200; 11 R228, R235). -/

namespace Sys2Proof

/-- An instruction that may issue while requests of its thread are outstanding: one that writes no more than registers,
predicates, flags and the PC, or a load, which is discarded on return when an earlier request traps (16 R335). Its predicate, its
operands, and the predicates that it names. -/
def Instr.ahead : Instr → Option (Hd × List Opd × List (BitVec 3))
  | .add h d a b | .sub h d a b | .mul h d a b | .mulhI64 h d a b | .mulhN64 h d a b | .divI64 h d a b | .divN64 h d a b
  | .remI64 h d a b | .remN64 h d a b | .minI64 h d a b | .minN64 h d a b | .maxI64 h d a b | .maxN64 h d a b
  | .addsX1 h d a b | .addsX2 h d a b | .addsX4 h d a b | .addsX8 h d a b | .mulhI32 h d a b | .mulhN32 h d a b
  | .divI32 h d a b | .divN32 h d a b | .remI32 h d a b | .remN32 h d a b | .minI32 h d a b | .minN32 h d a b
  | .maxI32 h d a b | .maxN32 h d a b | .and h d a b | .or h d a b | .xor h d a b | .andn h d a b | .shl h d a b
  | .shr h d a b | .sha h d a b | .rol h d a b | .bfx h d a b | .bfi h d a b =>
    some (h, [d, a, b], [])
  | .add32 h _ d a b | .sub32 h _ d a b | .mul32 h _ d a b =>
    some (h, [d, a, b], [])
  | .clz h d a | .ctz h d a | .popc h d a | .mov h d a | .sextI8 h d a | .sextI16 h d a | .sextI32 h d a | .zextN8 h d a
  | .zextN16 h d a | .zextN32 h d a | .callReg h d a =>
    some (h, [d, a], [])
  | .sel h c d a b =>
    some (h, [d, a, b], [c])
  | .addImm h d a _ | .andImm h d a _ | .orImm h d a _ | .xorImm h d a _ | .shlImm h d a _ | .shrImm h d a _
  | .shaImm h d a _ =>
    some (h, [d, a], [])
  | .li h d _ | .loop h d _ =>
    some (h, [d], [])
  | .cmpSigned h _ _ d a b | .cmpUnsigned h _ _ d a b | .cmpFloat h _ _ d a b =>
    some (h, [a, b], [d])
  | .pand h d a b | .por h d a b | .pxor h d a b =>
    some (h, [], [d, a, b])
  | .pnot h d a =>
    some (h, [], [d, a])
  | .br h _ =>
    some (h, [], [])
  | .callOffset h _ =>
    some (h, [.g 15#4], [])
  | .jmp h a | .ret h a =>
    some (h, [a], [])
  | .yield h | .nop h =>
    some (h, [], [])
  | .ld h _ _ _ d a _ _ =>
    some (h, [d, a], [])
  | .ldx h _ _ _ d a b _ =>
    some (h, [d, a, b], [])
  | _ => none

/-- Is it a load? -/
def Instr.isLoad : Instr → Bool
  | .ld .. | .ldx .. => true
  | _ => false

end Sys2Proof

namespace Sys2Proof.Machine

/-- Is the step one of the cube's register block, which a thread at `sysrd` or `syswr` waits for (11 R230)? -/
def regStep : Ev → Bool
  | .registerWrite .. | .mapRead | .mapWrite | .mapBegin | .mapHold | .mapStep | .mapFinish | .mapListRead
  | .mapListWrite | .portEnable _ | .portFence _ | .portDisable _ => true
  | _ => false

/-- The bytes of a line of the instruction cache. -/
def Core.iline (k : Core) (space vline : Nat) : Option (List Byte) :=
  (k.icache.find? fun l => l.space == space && l.vline == vline).map fun l => l.data

/-- The instruction word at an address, or the line that lacks. -/
def Core.iword (k : Core) (space va : Nat) : Except Nat IWord :=
  match k.iline space (va / 128) with
  | some d => .ok (BitVec.ofNat 32 (ofBytes ((d.drop (va % 128)).take 4)))
  | none => .error (va / 128)

/-- `n` instruction words from an address. -/
def Core.iwords (k : Core) (space va : Nat) : Nat → Except Nat (List IWord)
  | 0 => .ok []
  | n + 1 => match k.iword space va with
    | .error l => .error l
    | .ok w => match k.iwords space (va + 4) n with
      | .error l => .error l
      | .ok r => .ok (w :: r)

/-- The words of the instruction at a thread's PC, fetched whole (10 R200), or the line that is to be fetched. -/
def Core.fetch (k : Core) (t : Ctx) : Except Nat (List IWord) :=
  match k.iword t.space t.pc.toNat with
  | .error l => .error l
  | .ok w => k.iwords t.space t.pc.toNat (wordBytes w / 4)

/-- Does a reply still have to write what the instruction names (11 R219)? -/
def Ctx.pendsOn (t : Ctx) (h : Hd) (os : List Opd) (ps : List (BitVec 3)) : Bool :=
  t.tags.any fun p =>
    (p.2.dkind == 0 && os.any fun o => o.code.toNat == p.2.dest) || (p.2.dkind == 1 && (h.pred :: ps).any fun c => c.toNat == p.2.dest)

/-- With requests outstanding, may the thread's next instruction issue (11 R219, 12 R244; 16 R335)? It names nothing that a reply
still writes, takes nothing from a queue, comes after no acquire or boundary of an outstanding request when it is a load, and neither
blocks nor traps: a trap waits until no earlier instruction can trap. -/
def State.runsAhead (s : State) (c x : Nat) : Bool :=
  let t := s.ctx c x
  decide (t.tags.length < 8) && (t.tags.all fun p => p.2.fcause == 0) && t.skew.isNone && !t.roam && t.bdue == 0 && t.latch.isNone
    && t.sdLive s.leaseNow && !t.sdTrap &&
    (match (s.core c).fetch t with
      | .error _ => false
      | .ok ws => match decode ws with
        | .error _ => false
        | .ok i => match i.ahead with
          | none => false
          | some (h, os, ps) =>
            !(os.any Opd.isQueue) && !(t.pendsOn h os ps)
              && (!i.isLoad || (decide (64 ≤ t.room) && t.tags.all fun p => !p.2.bound && p.2.acq.isNone))
              && (match exec i { s with cur := (c, x), next := none, ev := none } with
                | .next u => (u.ctx c x).cstate == .active && (u.ctx c x).wait == .none && (u.ctx c x).held == t.held
                | _ => false))

/-! Arbitration at a home slice (03 R70). -/

/-- The request for a home slice that a step brings, not yet accepted there. -/
def homeReq : Ev → Option Req
  | .req r | .wb r | .atomicAtHome r | .counterOpAtHome r | .watchRegistration r | .regionReadNotice r | .regionNotice r =>
    if r.arrived then none else some r
  | _ => none

/-- The input port of a slice by which a core's request comes (03 R70): the slice stands at the router of the core at column
2 (k mod 8) + 1 and row 2 (k div 8) + 1. -/
def meshPort (core k : Nat) : Nat :=
  let row := 2 * (k / 8) + 1
  let col := 2 * (k % 8) + 1
  if meshRow core < row then 0
  else if row < meshRow core then 2
  else if meshCol core < col then 3
  else if col < meshCol core then 1
  else 0

/-- The input port of a request (03 R70). The units that the rule does not name come with the engines (log entry 120). -/
def homePort (r : Req) (k : Nat) : Nat :=
  if r.e2e.isSome then 4
  else match r.who.kind with
    | .thread => meshPort (r.who.core % 256) k
    | .host => 6
    | .walker => 7
    | .unit => if r.who.idx = 254 then meshPort (r.who.core % 256) k else 5
    | _ => 5

/-- The line and port of a step that brings a request to a slice. -/
def State.homeArrival (s : State) (e : Ev) : Option (Nat × Nat) :=
  (homeReq e).bind fun r => (s.placeOf r).map fun p => (p.local_ / 128, homePort r (sliceOf (p.local_ / 128)))

/-- The port that follows another, of those in a list. -/
def nextPort (l : List Nat) (last : Nat) : Nat :=
  (((countUp 1 8).map fun k => (last + k) % 8).find? fun p => l.contains p).getD last

/-- The step that is performed when `e` is due first, the others, and the slice's note of it: of the requests for one line that stand
at several ports, that of the port which follows the one accepted last in a contested cycle (03 R70). Those that lost stand until
they are accepted; whether others due have come in this cycle the spec leaves to timing. -/
def State.homeTurn (s : State) (e : Ev) (rest : List Ev) : Ev × List Ev × State :=
  match s.homeArrival e with
  | none => (e, rest, s)
  | some (line, port) =>
    let k := sliceOf line
    let sl := s.slice k
    let due := (e :: rest).filterMap fun x => match s.homeArrival x with
      | some a => if a.1 = line then some (a.2, x) else none
      | none => none
    let ports := (due.map fun x => x.1).eraseDups
    let stand := (tblGet sl.standing line []).filter fun p => ports.contains p
    let base := if stand.isEmpty then [port] else stand
    let l := if ports.all fun p => base.contains p then base else if Config.contested s.tick then ports else base
    let p := nextPort l sl.lastPort
    let x := ((due.find? fun x => x.1 == p).map fun x => x.2).getD e
    let left := l.filter fun q => q != p
    (x, (e :: rest).erase x,
      if stand.isEmpty && left.isEmpty then s
      else s.updSlice k fun sl =>
        { sl with
          lastPort := if left.isEmpty then sl.lastPort else p
          standing := if left.isEmpty then tblDel sl.standing line else tblSet sl.standing line left })

/-- Is a thread to stop at its next instruction boundary, for a suspension (16 R344)? -/
def State.stopping (s : State) (c x : Nat) : Bool :=
  (s.ctx c x).got.isEmpty && s.susps.any fun j =>
    j.m.op != 2 && j.step == 0 && j.m.core == c && ((s.core c).targets j.m.group j.m.slot).contains x

/-- Is the thread ready (07 R151)? -/
def State.ready (s : State) (c x : Nat) : Bool :=
  let t := s.ctx c x
  t.cstate == .active &&
    (match t.wait with
      | .none => true
      | .reg => !(s.events.any regStep)
      | _ => false) && !(s.stopping c x) && (t.tags.isEmpty || s.runsAhead c x)

/-- The issue slot of an instruction's words: B for vector, tile and matrix instructions (08 R178). -/
def slotB (ws : List IWord) : Bool :=
  match ws with
  | w :: _ => let maj := bitsOf w.toNat 7 2; decide (0x20 ≤ maj) && decide (maj ≤ 0x34)
  | [] => false

/-- An instruction that waits for an idle sequencer (08 R179; 13 R283, R287): MAJ 0x32 to 0x34, and `tzero`. -/
def forSequencer (ws : List IWord) : Bool :=
  match ws with
  | w :: _ =>
    let maj := bitsOf w.toNat 7 2
    let fn := bitsOf w.toNat 31 27
    maj == 0x32 || maj == 0x33 || maj == 0x34 || (maj == 0x30 && fn == 3)
  | [] => false

/-- The slot for which a thread is ready: 0 A, 1 B; a follow-on `mma` takes an idle sequencer first (14 R299); a thread whose line is
still to be fetched asks through slot A. -/
def State.slotOf (s : State) (c x : Nat) : Option Nat :=
  let k := s.core c
  let t := k.ctx x
  if !s.ready c x then none
  else match k.fetch t with
    | .error _ => some 0
    | .ok ws =>
      if slotB ws then
        (if forSequencer ws && (match k.seq with
          | some q => q.ctx != x
          | none => k.follows.any k.mayFollow) then none else some 1)
      else some 0

/-- `rotate` of 08 R178. -/
def rotate (l : List Nat) (last : Nat) : Option Nat :=
  match l.find? fun x => decide (last < x) with
  | some x => some x
  | none => l.head?

/-- The threads of a core ready for a slot, lowest context first. -/
def State.slotReady (s : State) (c slot : Nat) : List Nat :=
  ((s.core c).ctxs.filter fun p => s.slotOf c p.1 == some slot).map fun p => p.1

/-- `pick` of 08 R178, over the threads given: the thread and the rotation pointer that moves. -/
def Core.pick (k : Core) (slot : Nat) (cs : List Nat) : Option (Nat × Nat) :=
  let cls (x : Nat) : Nat := (k.ctx x).cls
  let overdue := cs.filter fun x => cls x != 0 && decide (32 ≤ (k.ctx x).idle)
  let key (j : Nat) : Nat := 4 * slot + j
  let at_ (j : Nat) (l : List Nat) : Option (Nat × Nat) := (rotate l (tblGet k.last (key j) 31)).map fun x => (x, key j)
  if !overdue.isEmpty then at_ 0 overdue
  else match at_ 1 (cs.filter fun x => cls x == 0) with
    | some r => some r
    | none => match at_ 2 (cs.filter fun x => cls x == 1) with
      | some r => some r
      | none => at_ 3 (cs.filter fun x => cls x == 2)

/-- One cycle of an issue slot: the thread picked, with the idle counts and rotation pointers as they then stand. A
thread that has given way is passed over when another is ready, and counts as not ready in that cycle (11 R228). -/
def State.issueSlot (s : State) (c slot : Nat) : Option (Nat × State) :=
  let all := s.slotReady c slot
  let k := s.core c
  let fresh := all.filter fun x => !(k.ctx x).yielded
  match k.pick slot (if fresh.isEmpty then all else fresh) with
  | none => none
  | some (x, key) =>
    let ctxs := k.ctxs.map fun (p : Nat × Ctx) =>
      let t := p.2
      (p.1,
        if p.1 = x then { t with idle := 0, yielded := false }
        else if all.contains p.1 then { t with idle := if t.yielded then 0 else t.idle + 1, yielded := false }
        else if (s.slotOf c p.1).isNone then { t with idle := 0 }
        else t)
    some (x, s.setCore c { k with ctxs := ctxs, last := tblSet k.last key x })

/-- Has the thread that was picked turned out to be blocked: by a queue, a register or peck that is still to be written, a ring, or
its own outstanding requests? -/
def State.blocked (s : State) (c x : Nat) : Bool :=
  match (s.ctx c x).wait with
  | .queue _ | .vreg | .peck _ | .ring .. | .acks | .serial => true
  | _ => false

/-- A blocked thread takes no issue slot (07 R151): the rotation and the idle counts are as before, its own count is 0. -/
def State.untaken (s old : State) (c x : Nat) : State :=
  if s.blocked c x && (s.ctx c x).pc == (old.ctx c x).pc then
    s.updCore c fun k => { k with
      last := (old.core c).last
      ctxs := k.ctxs.map fun (p : Nat × Ctx) => (p.1, { p.2 with idle := if p.1 = x then 0 else (old.ctx c p.1).idle }) }
  else s

/-- What an instruction has changed in the registers is noted with the requests that were outstanding before it (16 R335). -/
def State.logUndo (s old : State) (c x : Nat) : State :=
  if (old.ctx c x).tags.isEmpty then s
  else s.updCtx c x fun t =>
    let o := old.ctx c x
    let ch := (countUp 0 16).filterMap fun i => if o.getG i = t.getG i then none else some (i, o.getG i)
    { t with tags := t.tags.map fun (p : Nat × Tag) =>
        (p.1, if o.tags.any fun q => q.2.id == p.2.id then { p.2 with undo := ch ++ p.2.undo } else p.2) }

/-- The request for an instruction line (10 R200): a failure is reported with the address of the first word. -/
def State.sendFetch (s : State) (line : Nat) : State :=
  let t := s.cx
  let r := { s.threadReq (line * 128) .fetch with words := 2 ^ 32 - 1 }
  let x := s.newOut r .fetch
  if 2 ^ 48 ≤ line * 128 then s.accessError t.pc.toNat
  else (x.2.emit (.sectionLookup x.1)).block .fetch

/-- TRIP stops the issue of every core (17 R363). -/
def State.tripped (s : State) : Bool := bitOf s.regs.pwrStat.toNat 1

/-- The cores and slots with a thread that could issue. -/
def State.choices (s : State) : List (Nat × Nat) :=
  if s.tripped then []
  else s.cores.flatMap fun p => [0, 1].filterMap fun k => if (s.slotReady p.1 k).isEmpty then none else some (p.1, k)

end Sys2Proof.Machine
end

