-- ==== Sys2Proof/Machine/Step.lean ====
section
/-! DEFINITION. One step of the machine: a step that is due, or one instruction of one thread; then time passes. -/

namespace Sys2Proof.Machine

/-- The instruction that the fetched words are; words that no row encodes are ILLEGAL_ENCODING (10 R210). -/
def State.execWords (s : State) (ws : List IWord) : Host.Outcome State Fault Refusal :=
  match decode ws with
  | .ok i => exec i { s with ev := none }
  | .error _ =>
    exec .illegalEncoding
      { s with ev := some (.illegalEncoding (nthD ws 0 0#32) (nthD ws 1 0#32) (nthD ws 2 0#32)) }

/-- Thread `x` of core `c` issues its next instruction, or asks for the line that holds it; a pending LEASE_SKEW is taken
first (16 R339), and before both the core's copy of the space descriptor is renewed when it has expired (05 R98). -/
def State.issueThread (s : State) (c x : Nat) : Host.Outcome State Fault Refusal :=
  let s1 := { s with cur := (c, x), next := none }
  let t := s1.ctx c x
  match s1.descReady c x with
  | none => .next (s1.sendDesc c x)
  | some s1 =>
  if (s1.ctx c x).cstate ≠ .active then .next s1
  else if t.skew.isSome && !t.held && t.got.isEmpty then .next (s1.takeSkew c x)
  else match (s1.core c).fetch (s1.ctx c x) with
  | .error l => .next (s1.sendFetch l)
  | .ok ws => match s1.execWords ws with
    | .next u => .next (u.logUndo s1 c x)
    | r => r

/-- The first step that is due is performed, or, at a home slice, the request that its ports' turn brings before it (03 R70). -/
def State.perform (s : State) (e : Ev) (rest : List Ev) : Host.Outcome State Fault Refusal :=
  let x := s.homeTurn e rest
  exec x.1.instr { x.2.2 with events := x.2.1, ev := some x.1 }

/-- The timers that have run out make their steps due (00 R3). -/
def State.wakeTimers (s : State) : State :=
  { s with
    events := s.events ++ (s.timers.filter fun t => decide (t.due ≤ s.leaseNow)).map fun t => t.step
    timers := s.timers.filter fun t => !decide (t.due ≤ s.leaseNow) }

/-- A slot of a core issues; a thread that turns out to be blocked has taken none. -/
def State.runSlot (s : State) (p : Nat × Nat) : Host.Outcome State Fault Refusal :=
  match s.issueSlot p.1 p.2 with
  | some (x, s1) => match s1.issueThread p.1 x with
    | .next t => .next (t.untaken s p.1 x)
    | r => r
  | none => .next s

/-- Is a step one of a core's sequencer? -/
def seqStepDue : Ev → Bool
  | .sequencerStep _ => true
  | _ => false

/-- The step that is due first, and the others; under TRIP no core's sequencer steps (17 R363). -/
def State.firstDue (s : State) : Option (Ev × List Ev) :=
  if s.tripped then (s.events.find? fun e => !seqStepDue e).map fun e => (e, s.events.erase e)
  else match s.events with
  | e :: r => some (e, r)
  | [] => none

/-- What happens in this step: the thread whose issue is settled; else a due step or an issue slot, one of which the
spec does not order before the other (00 R9). -/
def State.act (s : State) : Host.Outcome State Fault Refusal :=
  match s.next with
  | some (c, x) => s.issueThread c x
  | none =>
    match s.firstDue, s.choices with
    | none, [] => .next s
    | some (e, r), [] => s.perform e r
    | none, p :: ps => s.runSlot (nthD (p :: ps) (Config.turn s.tick % (p :: ps).length) p)
    | some (e, r), p :: ps =>
      match Config.turn s.tick % ((p :: ps).length + 1) with
      | 0 => s.perform e r
      | k + 1 => s.runSlot (nthD (p :: ps) k p)

/-- Time passes (00 R9). -/
def State.pass (s : State) : State :=
  { s with leaseNow := s.leaseNow + Config.elapsed s.tick, tick := s.tick + 1 }

/-- One step of the machine. -/
def step (s : State) : Host.Outcome State Fault Refusal :=
  match s.wakeTimers.act with
  | .next t => .next t.pass
  | .fault r => .fault r
  | .refused r => .refused r

/-- A line of the instruction cache with the word bytes over position `at_` of its line. -/
def putLine (k : Core) (space vline at_ : Nat) (d : List Byte) : Core :=
  let old := (k.iline space vline).getD (List.replicate 128 0#8)
  { k with icache := { space := space, vline := vline, data := overlay old at_ d } ::
      k.icache.filter fun l => !(l.space == space && l.vline == vline) }

/-- The state with an instruction's 20 bytes, those past `nbits` zero, in the instruction cache at the PC of the
thread that issues next. A context that runs no thread gets one, in firmware mode, as the boot ROM starts firmware
(17 R355): the load of a program from outside the machine. -/
def State.withFetchWord (s : State) (nbits w : Nat) : State :=
  let c := s.cur.1
  let x := s.cur.2
  let t := s.ctx c x
  let t1 := if t.cstate = .active then { t with wait := .none, tags := [] }
    else { t with cstate := .active, wait := .none, tags := [], status := setFld t.status 47 46 2, pc := 0#64 }
  let bytes := toBytes (w % 2 ^ nbits) 20
  let b := t1.pc.toNat % 128
  let k := putLine ((s.core c).setCtx x t1) t1.space (t1.pc.toNat / 128) b (bytes.take (128 - b))
  let k1 := if 20 ≤ 128 - b then k
    else putLine k t1.space (t1.pc.toNat / 128 + 1) 0 (bytes.drop (128 - b))
  { s.setCore c k1 with next := some (c, x) }

end Sys2Proof.Machine
end

