-- ==== Sys2Proof/Safety.lean ====
section
/-! DEFINITION. What a safe run is, in the terms the statements use: the invariant that every step keeps, when an
instruction runs and with which operand values, the reading of one byte, and what a frame leaves unchanged. -/

namespace Sys2Proof.Machine

/-- Memory stands in its canonical form: addresses strictly rising, no entry equal to what an unlisted address reads as. -/
def State.wf (s : State) : Bool := Memory.wf s.dense

/-- The byte at a local address as its home answers it: the L2, else the fast tier, else the dense tier (02 R31). -/
def State.byteAt (s : State) (pa : Nat) : Byte := nthD (s.homeLine (pa / 128)) (pa % 128) 0#8

/-- What decides whether an instruction runs: its predicate and literal, the roles of its operands, the code of an operand
that its entry forbids, the modes that may not run it, and the operand values that make it illegal (10 R205 to R208). -/
structure Frame where
  h : Hd
  roles : Roles := {}
  bad : Ctx → Option Nat := fun _ => none
  priv : Ctx → Bool := anyMode
  ill : State → Bool := fun _ => false

/-- The frame of each instruction; a step of a unit has none. -/
def frameOf : Instr → Option Frame
  | .add h d a b => some { h := h, roles := { a := some a, b := some b, d := some d } }
  | .sub h d a b => some { h := h, roles := { a := some a, b := some b, d := some d } }
  | .mul h d a b => some { h := h, roles := { a := some a, b := some b, d := some d } }
  | .mulhI64 h d a b => some { h := h, roles := { a := some a, b := some b, d := some d } }
  | .mulhN64 h d a b => some { h := h, roles := { a := some a, b := some b, d := some d } }
  | .divI64 h d a b => some { h := h, roles := { a := some a, b := some b, d := some d } }
  | .divN64 h d a b => some { h := h, roles := { a := some a, b := some b, d := some d } }
  | .remI64 h d a b => some { h := h, roles := { a := some a, b := some b, d := some d } }
  | .remN64 h d a b => some { h := h, roles := { a := some a, b := some b, d := some d } }
  | .minI64 h d a b => some { h := h, roles := { a := some a, b := some b, d := some d } }
  | .minN64 h d a b => some { h := h, roles := { a := some a, b := some b, d := some d } }
  | .maxI64 h d a b => some { h := h, roles := { a := some a, b := some b, d := some d } }
  | .maxN64 h d a b => some { h := h, roles := { a := some a, b := some b, d := some d } }
  | .addsX1 h d a b => some { h := h, roles := { a := some a, b := some b, d := some d } }
  | .addsX2 h d a b => some { h := h, roles := { a := some a, b := some b, d := some d } }
  | .addsX4 h d a b => some { h := h, roles := { a := some a, b := some b, d := some d } }
  | .addsX8 h d a b => some { h := h, roles := { a := some a, b := some b, d := some d } }
  | .add32 h _ d a b => some { h := h, roles := { a := some a, b := some b, d := some d } }
  | .sub32 h _ d a b => some { h := h, roles := { a := some a, b := some b, d := some d } }
  | .mul32 h _ d a b => some { h := h, roles := { a := some a, b := some b, d := some d } }
  | .mulhI32 h d a b => some { h := h, roles := { a := some a, b := some b, d := some d } }
  | .mulhN32 h d a b => some { h := h, roles := { a := some a, b := some b, d := some d } }
  | .divI32 h d a b => some { h := h, roles := { a := some a, b := some b, d := some d } }
  | .divN32 h d a b => some { h := h, roles := { a := some a, b := some b, d := some d } }
  | .remI32 h d a b => some { h := h, roles := { a := some a, b := some b, d := some d } }
  | .remN32 h d a b => some { h := h, roles := { a := some a, b := some b, d := some d } }
  | .minI32 h d a b => some { h := h, roles := { a := some a, b := some b, d := some d } }
  | .minN32 h d a b => some { h := h, roles := { a := some a, b := some b, d := some d } }
  | .maxI32 h d a b => some { h := h, roles := { a := some a, b := some b, d := some d } }
  | .maxN32 h d a b => some { h := h, roles := { a := some a, b := some b, d := some d } }
  | .and h d a b => some { h := h, roles := { a := some a, b := some b, d := some d } }
  | .or h d a b => some { h := h, roles := { a := some a, b := some b, d := some d } }
  | .xor h d a b => some { h := h, roles := { a := some a, b := some b, d := some d } }
  | .andn h d a b => some { h := h, roles := { a := some a, b := some b, d := some d } }
  | .shl h d a b => some { h := h, roles := { a := some a, b := some b, d := some d } }
  | .shr h d a b => some { h := h, roles := { a := some a, b := some b, d := some d } }
  | .sha h d a b => some { h := h, roles := { a := some a, b := some b, d := some d } }
  | .rol h d a b => some { h := h, roles := { a := some a, b := some b, d := some d } }
  | .clz h d a => some { h := h, roles := { a := some a, b := none, d := some d } }
  | .ctz h d a => some { h := h, roles := { a := some a, b := none, d := some d } }
  | .popc h d a => some { h := h, roles := { a := some a, b := none, d := some d } }
  | .mov h d a => some { h := h, roles := { a := some a, b := none, d := some d } }
  | .bfx h d a b => some { h := h, roles := { a := some a, b := some b, d := some d } }
  | .bfi h d a b => some { h := h, roles := { a := some a, b := some b, ds := some d }, bad := fun _ => needG d }
  | .sextI8 h d a => some { h := h, roles := { a := some a, b := none, d := some d } }
  | .sextI16 h d a => some { h := h, roles := { a := some a, b := none, d := some d } }
  | .sextI32 h d a => some { h := h, roles := { a := some a, b := none, d := some d } }
  | .zextN8 h d a => some { h := h, roles := { a := some a, b := none, d := some d } }
  | .zextN16 h d a => some { h := h, roles := { a := some a, b := none, d := some d } }
  | .zextN32 h d a => some { h := h, roles := { a := some a, b := none, d := some d } }
  | .sel h _ d a b => some { h := h, roles := { a := some a, b := some b, d := some d } }
  | .addImm h d a _ => some { h := h, roles := { a := some a, b := none, d := some d } }
  | .andImm h d a _ => some { h := h, roles := { a := some a, b := none, d := some d } }
  | .orImm h d a _ => some { h := h, roles := { a := some a, b := none, d := some d } }
  | .xorImm h d a _ => some { h := h, roles := { a := some a, b := none, d := some d } }
  | .shlImm h d a _ => some { h := h, roles := { a := some a, b := none, d := some d } }
  | .shrImm h d a _ => some { h := h, roles := { a := some a, b := none, d := some d } }
  | .shaImm h d a _ => some { h := h, roles := { a := some a, b := none, d := some d } }
  | .li h d _ => some { h := h, roles := { a := none, b := none, d := some d } }
  | .cmpSigned h _ _ _ a b => some { h := h, roles := { a := some a, b := some b } }
  | .cmpUnsigned h _ _ _ a b => some { h := h, roles := { a := some a, b := some b } }
  | .cmpFloat h _ _ _ a b => some { h := h, roles := { a := some a, b := some b } }
  | .pand h _ _ _ => some { h := h }
  | .por h _ _ _ => some { h := h }
  | .pxor h _ _ _ => some { h := h }
  | .pnot h _ _ => some { h := h }
  | .br h _ => some { h := h }
  | .callOffset h _ => some { h := h }
  | .loop h d _ => some { h := h, roles := { ds := some d }, bad := fun _ => needG d }
  | .jmp h a => some { h := h, roles := { a := some a } }
  | .callReg h d a => some { h := h, roles := { a := some a, d := some d } }
  | .ret h a => some { h := h, roles := { a := some a } }
  | .exit h => some { h := h }
  | .yield h => some { h := h }
  | .nop h => some { h := h }
  | .qtry h d a b =>
    some { h := h, roles := { b := some b, d := some d }, bad := fun t => if t.roam then some a.code.toNat else none }
  | .qcount h d a =>
    some { h := h, roles := { b := none, d := some d }, bad := fun t => if t.roam then some a.code.toNat else none }
  | .qpeek h d a =>
    some { h := h, roles := { b := none, d := some d }, bad := fun t => if t.roam then some a.code.toNat else none }
  | .ld h _ _ _ d a _ _ => some { h := h, roles := { a := some a, d := some d } }
  | .st h _ _ d a _ _ => some { h := h, roles := { a := some a, ds := some d } }
  | .ldx h _ _ _ d a b _ => some { h := h, roles := { a := some a, b := some b, d := some d } }
  | .stx h _ _ d a b _ => some { h := h, roles := { a := some a, b := some b, ds := some d } }
  | .aadd h form d a b _ => some { h := h, roles := atomRoles 0 form d a b, bad := fun _ => casReg 0 d }
  | .amin h form d a b _ => some { h := h, roles := atomRoles 1 form d a b, bad := fun _ => casReg 1 d }
  | .amax h form d a b _ => some { h := h, roles := atomRoles 2 form d a b, bad := fun _ => casReg 2 d }
  | .aand h form d a b _ => some { h := h, roles := atomRoles 3 form d a b, bad := fun _ => casReg 3 d }
  | .aor h form d a b _ => some { h := h, roles := atomRoles 4 form d a b, bad := fun _ => casReg 4 d }
  | .axor h form d a b _ => some { h := h, roles := atomRoles 5 form d a b, bad := fun _ => casReg 5 d }
  | .aswap h form d a b _ => some { h := h, roles := atomRoles 6 form d a b, bad := fun _ => casReg 6 d }
  | .acas h form d a b _ => some { h := h, roles := atomRoles 7 form d a b, bad := fun _ => casReg 7 d }
  | .cadd h _ _ b => some { h := h, roles := { b := some b } }
  | .cfadd h _ d _ b => some { h := h, roles := { b := some b, d := some d } }
  | .cwait h _ _ _ b _ => some { h := h, roles := { b := some b } }
  | .cpoll h _ _ _ b => some { h := h, roles := { b := some b } }
  | .cread h _ d _ => some { h := h, roles := { d := some d } }
  | .fenceAcq h _ => some { h := h }
  | .fenceRel h _ => some { h := h }
  | .fenceAr h _ => some { h := h }
  | .fenceSc h _ => some { h := h }
  | .clean h a b => some { h := h, roles := { a := some a, b := some b } }
  | .inval h a b => some { h := h, roles := { a := some a, b := some b } }
  | .flush h a b => some { h := h, roles := { a := some a, b := some b } }
  | .pref h _ a b => some { h := h, roles := { a := some a, b := some b } }
  | .ownrel h a b => some { h := h, roles := { a := some a, b := some b } }
  | .sysrd h d na nb => some { h := h, roles := { d := some d }, priv := regPrivilege (regNum nb na) }
  | .syswr h d na nb => some { h := h, roles := { ds := some d }, priv := regPrivilege (regNum nb na) }
  | .svc h a => some { h := h, roles := { a := some a } }
  | .brk h a => some { h := h, roles := { a := some a } }
  | .eret h => some { h := h, priv := systemOnly }
  | .suspendL h d a => some { h := h, roles := { a := some a, b := none, d := some d }, priv := systemOnly }
  | .suspendF h d a b => some { h := h, roles := { a := some a, b := some b, d := some d }, priv := systemOnly }
  | .resume h d a b => some { h := h, roles := { a := some a, b := some b, d := some d }, priv := systemOnly }
  | .leasewait h d a => some { h := h, roles := { a := some a, d := some d } }
  | .rdclk h d => some { h := h, roles := { d := some d } }
  | .ident h d a => some { h := h, roles := { a := some a, d := some d } }
  | .ifence h => some { h := h }
  | .fltDone h d a b => some { h := h, roles := { a := some a, b := some b, d := some d }, priv := systemOnly }
  | .pmove h d a => some { h := h, roles := { a := some a, d := some d }, priv := systemOnly }
  | .pzero h d a b => some { h := h, roles := { a := some a, b := some b, d := some d }, priv := systemOnly }
  | .vadd h a v => some { h := h, roles := bsRoles a v }
  | .vsub h a v => some { h := h, roles := bsRoles a v }
  | .vmul h a v => some { h := h, roles := bsRoles a v }
  | .vmin h a v => some { h := h, roles := bsRoles a v }
  | .vmax h a v => some { h := h, roles := bsRoles a v }
  | .vfma h a v => some { h := h, roles := bsRoles a v }
  | .vabs h _ => some { h := h }
  | .vneg h _ => some { h := h }
  | .vrcp h _ => some { h := h }
  | .vrsqrt h _ => some { h := h }
  | .vexp2 h _ => some { h := h }
  | .vlog2 h _ => some { h := h }
  | .vcvt h _ _ => some { h := h }
  | .vand h a v => some { h := h, roles := bsRoles a v }
  | .vor h a v => some { h := h, roles := bsRoles a v }
  | .vxor h a v => some { h := h, roles := bsRoles a v }
  | .vshl h a v => some { h := h, roles := bsRoles a v }
  | .vshr h a v => some { h := h, roles := bsRoles a v }
  | .vsha h a v => some { h := h, roles := bsRoles a v }
  | .vcmp h _ a v => some { h := h, roles := bsRoles a v }
  | .vsel h a v => some { h := h, roles := bsRoles a v }
  | .vredAdd h d _ => some { h := h, roles := { d := some d } }
  | .vredMax h d _ => some { h := h, roles := { d := some d } }
  | .vredMin h d _ => some { h := h, roles := { d := some d } }
  | .vscan h a _ => some { h := h, roles := { a := some a } }
  | .vperm h _ => some { h := h }
  | .vbcast h a _ => some { h := h, roles := { a := some a } }
  | .vext h d b _ => some { h := h, roles := { b := some b, d := some d } }
  | .vins h a b _ => some { h := h, roles := { a := some a, b := some b } }
  | .vldT h a b _ => some { h := h, roles := { a := some a, b := some b } }
  | .vstT h a b _ => some { h := h, roles := { a := some a, b := some b } }
  | .vld h a b _ => some { h := h, roles := { a := some a, b := some b } }
  | .vst h a b _ => some { h := h, roles := { a := some a, b := some b } }
  | .vgath h a _ => some { h := h, roles := { a := some a } }
  | .vscat h a _ => some { h := h, roles := { a := some a } }
  | .vcb h _ => some { h := h }
  | .vclaim h a => some { h := h, roles := { a := some a } }
  | .vtry h a => some { h := h, roles := { a := some a } }
  | .vyield h a => some { h := h, roles := { a := some a } }
  | .talloc h d a _ => some { h := h, roles := { a := some a, d := some d }, bad := fun _ => needGZ d }
  | .tfree h _ => some { h := h }
  | .tinfo h d b _ => some { h := h, roles := { b := some b, d := some d }, bad := fun _ => needGZ d,
                             ill := fun s => s.illegalBy h b fun v => decide (2 ≤ v.toNat) }
  | .tzero h a b _ => some { h := h, roles := { a := some a, b := some b } }
  | .tempty h a b _ => some { h := h, roles := { a := some a, b := some b } }
  | .rpush h d _ => some { h := h, roles := { d := some d }, bad := fun _ => needGZ d }
  | .rpop h d _ => some { h := h, roles := { d := some d }, bad := fun _ => needGZ d }
  | .rwait h a b _ => some { h := h, roles := { a := some a, b := some b },
                             ill := fun s => s.illegalBy h a fun v => decide (3 ≤ v.toNat) }
  | .rstate h d _ => some { h := h, roles := { d := some d }, bad := fun _ => needGZ d }
  | .mmaBf16 h a b _ => some { h := h, roles := { a := some a, b := some b } }
  | .mmaI8 h a b _ => some { h := h, roles := { a := some a, b := some b } }
  | .mmaCb h a b _ => some { h := h, roles := { a := some a, b := some b } }
  | .mmaSp h a b _ => some { h := h, roles := { a := some a, b := some b } }
  | .azero h _ => some { h := h }
  | .aload h a _ => some { h := h, roles := { a := some a } }
  | .astore h a _ => some { h := h, roles := { a := some a } }
  | .adrain h a b _ => some { h := h, roles := { a := some a, b := some b } }
  | .kload h a b v => some { h := h, roles := if v.src then { a := some a, b := some b } else { a := some a } }
  | .cpy h d a _ => some { h := h, roles := { a := some a, d := some d } }
  | .cpyMma h d a _ => some { h := h, roles := { a := some a, d := some d } }
  | .cpyr h d a _ => some { h := h, roles := { a := some a, d := some d } }
  | .cpystat h d a => some { h := h, roles := { a := some a, d := some d } }
  | .spawn h d a _ => some { h := h, roles := { a := some a, d := some d } }
  | .job h d a b _ => some { h := h, roles := { a := some a, b := some b, d := some d } }
  | .launch h d a _ => some { h := h, roles := { a := some a, d := some d } }
  | .send h a b _ _ _ _ => some { h := h, roles := { a := some a, b := some b } }
  | .replay h a => some { h := h, roles := { a := some a }, priv := systemOnly }
  | .mpop h d a => some { h := h, roles := { a := some a, d := some d }, priv := systemOnly }
  | .roam h d a => some { h := h, roles := { a := some a, d := some d } }
  | .migrate h d a => some { h := h, roles := { a := some a, d := some d } }
  | .nmcast h a b _ _ _ => some { h := h, roles := { a := some a, b := some b } }
  | .nred h a _ _ _ _ _ => some { h := h, roles := { a := some a } }
  | .nbComb h a _ => some { h := h, roles := { a := some a } }
  | .nbFill h a _ => some { h := h, roles := { a := some a } }
  | .nbRed h a _ => some { h := h, roles := { a := some a } }
  | .nbStat h d a => some { h := h, roles := { a := some a, d := some d } }
  | .xcfg h d a b => some { h := h, roles := { a := some a, b := some b, d := some d } }
  | .xroute h d a b _ => some { h := h, roles := { a := some a, b := some b, d := some d } }
  | .xcombine h d a b _ => some { h := h, roles := { a := some a, b := some b, d := some d } }
  | .xstat h d a b => some { h := h, roles := { a := some a, b := some b, d := some d } }
  | .xresume h d a => some { h := h, roles := { a := some a, d := some d } }
  | .xabort h d a => some { h := h, roles := { a := some a, d := some d } }
  | _ => none

/-- The code of the operand for which the instruction raises RESERVED_OPERAND, if any (10 R205, R208). -/
def Frame.reserved (f : Frame) (s : State) : Option Nat := firstSome [reservedCode f.h f.roles s.cx.roam, f.bad s.cx]

/-- Its predicate holds (10 R207). -/
def Frame.holds (f : Frame) (s : State) : Prop := s.cx.getP f.h.pred.toNat ≠ f.h.pneg

/-- The code of a link operand that leads off the die, if any (07 R149). -/
def Frame.offDie (f : Frame) (s : State) : Option Nat :=
  firstSome [f.roles.a.bind (noLink s.me), f.roles.b.bind (noLink s.me), f.roles.ds.bind (noLink s.me),
    f.roles.d.bind (noLink s.me)]

/-- The operand values with which an instruction runs, and the state in which it then acts: values kept from an earlier
issue, or the sources popped and a destination entry reserved now (10 R206). -/
def Frame.operands (f : Frame) (s : State) : Vals × State :=
  match s.cx.latch with
  | some l => (⟨l.a, l.b, l.d⟩, s)
  | none =>
    let r := takeOperands f.h f.roles s
    (⟨r.1.a, r.1.b, r.1.d⟩, r.2.updCx fun t => { t with latch := some r.1 })

/-- The instruction runs in `s`, on the operand values `v`, in the state `s1` in which its operands have been taken: no
operand is reserved or makes it illegal, its predicate holds, its mode may run it, no link leads off the die, and no queue lacks. -/
def Runs (i : Instr) (s : State) (v : Vals) (s1 : State) : Prop :=
  ∃ f, frameOf i = some f ∧ f.ill s = false ∧ f.reserved s = none ∧ f.holds s ∧ f.priv s.cx = false ∧ f.offDie s = none ∧
    (s.cx.latch = none → f.roles.lacks s = none) ∧ f.operands s = (v, s1)

/-! Frames. -/

/-- Nothing of the cube outside its cores changes, but the steps that become due and the count of numbers given. -/
def SameCube (s t : State) : Prop := t = { s with cores := t.cores, events := t.events, tick := t.tick }

/-- Nothing of a core changes but its contexts, queues and queue waiters. -/
def SameCore (k k' : Core) : Prop := k' = { k with ctxs := k'.ctxs, queues := k'.queues, qwait := k'.qwait }

/-- Nothing that a program can read of a context changes but its g registers and PC: what an instruction holds while it
waits is the model's own. -/
def SameCtx (t t' : Ctx) : Prop :=
  t' = { t with g := t'.g, pc := t'.pc, latch := t'.latch, got := t'.got, wait := t'.wait, waitAt := t'.waitAt, cw := t'.cw,
                noticed := t'.noticed, migrations := t'.migrations, pend := t'.pend }

/-- An instruction has written `x` to D and goes on at `pc`: D holds the value (a register, or the queue entry reserved for it),
and the frame holds: every other register, every other context, and all of the cube outside the queues is as it was. -/
def WrittenAt (pc : Word) (d : Opd) (x : Word) (s s1 t : State) : Prop :=
  t.cx.pc = pc ∧
  (∀ k : BitVec 4, t.cx.getG k.toNat = if d = .g k then x else s.cx.getG k.toNat) ∧
  (∀ c q nm r, dstQueue s.me d = some (c, q, nm) → (s1.cx.latch.bind fun l => l.rid) = some r →
    (t.core c).queue q = ((s1.core c).queue q).map fun e => if e.rid = r then { e with val := some x } else e) ∧
  SameCtx s.cx t.cx ∧ (∀ c y, (c, y) ≠ s.cur → t.ctx c y = s.ctx c y) ∧ (∀ c, SameCore (s.core c) (t.core c)) ∧
  SameCube s t

/-- The same for an instruction that goes on behind itself. -/
def ResultWritten (i : Instr) (d : Opd) (x : Word) (s s1 t : State) : Prop :=
  WrittenAt (s.cx.pc + BitVec.ofNat 64 i.bytes) d x s s1 t

/-- Nothing of a context changes but its PC, and what it holds while an instruction waits. -/
def GoesOn (i : Instr) (t t' : Ctx) : Prop :=
  t' = { t with pc := t.pc + BitVec.ofNat 64 i.bytes, latch := none, got := [], wait := .none, waitAt := 0, cw := none,
                noticed := none, migrations := 0, pend := none }

/-! Control transfers (11 Table 11.4). -/

/-- The address to which a control transfer goes, with its operand values in context `t`; none for an instruction that is no
transfer, or a `loop` whose count reaches 0. -/
def targetOf (i : Instr) (t : Ctx) (v : Vals) : Option Word :=
  match i with
  | .br _ off => some (t.pc + 4#64 * off.signExtend 64)
  | .callOffset _ off => some (t.pc + 4#64 * off.signExtend 64)
  | .loop _ _ off => if v.d = 1#64 then none else some (t.pc + 4#64 * off.signExtend 64)
  | .jmp _ _ => some v.a
  | .callReg _ _ _ => some v.a
  | .ret _ _ => some v.a
  | _ => none

/-- The register or queue that a control transfer writes, and what it writes. -/
def linkOf (i : Instr) (t : Ctx) (v : Vals) : Opd × Word :=
  match i with
  | .callOffset _ _ => (.g 15#4, t.pc + 4#64)
  | .callReg _ d _ => (d, t.pc + BitVec.ofNat 64 i.bytes)
  | .loop _ d _ => (d, v.d - 1#64)
  | _ => (.z, 0#64)

/-- No boundary wait holds the thread back: its serial may advance and every access that races are detected on has been
answered (04 R83, R87). -/
def Passes (s : State) : Prop := s.serialClear s.me s.mx = true

/-- Every earlier access of the thread has been performed, as a release at a scope asks, or at the wider one that its last fence
gives to synchronising writes (04 R81, Table 4.3). -/
def Performed (s : State) (scope : Nat) : Prop := s.cx.released (max scope s.cx.relScope) = true

/-- Every earlier access of the thread has been performed at system scope (04 R81). -/
def Settled (s : State) : Prop := Performed s 3

/-! Loads and stores (12 R241, R242). -/

/-- A load or store: the effective address from its operand values, the width in bytes, the policy and hint; for a load the
destination and whether it extends the sign, for a store the value. -/
structure MemForm where
  ea : Vals → Word
  n : Nat
  pol : Nat
  hint : Nat
  d : Opd := .z
  sx : Bool := false

/-- The signed displacement in W1. -/
def w1Disp (x : Option MemExt) : Word := (x.map fun e => e.disp.signExtend 64).getD 0#64
/-- The hint in W2; `dflt` without it. -/
def w2Hint (x : Option MemExt) : Nat := (x.map fun e => e.hint.toNat).getD 0

/-- The loads of 12 Table 12.1. -/
def loadForm : Instr → Option MemForm
  | .ld _ w sx pol d _ b x => some
      { ea := fun v => v.a + BitVec.ofNat 64 (2 ^ w.toNat) * b.signExtend 64 + w1Disp x, n := 2 ^ w.toNat, pol := pol.toNat,
        hint := w2Hint x, d := d, sx := sx }
  | .ldx _ w sx pol d _ _ x => some
      { ea := fun v => v.a + BitVec.ofNat 64 (2 ^ w.toNat) * v.b + w1Disp x, n := 2 ^ w.toNat, pol := pol.toNat,
        hint := w2Hint x, d := d, sx := sx }
  | _ => none

/-- The stores of 12 Table 12.1; the value is `v.d`. -/
def storeForm : Instr → Option MemForm
  | .st _ w pol _ _ b x => some
      { ea := fun v => v.a + BitVec.ofNat 64 (2 ^ w.toNat) * b.signExtend 64 + w1Disp x, n := 2 ^ w.toNat, pol := pol.toNat,
        hint := w2Hint x }
  | .stx _ w pol _ _ _ x => some
      { ea := fun v => v.a + BitVec.ofNat 64 (2 ^ w.toNat) * v.b + w1Disp x, n := 2 ^ w.toNat, pol := pol.toNat,
        hint := w2Hint x }
  | _ => none

/-- The address of an access is legal: below 2^48 and a multiple of the width. -/
def MemForm.legal (m : MemForm) (v : Vals) : Prop := (m.ea v).toNat < 2 ^ 48 ∧ (m.ea v).toNat % m.n = 0

/-- The thread makes its accesses where it is: it does not roam, or is anchored (07 R165, R166). -/
def StaysHere (s : State) : Prop := s.cx.roam = false ∨ s.anchored s.me s.mx = true

/-- The value of `n` little-endian bytes as a load delivers it. -/
def loadedValue (n : Nat) (sx : Bool) (bs : List Byte) : Word :=
  if sx then (BitVec.ofNat (8 * n) (ofBytes bs)).signExtend 64 else (BitVec.ofNat (8 * n) (ofBytes bs)).zeroExtend 64

/-- Nothing of a core changes but its contexts, queues, queue waiters and near cache. -/
def SameCoreButNear (k k' : Core) : Prop :=
  k' = { k with ctxs := k'.ctxs, queues := k'.queues, qwait := k'.qwait, near := k'.near }

/-- A line is one that was there, but for its hint. -/
def KeptLine (old : List NLine) (l : NLine) : Prop := ∃ l0, l0 ∈ old ∧ l = { l0 with hint := l.hint }

/-! Atomics and counters (12 R250 to R257). -/

/-- An atomic instruction: its operation number (0 `aadd` to 7 `acas`), form and extended operands. -/
def atomicForm : Instr → Option (Nat × BitVec 2 × Opd × AOp)
  | .aadd _ form d _ _ v => some (0, form, d, v)
  | .amin _ form d _ _ v => some (1, form, d, v)
  | .amax _ form d _ _ v => some (2, form, d, v)
  | .aand _ form d _ _ v => some (3, form, d, v)
  | .aor _ form d _ _ v => some (4, form, d, v)
  | .axor _ form d _ _ v => some (5, form, d, v)
  | .aswap _ form d _ _ v => some (6, form, d, v)
  | .acas _ form d _ _ v => some (7, form, d, v)
  | _ => none

/-- The local counter `n` of the issuing thread: its group's, or the core's set 8 (07 R153). -/
def State.localCounter (s : State) (n : BitVec 4) : Word := (s.core s.me).lc (16 * s.cx.lcSet + n.toNat)

/-! System registers (11 R230). -/

/-- The bits of a word with a one in mask `m`. -/
def masked (m v : Nat) : Nat := v % 2 ^ 64 &&& m

/-- Bits [hi:lo] as a mask. -/
def bitsMask (hi lo : Nat) : Nat := 2 ^ (hi + 1) - 2 ^ lo

/-- The registers of a context or core that a write sets field by field, and the bits that it sets (07 Table 7.7, 09 Table 9.4,
16 Table 16.1, 02 Table 2.4). -/
def localRegMask : Nat → Option Nat
  | 0x001 => some (bitsMask 4 0)
  | 0x002 => some (bitsMask 15 0)
  | 0x006 => some (bitsMask 47 0)
  | 0x008 => some (bitsMask 63 0)
  | 0x009 => some (bitsMask 63 0)
  | 0x00A => some (bitsMask 63 0)
  | 0x041 => some (bitsMask 47 2)
  | 0x042 => some (bitsMask 47 0)
  | 0x043 => some (bitsMask 63 48 + 1)
  | _ => none

/-- The registers of the cube that a write sets field by field, and the bits that it sets (01 Table 1.2, 05 Tables 5.5 and 5.7,
06 Table 6.5, 08 Table 8.1, 11 Table 11.6, 17 Table 17.1). -/
def cubeRegMask : Nat → Option Nat
  | 0x080 => some (bitsMask 7 0)
  | 0x081 => some (bitsMask 51 0)
  | 0x082 => some (bitsMask 40 0)
  | 0x083 => some (bitsMask 63 0)
  | 0x088 => some (bitsMask 51 22)
  | 0x089 => some (bitsMask 31 24 + bitsMask 20 16 + bitsMask 11 8 + bitsMask 3 0)
  | 0x090 => some (bitsMask 51 12)
  | 0x092 => some (bitsMask 51 3)
  | 0x093 => some (bitsMask 63 0)
  | 0x095 => some (bitsMask 31 0)
  | 0x098 => some (bitsMask 51 12)
  | 0x09A => some (bitsMask 51 3)
  | 0x09B => some (bitsMask 63 0)
  | 0x0A0 => some (bitsMask 11 0)
  | 0x0A1 => some (bitsMask 63 56 + bitsMask 47 40 + bitsMask 31 24 + bitsMask 15 8)
  | 0x0A2 => some (bitsMask 3 0)
  | 0x0A7 => some (bitsMask 7 0)
  | 0x0A8 => some (bitsMask 16 0)
  | 0x0B2 => some (bitsMask 15 0)
  | 0x0C0 => some (bitsMask 51 12)
  | 0x0C2 => some (bitsMask 51 3)
  | 0x0C3 => some (bitsMask 63 0)
  | 0x100 => some (bitsMask 2 0)
  | 0x101 => some (bitsMask 51 28)
  | 0x102 => some (bitsMask 5 0)
  | 0x120 => some (bitsMask 23 0)
  | _ => none

/-- The fields of a context's saved state (16 Table 16.1) that trap entry writes. -/
def TrapSaved (t : Ctx) (cause : Cause) (pc status : Word) (i0 i1 i2 : Nat) : Prop :=
  t.trapCause = BitVec.ofNat 64 (256 + cause.code) ∧ t.trapPc = BitVec.ofNat 64 (pc.toNat % 2 ^ 48) ∧
  t.trapStatus = status ∧ t.info0 = BitVec.ofNat 64 i0 ∧ t.info1 = BitVec.ofNat 64 i1 ∧ t.info2 = BitVec.ofNat 64 i2

/-- Registers g0 to g15, the predicates, the masks and FPFLAGS. -/
def SameProgramRegs (t t' : Ctx) : Prop :=
  t'.g = t.g ∧ t'.preds = t.preds ∧ t'.masks = t.masks ∧ t'.flags = t.flags

/-- A thread with no boundary due has reached one (04 R76, R83): it retires at once when the serial may advance, and else stays
due and holds the thread. -/
def BoundaryReached (s t : State) : Prop :=
  s.cx.bdue = 0 →
    (Passes s → t.cx.serial = s.cx.serial + 1#16 ∧ t.cx.bdue = 0 ∧ t.cx.wait = .none) ∧
    (¬ Passes s → t.cx.serial = s.cx.serial ∧ t.cx.bdue = 1 ∧ t.cx.wait = .serial)

/-! The results of the scalar instructions, written from 11 Tables 11.1 to 11.3 and R220 to R225. -/

/-- An exact result on N = 64: wrapped to 64 bits (11 R220). -/
def wide (x : Int) : Word := BitVec.ofInt 64 x
/-- An exact result on N = 32: wrapped to 32 bits and sign-extended. -/
def narrowS (x : Int) : Word := (BitVec.ofInt 32 x).signExtend 64
/-- An exact result on N = 32: wrapped to 32 bits and zero-extended. -/
def narrowZ (x : Int) : Word := (BitVec.ofInt 32 x).zeroExtend 64
/-- The extension that EXT chooses. -/
def narrow (e : Bool) (x : Int) : Word := if e then narrowZ x else narrowS x
/-- The low half of an operand, signed and unsigned. -/
def lowS (a : Word) : Int := (a.truncate 32).toInt
def lowU (a : Word) : Int := (a.truncate 32).toNat
/-- An operand, unsigned. -/
def allU (a : Word) : Int := a.toNat
/-- Quotient and remainder of 09 R188: -1 is all ones. -/
def quotient (a b : Int) : Int := if b = 0 then -1 else a.tdiv b
def remainder (a b : Int) : Int := if b = 0 then a else a.tmod b
/-- The field of `bfx` and `bfi` (11 R223): position and clipped width. -/
def fieldPos (b : Word) : Nat := b.toNat % 64
def fieldWidth (b : Word) : Nat := min (b.toNat / 64 % 128) (64 - fieldPos b)
/-- `bfx`: the field as an integer, from its top bit when SX = 1. -/
def fieldOf (a b : Word) : Int :=
  let w := fieldWidth b
  let f : Nat := a.toNat / 2 ^ fieldPos b % 2 ^ w
  if b.getLsbD 13 = true ∧ w ≠ 0 ∧ 2 ^ (w - 1) ≤ f then (f : Int) - (2 ^ w : Nat) else f
/-- `bfi`: D with the field replaced. -/
def withField (d a b : Word) : Word :=
  BitVec.ofNat 64 (d.toNat - (d.toNat / 2 ^ fieldPos b % 2 ^ fieldWidth b) * 2 ^ fieldPos b +
    (a.toNat % 2 ^ fieldWidth b) * 2 ^ fieldPos b)
/-- The indices of a register's bits. -/
def bitIndices : List Nat := List.range 64

/-- What an instruction that computes a value writes to D, from the values of its operands (and, for `sel`, a predicate). -/
structure AluForm where
  d : Opd
  f : Ctx → Vals → Word

/-- The 64-bit forms (11 Table 11.1). -/
def alu64 : Instr → Option AluForm
  | .add _ d _ _ => some ⟨d, fun _ v => wide (v.a.toInt + v.b.toInt)⟩
  | .sub _ d _ _ => some ⟨d, fun _ v => wide (v.a.toInt - v.b.toInt)⟩
  | .mul _ d _ _ => some ⟨d, fun _ v => wide (v.a.toInt * v.b.toInt)⟩
  | .mulhI64 _ d _ _ => some ⟨d, fun _ v => wide ((v.a.toInt * v.b.toInt) / 2 ^ 64)⟩
  | .mulhN64 _ d _ _ => some ⟨d, fun _ v => wide ((allU v.a * allU v.b) / 2 ^ 64)⟩
  | .divI64 _ d _ _ => some ⟨d, fun _ v => wide (quotient v.a.toInt v.b.toInt)⟩
  | .divN64 _ d _ _ => some ⟨d, fun _ v => wide (quotient (allU v.a) (allU v.b))⟩
  | .remI64 _ d _ _ => some ⟨d, fun _ v => wide (remainder v.a.toInt v.b.toInt)⟩
  | .remN64 _ d _ _ => some ⟨d, fun _ v => wide (remainder (allU v.a) (allU v.b))⟩
  | .minI64 _ d _ _ => some ⟨d, fun _ v => wide (min v.a.toInt v.b.toInt)⟩
  | .minN64 _ d _ _ => some ⟨d, fun _ v => wide (min (allU v.a) (allU v.b))⟩
  | .maxI64 _ d _ _ => some ⟨d, fun _ v => wide (max v.a.toInt v.b.toInt)⟩
  | .maxN64 _ d _ _ => some ⟨d, fun _ v => wide (max (allU v.a) (allU v.b))⟩
  | .addsX1 _ d _ _ => some ⟨d, fun _ v => wide (v.a.toInt + v.b.toInt)⟩
  | .addsX2 _ d _ _ => some ⟨d, fun _ v => wide (v.a.toInt + v.b.toInt * 2)⟩
  | .addsX4 _ d _ _ => some ⟨d, fun _ v => wide (v.a.toInt + v.b.toInt * 4)⟩
  | .addsX8 _ d _ _ => some ⟨d, fun _ v => wide (v.a.toInt + v.b.toInt * 8)⟩
  | _ => none

/-- The 32-bit forms (11 Table 11.1). -/
def alu32 : Instr → Option AluForm
  | .add32 _ e d _ _ => some ⟨d, fun _ v => narrow e (lowS v.a + lowS v.b)⟩
  | .sub32 _ e d _ _ => some ⟨d, fun _ v => narrow e (lowS v.a - lowS v.b)⟩
  | .mul32 _ e d _ _ => some ⟨d, fun _ v => narrow e (lowS v.a * lowS v.b)⟩
  | .mulhI32 _ d _ _ => some ⟨d, fun _ v => narrowS ((lowS v.a * lowS v.b) / 2 ^ 32)⟩
  | .mulhN32 _ d _ _ => some ⟨d, fun _ v => narrowZ ((lowU v.a * lowU v.b) / 2 ^ 32)⟩
  | .divI32 _ d _ _ => some ⟨d, fun _ v => narrowS (quotient (lowS v.a) (lowS v.b))⟩
  | .divN32 _ d _ _ => some ⟨d, fun _ v => narrowZ (quotient (lowU v.a) (lowU v.b))⟩
  | .remI32 _ d _ _ => some ⟨d, fun _ v => narrowS (remainder (lowS v.a) (lowS v.b))⟩
  | .remN32 _ d _ _ => some ⟨d, fun _ v => narrowZ (remainder (lowU v.a) (lowU v.b))⟩
  | .minI32 _ d _ _ => some ⟨d, fun _ v => narrowS (min (lowS v.a) (lowS v.b))⟩
  | .minN32 _ d _ _ => some ⟨d, fun _ v => narrowZ (min (lowU v.a) (lowU v.b))⟩
  | .maxI32 _ d _ _ => some ⟨d, fun _ v => narrowS (max (lowS v.a) (lowS v.b))⟩
  | .maxN32 _ d _ _ => some ⟨d, fun _ v => narrowZ (max (lowU v.a) (lowU v.b))⟩
  | _ => none

/-- Logic, shifts, bit fields, moves and select (11 Table 11.3), and the immediate forms (Table 11.2). -/
def aluLogic : Instr → Option AluForm
  | .and _ d _ _ => some ⟨d, fun _ v => v.a &&& v.b⟩
  | .or _ d _ _ => some ⟨d, fun _ v => v.a ||| v.b⟩
  | .xor _ d _ _ => some ⟨d, fun _ v => v.a ^^^ v.b⟩
  | .andn _ d _ _ => some ⟨d, fun _ v => v.a &&& ~~~v.b⟩
  | .shl _ d _ _ => some ⟨d, fun _ v => wide (allU v.a * 2 ^ (v.b.toNat % 64))⟩
  | .shr _ d _ _ => some ⟨d, fun _ v => wide (allU v.a / 2 ^ (v.b.toNat % 64))⟩
  | .sha _ d _ _ => some ⟨d, fun _ v => wide (v.a.toInt / 2 ^ (v.b.toNat % 64))⟩
  | .rol _ d _ _ => some ⟨d, fun _ v =>
      (v.a <<< (v.b.toNat % 64)) ||| (v.a >>> (64 - v.b.toNat % 64))⟩
  | .clz _ d _ => some ⟨d, fun _ v => BitVec.ofNat 64 ((bitIndices.find? fun k => v.a.getMsbD k).getD 64)⟩
  | .ctz _ d _ => some ⟨d, fun _ v => BitVec.ofNat 64 ((bitIndices.find? fun k => v.a.getLsbD k).getD 64)⟩
  | .popc _ d _ => some ⟨d, fun _ v => BitVec.ofNat 64 (bitIndices.filter fun k => v.a.getLsbD k).length⟩
  | .mov _ d _ => some ⟨d, fun _ v => v.a⟩
  | .bfx _ d _ _ => some ⟨d, fun _ v => wide (fieldOf v.a v.b)⟩
  | .bfi _ d _ _ => some ⟨d, fun _ v => withField v.d v.a v.b⟩
  | .sextI8 _ d _ => some ⟨d, fun _ v => (v.a.truncate 8).signExtend 64⟩
  | .sextI16 _ d _ => some ⟨d, fun _ v => (v.a.truncate 16).signExtend 64⟩
  | .sextI32 _ d _ => some ⟨d, fun _ v => (v.a.truncate 32).signExtend 64⟩
  | .zextN8 _ d _ => some ⟨d, fun _ v => (v.a.truncate 8).zeroExtend 64⟩
  | .zextN16 _ d _ => some ⟨d, fun _ v => (v.a.truncate 16).zeroExtend 64⟩
  | .zextN32 _ d _ => some ⟨d, fun _ v => (v.a.truncate 32).zeroExtend 64⟩
  | .sel _ c d _ _ => some ⟨d, fun t v => if t.getP c.toNat = true then v.a else v.b⟩
  | .addImm _ d _ imm => some ⟨d, fun _ v => wide (v.a.toInt + imm.toInt)⟩
  | .andImm _ d _ imm => some ⟨d, fun _ v => v.a &&& imm.signExtend 64⟩
  | .orImm _ d _ imm => some ⟨d, fun _ v => v.a ||| imm.signExtend 64⟩
  | .xorImm _ d _ imm => some ⟨d, fun _ v => v.a ^^^ imm.signExtend 64⟩
  | .shlImm _ d _ imm => some ⟨d, fun _ v => wide (allU v.a * 2 ^ imm.toNat)⟩
  | .shrImm _ d _ imm => some ⟨d, fun _ v => wide (allU v.a / 2 ^ imm.toNat)⟩
  | .shaImm _ d _ imm => some ⟨d, fun _ v => wide (v.a.toInt / 2 ^ imm.toNat)⟩
  | .li _ d imm => some ⟨d, fun _ _ => wide imm.toInt⟩
  | _ => none

/-- COND (10 Table 10.8): eq, ne, lt, le, gt, ge. -/
def condHolds (c : BitVec 3) (a b : Int) : Bool :=
  match c.toNat with
  | 0 => a == b | 1 => a != b | 2 => decide (a < b) | 3 => decide (a ≤ b) | 4 => decide (a > b) | _ => decide (a ≥ b)

/-- The low 8, 16, 32 or 64 bits of an operand. -/
def lowBits (w : BitVec 2) (a : Word) : BitVec (8 * 2 ^ w.toNat) := a.truncate _

/-- A comparison or an operation on predicates has written a predicate, c0 excepted, raised flags, and gone on behind itself: no
other register, no memory and no queue but those its sources pop has changed (11 R224, R225). -/
def PredWritten (i : Instr) (d : BitVec 3) (x : Bool) (fl : BitVec 5) (s s1 t : State) : Prop :=
  (∀ k : BitVec 3, t.cx.getP k.toNat = if k = 0#3 then true else if k = d then x else s.cx.getP k.toNat) ∧
  t.cx.flags = s.cx.flags ||| fl ∧
  GoesOn i { s.cx with preds := t.cx.preds, flags := t.cx.flags } t.cx ∧
  (∀ c y, (c, y) ≠ s.cur → t.ctx c y = s.ctx c y) ∧ (∀ c, SameCore (s.core c) (t.core c)) ∧
  t.events = s1.events ∧ SameCube s t

/-! Vector instructions (13 R265 to R283). -/

/-- Nothing of a core changes but its contexts, queues, queue waiters and groups. -/
def SameCoreButGroups (k k' : Core) : Prop :=
  k' = { k with ctxs := k'.ctxs, queues := k'.queues, qwait := k'.qwait, groups := k'.groups }

/-- Nothing of a context changes but what it waits for. -/
def SameButWait (t t' : Ctx) : Prop := t' = { t with wait := t'.wait }

/-- The registers lie in blocks that the thread's group holds and no waiting `vyield` gives up, and no other thread's load still
writes one (13 R267 to R269). -/
def State.regsReady (s : State) (regs : List Nat) : Prop :=
  ∀ r, r ∈ regs → s.mayName r = true ∧ s.pending (fun x => x == r) = false

/-- The integer that an element's bits stand for (09 R186). -/
def elemInt (ty : Ty) (x : Nat) : Int :=
  let v := BitVec.ofNat (8 * ty.width) x
  if ty.isSigned then v.toInt else v.toNat

/-- The least and the greatest integer of a type. -/
def leastInt (ty : Ty) : Int := if ty.isSigned then -(2 ^ (8 * ty.width - 1) : Nat) else 0
def greatestInt (ty : Ty) : Int :=
  if ty.isSigned then (2 ^ (8 * ty.width - 1) : Nat) - 1 else (2 ^ (8 * ty.width) : Nat) - 1

/-- An exact integer result as an element: saturated or wrapped (13 R271). -/
def intElem (ty : Ty) (sat : Bool) (x : Int) : Nat :=
  (BitVec.ofInt (8 * ty.width) (if sat then max (leastInt ty) (min (greatestInt ty) x) else x)).toNat

/-- A vector instruction that writes elements of one register: the register, the width of its elements, the registers that it
names, what must hold beside, the flags raised before any element, and what each element receives, none where it is left. -/
structure VecForm where
  d : Nat
  w : Nat
  regs : List Nat
  el : State → Vals → Nat → Option (Nat × FFlags)
  ok : State → Prop := fun _ => True
  pre : Vals → FFlags := fun _ => 0#5

/-- Element `j` of a vector register. -/
def State.velem (s : State) (r w j : Nat) : Nat := elemOf w (s.vreg r) j

/-- Is element `j` enabled under a mask (13 R265)? -/
def State.on (s : State) (msk : BitVec 3) (j : Nat) : Bool := (s.cx.getM msk.toNat).getLsbD j

/-- An operation on up to three sources, over the enabled elements. -/
def vOver (v : VOp) (x3 x4 : Bool) (f : Nat → Nat → Nat → Nat × FFlags) : VecForm :=
  let w := v.ty.width
  { d := v.x1.toNat, w := w
    regs := [v.x1.toNat, v.x2.toNat] ++ (if x3 && !v.bs then [v.x3.toNat] else []) ++ (if x4 then [v.x4.toNat] else [])
    el := fun s x j => if s.on v.msk j then
        some (f (s.velem v.x2.toNat w j) (if v.bs then x.a.toNat % 2 ^ (8 * w) else s.velem v.x3.toNat w j)
          (s.velem v.x4.toNat w j))
      else none }

/-- Exact integers, or the float operation of the type. -/
def vArithEl (v : VOp) (fi : Int → Int → Int → Int) (ff : Nat → Nat → Nat → Nat × FFlags) (a b c : Nat) : Nat × FFlags :=
  if v.ty.isFloat then ff a b c
  else (intElem v.ty v.sat (fi (elemInt v.ty a) (elemInt v.ty b) (elemInt v.ty c)), 0#5)

/-- The top bit of an element. -/
def topBit (ty : Ty) : Nat := 2 ^ (8 * ty.width - 1)

/-- The vector instructions that write elements (13 Table 13.3, R271 to R277, R282). -/
def vecForm : Instr → Option VecForm
  | .vadd _ _ v => some (vOver v true false (vArithEl v (fun a b _ => a + b) fun a b _ => addF (fracW v.ty) v.rnd.toNat a b))
  | .vsub _ _ v => some (vOver v true false (vArithEl v (fun a b _ => a - b) fun a b _ => subF (fracW v.ty) v.rnd.toNat a b))
  | .vmul _ _ v => some (vOver v true false (vArithEl v (fun a b _ => a * b) fun a b _ => mulF (fracW v.ty) v.rnd.toNat a b))
  | .vmin _ _ v => some (vOver v true false (vArithEl v (fun a b _ => min a b) fun a b _ => minmaxF (fracW v.ty) false a b))
  | .vmax _ _ v => some (vOver v true false (vArithEl v (fun a b _ => max a b) fun a b _ => minmaxF (fracW v.ty) true a b))
  | .vfma _ _ v => some (vOver v true true (vArithEl v (fun a b c => a * b + c) (fmaF (fracW v.ty) v.rnd.toNat)))
  | .vabs _ v => some (vOver v false false (vArithEl v (fun a _ _ => if a < 0 then -a else a) fun a _ _ =>
      (a % topBit v.ty, 0#5)))
  | .vneg _ v => some (vOver v false false (vArithEl v (fun a _ _ => -a) fun a _ _ => (a ^^^ topBit v.ty, 0#5)))
  | .vrcp _ v => some (vOver v false false fun a _ _ => rcpF (fracW v.ty) v.rnd.toNat a)
  | .vrsqrt _ v => some (vOver v false false fun a _ _ => rsqrtF (fracW v.ty) v.rnd.toNat a)
  | .vexp2 _ v => some (vOver v false false fun a _ _ => exp2F (fracW v.ty) v.rnd.toNat a)
  | .vlog2 _ v => some (vOver v false false fun a _ _ => log2F (fracW v.ty) v.rnd.toNat a)
  | .vand _ _ v => some (vOver v true false fun a b _ => (a &&& b, 0#5))
  | .vor _ _ v => some (vOver v true false fun a b _ => (a ||| b, 0#5))
  | .vxor _ _ v => some (vOver v true false fun a b _ => (a ^^^ b, 0#5))
  | .vshl _ _ v => some (vOver v true false fun a b _ => (a * 2 ^ b % 2 ^ (8 * v.ty.width), 0#5))
  | .vshr _ _ v => some (vOver v true false fun a b _ => (a / 2 ^ b, 0#5))
  | .vsha _ _ v => some (vOver v true false fun a b _ =>
      ((BitVec.ofInt (8 * v.ty.width) ((BitVec.ofNat (8 * v.ty.width) a).toInt / 2 ^ b)).toNat, 0#5))
  | .vsel _ _ v =>
    let w := v.ty.width
    let f := vOver v true false fun _ _ _ => (0, 0#5)
    let el (s : State) (x : Vals) (j : Nat) : Nat × FFlags :=
      (if (s.cx.getM v.x4.toNat).getLsbD j then s.velem v.x2.toNat w j
        else if v.bs then x.a.toNat % 2 ^ (8 * w) else s.velem v.x3.toNat w j, 0#5)
    some { f with el := fun s x j => if s.on v.msk j then some (el s x j) else none }
  | .vperm _ v => some
      { d := v.x1.toNat, w := v.ty.width, regs := [v.x1.toNat, v.x2.toNat, v.x3.toNat]
        el := fun s _ j => if s.on v.msk j then
          some (s.velem v.x2.toNat v.ty.width (s.velem v.x3.toNat v.ty.width j % (256 / v.ty.width)), 0#5) else none }
  | .vbcast _ _ v => some
      { d := v.x1.toNat, w := v.ty.width, regs := [v.x1.toNat]
        el := fun s x j => if s.on v.msk j then some (x.a.toNat, 0#5) else none }
  | .vins _ _ _ v => some
      { d := v.x1.toNat, w := v.ty.width, regs := [v.x1.toNat]
        el := fun _ x j => if j = x.b.toNat % (256 / v.ty.width) then some (x.a.toNat, 0#5) else none }
  | .vcvt _ ty v =>
    let es := 256 / v.ty.width
    let ed := 256 / ty.width
    some
      { d := v.x1.toNat, w := ty.width, regs := [v.x1.toNat, v.x2.toNat]
        el := fun s _ j =>
          if s.on v.msk j ∧ (if es < ed then j / es = v.part.toNat else True) then
            some (convert v.ty ty v.rnd.toNat v.sat (s.velem v.x2.toNat v.ty.width
              (if es < ed then j % es else if ed < es then v.part.toNat * ed + j else j)))
          else none }
  | .vcb _ v => some
      { d := v.x1.toNat, w := v.ty.width, regs := [v.x1.toNat, v.x2.toNat]
        ok := fun s => s.pending (fun r => r == 64 + v.x3.toNat) = false ∧
          (v.ty = .i8 → ((s.core s.me).codebook v.x3.toNat).1 = true)
        el := fun s _ j => if s.on v.msk j then
          let cb := (s.core s.me).codebook v.x3.toNat
          let n := v.part.toNat * (256 / v.ty.width) + j
          let e := nthD cb.2 ((s.velem v.x2.toNat 1 (n / 2)) / (if n % 2 = 0 then 1 else 16) % 16) 0
          some (if v.ty = .bf16 ∧ cb.1 = true then (intToF 7 0 (BitVec.ofNat 8 e).toInt).1 else e, 0#5) else none }
  | .vscan _ _ v =>
    let w := v.ty.width
    let before (s : State) (j : Nat) : List (Nat × Nat) :=
      ((countUp 0 (j + 1)).filter fun k => s.on v.msk k).map fun k => (k, s.velem v.x2.toNat w k)
    some
      { d := v.x1.toNat, w := w, regs := [v.x1.toNat, v.x2.toNat]
        pre := fun x => if v.ty.isFloat then (toF32 v.ty (x.a.toNat % 2 ^ (8 * w))).2 else 0#5
        el := fun s x j => if s.on v.msk j then
          (if v.ty.isFloat then
            ((scanFloat v.ty v.rnd.toNat (toF32 v.ty (x.a.toNat % 2 ^ (8 * w))).1 (before s j)).getLast?).map fun e => e.2
          else some (intElem v.ty v.sat (((before s j).map fun e => elemInt v.ty e.2).foldl (· + ·)
            (elemInt v.ty x.a.toNat)), 0#5)) else none }
  | _ => none

/-- The flags of an instruction's elements, over those raised before. -/
def raisedFlags (f : Nat → Option (Nat × FFlags)) (n : Nat) (fl : FFlags) : FFlags :=
  (countUp 0 n).foldl (fun a j => match f j with
    | some y => a ||| y.2
    | none => a) fl

/-- Elements of register `d` of the issuing thread's group have been written, and the frame: the other elements and registers,
every other group, context and core, and all of memory are as they were. -/
def ElementsWritten (i : Instr) (d w : Nat) (f : Nat → Option (Nat × FFlags)) (pre : FFlags) (s t : State) : Prop :=
  (∀ j, j < 256 / w → t.velem d w j = match f j with
    | some y => y.1 % 2 ^ (8 * w)
    | none => s.velem d w j) ∧
  (∀ r, r ≠ d → t.vreg r = s.vreg r) ∧
  GoesOn i { s.cx with flags := raisedFlags f (256 / w) (s.cx.flags ||| pre) } t.cx ∧
  (∀ g, g ≠ s.cx.group → (t.core s.me).group g = (s.core s.me).group g) ∧
  (∀ c, c ≠ s.me → (t.core c).groups = (s.core c).groups) ∧
  (∀ c y, (c, y) ≠ s.cur → t.ctx c y = s.ctx c y) ∧ (∀ c, SameCoreButGroups (s.core c) (t.core c)) ∧ SameCube s t

/-- The values that the enabled elements of a register stand for, lowest index first. -/
def State.onInts (s : State) (v : VOp) : List Int :=
  ((countUp 0 (256 / v.ty.width)).filter fun j => s.on v.msk j).map fun j => elemInt v.ty (s.velem v.x2.toNat v.ty.width j)

/-- A reduction: D, its source, and the element that it returns with its flags (13 R275). -/
def redForm : Instr → Option (Opd × VOp × (State → Nat × FFlags))
  | .vredAdd _ d v => some (d, v, fun s => if v.ty.isFloat then redFloat 0 v.ty v.rnd.toNat (leaves v s)
      else (intElem v.ty v.sat ((s.onInts v).foldl (· + ·) 0), 0#5))
  | .vredMax _ d v => some (d, v, fun s => if v.ty.isFloat then redFloat 1 v.ty v.rnd.toNat (leaves v s)
      else (intElem v.ty v.sat ((s.onInts v).foldl max (leastInt v.ty)), 0#5))
  | .vredMin _ d v => some (d, v, fun s => if v.ty.isFloat then redFloat 2 v.ty v.rnd.toNat (leaves v s)
      else (intElem v.ty v.sat ((s.onInts v).foldl min (greatestInt v.ty)), 0#5))
  | _ => none
where
  leaves (v : VOp) (s : State) : List (Option Nat) := (countUp 0 (256 / v.ty.width)).map fun j =>
    if s.on v.msk j then some (s.velem v.x2.toNat v.ty.width j) else none

/-- An element as an instruction returns it in D: extended by its type. -/
def elemReturned (ty : Ty) (x : Nat) : Word :=
  let v := BitVec.ofNat (8 * ty.width) x
  if ty.isSigned then v.signExtend 64 else v.zeroExtend 64

/-- The comparison that `vcmp` makes of two elements. -/
def elemCompare (ty : Ty) (cond a b : Nat) : Bool × FFlags :=
  if ty.isFloat then cmpF (fracW ty) cond a b else (condHolds (BitVec.ofNat 3 cond) (elemInt ty a) (elemInt ty b), 0#5)

/-- The row bytes that an access of `vld.t` or `vst.t` touches: element `j` lies from byte b + j * w on (13 R278). -/
def tileElem (w b y : Nat) : Option (Nat × Nat) := if b ≤ y then some ((y - b) / w, (y - b) % w) else none

/-- A vector load or store of memory: the register, whether it stores, element width, policy, the registers named and the
effective address of element `j` (13 R279, R280). -/
structure VMemForm where
  r : Nat
  store : Bool
  v : VOp
  regs : List Nat
  ea : State → Vals → Nat → Word

/-- An index element, sign-extended and scaled. -/
def State.vindex (s : State) (v : VOp) (j : Nat) : Word :=
  (BitVec.ofNat (8 * v.ty.width) (s.velem v.x3.toNat v.ty.width j)).signExtend 64 * BitVec.ofNat 64 (2 ^ v.sc.toNat)

def vmemForm : Instr → Option VMemForm
  | .vld _ _ _ v => some ⟨v.x1.toNat, false, v, [v.x1.toNat], fun _ x j => x.a + x.b + BitVec.ofNat 64 (j * v.ty.width)⟩
  | .vst _ _ _ v => some ⟨v.x1.toNat, true, v, [v.x1.toNat], fun _ x j => x.a + x.b + BitVec.ofNat 64 (j * v.ty.width)⟩
  | .vgath _ _ v => some ⟨v.x1.toNat, false, v, [v.x1.toNat, v.x3.toNat], fun s x j => x.a + s.vindex v j⟩
  | .vscat _ _ v => some ⟨v.x1.toNat, true, v, [v.x1.toNat, v.x3.toNat], fun s x j => x.a + s.vindex v j⟩
  | _ => none

/-! Tiles, rings and the sequencer (02 R39 to R51; 08 R179; 12 R259 to R263; 13 R284 to R288). -/

/-- The state in which step `e` of a unit is performed. -/
def State.due (s : State) (e : Ev) : State := { s with ev := some e }

/-- `w` bytes of row `p` of a tile from byte `b`, little-endian; those outside the shape read 0. -/
def State.tileVal (s : State) (c : Nat) (t : Tile) (p b w : Nat) : Nat := ofBytes (s.tileRead t c p b w)

/-- Every byte of the row that lies in the shape has arrived. -/
def State.rowFull (s : State) (c : Nat) (t : Tile) (p : Nat) : Prop :=
  ∀ b, t.inside p b = true → s.peckFull t c p b = true

/-- The place of a byte of a tile: its core and its address among that core's bytes of tiles. -/
def Tile.byteAt (t : Tile) (c p b : Nat) : Nat × Nat := ((t.place c p b).1, (t.place c p b).2 * 128 + b % 128)

/-- Bytes of tiles outside one row are as they were. -/
def OtherRowsKept (c : Nat) (e : Tile) (p : Nat) (s t : State) : Prop :=
  ∀ d key, (∀ b, e.inside p b = true → (d, key) ≠ e.byteAt c p b) →
    memGet (t.core d).pecks key = memGet (s.core d).pecks key

/-- Nothing of a core changes but its contexts, queues, queue waiters and tiles. -/
def SameCoreButTiles (k k' : Core) : Prop :=
  k' = { k with ctxs := k'.ctxs, queues := k'.queues, qwait := k'.qwait, tiles := k'.tiles, pecks := k'.pecks,
                fulls := k'.fulls, ringWaits := k'.ringWaits }

/-- The frame of an instruction that returns `x` in D, a register or z, and may change tiles. -/
def TileResult (i : Instr) (d : Opd) (x : Word) (s t : State) : Prop :=
  t.cx.pc = s.cx.pc + BitVec.ofNat 64 i.bytes ∧
  (∀ k : BitVec 4, t.cx.getG k.toNat = if d = .g k then x else s.cx.getG k.toNat) ∧ SameCtx s.cx t.cx ∧
  (∀ c y, (c, y) ≠ s.cur → t.ctx c y = s.ctx c y) ∧ (∀ c, SameCoreButTiles (s.core c) (t.core c)) ∧ SameCube s t

/-- An instruction that the sequencer runs, with the values of its rows: `va` the first row, `vb` the second value. -/
def seqForm (x : Vals) (e : Tile) : Instr → Option (Nat × Nat)
  | .mmaBf16 .. => some (x.a.toNat, x.b.toNat)
  | .mmaI8 .. => some (x.a.toNat, x.b.toNat)
  | .mmaCb .. => some (x.a.toNat, x.b.toNat)
  | .mmaSp .. => some (x.a.toNat, x.b.toNat)
  | .aload .. => some (x.a.toNat, 0)
  | .astore .. => some (x.a.toNat, 0)
  | .adrain .. => some (x.a.toNat, x.b.toNat)
  | .tzero .. => some (x.a.toNat, min x.b.toNat (e.total - x.a.toNat))
  | _ => none

/-- The step that the sequencer made was one of `n`: it goes on to the next, or the instruction retires. -/
def SeqAdvanced (s : State) (c : Nat) (q : SeqSt) (n : Nat) (t : State) : Prop :=
  (q.step + 1 < n → ∃ q', (t.core c).seq = some q' ∧ q'.i = q.i ∧ q'.ctx = q.ctx ∧ q'.step = q.step + 1 ∧
    (t.ctx c q.ctx).pc = (s.ctx c q.ctx).pc) ∧
  (q.step + 1 = n → (t.core c).seq = none ∧ (t.ctx c q.ctx).wait = .none ∧
    (t.ctx c q.ctx).pc = (s.ctx c q.ctx).pc + BitVec.ofNat 64 q.i.bytes) ∧
  (t.ctx c q.ctx).g = (s.ctx c q.ctx).g ∧ (t.ctx c q.ctx).preds = (s.ctx c q.ctx).preds

/-- Word (i, j) of an accumulator. -/
def Core.accWord (k : Core) (a i j : Nat) : BitVec 32 := memGet k.acc (a * 4096 + 64 * i + j)

/-- Words of accumulators outside one are as they were. -/
def OtherAccsKept (a : Nat) (k k' : Core) : Prop :=
  ∀ key, key < a * 4096 ∨ (a + 1) * 4096 ≤ key → memGet k'.acc key = memGet k.acc key

/-! The operands of an `mma` (13 R285; 09 R190 to R195). -/

/-- Element (i, k) of group `g` of A, in physical row `p`; none where a sparse mask has 0. -/
def State.matA (s : State) (c : Nat) (v : MOp) (fn : Nat) (t : Tile) (p g k : Nat) : Option Nat :=
  let e := v.widthA fn
  if fn = 3 then
    let mask := s.tileVal c t p (6 * g) 6
    if bitOf mask k then some (s.tileVal c t p (64 + (g * v.stored + popCount mask k) * e) e) else none
  else some (s.tileVal c t p ((48 * g + k) * e) e)

/-- Element `j` of physical row `p` of B, a code expanded by the codebook. -/
def State.matB (s : State) (c : Nat) (v : MOp) (fn : Nat) (kind : Bool) (kb : List Nat) (t : Tile) (p j : Nat) : Nat :=
  let e := v.widthA fn
  if v.isCb then
    let x := nthD kb (s.tileVal c t p (j / 2) 1 / (if j % 2 = 0 then 1 else 16) % 16) 0
    if kind then x % 256 else x
  else s.tileVal c t p (j * e) e

/-- The number that an element of B stands for in a float form: an entry of KIND 1 is an exact integer. -/
def numB (v : MOp) (kind : Bool) (x : Nat) : XR :=
  if v.isCb && kind then
    let n := (BitVec.ofNat 8 x).toInt
    .fin (decide (n < 0)) n.natAbs 0
  else decF 7 x

/-- A scale: 1 when it is not named. -/
def State.matScale (s : State) (c : Nat) (named : Bool) (t : Tile) (p b : Nat) : XR :=
  if named then decF 7 (s.tileVal c t p b 2) else .fin false 1 0

/-- Word (i, j) of the accumulator after group `q.step` (09 R194, R195): `ra` and `rb` are the physical rows of the operands. -/
def State.mmaWord (s : State) (c : Nat) (fn : Nat) (v : MOp) (q : SeqSt) (ta tb ts : Tile) (ra rb : Nat → Nat) (i j : Nat) :
    BitVec 32 :=
  let old := (s.core c).accWord v.x1.toNat i j
  let a (k : Nat) : Option Nat := s.matA c v fn ta (ra i) q.step k
  let b (k : Nat) : Nat := s.matB c v fn q.kbKind q.kb tb (rb k) j
  if v.isInt fn then
    let sum := (countUp 0 48).foldl (fun x k => match a k with
      | some y => x + (BitVec.ofNat 8 y).toInt * (BitVec.ofNat 8 (b k)).toInt
      | none => x) old.toInt
    BitVec.ofInt 32 (max (-(2 ^ 31)) (min (2 ^ 31 - 1) sum))
  else
    BitVec.ofNat 32 (mmaElem old.toNat ((countUp 0 48).filterMap fun k => (a k).map fun x => (decF 7 x, numB v q.kbKind (b k)))
      (s.matScale c v.sav ts v.srow.toNat (2 * i)) (s.matScale c v.sbv ts v.srow.toNat (128 + 2 * j)) 0#5).1

/-- An accumulator word of a tile row's element (13 Table 13.7). -/
def accOfElem (ty : Ty) (x : Nat) : BitVec 32 :=
  match ty with
  | .i8 => (BitVec.ofNat 8 x).signExtend 32
  | .bf16 => BitVec.ofNat 32 (bf16ToF32 x).1
  | _ => BitVec.ofNat 32 x

/-- A tile row's element of an accumulator word. -/
def elemOfAcc (ty : Ty) (rnd : Nat) (w : BitVec 32) : Nat :=
  match ty with
  | .i8 => (BitVec.ofInt 8 (max (-128) (min 127 w.toInt))).toNat
  | .bf16 => (f32ToBf16 rnd w.toNat).1
  | _ => w.toNat

/-- Bytes of a row's element. -/
def rowElem (ty : Ty) : Nat := accBytes ty / 64

/-! Commands of the engines and messages (14 R290 to R316; 15 R317 to R332). -/

/-- A command without flags, or one whose thread is at a boundary with its earlier accesses performed (14 R291). -/
def GateOpen (x : Option EFlags) (s : State) : Prop :=
  ∀ f, x = some f → f.acq = true ∨ f.rel = true → Passes s ∧ Performed s f.scope.toNat

/-- A legal descriptor address, and the bytes that the instruction has read of its descriptor. -/
def Described (a : Word) (align : Nat) (bs : List (List Byte)) (s : State) : Prop :=
  a.toNat < 2 ^ 48 ∧ a.toNat % align = 0 ∧ s.cx.got = bs

/-- The flags of a command: acquire, release and scope. -/
def flagA (x : Option EFlags) : Bool := (x.map fun f => f.acq).getD false
def flagR (x : Option EFlags) : Bool := (x.map fun f => f.rel).getD false
def flagScope (x : Option EFlags) : Nat := (x.map fun f => f.scope.toNat).getD 0

/-- A command has left for a cube: its thread waits for the answer, and the message `m` of its number is sent (14 R293). -/
def commandLeft (s1 : State) (i : Instr) (d : Opd) (va : Nat) (x : Option EFlags) (cube : Nat) (m : Nat → Msg) : State :=
  let r := s1.sendCmd i.bytes d va x
  r.2.post cube s1.meAgent r.1 (m r.1)

/-- The descriptor's words with W1's space replaced by the thread's (14 R305). -/
def taskWords (s : State) (ws : List Nat) : List Nat :=
  setNth ws 1 (s.cx.space % 2 ^ 16 * 2 ^ 48 + nthD ws 1 0 % 2 ^ 48)

/-- A copy instruction: its destination, descriptor operand, flags and kind: 0 `cpy`, 1 `cpy.mma`, 2 `cpyr`. -/
def copyForm : Instr → Option (Opd × Option EFlags × Nat)
  | .cpy _ d _ x => some (d, x, 0)
  | .cpyMma _ d _ x => some (d, x, 1)
  | .cpyr _ d _ x => some (d, x, 2)
  | _ => none

/-- The streamer of a copy: of the vault that is home of the first source byte, else of the issuing core's own vault; `pa` is
the translation of a virtual source (14 R296). -/
def State.copyTarget (s : State) (ws : List Nat) (pa : Option Nat) : Nat × Nat :=
  match srcKind ws with
  | 0 => match pa.bind s.layout with
    | some p => (p.cube, vaultOf (p.local_ / 128))
    | none => (s.cubeId, ownVault s.me)
  | 2 => (bitsOf (nthD ws 1 0) 63 52, vaultOf (bitsOf (nthD ws 1 0) 36 0 / 128))
  | _ => (s.cubeId, ownVault s.me)

/-- A near-bank command: its flags and kind. -/
def nbForm : Instr → Option (Option EFlags × Nat)
  | .nbComb _ _ x => some (x, 0)
  | .nbFill _ _ x => some (x, 1)
  | .nbRed _ _ x => some (x, 2)
  | _ => none

/-- An instruction has returned `x` in register D, or nowhere; the rest of its context that a program can read, every other
context and all bytes of the local tiers are as they were. -/
def Returned (i : Instr) (d : Opd) (x : Word) (s t : State) : Prop :=
  t.cx.pc = s.cx.pc + BitVec.ofNat 64 i.bytes ∧
  (∀ k : BitVec 4, t.cx.getG k.toNat = if d = .g k then x else s.cx.getG k.toNat) ∧ SameCtx s.cx t.cx ∧
  (∀ c y, (c, y) ≠ s.cur → t.ctx c y = s.ctx c y) ∧ t.dense = s.dense ∧ t.slices = s.slices

/-- A run of an expert engine: its flags and whether it combines. -/
def runForm : Instr → Option (Opd × Option EFlags × Bool)
  | .xroute _ d _ _ x => some (d, x, false)
  | .xcombine _ d _ _ x => some (d, x, true)
  | _ => none

/-- A suspension or resumption: its destination and operation, 0 light, 1 full, 2 resume. -/
def suspendForm : Instr → Option (Opd × Nat)
  | .suspendL _ d _ => some (d, 0)
  | .suspendF _ d _ _ => some (d, 1)
  | .resume _ d _ _ => some (d, 2)
  | _ => none

/-- The words of a 32-byte descriptor read as four answers. -/
def gotWords (s : State) (k : Nat) : Nat := nthD (wordsOf ((s.cx.got.take 4).foldr (· ++ ·) []) 4) k 0

/-! Steps of the units: what a home, a core, a port or a service of the cube does with what reaches it. -/

/-- The place of a request at its home `l`: its lease is young enough, and this cube is its home under the version it bears
(01 R18; 05 R108). -/
def Placed (s : State) (r : Req) (l : Nat) : Prop :=
  (r.exp = none ∨ r.age + (s.leaseNow - r.at_) ≤ 1024) ∧
  (∃ p, s.placeOf r = some p ∧ p.cube = s.cubeId ∧ p.local_ = l ∧ p.held = false ∧ (r.direct = true ∨ verDiff p.ver r.ver = 0))

/-- A request of this cube that its home takes up at once at local offset `l`: it is placed there, and no stub, wait, near-bank
command or burst holds its line back (04 R92; 08 R181). -/
def Accepted (s : State) (r : Req) (l : Nat) : Prop :=
  r.e2e = none ∧ Placed s r l ∧
  tblGet s.stubs (l / 128) 0 = 0 ∧ s.holdOf (l / 128) = none ∧
  (∀ b, b ∈ s.nbBusy → ¬ (b.2.1 ≤ l / 128 ∧ l / 128 ≤ b.2.2)) ∧ s.behindBurst (l / 128) = false

/-- The registrations of a line's words in `mask` by others than the agent of a request (03 Table 3.7). -/
def State.othersOf (s : State) (r : Req) (line mask : Nat) : List RegWord :=
  ((s.slice (sliceOf line)).regsOf line).filter fun g => bitOf mask g.word && !g.isOf r.holder

/-- `n` bytes at local offset `l` stay within one line of a vault that has not failed. -/
def Writable (s : State) (l n : Nat) : Prop :=
  l % 128 + n ≤ 128 ∧ s.vaultFailed (l / 128) = false ∧ (s.homeLine (l / 128)).length = 128

/-- The line of local offset `l` now holds `d` at `l`, and its other bytes as before. -/
def HomeWritten (s t : State) (l : Nat) (d : List Byte) : Prop :=
  t.homeLine (l / 128) = overlay (s.homeLine (l / 128)) (l % 128) d

/-- Word `w` of a line, little-endian. -/
def wordOfLine (d : List Byte) (w : Nat) : Nat := ofBytes ((d.drop (w * 4)).take 4)

/-- The answer of a load with a line's bytes. -/
def lineAns (r : Req) (mask : Nat) (d : List Byte) : Ans := { r.ans .ok with mask := mask, data := d }

/-- A bundle carrying flit `f` has left port `p`, after what had left it before. -/
def Sent (s t : State) (p : Nat) (f : Flit) : Prop :=
  ∃ b, f ∈ b.flits ∧ b ∈ (t.port p).line ∧ ∀ x, x ∈ (s.port p).line → x ∈ (t.port p).line

/-- A port with nothing to send. -/
def Port.quiet (q : Port) : Prop := q.outq = [] ∧ q.resend = []

end Sys2Proof.Machine
end

