-- ==== Sys2Proof/Certificates/Slice0/Obligations.lean ====
section
/-! DEFINITION. The statements about the model, family by family. -/

open Sys2Proof Sys2Proof.Machine

/-! The scalar instructions (11 R220 to R225). -/

/-- 11 R220, Table 11.1: every arithmetic form completes with its exact result in D, wrapped to 64 bits, or to 32 bits and
extended, and changes nothing else. -/
def Obligations.ArithmeticResult : Prop :=
  ∀ (i : Instr) (r : AluForm) (s s1 : State) (v : Vals), alu64 i = some r ∨ alu32 i = some r → Runs i s v s1 →
    ∃ t, exec i s = .next t ∧ ResultWritten i r.d (r.f s.cx v) s s1 t

/-- 11 R221 to R223: logic, shifts, counts, bit fields, moves, extensions, `sel` and the immediate forms. -/
def Obligations.LogicAndImmediateResult : Prop :=
  ∀ (i : Instr) (r : AluForm) (s s1 : State) (v : Vals), aluLogic i = some r → Runs i s v s1 →
    ∃ t, exec i s = .next t ∧ ResultWritten i r.d (r.f s.cx v) s s1 t

/-- 11 R224, R225: `cmp` signed, unsigned and float writes whether its condition holds of the low bits of A and B, `pand`, `por`,
`pxor` and `pnot` the logic of their predicates, to the predicate that D names, c0 excepted; a float comparison raises its flags.
Each completes, and changes no other register, no memory and no queue but those its sources pop. -/
def Obligations.PredicateResult : Prop :=
  ∀ (h : Hd) (w : BitVec 2) (bf : Bool) (c d p q : BitVec 3) (a b : Opd) (s s1 : State) (v : Vals),
    (Runs (.cmpSigned h w c d a b) s v s1 → ∃ t, exec (.cmpSigned h w c d a b) s = .next t ∧
      PredWritten (.cmpSigned h w c d a b) d (condHolds c (lowBits w v.a).toInt (lowBits w v.b).toInt) 0#5 s s1 t) ∧
    (Runs (.cmpUnsigned h w c d a b) s v s1 → ∃ t, exec (.cmpUnsigned h w c d a b) s = .next t ∧
      PredWritten (.cmpUnsigned h w c d a b) d (condHolds c (lowBits w v.a).toNat (lowBits w v.b).toNat) 0#5 s s1 t) ∧
    (Runs (.cmpFloat h bf c d a b) s v s1 → ∃ t, exec (.cmpFloat h bf c d a b) s = .next t ∧
      PredWritten (.cmpFloat h bf c d a b) d (cmpFl bf c.toNat v.a v.b).1 (cmpFl bf c.toNat v.a v.b).2 s s1 t) ∧
    (Runs (.pand h d p q) s v s1 → ∃ t, exec (.pand h d p q) s = .next t ∧
      PredWritten (.pand h d p q) d (s.cx.getP p.toNat && s.cx.getP q.toNat) 0#5 s s1 t) ∧
    (Runs (.por h d p q) s v s1 → ∃ t, exec (.por h d p q) s = .next t ∧
      PredWritten (.por h d p q) d (s.cx.getP p.toNat || s.cx.getP q.toNat) 0#5 s s1 t) ∧
    (Runs (.pxor h d p q) s v s1 → ∃ t, exec (.pxor h d p q) s = .next t ∧
      PredWritten (.pxor h d p q) d (s.cx.getP p.toNat != s.cx.getP q.toNat) 0#5 s s1 t) ∧
    (Runs (.pnot h d p) s v s1 → ∃ t, exec (.pnot h d p) s = .next t ∧
      PredWritten (.pnot h d p) d (!s.cx.getP p.toNat) 0#5 s s1 t)

/-! Control transfers, `yield`, `nop` and the queue tests (11 R226 to R229). -/

/-- 11 R226, Table 11.4: a transfer to an aligned target below 2^48 writes its link or count and goes on there; a `loop`
whose count reaches 0 writes it and goes on behind itself; they change nothing else. -/
def Obligations.TransferGoesToTarget : Prop :=
  ∀ (i : Instr) (s s1 : State) (v : Vals), Runs i s v s1 →
    (∀ x : Word, targetOf i s.cx v = some x → x.toNat % 4 = 0 → x.toNat < 2 ^ 48 →
      ∃ t, exec i s = .next t ∧ WrittenAt x (linkOf i s.cx v).1 (linkOf i s.cx v).2 s s1 t) ∧
    (∀ h d off, i = .loop h d off → v.d = 1#64 →
      ∃ t, exec i s = .next t ∧ WrittenAt (s.cx.pc + 4#64) d 0#64 s s1 t)

/-- 11 R228: `nop` changes only the program counter; `yield` also gives way at the core's next pick. -/
def Obligations.NopAndYield : Prop :=
  ∀ (h : Hd) (s s1 : State) (v : Vals),
    (Runs (.nop h) s v s1 → ∃ t, exec (.nop h) s = .next t ∧ GoesOn (.nop h) s.cx t.cx ∧
      (∀ c y, (c, y) ≠ s.cur → t.ctx c y = s.ctx c y) ∧ (∀ c, (t.core c).queues = (s.core c).queues) ∧
      t.events = s1.events ∧ (∀ c, SameCore (s.core c) (t.core c)) ∧ SameCube s t) ∧
    (Runs (.yield h) s v s1 → ∃ t, exec (.yield h) s = .next t ∧ GoesOn (.yield h) { s.cx with yielded := true } t.cx ∧
      (∀ c y, (c, y) ≠ s.cur → t.ctx c y = s.ctx c y) ∧ (∀ c, (t.core c).queues = (s.core c).queues) ∧
      t.events = s1.events ∧ (∀ c, SameCore (s.core c) (t.core c)) ∧ SameCube s t)

/-- 11 R229: `qtry` pops a readable entry into D, and without one copies B; `qcount` counts the readable entries and the places
free on the writing side; `qpeek` that no other thread waits before reads the oldest readable entry without popping it. -/
def Obligations.QueueTestsReadTheQueue : Prop :=
  ∀ (h : Hd) (k : BitVec 4) (a b : Opd) (q : Nat) (s s1 : State) (v : Vals), srcQueue a = some q → noLink s.me a = none →
    (Runs (.qtry h (.g k) a b) s v s1 → ∃ t, exec (.qtry h (.g k) a b) s = .next t ∧
      t.cx.pc = s.cx.pc + BitVec.ofNat 64 (Instr.qtry h (.g k) a b).bytes ∧
      (∀ e x r, (s1.core s.me).queue q = ⟨e, some x⟩ :: r → t.cx.getG k.toNat = x ∧ (t.core s.me).queue q = r) ∧
      (readable ((s1.core s.me).queue q) = [] → t.cx.getG k.toNat = v.b ∧ t.events = s1.events ∧
        (t.core s.me).queue q = (s1.core s.me).queue q) ∧
      (∀ j, j ≠ k → t.cx.getG j.toNat = s.cx.getG j.toNat) ∧ SameCtx s.cx t.cx ∧ SameCube s t) ∧
    (Runs (.qcount h (.g k) a) s v s1 → ∃ t, exec (.qcount h (.g k) a) s = .next t ∧
      ResultWritten (.qcount h (.g k) a) (.g k) (BitVec.ofNat 64 ((readable ((s.core s.me).queue q)).length +
        16 * (match dstQueue s.me a with
          | some (c, q', _) => queueCap q' - ((s.core c).queue q').length
          | none => 0))) s s1 t) ∧
    (∀ x r, Runs (.qpeek h (.g k) a) s v s1 → (∀ w, w ∈ (s.core s.me).qwait → w.1 = q → w.2 = s.mx) →
      readable ((s.core s.me).queue q) = x :: r →
      ∃ t, exec (.qpeek h (.g k) a) s = .next t ∧ (t.core s.me).queue q = (s.core s.me).queue q ∧
        ResultWritten (.qpeek h (.g k) a) (.g k) x s s1 t)

/-! Loads, stores, fences and maintenance (12 R241 to R249). -/

/-- 12 R242, 03 R60: a load that the near cache serves puts the bytes of the line at its effective address, extended, into D,
and changes no byte of any near-cache line. A store that it serves writes its bytes into the line at its effective address and
marks their words dirty; every other byte of every near-cache line, every register and everything outside the core is as it
was. -/
def Obligations.LoadAndStoreHitLineBytes : Prop :=
  (∀ (i : Instr) (m : MemForm) (s s1 : State) (v : Vals) (l : NLine), loadForm i = some m → Runs i s v s1 → m.legal v →
     StaysHere s1 → s1.plan (m.ea v).toNat m.n m.pol false true = .hit →
     (s1.core s.me).nearLine s.cx.space ((m.ea v).toNat / 128) = some l →
     ∃ t, exec i s = .next t ∧ t.cx.pc = s.cx.pc + BitVec.ofNat 64 i.bytes ∧
       (∀ k : BitVec 4, t.cx.getG k.toNat =
         if m.d = .g k then loadedValue m.n m.sx ((l.data.drop ((m.ea v).toNat % 128)).take m.n)
         else s.cx.getG k.toNat) ∧
       SameCtx s.cx t.cx ∧ (∀ c y, (c, y) ≠ s.cur → t.ctx c y = s.ctx c y) ∧
       (∀ c, SameCoreButNear (s.core c) (t.core c) ∧ ∀ l', l' ∈ (t.core c).near → KeptLine (s.core c).near l') ∧
       SameCube s t) ∧
  (∀ (i : Instr) (m : MemForm) (s s1 : State) (v : Vals) (l : NLine), storeForm i = some m → Runs i s v s1 → m.legal v →
     StaysHere s1 → s1.plan (m.ea v).toNat m.n m.pol true true = .hit →
     (s1.core s.me).nearLine s.cx.space ((m.ea v).toNat / 128) = some l →
     ∃ t, exec i s = .next t ∧ GoesOn i s.cx t.cx ∧
       (∃ l', (t.core s.me).nearLine s.cx.space ((m.ea v).toNat / 128) = some l' ∧
         l'.data = overlay l.data ((m.ea v).toNat % 128) (toBytes v.d.toNat m.n) ∧ l'.v = l.v ∧ l'.o = l.o ∧
         l'.d = l.d ||| maskBV (wordMask (m.ea v).toNat m.n)) ∧
       (∀ l', l' ∈ (t.core s.me).near → (l'.space, l'.vline) ≠ (s.cx.space, (m.ea v).toNat / 128) →
         KeptLine (s.core s.me).near l') ∧
       (∀ c y, (c, y) ≠ s.cur → t.ctx c y = s.ctx c y) ∧ (∀ c, SameCoreButNear (s.core c) (t.core c)) ∧
       (∀ c, c ≠ s.me → (t.core c).near = (s.core c).near) ∧ SameCube s t)

/-- 12 R242, R244: a load or store that the near cache does not serve leaves its core as one request for its effective address,
and the thread goes on behind it when the answer has come. Sending a request has its section look its page up, the thread's first
free tag names the request and the instruction, and no register, no memory and no other core changes. -/
def Obligations.AccessLeavesAsRequest : Prop :=
  (∀ (i : Instr) (m : MemForm) (s s1 : State) (v : Vals) (ck miss : Bool), Runs i s v s1 → m.legal v → StaysHere s1 →
     (loadForm i = some m → s1.plan (m.ea v).toNat m.n m.pol false true = .request ck miss →
       exec i s = .next (s1.sendTagged i.bytes
         { s1.threadReq (m.ea v).toNat (.load m.n m.pol m.hint) with
             words := wordMask (m.ea v).toNat m.n, readCk := ck, miss := miss }
         (valueTag m.d (s1.cx.latch.bind fun l => l.rid) m.n m.sx (m.ea v).toNat))) ∧
     (storeForm i = some m → s1.plan (m.ea v).toNat m.n m.pol true true = .request ck miss →
       exec i s = .next (s1.sendTagged i.bytes
         { s1.threadReq (m.ea v).toNat (.store m.pol m.hint (toBytes v.d.toNat m.n)) with
             words := wordMask (m.ea v).toNat m.n, writeCk := ck, miss := miss }
         (ackTag (m.ea v).toNat)))) ∧
  (∀ (s : State) (n : Nat) (r : Req) (g : Tag),
     let t := s.sendTagged n r g
     let r1 := { r with room := s.cx.room, id := s.tick }
     t.events = s.events ++ [.sectionLookup r1] ∧
       t.outs = s.outs ++ [{ id := s.tick, who := r.who, req := r1, purp := .tag }] ∧
       t.cx.pc = s.cx.pc + BitVec.ofNat 64 n ∧
       t.cx.tags = tblSet s.cx.tags s.cx.freeTag
         { g with id := s.tick, pc := s.cx.pc, latch := s.cx.latch, back := some (s.cx.preds, s.cx.flags) } ∧
       t.cx = { s.cx with pc := t.cx.pc, tags := t.cx.tags, latch := none, got := [], wait := .none, migrations := 0,
                          noticed := none } ∧
       (∀ c y, (c, y) ≠ s.cur → t.ctx c y = s.ctx c y) ∧
       t = { s with cores := t.cores, events := t.events, outs := t.outs, tick := s.tick + 1 })

/-- 11 R227, 12 R242, R245: a misaligned transfer target raises MISALIGNED, an aligned one at or above 2^48 ACCESS_ERROR with
the target as INFO0, at the transferring instruction, before any link is written or count changes; so a load or store raises
ACCESS_ERROR at or above 2^48 and else MISALIGNED, with the address as INFO0, before any access is made. -/
def Obligations.BadAddressAndTargetTrap : Prop :=
  (∀ (i : Instr) (s s1 : State) (v : Vals) (x : Word), targetOf i s.cx v = some x → Runs i s v s1 →
     (x.toNat % 4 ≠ 0 → exec i s = .next (s1.trap .misaligned x.toNat 0 0)) ∧
     (x.toNat % 4 = 0 → 2 ^ 48 ≤ x.toNat → exec i s = .next (s1.trap .accessError x.toNat 0 0))) ∧
  (∀ (i : Instr) (m : MemForm) (s s1 : State) (v : Vals), (loadForm i = some m ∨ storeForm i = some m) → Runs i s v s1 →
     (2 ^ 48 ≤ (m.ea v).toNat → exec i s = .next (s1.trap .accessError (m.ea v).toNat 0 0)) ∧
     ((m.ea v).toNat < 2 ^ 48 → (m.ea v).toNat % m.n ≠ 0 → exec i s = .next (s1.trap .misaligned (m.ea v).toNat 0 0)))

/-- 04 R81, Table 4.3, 12 R246: a fence whose conditions hold is a boundary of regions, the kinds with acquire meaning at a
scope above core leave no word of the near cache valid but the owned ones, and those with release meaning give their scope to the
synchronising writes up to the next fence; one with release meaning whose thread still has a request outstanding waits. -/
def Obligations.FenceCompletesOrWaits : Prop :=
  ∀ (h : Hd) (scope : BitVec 2) (i : Instr) (s s1 : State) (v : Vals), Runs i s v s1 → Passes s →
    i = .fenceAcq h scope ∨ i = .fenceRel h scope ∨ i = .fenceAr h scope ∨ i = .fenceSc h scope →
    ((i ≠ .fenceAcq h scope → s.cx.released scope.toNat = true) →
      (i = .fenceSc h scope → s.cx.engOut = 0 ∧ s.cx.nbPend = 0) →
      ∃ t, exec i s = .next t ∧
        GoesOn i { s.cx with serial := s.cx.serial + 1#16,
                             relScope := if i = .fenceAcq h scope then 0 else scope.toNat } t.cx ∧
        (t.core s.me).near = (if i = .fenceRel h scope ∨ scope = 0#2 then (s.core s.me).near
          else (s.core s.me).near.map fun l => { l with v := l.v &&& l.o }) ∧
        (∀ c y, (c, y) ≠ s.cur → t.ctx c y = s.ctx c y) ∧ (∀ c, c ≠ s.me → (t.core c).near = (s.core c).near) ∧
        SameCube s t) ∧
    (i ≠ .fenceAcq h scope → s.cx.released scope.toNat = false → exec i s = .next (s1.block .acks))

/-- 12 R247, R249: `clean`, `flush`, `inval`, `ownrel` and `pref` of no byte change only the PC. Each of them but `pref` first
sends the owned words of the first near-cache line of its range that has any to home, through the write-back buffer, and keeps
them as copies, once per issue until no word of the range is owned; then `ownrel` and `inval` retire: `inval` leaves no line
of the range in the near cache and keeps every other, `ownrel` changes no line. 12 R248, R249: `clean`, `flush` and `pref` go
through the pages of their range in rising order, one piece per issue: `clean` and `flush` send one request for the home part
of the piece (`flush` with its first piece drops the lines of the range from the near cache), `pref` its translation and, but
with hint `byp`, a fill of every line of the piece that the near cache lacks. Behind the last piece each retires as soon as
every request has been sent. 11 R235: `ifence` of a thread whose earlier accesses have been performed drops every line of its
core's instruction cache, has what is being fetched for the core not kept there, and changes nothing else. -/
def Obligations.CacheMaintenance : Prop :=
  (∀ (h : Hd) (hint : BitVec 2) (a b : Opd) (s s1 : State) (v : Vals), v.a.toNat + v.b.toNat ≤ 2 ^ 48 → s.cx.got = [] →
     let inRange (l : NLine) : Prop := l.space = s.cx.space ∧ v.a.toNat / 128 ≤ l.vline ∧
       l.vline ≤ (v.a.toNat + v.b.toNat - 1) / 128
     (∀ i, i = .clean h a b ∨ i = .flush h a b ∨ i = .inval h a b ∨ i = .ownrel h a b ∨ i = .pref h hint a b →
       Runs i s v s1 → v.b = 0#64 → ∃ t, exec i s = .next t ∧ GoesOn i s.cx t.cx ∧
         (∀ c, SameCore (s.core c) (t.core c)) ∧ SameCube s t) ∧
     (∀ i l p r, i = .clean h a b ∨ i = .flush h a b ∨ i = .inval h a b ∨ i = .ownrel h a b → Runs i s v s1 → v.b ≠ 0#64 →
       (s.core s.me).near = p ++ l :: r → (∀ x, x ∈ p → inRange x → x.o = 0#32) → inRange l → l.o ≠ 0#32 →
       (s.core s.me).wbuf.length < 8 →
       ∃ t, exec i s = .next t ∧ (t.core s.me).wbuf = (s.core s.me).wbuf ++ [l] ∧
         (t.core s.me).near = (s.core s.me).near.map (fun x =>
           if x.space = l.space ∧ x.vline = l.vline then { x with o := 0#32, d := 0#32 } else x) ∧
         t.cx.maint = s.cx.maint + 1 ∧ t.cx.pc = s.cx.pc ∧ t.cx.g = s.cx.g ∧ t.cx.wait = s.cx.wait) ∧
     (v.b ≠ 0#64 → (∀ l, l ∈ (s.core s.me).near → inRange l → l.o = 0#32) →
       (Runs (.ownrel h a b) s v s1 → ∃ t, exec (.ownrel h a b) s = .next t ∧ GoesOn (.ownrel h a b) s.cx t.cx ∧
         (∀ c, SameCore (s.core c) (t.core c)) ∧ SameCube s t) ∧
       (Runs (.inval h a b) s v s1 → ∃ t, exec (.inval h a b) s = .next t ∧ GoesOn (.inval h a b) s.cx t.cx ∧
         (∀ l, l ∈ (t.core s.me).near ↔ l ∈ (s.core s.me).near ∧ ¬ inRange l) ∧
         (∀ c, SameCoreButNear (s.core c) (t.core c)) ∧ SameCube s t))) ∧
  (∀ (h : Hd) (hint : BitVec 2) (a b : Opd) (s s1 : State) (v : Vals), v.a.toNat + v.b.toNat ≤ 2 ^ 48 → v.b ≠ 0#64 →
     let n := v.a.toNat + v.b.toNat
     let k := s.cx.got.length - 1
     let lo := if k = 0 then v.a.toNat else (v.a.toNat / 4096 + k) * 4096
     let hi := min n ((v.a.toNat / 4096 + k + 1) * 4096)
     let got' := if s.cx.got = [] then [[], []] else s.cx.got ++ [[]]
     let noneOwned : Prop := ∀ l, l ∈ (s.core s.me).near → l.space = s.cx.space → v.a.toNat / 128 ≤ l.vline →
       l.vline ≤ (n - 1) / 128 → l.o = 0#32
     let piece (i : Instr) (flush : Bool) : Prop := ∃ t, exec i s = .next t ∧
       t.cx = { s1.cx with maint := s.cx.maint + 1, got := got' } ∧
       t.events = s1.events ++ [.sectionLookup
         { s1.threadReq lo (.maint flush (hi - lo)) with noInstall := true, id := s1.tick }]
     let ends (i : Instr) : Prop :=
       (s.piecesUnsent = false → ∃ t, exec i s = .next t ∧ GoesOn i s.cx t.cx ∧ (∀ c, SameCore (s.core c) (t.core c)) ∧
         SameCube s t) ∧
       (s.piecesUnsent = true → exec i s = .next (s1.block .acks))
     (Runs (.clean h a b) s v s1 → (s.cx.got ≠ [] ∨ noneOwned) → lo < n → piece (.clean h a b) false) ∧
     (Runs (.flush h a b) s v s1 → (s.cx.got ≠ [] ∨ noneOwned) → lo < n → piece (.flush h a b) true) ∧
     (Runs (.pref h hint a b) s v s1 → lo < n → ∃ t, exec (.pref h hint a b) s = .next t ∧
       t.cx = { s1.cx with got := got' } ∧ (t.core s.me).near = (s.core s.me).near ∧
       (∃ fills, t.events = s1.events ++ .sectionLookup
         { s1.threadReq lo (.translate 0) with probe := true, id := s1.tick } :: fills ∧ (hint = 3#2 → fills = [])) ∧
       (hint ≠ 3#2 → ∀ l, lo / 128 ≤ l → l ≤ (hi - 1) / 128 → (s.core s.me).nearLine s.cx.space l = none →
         ∃ id, .sectionLookup { s1.threadReq (l * 128) (.load 128 0 hint.toNat) with
           words := 2 ^ 32 - 1, probe := true, id := id } ∈ t.events)) ∧
     (n ≤ lo → (Runs (.clean h a b) s v s1 → s.cx.got ≠ [] → ends (.clean h a b)) ∧
       (Runs (.flush h a b) s v s1 → s.cx.got ≠ [] → ends (.flush h a b)) ∧
       (Runs (.pref h hint a b) s v s1 → ends (.pref h hint a b)))) ∧
  (∀ (h : Hd) (s s1 : State) (v : Vals), Runs (.ifence h) s v s1 → Performed s 1 →
     ∃ t, exec (.ifence h) s = .next t ∧ GoesOn (.ifence h) s.cx t.cx ∧ (t.core s.me).icache = [] ∧
       (∀ c, c ≠ s.me → (t.core c).icache = (s.core c).icache) ∧
       (∀ c y, (c, y) ≠ s.cur → t.ctx c y = s.ctx c y) ∧
       t.outs = s.outs.map (fun o =>
         if o.purp = .fetch ∧ o.who.core = s.gcore s.me then { o with nocache := true } else o) ∧
       (∀ c, SameCore { s.core c with icache := (t.core c).icache } (t.core c)) ∧ SameCube { s with outs := t.outs } t)

/-! Atomics and counters (12 R250 to R257). -/

/-- 12 R251: on a local counter `cadd` adds, `cfadd` adds and returns the old value, `cread` returns the value and `cpoll`
compares it with B; each is a boundary of regions and changes no other counter. 12 R251, R252, 16 Table 16.2: an add to a
local counter that would pass 2^64 - 1 raises COUNTER_OVERFLOW with the addend and the old value, and changes no counter
before the trap; a `cwait` whose local counter has reached the target, or whose target is 0, completes at once, and one whose
counter has not waits and changes no register. A `cwait` on a memory counter sends a read of it; when the value has reached
the target, or its watch has answered, it completes with acquire meaning at its scope, and else it registers a watch and
waits. -/
def Obligations.LocalCountersAndWaits : Prop :=
  (∀ (h : Hd) (scope : BitVec 2) (n : BitVec 4) (k : BitVec 4) (p : BitVec 3) (b : Opd) (s s1 : State) (v : Vals), Passes s →
     Performed s 0 →
     (Runs (.cadd h scope (.lc n) b) s v s1 → (s.localCounter n).toNat + v.b.toNat < 2 ^ 64 →
       ∃ t, exec (.cadd h scope (.lc n) b) s = .next t ∧ t.localCounter n = s.localCounter n + v.b ∧
         (∀ j, j ≠ 16 * s.cx.lcSet + n.toNat → (t.core s.me).lc j = (s.core s.me).lc j) ∧
         t.cx.pc = s.cx.pc + BitVec.ofNat 64 (Instr.cadd h scope (.lc n) b).bytes ∧ t.cx.serial = s.cx.serial + 1#16 ∧
         t.cx.g = s.cx.g ∧ SameCube s t) ∧
     (Runs (.cfadd h scope (.g k) (.lc n) b) s v s1 → (s.localCounter n).toNat + v.b.toNat < 2 ^ 64 →
       ∃ t, exec (.cfadd h scope (.g k) (.lc n) b) s = .next t ∧ t.localCounter n = s.localCounter n + v.b ∧
         t.cx.getG k.toNat = s.localCounter n ∧ (∀ j, j ≠ k.toNat → t.cx.getG j = s.cx.getG j) ∧
         t.cx.serial = s.cx.serial + 1#16 ∧ SameCube s t) ∧
     (Runs (.cread h scope (.g k) (.lc n)) s v s1 →
       ∃ t, exec (.cread h scope (.g k) (.lc n)) s = .next t ∧ t.cx.getG k.toNat = s.localCounter n ∧
         (∀ j, j ≠ k.toNat → t.cx.getG j = s.cx.getG j) ∧ (t.core s.me).lcs = (s.core s.me).lcs ∧
         t.cx.serial = s.cx.serial + 1#16 ∧ SameCube s t) ∧
     (Runs (.cpoll h scope p (.lc n) b) s v s1 →
       ∃ t, exec (.cpoll h scope p (.lc n) b) s = .next t ∧
         t.cx.getP p.toNat = (p == 0#3 || decide (v.b.toNat ≤ (s.localCounter n).toNat)) ∧
         (∀ j : BitVec 3, j ≠ p → t.cx.getP j.toNat = s.cx.getP j.toNat) ∧ t.cx.g = s.cx.g ∧
         (t.core s.me).lcs = (s.core s.me).lcs ∧ t.cx.serial = s.cx.serial + 1#16 ∧ SameCube s t)) ∧
  (∀ (h : Hd) (scope : BitVec 2) (n : BitVec 4) (b : Opd) (s s1 : State) (v : Vals), Passes s →
     (∀ (d : Opd) (i : Instr), i = .cadd h scope (.lc n) b ∨ i = .cfadd h scope d (.lc n) b → Runs i s v s1 →
       Performed s 0 → 2 ^ 64 ≤ (s.localCounter n).toNat + v.b.toNat →
       exec i s = .next (s1.trap .counterOverflow (2 ^ 63 + n.toNat) v.b.toNat (s.localCounter n).toNat)) ∧
     (∀ (lim : BitVec 5) (x : Option (BitVec 32)), Runs (.cwait h scope lim (.lc n) b x) s v s1 →
       (v.b.toNat ≤ (s.localCounter n).toNat →
         ∃ t, exec (.cwait h scope lim (.lc n) b x) s = .next t ∧
           GoesOn (.cwait h scope lim (.lc n) b x) { s.cx with serial := s.cx.serial + 1#16 } t.cx ∧
           (∀ c, SameCore (s.core c) (t.core c)) ∧ SameCube s t) ∧
       ((s.localCounter n).toNat < v.b.toNat →
         ∃ t, exec (.cwait h scope lim (.lc n) b x) s = .next t ∧ t.cx.wait = .watch 0 ∧ t.cx.pc = s.cx.pc ∧
           t.cx.g = s.cx.g ∧ (t.core s.me).lcs = (s.core s.me).lcs)) ∧
     (∀ (lim : BitVec 5) (c : BitVec 4) (x : Option (BitVec 32)), Runs (.cwait h scope lim (.mem c) b x) s v s1 →
       StaysHere s1 → (s.cx.getG c.toNat).toNat < 2 ^ 48 → (s.cx.getG c.toNat).toNat % 8 = 0 →
       let va := (s.cx.getG c.toNat).toNat
       let completes : Prop := ∃ t, exec (.cwait h scope lim (.mem c) b x) s = .next t ∧
         GoesOn (.cwait h scope lim (.mem c) b x) { s.cx with serial := s.cx.serial + 1#16 } t.cx ∧
         (t.core s.me).near = (if scope = 0#2 then (s.core s.me).near
           else (s.core s.me).near.map fun l => { l with v := l.v &&& l.o }) ∧
         (∀ c y, (c, y) ≠ s.cur → t.ctx c y = s.ctx c y) ∧ t.events = s1.events
       let asks (act : Act) (w : Nat → Wait) : Prop := ∃ t n, exec (.cwait h scope lim (.mem c) b x) s = .next t ∧
         t.events = s1.events ++ [.sectionLookup { s1.threadReq va act with words := wordMask va 8, id := n }] ∧
         t.cx.wait = w n ∧ t.cx.pc = s.cx.pc ∧ t.cx.g = s.cx.g ∧ t.cx.serial = s.cx.serial
       (s.cx.got = [] → asks (.counter 4 0) .access) ∧
       (∀ r, s.cx.got = [r] → v.b.toNat ≤ ofBytes r → completes) ∧
       (∀ r, s.cx.got = [r] → ofBytes r < v.b.toNat → asks (.watch v.b.toNat) .watch) ∧
       (2 ≤ s.cx.got.length → completes)))

/-- 12 R251, R254 to R257: an atomic of a thread whose earlier accesses have been performed leaves its core as one request that
carries operation, form, type and operand values; the plain and `.dir` forms wait for the acknowledgement, the `.ret` form for the
old value, with acquire meaning at system scope. A counter operation on a memory counter leaves as one request too: 0 an add of B,
1 a fetch-add, 3 a poll, 4 a read. -/
def Obligations.AtomicsAndMemoryCountersLeave : Prop :=
  (∀ (i : Instr) (op : Nat) (form : BitVec 2) (d : Opd) (a : AOp) (s s1 : State) (v : Vals),
     atomicForm i = some (op, form, d, a) → Runs i s v s1 → Passes s → Settled s → StaysHere s1 →
     v.a.toNat < 2 ^ 48 → v.a.toNat % atomWidth a.ty = 0 →
     exec i s = .next (s1.sendTagged i.bytes
       { s1.threadReq v.a.toNat (.atomic op form.toNat a.ty v.b.toNat v.d.toNat a.m
           (if form = 2#2 then some { core := a.core.toNat, handle := a.x1.toNat, entry := v.d.toNat, lc := a.x2.toNat }
            else none)) with words := wordMask v.a.toNat (atomWidth a.ty) }
       (if form = 1#2 then
         { valueTag d (s1.cx.latch.bind fun l => l.rid) 8 false v.a.toNat with acq := some 3, bound := true }
        else { ackTag v.a.toNat with bound := true }))) ∧
  (∀ (h : Hd) (scope : BitVec 2) (c : BitVec 4) (d b : Opd) (p : BitVec 3) (s s1 : State) (v : Vals), Passes s →
     StaysHere s1 → (s.cx.getG c.toNat).toNat < 2 ^ 48 → (s.cx.getG c.toNat).toNat % 8 = 0 →
     let va := (s.cx.getG c.toNat).toNat
     let leaves (i : Instr) (op x : Nat) (g : Tag) : Prop := exec i s = .next (s1.sendTagged i.bytes
       { s1.threadReq va (.counter op x) with words := wordMask va 8 } { g with bound := true })
     (Runs (.cadd h scope (.mem c) b) s v s1 → Performed s scope.toNat →
       leaves (.cadd h scope (.mem c) b) 0 v.b.toNat (ackTag va)) ∧
     (Runs (.cfadd h scope d (.mem c) b) s v s1 → Performed s scope.toNat →
       leaves (.cfadd h scope d (.mem c) b) 1 v.b.toNat
         { valueTag d (s1.cx.latch.bind fun l => l.rid) 8 false va with acq := some scope.toNat }) ∧
     (Runs (.cread h scope d (.mem c)) s v s1 →
       leaves (.cread h scope d (.mem c)) 4 0
         { valueTag d (s1.cx.latch.bind fun l => l.rid) 8 false va with acq := some scope.toNat }) ∧
     (Runs (.cpoll h scope p (.mem c) b) s v s1 →
       leaves (.cpoll h scope p (.mem c) b) 3 0
         { ackTag va with dkind := 1, dest := p.toNat, ge := some v.b.toNat, acq := some scope.toNat }))

/-! The frame in which every instruction issues (10 R205 to R208), traps and their return (16 R335 to R338). -/

/-- 10 R207: an instruction executes when its predicate, negated if PNEG = 1, is true, which c0 always is; otherwise it
changes no state but the program counter: no register, no queue, no memory, and no step becomes due. It still raises
RESERVED_OPERAND, and words that negate c0 encode no instruction. -/
def Obligations.PredicatedOffChangesOnlyPc : Prop :=
  (∀ (i : Instr) (f : Frame) (s : State), frameOf i = some f →
     (f.holds s ↔ (if f.h.pred = 0#3 then true else s.cx.preds.getLsbD f.h.pred.toNat) ≠ f.h.pneg) ∧
     (f.reserved s = none → ¬ f.holds s →
       ∃ t, exec i s = .next t ∧ GoesOn i s.cx t.cx ∧ (∀ c y, (c, y) ≠ s.cur → t.ctx c y = s.ctx c y) ∧
         (∀ c, t.core c = { s.core c with ctxs := (t.core c).ctxs }) ∧ t = { s with cores := t.cores }) ∧
     (∀ code, f.ill s = false → f.reserved s = some code →
       exec i s = .next (s.trap .reservedOperand (word0 i) code 0))) ∧
  (∀ (ws : List IWord) (w : IWord), ws.head? = some w → w.getLsbD 11 = true → w.extractLsb' 8 3 = 0#3 →
     ∃ e, decode ws = .error e)

/-- 10 R206: an instruction one of whose queues lacks an entry or a place blocks its own thread alone, and pops and pushes
nothing. -/
def Obligations.LackingQueueBlocks : Prop :=
  ∀ (i : Instr) (f : Frame) (s : State) (q : Nat), frameOf i = some f → f.ill s = false → f.reserved s = none →
    f.holds s → f.priv s.cx = false → f.offDie s = none → s.cx.latch = none → f.roles.lacks s = some q →
    ∃ t, exec i s = .next t ∧ t.cx = { s.cx with wait := .queue q } ∧
      (∀ c y, (c, y) ≠ s.cur → t.ctx c y = s.ctx c y) ∧ (∀ c, (t.core c).queues = (s.core c).queues) ∧
      (∀ c, SameCore (s.core c) (t.core c)) ∧ (q, s.mx) ∈ (t.core s.me).qwait ∧ t = { s with cores := t.cores }

/-- 16 R335, R337: trap entry with HELD = 0 saves cause, PC, STATUS and the information words, raises task mode to system
mode, goes on at the trap entry of the space, ends the region, and leaves the program's registers as they are. A trap while
HELD = 1 light-suspends the context, whose trap registers, PC and program registers stay, and a record with SOURCE 0, the
second cause and its INFO0 goes to the error queue. -/
def Obligations.TrapEntry : Prop :=
  (∀ (s : State) (cause : Cause) (i0 i1 i2 : Nat), s.cx.held = false → s.cx.sdLive s.leaseNow = true → s.cx.trapVa ≠ 0 →
     let t := s.trap cause i0 i1 i2
     TrapSaved t.cx cause s.cx.pc (s.statusWord s.me s.mx) i0 i1 i2 ∧
       t.cx.status = (if s.cx.mode = 0 then setFld s.cx.status 47 46 1 else s.cx.status) ∧
       t.cx.pc = BitVec.ofNat 64 s.cx.trapVa ∧ BoundaryReached s t ∧ SameProgramRegs s.cx t.cx ∧
       t.cx.cstate = s.cx.cstate ∧ SameCube s t) ∧
  (∀ (s : State) (cause : Cause) (i0 i1 i2 : Nat), s.cx.held = true →
     let t := s.trap cause i0 i1 i2
     t.cx.cstate = .suspended ∧ BoundaryReached s t ∧ SameProgramRegs s.cx t.cx ∧ t.cx.pc = s.cx.pc ∧ t.cx.status = s.cx.status ∧
       t.cx.trapCause = s.cx.trapCause ∧ t.cx.trapPc = s.cx.trapPc ∧ t.cx.trapStatus = s.cx.trapStatus ∧
       t.cx.info0 = s.cx.info0 ∧ t.cx.info1 = s.cx.info1 ∧ t.cx.info2 = s.cx.info2 ∧
       t.events = (s.abandon s.me s.mx).events ++ [.errorRecordItem
         { org := s.cx.origin, source := 0, code := cause.code, space := s.cx.space, addr := i0, hcube := s.cubeId,
           local_ := 0, ident := 0, detail := i1, queue := true }])

/-- 11 R232, 16 R338: `svc` and `brk` raise SVC and BREAK with the value of A as INFO0; `svc` saves the address of the next
instruction, `brk` its own. `eret` with a legal TRAP_PC restores the mode from TRAP_STATUS, clears HELD and goes on at
TRAP_PC; it is a boundary of regions and changes no program register. -/
def Obligations.CallsIntoTheSystemAndReturn : Prop :=
  (∀ (h : Hd) (a : Opd) (s s1 : State) (v : Vals), Passes s →
     (Runs (.svc h a) s v s1 → exec (.svc h a) s = .next
       (s1.trapAt s.me s.mx .svc (s.cx.pc + BitVec.ofNat 64 (Instr.svc h a).bytes) v.a.toNat 0 0)) ∧
     (Runs (.brk h a) s v s1 → exec (.brk h a) s = .next (s1.trapAt s.me s.mx .break_ s.cx.pc v.a.toNat 0 0))) ∧
  (∀ (h : Hd) (s s1 : State) (v : Vals), Runs (.eret h) s v s1 → Passes s → s.cx.trapPc.toNat % 4 = 0 →
     s.cx.trapPc.toNat < 2 ^ 48 →
     ∃ t, exec (.eret h) s = .next t ∧ t.cx.pc = s.cx.trapPc ∧
       t.cx.status = setFld s.cx.status 47 46 (fld s.cx.trapStatus 47 46) ∧
       t.cx.trapCause = setFld s.cx.trapCause 8 8 0 ∧ t.cx.serial = s.cx.serial + 1#16 ∧ SameProgramRegs s.cx t.cx ∧
       (∀ c y, (c, y) ≠ s.cur → t.ctx c y = s.ctx c y) ∧ t.dense = s.dense ∧ t.slices = s.slices)

/-- 11 R233, R234: `rdclk` writes LEASE_NOW, `leasewait` of a count already reached returns it at once, one whose count is
not reached waits with its wake due when it is, and `ident` writes the word that A selects. -/
def Obligations.ClockAndIdentity : Prop :=
  ∀ (h : Hd) (d a : Opd) (s s1 : State) (v : Vals),
    (Runs (.rdclk h d) s v s1 → ∃ t, exec (.rdclk h d) s = .next t ∧
      ResultWritten (.rdclk h d) d (BitVec.ofNat 64 s.leaseNow) s s1 t) ∧
    (Runs (.leasewait h d a) s v s1 → v.a.toNat ≤ s.leaseNow % 2 ^ 64 → ∃ t, exec (.leasewait h d a) s = .next t ∧
      ResultWritten (.leasewait h d a) d (BitVec.ofNat 64 s.leaseNow) s s1 t) ∧
    (Runs (.leasewait h d a) s v s1 → s.leaseNow % 2 ^ 64 < v.a.toNat →
      ∃ t, exec (.leasewait h d a) s = .next t ∧ t.cx.wait = .lease v.a.toNat ∧ t.cx.pc = s.cx.pc ∧ t.cx.g = s.cx.g ∧
        t.timers = s.timers ++
          [{ due := s.leaseNow + (v.a.toNat - s.leaseNow % 2 ^ 64), step := .leasewaitReturn s.me s.mx }]) ∧
    (Runs (.ident h d a) s v s1 → ∃ t, exec (.ident h d a) s = .next t ∧
      ResultWritten (.ident h d a) d (BitVec.ofNat 64
        (if v.a = 0#64 then s.cx.space * 2 ^ 48 + s.cx.mode * 2 ^ 46 + s.cx.stage * 2 ^ 43 + s.mx % 32 * 2 ^ 20 +
            (s.cubeId * 256 + s.me) % 2 ^ 20
         else if v.a = 1#64 then 0xCE96 * 2 ^ 16 + Config.revision.toNat
         else if v.a = 2#64 then s.cubeId % 4096 else 0)) s s1 t)

/-- 11 R230, 00 R7: `sysrd` writes the register it names, of the issuing context, its core or the cube, to D. `syswr` to a
register of the context or core sets its writable fields to the operand's and no other bit, and the register reads so at once;
to one of the cube it sends the write to the register block as the first step due, and the thread waits until it has taken
effect, which REGISTER_WRITE does; no g register, predicate or memory changes. -/
def Obligations.SystemRegisters : Prop :=
  (∀ (h : Hd) (d : Opd) (na nb : BitVec 5) (s s1 : State) (v : Vals), Runs (.sysrd h d na nb) s v s1 →
     ∃ t, exec (.sysrd h d na nb) s = .next t ∧ ResultWritten (.sysrd h d na nb) d
       (BitVec.ofNat 64 (if nb.toNat * 32 + na.toNat < 0x080 then s.readLocal s.me s.mx (nb.toNat * 32 + na.toNat)
         else s.readCube (nb.toNat * 32 + na.toNat))) s s1 t) ∧
  (∀ (h : Hd) (d : Opd) (na nb : BitVec 5) (s s1 : State) (v : Vals), Runs (.syswr h d na nb) s v s1 →
     let num := nb.toNat * 32 + na.toNat
     (∀ m, localRegMask num = some m →
       ∃ t, exec (.syswr h d na nb) s = .next t ∧ t.readLocal s.me s.mx num = masked m v.d.toNat ∧
         t.cx.pc = s.cx.pc + BitVec.ofNat 64 (Instr.syswr h d na nb).bytes ∧ t.cx.g = s.cx.g ∧ t.cx.preds = s.cx.preds ∧
         t.cx.status = s.cx.status ∧ t.dense = s.dense ∧ t.regs = s.regs) ∧
     (0x080 ≤ num → num ≠ 0x109 →
       ∃ t, exec (.syswr h d na nb) s = .next t ∧ t.events = .registerWrite num v.d.toNat :: s1.events ∧ t.cx.wait = .reg ∧
         t.cx.pc = s.cx.pc + BitVec.ofNat 64 (Instr.syswr h d na nb).bytes ∧ t.cx.g = s.cx.g ∧ t.regs = s.regs)) ∧
  (∀ (num value m : Nat) (s : State), cubeRegMask num = some m → s.ev = some (.registerWrite num value) →
     ∃ t, exec .registerWrite s = .next t ∧ t.readCube num = masked m value ∧ t.cores = s.cores ∧ t.dense = s.dense)

/-- 10 R205, R208, R209, 11 R230, R231, Table 11.7, 07 R149: a reserved operand raises RESERVED_OPERAND with word 0 and the
offending code, whether or not the predicate holds; then an instruction outside its modes PRIVILEGE; then a link operand
toward a missing neighbour NO_NEIGHBOUR with its code; each before any pop. Exactly the instructions named are closed to task
mode whatever their operands. Words that encode no instruction raise ILLEGAL_ENCODING with the words, those past a short form
as 0. -/
def Obligations.IssueTraps : Prop :=
  (∀ (i : Instr) (f : Frame) (s : State), frameOf i = some f →
     (f.ill s = true → exec i s = .next (s.illegal i)) ∧
     (f.ill s = false →
     (∀ code, f.reserved s = some code → exec i s = .next (s.trap .reservedOperand (word0 i) code 0)) ∧
     (f.reserved s = none → f.holds s → f.priv s.cx = true → exec i s = .next (s.trap .privilege (word0 i) 0 0)) ∧
     (∀ code, f.reserved s = none → f.holds s → f.priv s.cx = false → f.offDie s = some code →
       exec i s = .next (s.trap .noNeighbour code 0 0)))) ∧
  (∀ (i : Instr) (f : Frame) (t : Ctx), frameOf i = some f → t.mode = 0 →
     (∀ h d na nb, i ≠ .sysrd h d na nb ∧ i ≠ .syswr h d na nb) →
     (f.priv t = true ↔ (∃ h, i = .eret h) ∨ (∃ h d a, i = .suspendL h d a) ∨ (∃ h d a b, i = .suspendF h d a b) ∨
       (∃ h d a b, i = .resume h d a b) ∨ (∃ h d a b, i = .fltDone h d a b) ∨ (∃ h d a, i = .pmove h d a) ∨
       (∃ h d a b, i = .pzero h d a b) ∨ (∃ h a, i = .replay h a) ∨ (∃ h d a, i = .mpop h d a))) ∧
  (∀ (s : State) (w0 w1 w2 : IWord), let s1 := s.due (.illegalEncoding w0 w1 w2)
     exec .illegalEncoding s1 = .next (s1.trap .illegalEncoding w0.toNat (if w0.getLsbD 1 then w1.toNat else 0)
       (if w0.getLsbD 1 then w2.toNat else 0)))

/-! Vector instructions (13 R265 to R283). -/

/-- 13 R265, R271 to R277, R282: an element instruction whose registers lie in the group's blocks writes the enabled elements
of X1 with their results, raises their flags, and changes no other element, register, group or byte of memory. -/
def Obligations.VectorElementResult : Prop :=
  ∀ (i : Instr) (r : VecForm) (s s1 : State) (v : Vals), i.wf = true → vecForm i = some r → Runs i s v s1 →
    s1.regsReady r.regs → r.ok s1 →
    ∃ t, exec i s = .next t ∧ ElementsWritten i r.d r.w (r.el s v) (r.pre v) s t

/-- 13 R274, R275, R277: `vcmp` writes its mask with the enabled elements whose comparison holds; a reduction and `vext` return
an element, extended by its type, in D; no vector register changes. -/
def Obligations.VectorCompareAndReturn : Prop :=
  ∀ (h : Hd) (s s1 : State) (x : Vals),
    (∀ (cond : BitVec 3) (a : Opd) (v : VOp), (Instr.vcmp h cond a v).wf = true → Runs (.vcmp h cond a v) s x s1 →
      s1.regsReady ([v.x2.toNat] ++ if v.bs then [] else [v.x3.toNat]) →
      let r (j : Nat) := elemCompare v.ty cond.toNat (s.velem v.x2.toNat v.ty.width j)
        (if v.bs then x.a.toNat % 2 ^ (8 * v.ty.width) else s.velem v.x3.toNat v.ty.width j)
      ∃ t, exec (.vcmp h cond a v) s = .next t ∧
        (∀ j, j < 256 → (t.cx.getM v.x1.toNat).getLsbD j =
          if v.x1 = 0#6 then true else decide (j < 256 / v.ty.width) && s.on v.msk j && (r j).1) ∧
        (∀ m : BitVec 3, m.toNat ≠ v.x1.toNat → t.cx.getM m.toNat = s.cx.getM m.toNat) ∧
        t.cx.flags = raisedFlags (fun j => if s.on v.msk j then some (0, (r j).2) else none) (256 / v.ty.width) s.cx.flags ∧
        t.cx.pc = s.cx.pc + BitVec.ofNat 64 (Instr.vcmp h cond a v).bytes ∧ t.cx.g = s.cx.g ∧ t.cx.preds = s.cx.preds ∧
        (∀ c y, (c, y) ≠ s.cur → t.ctx c y = s.ctx c y) ∧ (∀ c, SameCore (s.core c) (t.core c)) ∧ SameCube s t) ∧
    (∀ (i : Instr) (d : Opd) (v : VOp) (f : State → Nat × FFlags), i.wf = true → redForm i = some (d, v, f) →
      Runs i s x s1 → s1.regsReady [v.x2.toNat] →
      ∃ t, exec i s = .next t ∧ ResultWritten i d (elemReturned v.ty (f s).1)
        (s.updCx fun t => { t with flags := t.flags ||| (f s).2 }) s1 t) ∧
    (∀ (d b : Opd) (v : VOp), (Instr.vext h d b v).wf = true → Runs (.vext h d b v) s x s1 → s1.regsReady [v.x2.toNat] →
      ∃ t, exec (.vext h d b v) s = .next t ∧ ResultWritten (.vext h d b v) d
        (elemReturned v.ty (s.velem v.x2.toNat v.ty.width (x.b.toNat % (256 / v.ty.width)))) s s1 t)

/-- 13 R278 to R280: `vld.t` whose bytes are FULL puts the bytes of row A of its tile into the enabled elements, and `vst.t`
writes the enabled elements there and marks their pecks FULL; bytes outside the shape read 0 and are not written. A vector
load or store of memory with one enabled element that the near cache serves moves the element's bytes between the register and
the line at its address; one with no enabled element changes nothing but the PC. -/
def Obligations.VectorTileAndMemoryAccess : Prop :=
  (∀ (h : Hd) (a b : Opd) (v : VOp) (e : Tile) (s s1 : State) (x : Vals),
     (s.core s.me).tile v.x2.toNat = some e → s1.regsReady [v.x1.toNat] →
     let w := v.ty.width
     let p := x.a.toNat
     ((Instr.vldT h a b v).wf = true → Runs (.vldT h a b v) s x s1 →
       (∀ j k, s.on v.msk j = true → j < 256 / w → k < w → e.inside p (x.b.toNat + j * w + k) = true →
         s.peckFull e s.me p (x.b.toNat + j * w + k) = true) →
       ∃ t, exec (.vldT h a b v) s = .next t ∧
         (∀ j, j < 256 / w → t.velem v.x1.toNat w j = if s.on v.msk j then
           ofBytes ((countUp (x.b.toNat + j * w) w).map fun y => s.tileByte e s.me p y) else s.velem v.x1.toNat w j) ∧
         (∀ r, r ≠ v.x1.toNat → t.vreg r = s.vreg r) ∧ GoesOn (.vldT h a b v) { s.cx with toor := t.cx.toor } t.cx ∧
         (∀ c y, (c, y) ≠ s.cur → SameButWait (s.ctx c y) (t.ctx c y)) ∧ (∀ c, SameCoreButGroups (s.core c) (t.core c)) ∧
           SameCube s t) ∧
     ((Instr.vstT h a b v).wf = true → Runs (.vstT h a b v) s x s1 →
       let stored (y : Nat) : Option Byte := match tileElem w x.b.toNat y with
         | some (j, k) => if j < 256 / w ∧ s.on v.msk j = true then some (nthD (s.vreg v.x1.toNat) (j * w + k) 0#8) else none
         | none => none
       ∃ t, exec (.vstT h a b v) s = .next t ∧
         (∀ y d, stored y = some d → e.inside p y = true →
           t.tileByte e s.me p y = d ∧ t.peckFull e s.me p y = true) ∧
         (∀ c key, (∀ y d, stored y = some d → e.inside p y = true → (c, key) ≠
             ((e.place s.me p y).1, (e.place s.me p y).2 * 128 + y % 128)) →
           memGet (t.core c).pecks key = memGet (s.core c).pecks key) ∧
         (∀ r, t.vreg r = s.vreg r) ∧ GoesOn (.vstT h a b v) { s.cx with toor := t.cx.toor } t.cx ∧
         (∀ c y, (c, y) ≠ s.cur → t.ctx c y = s.ctx c y) ∧ SameCube s t)) ∧
  (∀ (i : Instr) (m : VMemForm) (s s1 : State) (x : Vals), i.wf = true → vmemForm i = some m → Runs i s x s1 →
     s1.regsReady m.regs → s.cx.got = [] → StaysHere s1 →
     let w := m.v.ty.width
     ((∀ j, j < 256 / w → s.on m.v.msk j = false) → ∃ t, exec i s = .next t ∧ GoesOn i s.cx t.cx ∧
       (∀ r, t.vreg r = s.vreg r) ∧ (∀ c, (t.core c).near = (s.core c).near) ∧ SameCube s t) ∧
     (∀ j l, j < 256 / w → (∀ k, k < 256 / w → (s.on m.v.msk k = true ↔ k = j)) →
       let va := (m.ea s x j).toNat
       va < 2 ^ 48 → va % w = 0 → s1.plan va w m.v.part.toNat m.store true = .hit →
       (s1.core s.me).nearLine s.cx.space (va / 128) = some l → l.data.length = 128 →
       ∃ t, exec i s = .next t ∧ GoesOn i s.cx t.cx ∧ (∀ r, r ≠ m.r → t.vreg r = s.vreg r) ∧
         (∀ k, k < 256 / w → k ≠ j → t.velem m.r w k = s.velem m.r w k) ∧
         (m.store = false → t.velem m.r w j = ofBytes ((l.data.drop (va % 128)).take w) % 2 ^ (8 * w) ∧
           ∀ l', l' ∈ (t.core s.me).near → KeptLine (s.core s.me).near l') ∧
         (m.store = true → t.velem m.r w j = s.velem m.r w j ∧
           (∃ l', (t.core s.me).nearLine s.cx.space (va / 128) = some l' ∧
             l'.data = overlay l.data (va % 128) (toBytes (s.velem m.r w j) w) ∧
             l'.d = l.d ||| maskBV (wordMask va w)) ∧
           ∀ l', l' ∈ (t.core s.me).near → (l'.space, l'.vline) ≠ (s.cx.space, va / 128) →
             KeptLine (s.core s.me).near l') ∧
         SameCube s t))

/-- 07 R168, R169, 13 R269: `vclaim` joins the claims and waits; when the blocks of the first claim are free, its group gets
them, zeroed, and its thread goes on; `vtry` takes free blocks when none claims and says so in c1; `vyield` gives back the
highest blocks. -/
def Obligations.VectorPool : Prop :=
  ∀ (h : Hd) (a : Opd) (s s1 : State) (v : Vals), s.cx.gv = true → v.a ≠ 0#64 →
    let g := (s.core s.me).group s.cx.group
    (Runs (.vclaim h a) s v s1 → v.a.toNat ≤ 8 → g.blocks = 0 →
      (∀ q, q ∈ (s.core s.me).claims → q.group ≠ s.cx.group) →
      ∃ t, exec (.vclaim h a) s = .next t ∧ (t.core s.me).claims = (s.core s.me).claims ++
          [{ group := s.cx.group, n := v.a.toNat, ctx := some s.mx, bytes := (Instr.vclaim h a).bytes, job := 0 }] ∧
        t.cx.wait = .claim ∧ t.cx.pc = s.cx.pc ∧ t.events = s1.events ++ [.vclaimServe s.me] ∧
        (t.core s.me).groups = (s.core s.me).groups) ∧
    (∀ (core x : Nat) (q : Claim) (r : List Claim), (s.core core).claims = q :: r → q.n ≤ (s.core core).freeBlocks →
      q.ctx = some x → s.ev = some (.vclaimServe core) →
      ∃ t, exec .vclaimServe s = .next t ∧ (t.core core).claims = r ∧
        ((t.core core).group q.group).blocks = ((s.core core).group q.group).blocks + q.n ∧
        (t.ctx core x).wait = .none ∧ (t.ctx core x).pc = (s.ctx core x).pc + BitVec.ofNat 64 q.bytes) ∧
    (Runs (.vtry h a) s v s1 → g.blocks + v.a.toNat ≤ 8 →
      let ok := (s.core s.me).claims.isEmpty && decide (v.a.toNat ≤ (s.core s.me).freeBlocks)
      ∃ t, exec (.vtry h a) s = .next t ∧ t.cx.getP 1 = ok ∧
        ((t.core s.me).group s.cx.group).blocks = g.blocks + (if ok then v.a.toNat else 0) ∧
        t.cx.pc = s.cx.pc + BitVec.ofNat 64 (Instr.vtry h a).bytes ∧ t.cx.g = s.cx.g ∧
        (∀ c y, (c, y) ≠ s.cur → t.ctx c y = s.ctx c y) ∧ SameCube s t) ∧
    (Runs (.vyield h a) s v s1 → v.a.toNat ≤ g.blocks → g.giver = none → (∀ r, s1.pending (fun x => x == r) = false) →
      ∃ t, exec (.vyield h a) s = .next t ∧ ((t.core s.me).group s.cx.group).blocks = g.blocks - v.a.toNat ∧
        (∀ r, r < (g.blocks - v.a.toNat) * 8 → t.vreg r = s.vreg r) ∧
        GoesOn (.vyield h a) s.cx t.cx ∧ (∀ c y, (c, y) ≠ s.cur → SameButWait (s.ctx c y) (t.ctx c y)) ∧ SameCube s t)

/-! Tiles and rings (02 R39 to R51; 12 R259 to R263). -/

/-- 12 R260, R261, Table 12.6: `talloc` with a legal shape, a free handle and room installs the tile at its lowest place and
returns 0, and otherwise returns its code and installs nothing; `tfree` by the owner removes the tile and keeps every other;
`tinfo` returns the entry. -/
def Obligations.TileAllocation : Prop :=
  ∀ (h : Hd) (d a b : Opd) (n : BitVec 6) (s s1 : State) (v : Vals),
    (Runs (.talloc h d a n) s v s1 →
      let own := s.cx.tileOwner s.mx
      let e := shapeTile v.a.toNat own.1 own.2 (s.me % 16)
      let used (e : Tile) : Prop := ∃ c, c ∈ tileCores e.level s.me ∧ ((s.core c).tiles.any fun x => x.1 == n.toNat) = true
      ∃ t, exec (.talloc h d a n) s = .next t ∧
        (∀ e1, e = some e1 → ¬ used e1 → (∃ p, s.placement s.me e1 = some p) →
          TileResult (.talloc h d a n) d 0#64 s t ∧
          ∃ p, (t.core s.me).tile n.toNat = some p ∧ p = { e1 with bbank := p.bbank, bpeck := p.bpeck } ∧
            s.fitsAll s.me p = true ∧ p.bbank < 48 ∧
            ∀ peck bank, bank < 48 → s.fitsAll s.me { e1 with bpeck := peck, bbank := bank } = true → peck < 256 →
              p.bpeck < peck ∨ (p.bpeck = peck ∧ p.bbank ≤ bank)) ∧
        (∀ e1, e = some e1 → used e1 → ResultWritten (.talloc h d a n) d 1#64 s s1 t) ∧
        (e = none → ((s.core s.me).tiles.any fun x => x.1 == n.toNat) = false →
          ResultWritten (.talloc h d a n) d 2#64 s s1 t) ∧
        (∀ e1, e = some e1 → ¬ used e1 → s.placement s.me e1 = none →
          ResultWritten (.talloc h d a n) d 3#64 s s1 t)) ∧
    (∀ e, Runs (.tfree h n) s v s1 → (s.core s.me).tile n.toNat = some e → e.freeBy s.cx s.mx = true →
      ∃ t, exec (.tfree h n) s = .next t ∧ (t.core s.me).tile n.toNat = none ∧
        (∀ c m, m ≠ n.toNat → (t.core c).tile m = (s.core c).tile m) ∧ GoesOn (.tfree h n) s.cx t.cx ∧
        (∀ c y, (c, y) ≠ s.cur → t.ctx c y = s.ctx c y) ∧ (∀ c, (t.core c).pecks = (s.core c).pecks) ∧ SameCube s t) ∧
    (∀ e, Runs (.tinfo h d b n) s v s1 → (s.core s.me).tile n.toNat = some e → v.b.toNat < 2 →
      ∃ t, exec (.tinfo h d b n) s = .next t ∧ ResultWritten (.tinfo h d b n) d
        (if v.b = 1#64 then BitVec.ofNat 64 e.word else 0#64) s s1 t)

/-- 02 R48, R49, Table 2.5, 12 R263: `rpush` of a ring with a free slot and no earlier producer takes the slot at TAIL and
returns it, and on a full ring waits; `rpop` of a ring that is not empty pops the slot at HEAD, its pecks become EMPTY, and
returns it, and on an empty ring waits; `rstate` returns HEAD, TAIL, OCC and the number of slots. 12 R263, Table 12.6: `rwait`
whose condition holds (0: not empty; 1: a free slot; 2: the slot at HEAD has arrived whole) goes on and changes nothing else,
as does one that was found to hold when its limit ran out; else it waits. `tempty` sets the pecks of its rows EMPTY and keeps
every byte; `tzero` of no row goes on. -/
def Obligations.RingsAndRows : Prop :=
  (∀ (h : Hd) (d : Opd) (n : BitVec 6) (e : Tile) (s s1 : State) (v : Vals),
     (s.core s.me).tile n.toNat = some e → e.isRing = true →
     (Runs (.rpush h d n) s v s1 →
       (e.occ ≤ e.slots → (s.core s.me).producers n.toNat = [] → ∃ t, exec (.rpush h d n) s = .next t ∧
         TileResult (.rpush h d n) d (BitVec.ofNat 64 e.tail) s t ∧
         (t.core s.me).tile n.toNat = some { e with tail := (e.tail + 1) % (e.slots + 1), occ := e.occ + 1 } ∧
         (∀ c, (t.core c).pecks = (s.core c).pecks ∧ (t.core c).fulls = (s.core c).fulls)) ∧
       (e.slots < e.occ → ∃ t, exec (.rpush h d n) s = .next t ∧ t.cx.wait = .ring n.toNat 0 ∧ t.cx.pc = s.cx.pc ∧
         t.cx.g = s.cx.g ∧ (t.core s.me).tiles = (s.core s.me).tiles)) ∧
     (Runs (.rpop h d n) s v s1 →
       (e.occ ≠ 0 → ∃ t, exec (.rpop h d n) s = .next t ∧ TileResult (.rpop h d n) d (BitVec.ofNat 64 e.head) s t ∧
         (t.core s.me).tile n.toNat = some { e with head := (e.head + 1) % (e.slots + 1), occ := e.occ - 1 } ∧
         (∀ r b, r < e.slotRows → e.inside (e.head * e.slotRows + r) b = true →
           t.peckFull e s.me (e.head * e.slotRows + r) b = false) ∧
         (∀ c, (t.core c).pecks = (s.core c).pecks)) ∧
       (e.occ = 0 → ∃ t, exec (.rpop h d n) s = .next t ∧ t.cx.wait = .ring n.toNat 0 ∧ t.cx.pc = s.cx.pc ∧
         t.cx.g = s.cx.g ∧ (t.core s.me).tiles = (s.core s.me).tiles)) ∧
     (Runs (.rstate h d n) s v s1 → ∃ t, exec (.rstate h d n) s = .next t ∧ ResultWritten (.rstate h d n) d
       (BitVec.ofNat 64 (e.head + 16 * e.tail + 256 * e.occ + 8192 * e.slots)) s s1 t)) ∧
  (∀ (h : Hd) (a b : Opd) (n : BitVec 6) (e : Tile) (s s1 : State) (v : Vals),
     (s.core s.me).tile n.toNat = some e →
     (Runs (.rwait h a b n) s v s1 → e.isRing = true → v.a.toNat < 3 →
       let met : Prop := if v.a = 0#64 then e.occ ≠ 0 else if v.a = 1#64 then e.occ ≤ e.slots
         else e.occ ≠ 0 ∧ ∀ r, r < e.slotRows → ∀ y, y < e.rowBytes → e.inside (e.head * e.slotRows + r) y = true →
           s.peckFull e s.me (e.head * e.slotRows + r) y = true
       (met ∨ s.cx.got ≠ [] → ∃ t, exec (.rwait h a b n) s = .next t ∧ GoesOn (.rwait h a b n) s.cx t.cx ∧
         (∀ c, SameCore (s.core c) (t.core c)) ∧ (∀ c y, (c, y) ≠ s.cur → t.ctx c y = s.ctx c y) ∧ SameCube s t) ∧
       (¬ met → s.cx.got = [] → ∃ t, exec (.rwait h a b n) s = .next t ∧ t.cx.wait = .ring n.toNat 0 ∧ t.cx.pc = s.cx.pc ∧
         t.cx.g = s.cx.g ∧ (t.core s.me).tiles = (s.core s.me).tiles)) ∧
     (Runs (.tempty h a b n) s v s1 → e.isRing = false →
       ∃ t, exec (.tempty h a b n) s = .next t ∧
         (∀ p y, v.a.toNat ≤ p → p < v.a.toNat + v.b.toNat → e.inside p y = true → t.peckFull e s.me p y = false) ∧
         (∀ c, (t.core c).pecks = (s.core c).pecks ∧ (t.core c).tiles = (s.core c).tiles) ∧
         GoesOn (.tempty h a b n) { s.cx with toor := t.cx.toor } t.cx ∧
         (∀ c y, (c, y) ≠ s.cur → t.ctx c y = s.ctx c y) ∧ SameCube s t) ∧
     (Runs (.tzero h a b n) s v s1 → v.b = 0#64 ∨ e.total ≤ v.a.toNat →
       ∃ t, exec (.tzero h a b n) s = .next t ∧ GoesOn (.tzero h a b n) { s.cx with toor := t.cx.toor } t.cx ∧
         (∀ c, SameCore (s.core c) (t.core c)) ∧ SameCube s t))

/-! The sequencer and the matrix instructions (08 R179; 13 R284 to R288). -/

/-- 08 R179, 13 R268, R286, R287: an instruction for the idle sequencer, whose group holds its accumulator and whose tiles are
there, starts at step 0 and its thread waits; `azero` clears its accumulator at once; `kload` from a tile loads the register's
16 entries. -/
def Obligations.SequencerTakesInstruction : Prop :=
  ∀ (i : Instr) (s s1 : State) (x : Vals), Runs i s x s1 → (s.core s.me).seq = none →
    (∀ e va vb, seqForm x e i = some (va, vb) → (∀ q, q ∈ s.cx.seqSave → q.i ≠ i) →
      (∀ fn v, mmaOf i = some (fn, v) → bitOf ((s.core s.me).grantOf s.cx) v.x1.toNat = true ∧
        (v.isCb = true → s1.pending (fun r => r == 64 + v.x4.toNat) = false) ∧
        (s.core s.me).mmaFault fn v va vb ((s.core s.me).codebook v.x4.toNat).1 = none) →
      (∀ h a v, i = .aload h a v ∨ i = .astore h a v → bitOf ((s.core s.me).grantOf s.cx) v.x1.toNat = true ∧
        (s.core s.me).tile v.x2.toNat = some e) →
      (∀ h a b v, i = .adrain h a b v → bitOf ((s.core s.me).grantOf s.cx) v.x1.toNat = true ∧
        x.a.toNat < 2 ^ 35 ∧ x.b.toNat % 4 = 0) →
      (∀ h a b n, i = .tzero h a b n → (s.core s.me).tile n.toNat = some e ∧ vb ≠ 0) →
      ∃ t q, exec i s = .next t ∧ (t.core s.me).seq = some q ∧ q.i = i ∧ q.ctx = s.mx ∧ q.step = 0 ∧ q.va = va ∧
        q.vb = vb ∧ q.follow = none ∧ .sequencerStep s.me ∈ t.events ∧ t.cx.wait = .seq ∧ t.cx.pc = s.cx.pc ∧
        t.cx.g = s.cx.g ∧ (t.core s.me).acc = (s.core s.me).acc ∧ (t.core s.me).pecks = (s.core s.me).pecks) ∧
    (∀ h v, i = .azero h v → bitOf ((s.core s.me).grantOf s.cx) v.x1.toNat = true →
      ∃ t, exec i s = .next t ∧ GoesOn i s.cx t.cx ∧
        (∀ r c, r < 64 → c < 64 → (t.core s.me).accWord v.x1.toNat r c = 0#32) ∧
        OtherAccsKept v.x1.toNat (s.core s.me) (t.core s.me) ∧ (∀ c y, (c, y) ≠ s.cur → t.ctx c y = s.ctx c y) ∧
        SameCube s t) ∧
    (∀ h a b v e, i = .kload h a b v → v.src = true → (s.core s.me).tile v.x2.toNat = some e → x.b.toNat % 32 = 0 →
      s1.pending (fun r => r == 64 + v.x1.toNat) = false →
      (∀ y, x.b.toNat ≤ y → y < x.b.toNat + 32 → e.inside x.a.toNat y = true → s.peckFull e s.me x.a.toNat y = true) →
      ∃ t, exec i s = .next t ∧ ((t.core s.me).codebook v.x1.toNat).1 = (v.ty == .i8) ∧
        (∀ k, k < 16 → nthD ((t.core s.me).codebook v.x1.toNat).2 k 0 = s.tileVal s.me e x.a.toNat (x.b.toNat + 2 * k) 2) ∧
        GoesOn i { s.cx with toor := t.cx.toor } t.cx ∧ SameCube s t)

/-- 09 R190 to R195, 13 R285, R286: a step of an `mma` whose operands have arrived updates every word of its accumulator with
its group: exact products summed and saturated for the integer forms, the scaled dot product for the float forms; a sparse mask
leaves its positions out. -/
def Obligations.MatrixStepUpdatesAccumulator : Prop :=
  ∀ (s : State) (c fn : Nat) (v : MOp) (q : SeqSt) (ta tb ts : Tile), (s.core c).seq = some q → mmaOf q.i = some (fn, v) →
    q.i.wf = true → q.follow = none → q.step < v.groups fn →
    (s.core c).tile v.x2.toNat = some ta → (s.core c).tile v.x3.toNat = some tb →
    (v.sav = true ∨ v.sbv = true → (s.core c).tile v.sh.toNat = some ts) →
    let ra (i : Nat) := ta.operandRow q.va (if q.step = 0 then ta.head else q.h0a) i
    let rb (k : Nat) := tb.operandRow q.vb (if q.step = 0 then tb.head else q.h0b) (48 * q.step + k)
    (∀ i, i < 64 → s.rowFull c ta (ra i)) → (∀ k, k < 48 → s.rowFull c tb (rb k)) →
    (v.sav = true ∨ v.sbv = true → s.rowFull c ts v.srow.toNat) →
    (fn = 3 → ∀ i, i < 64 → popCount (s.tileVal c ta (ra i) (6 * q.step) 6) 48 = v.stored) →
    (ta.isRing = true → ceilDiv 64 ta.slotRows ≤ ta.occ) →
    (tb.isRing = true → ceilDiv (48 * v.groups fn) tb.slotRows ≤ tb.occ) →
    ∃ t, exec .sequencerStep (s.due (.sequencerStep c)) = .next t ∧ SeqAdvanced s c q (v.groups fn) t ∧
      (∀ i j, i < 64 → j < 64 →
        (t.core c).accWord v.x1.toNat i j = s.mmaWord c fn v q ta tb ts ra rb i j) ∧
      OtherAccsKept v.x1.toNat (s.core c) (t.core c) ∧ (∀ d, (t.core d).pecks = (s.core d).pecks) ∧
        SameCube s { t with cur := s.cur, ev := s.ev }

/-- 12 Table 12.6, 13 R287, R288: a step of `aload` puts a tile row into an accumulator row; of `astore` an accumulator row
into a tile row, whose pecks become FULL; of `adrain` sends an accumulator row to the core of its target; with ZR the row then
is 0; a step of `tzero` writes a row of zeros. -/
def Obligations.AccumulatorAndTileSteps : Prop :=
  ∀ (s : State) (c : Nat) (q : SeqSt) (h : Hd) (a b : Opd) (v : AccOp) (e : Tile), (s.core c).seq = some q →
    q.follow = none → q.i.wf = true →
    let w := rowElem v.ty
    let row := (s.core c).accWord v.x1.toNat q.step
    let cleared (t : State) : Prop := ∀ i j, i < 64 → j < 64 → (t.core c).accWord v.x1.toNat i j =
      if i = q.step ∧ v.zr = true then 0#32 else (s.core c).accWord v.x1.toNat i j
    (q.i = .aload h a v → q.step < 64 → (s.core c).tile v.x2.toNat = some e → s.rowFull c e (q.va + q.step) →
      ∃ t, exec .sequencerStep (s.due (.sequencerStep c)) = .next t ∧ SeqAdvanced s c q 64 t ∧
        (∀ i j, i < 64 → j < 64 → (t.core c).accWord v.x1.toNat i j = if i = q.step then
          accOfElem v.ty (s.tileVal c e (q.va + q.step) (j * w) w) else (s.core c).accWord v.x1.toNat i j) ∧
        OtherAccsKept v.x1.toNat (s.core c) (t.core c) ∧ (∀ d, (t.core d).pecks = (s.core d).pecks)) ∧
    (q.i = .astore h a v → q.step < 64 → (s.core c).tile v.x2.toNat = some e →
      ∃ t, exec .sequencerStep (s.due (.sequencerStep c)) = .next t ∧ SeqAdvanced s c q 64 t ∧ cleared t ∧
        (∀ j y, j < 64 → y < w → e.inside (q.va + q.step) (j * w + y) = true →
          t.tileByte e c (q.va + q.step) (j * w + y) = nthD (toBytes (elemOfAcc v.ty v.rnd.toNat (row j)) w) y 0#8 ∧
          t.peckFull e c (q.va + q.step) (j * w + y) = true) ∧
        OtherRowsKept c e (q.va + q.step) s t ∧ OtherAccsKept v.x1.toNat (s.core c) (t.core c)) ∧
    (q.i = .adrain h a b v → q.step < 64 → bitsOf q.va 19 8 = s.cubeId →
      ∃ t m, exec .sequencerStep (s.due (.sequencerStep c)) = .next t ∧ SeqAdvanced s c q 64 t ∧ cleared t ∧
        .drainRow m ∈ t.events ∧ m.core = bitsOf q.va 19 0 ∧ m.handle = v.x2.toNat ∧ m.row = bitsOf q.va 29 20 + q.step ∧
        (∀ j y, j < 64 → y < w → nthD m.data (j * w + y) 0#8 =
          nthD (toBytes (elemOfAcc v.ty v.rnd.toNat (row j)) w) y 0#8) ∧
        (∀ d, (t.core d).pecks = (s.core d).pecks)) ∧
    (∀ n, q.i = .tzero h a b n → q.step < q.vb → (s.core c).tile n.toNat = some e →
      ∃ t, exec .sequencerStep (s.due (.sequencerStep c)) = .next t ∧ SeqAdvanced s c q q.vb t ∧
        (∀ y, e.inside (q.va + q.step) y = true → t.tileByte e c (q.va + q.step) y = 0#8 ∧
          t.peckFull e c (q.va + q.step) y = true) ∧
        OtherRowsKept c e (q.va + q.step) s t ∧ (t.core c).acc = (s.core c).acc)

/-! Commands of the engines and messages (14 R290 to R316; 15 R317 to R332). -/

/-- 14 R305 to R307: `spawn` and `job`, their descriptor read, send its words with the thread's own space to a task unit (of
this cube, of the cube that is home of the affinity address, or of the cube B names); `launch` sends its block to every cube
of its range; the thread waits for the answer in D. 14 R294, R296, R298: a copy instruction with a legal descriptor sends its
command to the streamer of its first source byte's vault, or of its own core's; `cpystat` asks the streamer that an id names;
the thread waits for the answer in D. 14 R313, R315, R316, 04 R91: a near-bank command with a legal descriptor waits for the
thread's earlier `clean` and `flush` and leaves as one request for its stone's address; `nb.stat`, its address translated,
asks the vault that is its home; the thread waits for the answer. -/
def Obligations.EngineCommandsLeave : Prop :=
  (∀ (h : Hd) (d a b : Opd) (x : Option EFlags) (s s1 : State) (v : Vals) (b0 : List Byte), GateOpen x s →
     let ws := wordsOf b0 16
     let task (job : Bool) (id : Nat) : Msg := .task
       { who := s.meAgent, id := id, org := s.cx.origin, job := job, words := taskWords s ws, acq := acqScope x }
     (Runs (.spawn h d a x) s v s1 →
       (Described v.a 128 [b0] s → bitOf (nthD ws 0 0) 52 = false →
         exec (.spawn h d a x) s = .next (commandLeft s1 (.spawn h d a x) d v.a.toNat x s.cubeId (task false))) ∧
       (∀ p, Described v.a 128 [b0, p] s → bitOf (nthD ws 0 0) 52 = true →
         exec (.spawn h d a x) s =
           .next (commandLeft s1 (.spawn h d a x) d v.a.toNat x (s.cubeOf (ofBytes p)) (task false)))) ∧
     (Runs (.job h d a b x) s v s1 → Described v.a 128 [b0] s → v.b.toNat < 2 ^ 13 →
       exec (.job h d a b x) s = .next (commandLeft s1 (.job h d a b x) d v.a.toNat x
         (if v.b.toNat < 2 ^ 12 then s.cubeId else v.b.toNat % 2 ^ 12) (task true))) ∧
     (Runs (.launch h d a x) s v s1 → Described v.a 128 [b0] s → launchBad ws = false →
       let lo := nthD ws 3 0 / 2 ^ 52 % 2 ^ 12
       let hi := nthD ws 3 0 / 2 ^ 40 % 2 ^ 12
       let r := s1.sendCmd (Instr.launch h d a x).bytes d v.a.toNat x
       exec (.launch h d a x) s = .next ((countUp lo (hi + 1 - lo)).foldl
         (fun s c => s.post c s1.meAgent r.1 (.launch
           { who := s1.meAgent, id := r.1, org := s1.cx.origin, space := s1.cx.space, words := ws, acq := acqScope x }))
         { r.2 with outs := r.2.outs ++ [{ id := r.1, who := s1.meAgent, req := s1.threadReq v.a.toNat (.translate 0),
                                           purp := .cubes (hi + 1 - lo) 0 }] }))) ∧
  (∀ (h : Hd) (d a : Opd) (s s1 : State) (v : Vals),
     (∀ (i : Instr) (x : Option EFlags) (kind : Nat) (b0 : List Byte) (bs : List (List Byte)),
       copyForm i = some (d, x, kind) → Runs i s v s1 → GateOpen x s → Described v.a 128 (b0 :: bs) s →
       let ws := wordsOf b0 16
       copyBad kind ws = false → (s.cx.mode = 0 → srcKind ws ≠ 2 ∧ dstKind ws ≠ 2) → (srcKind ws = 0 → bs ≠ []) →
       let p := nthD bs 0 []
       let target := s.copyTarget ws (if p = [] then none else some (ofBytes p))
       exec i s = .next (commandLeft s1 i d v.a.toNat x target.1 fun id => .copyCmd
         { who := s.meAgent, id := id, org := s.cx.origin, kind := kind, space := s.cx.space, task := decide (s.cx.mode = 0),
           words := ws, acq := flagA x, rel := flagR x, scope := flagScope x, vault := target.2 })) ∧
     (Runs (.cpystat h d a) s v s1 →
       exec (.cpystat h d a) s = .next (commandLeft s1 (.cpystat h d a) d v.a.toNat none (v.a.toNat / 2 ^ 52) fun id =>
         .query
           { who := s.meAgent, id := id, vault := v.a.toNat / 2 ^ 46 % 64,
             serial := if v.a.toNat / 2 ^ 32 % 2 ^ 14 = 0 then v.a.toNat % 2 ^ 32 else 0, org := s.cx.origin,
             near := false }))) ∧
  (∀ (h : Hd) (d a : Opd) (s s1 : State) (v : Vals) (b0 : List Byte),
     (∀ (i : Instr) (x : Option EFlags) (kind : Nat), nbForm i = some (x, kind) → Runs i s v s1 → GateOpen x s →
       Described v.a 64 [b0] s →
       let c : NbCmd := { kind := kind, words := wordsOf b0 8, acq := flagA x, rel := flagR x, scope := flagScope x }
       c.bad = false →
       (s.cx.maint = 0 → exec i s = .next (s1.sendTagged i.bytes (s1.threadReq (c.w 0 % 2 ^ 48) (.nb c))
         { ackTag v.a.toNat with bound := flagged x })) ∧
       (s.cx.maint ≠ 0 → exec i s = .next (s1.block .acks))) ∧
     (Runs (.nbStat h d a) s v s1 → v.a.toNat < 2 ^ 48 → s.cx.got = [b0] →
       let p := s.layout (ofBytes b0)
       exec (.nbStat h d a) s = .next (commandLeft s1 (.nbStat h d a) d v.a.toNat none
         ((p.map fun p => p.cube).getD s.cubeId) fun id => .query
           { who := s.meAgent, id := id, vault := (p.map fun p => vaultOf (p.local_ / 128)).getD 0, serial := 0,
             org := s.cx.origin, near := true })))

/-- 14 R308, R303, R304: `send` posts a message of its g registers, tag and handler to its target and retires; `nred` sends its
register as one contribution; `nmcast` sends its register to its group under the next number and goes on. -/
def Obligations.MessagesLeave : Prop :=
  ∀ (h : Hd) (a b : Opd) (f : EFlags) (s s1 : State) (v : Vals), GateOpen (some f) s →
    (∀ (par : Bool) (nw : BitVec 4) (target : BitVec 20), Runs (.send h a b f par nw target) s v s1 →
      v.a.toNat < 2 ^ 48 → v.a.toNat % 4 = 0 → v.b.toNat < 2 ^ 23 → nw.toNat ≤ 12 →
      let i : Instr := .send h a b f par nw target
      exec i s = .next ((s1.newId.2.retireCmd i.bytes (some f)).post (target.toNat / 256) s.meAgent s1.tick (.arrival target.toNat
        { kind := 1, src := s.gcore s.me, par := par, len := 8 * nw.toNat, tag := v.b.toNat % 2 ^ 16, hnd := v.a.toNat,
          space := s.cx.space, tile := if 2 ^ 22 ≤ v.b.toNat then 64 + v.b.toNat / 2 ^ 16 % 64 else 0,
          body := (countUp 4 nw.toNat).map fun k => (s.cx.getG k).toNat, acq := acqScope (some f), org := s.cx.origin,
          ident := s1.tick, mig := none, waiter := none }))) ∧
    (∀ (vs : BitVec 6) (rop : BitVec 3) (stream : BitVec 13) (cidx : BitVec 6),
      Runs (.nred h a f vs rop stream cidx) s v s1 → s1.regsReady [vs.toNat] → cidx.toNat ≤ 55 → v.a.toNat < 2 ^ 48 →
      v.a.toNat % 256 = 0 →
      let i : Instr := .nred h a f vs rop stream cidx
      exec i s = .next (s1.sendTagged i.bytes
        (s1.threadReq v.a.toNat (.red rop.toNat stream.toNat cidx.toNat (s.vreg vs.toNat)))
        { ackTag v.a.toNat with bound := flagged (some f) })) ∧
    (∀ (vs t : BitVec 6), Runs (.nmcast h a b f vs t) s v s1 → s1.regsReady [vs.toNat] → v.a.toNat < 2 ^ 24 →
      v.a.toNat / 2 ^ 18 % 2 = 0 → v.b.toNat < 2 ^ 8 →
      ∃ u m, exec (.nmcast h a b f vs t) s = .next u ∧
        u.cx.pc = s.cx.pc + BitVec.ofNat 64 (Instr.nmcast h a b f vs t).bytes ∧ u.cx.g = s.cx.g ∧
        .mcast m 0 false ∈ u.events ∧ m.group = v.b.toNat ∧ m.core = v.a.toNat % 256 ∧ m.handle = t.toNat ∧
        m.row = v.a.toNat / 256 % 1024 ∧ m.data = s.vreg vs.toNat ∧ m.seq = tblGet s.fabric.mcSeq v.b.toNat 0 ∧
        tblGet u.fabric.mcSeq v.b.toNat 0 = (m.seq + 1) % 2 ^ 24)

/-- 14 R309 to R312: `mpop` of an empty inbox returns 0, and of an arrival whose record it has written the record's first word;
`replay` of a legal record delivers it to its own core; `roam` returns the old bit and sets the new; `migrate` of a thread that
does not roam, or to its own cube, returns 0. -/
def Obligations.InboxAndRoaming : Prop :=
  ∀ (h : Hd) (d a : Opd) (s s1 : State) (v : Vals),
    (Runs (.mpop h d a) s v s1 → v.a.toNat < 2 ^ 48 → v.a.toNat % 256 = 0 →
      ((s.core s.me).inbox = [] → (∀ p, p ∈ (s.core s.me).popping → p.1 ≠ s.mx) →
        ∃ t, exec (.mpop h d a) s = .next t ∧ ResultWritten (.mpop h d a) d 0#64 s s1 t) ∧
      (∀ m r r', (s.core s.me).popping = (s.mx, m) :: r → s.cx.got = [[], []] → r' = r.filter (fun p => p.1 != s.mx) →
        ∃ t, exec (.mpop h d a) s = .next t ∧ Returned (.mpop h d a) d
          (BitVec.ofNat 64 (m.kind % 16 * 2 ^ 60 + m.src % 2 ^ 20 * 2 ^ 40 + (if m.par then 2 ^ 39 else 0) +
            m.len % 256 * 2 ^ 31)) s t ∧
          (t.core s.me).popping = r' ∧ (t.core s.me).inbox = (s.core s.me).inbox)) ∧
    (∀ b0 b1 m, Runs (.replay h a) s v s1 → Described v.a 256 [b0, b1] s →
      recordArrival (wordsOf (b0 ++ b1) 32) (s.mx, s1.tick) s.cx.origin = some m →
      exec (.replay h a) s = .next ((s1.sendCmd (Instr.replay h a).bytes .z v.a.toNat none).2.emit (.inboxArrival s.me m))) ∧
    (Runs (.roam h d a) s v s1 → v.a.toNat < 2 →
      ∃ t, exec (.roam h d a) s = .next t ∧ t.cx.roam = decide (v.a = 1#64) ∧
        t.cx.status = setFld s.cx.status 36 36 v.a.toNat ∧ t.cx.pc = s.cx.pc + BitVec.ofNat 64 (Instr.roam h d a).bytes ∧
        (∀ k : BitVec 4, t.cx.getG k.toNat = if d = .g k then BitVec.ofNat 64 (b2n s.cx.roam) else s.cx.getG k.toNat) ∧
        (∀ c y, (c, y) ≠ s.cur → t.ctx c y = s.ctx c y) ∧ SameCube s t) ∧
    (∀ p, Runs (.migrate h d a) s v s1 → Described v.a 1 [p] s → s.cx.roam = false ∨ s.cubeOf (ofBytes p) = s.cubeId →
      ∃ t, exec (.migrate h d a) s = .next t ∧ ResultWritten (.migrate h d a) d 0#64 s s1 t)

/-- 15 R317 to R332: `xcfg` with a legal descriptor and table configures a free engine, or returns why not; `xroute` and
`xcombine` of the owner start a run of a configured engine; `xstat` returns the selected word; `xresume` takes a paused run up
again; `xabort` marks a run for its end. -/
def Obligations.EngineInstructions : Prop :=
  ∀ (h : Hd) (d a b : Opd) (s s1 : State) (v : Vals) (n : Nat) (b0 : List Byte),
    let e := s.engine n
    let owner := s.ownsEngine e
    (∀ bs : List (List Byte), Runs (.xcfg h d a b) s v s1 → v.b.toNat = n → n < 4 → Described v.a 64 (b0 :: bs) s →
      let ws := wordsOf b0 8
      let table := nthD ws 0 0
      let count := nthD ws 1 0 / 2 ^ 52 % 2 ^ 12 + 1
      configBad ws = false → bs.length = count → table + 64 * count ≤ 2 ^ 48 →
      (∀ x, x ∈ bs → expertBad (bitOf (nthD ws 1 0) 51) (wordsOf x 8) = false) → StaysHere s1 →
      ∃ t, exec (.xcfg h d a b) s = .next t ∧
        (e.state ≠ 0 → owner = false → ResultWritten (.xcfg h d a b) d 2#64 s s1 t) ∧
        (e.state = 0 ∨ owner = true → e.state = 2 ∨ e.state = 3 → ResultWritten (.xcfg h d a b) d 1#64 s s1 t) ∧
        (e.state = 0 ∨ owner = true → e.state ≠ 2 → e.state ≠ 3 →
          Returned (.xcfg h d a b) d 0#64 s t ∧ (t.engine n).state = 1 ∧ (t.engine n).cfg = ws ∧
          (t.engine n).table = bs.map (fun x => expertOf (wordsOf x 8)) ∧ t.ownsEngine (t.engine n) = true ∧
          (t.engine n).space = s.cx.space)) ∧
    (∀ (i : Instr) (x : Option EFlags) (combine : Bool), runForm i = some (d, x, combine) → Runs i s v s1 → v.b.toNat = n →
      n < 4 → GateOpen x s → Described v.a 64 [b0] s → routeBad (wordsOf b0 8) = false →
      owner = true → e.state = 1 ∨ e.state = 4 →
      ∃ t, exec i s = .next t ∧ t.cx.pc = s.cx.pc + BitVec.ofNat 64 i.bytes ∧
        (∀ k : BitVec 4, t.cx.getG k.toNat = if d = .g k then 0#64 else s.cx.getG k.toNat) ∧
        (t.engine n).state = 2 ∧ (t.engine n).phase = (if combine then 3 else 0) ∧ (t.engine n).cursor = 0 ∧
        (t.engine n).drops = 0 ∧ (t.engine n).words = wordsOf b0 8 ∧ (t.engine n).serial = (e.serial + 1) % 2 ^ 32 ∧
        (t.engine n).rel = flagR x ∧ (t.engine n).table = e.table ∧
        (if combine then .engineTokenIssue n else .engineCount n) ∈ t.events) ∧
    (Runs (.xstat h d a b) s v s1 → v.a.toNat = n → n < 4 →
      ∃ t, exec (.xstat h d a b) s = .next t ∧ ResultWritten (.xstat h d a b) d
        (BitVec.ofNat 64 (if s.cx.mode = 0 ∧ e.state ≠ 0 ∧ e.space ≠ s.cx.space then 0 else e.word s.cubeId v.b.toNat)) s s1 t) ∧
    (Runs (.xresume h d a) s v s1 → v.a.toNat = n → n < 4 →
      ∃ t, exec (.xresume h d a) s = .next t ∧
        (owner = false → ResultWritten (.xresume h d a) d 2#64 s s1 t) ∧
        (owner = true → e.state ≠ 3 ∨ e.cause ≠ 2 → ResultWritten (.xresume h d a) d 1#64 s s1 t) ∧
        (owner = true → e.state = 3 → e.cause = 2 → (t.engine n) = { e with state := 2, cause := 0 } ∧
          .engineOffsetExpert n ∈ t.events ∧ t.cx.pc = s.cx.pc + BitVec.ofNat 64 (Instr.xresume h d a).bytes ∧
          (∀ k : BitVec 4, t.cx.getG k.toNat = if d = .g k then 0#64 else s.cx.getG k.toNat))) ∧
    (Runs (.xabort h d a) s v s1 → v.a.toNat = n → n < 4 →
      ∃ t, exec (.xabort h d a) s = .next t ∧
        (owner = false → s.cx.mode = 0 → ResultWritten (.xabort h d a) d 2#64 s s1 t) ∧
        (owner = true → e.state ≠ 2 → e.state ≠ 3 → ResultWritten (.xabort h d a) d 1#64 s s1 t) ∧
        (owner = true → e.state = 2 → e.what ≠ .record → e.what ≠ .acks → e.what ≠ .add → e.what ≠ .turn →
          (t.engine n).abort = true ∧ (t.engine n).state = 2 ∧
          t.cx.pc = s.cx.pc + BitVec.ofNat 64 (Instr.xabort h d a).bytes ∧
          (∀ k : BitVec 4, t.cx.getG k.toNat = if d = .g k then 0#64 else s.cx.getG k.toNat)))

/-! Suspension, faults and frames of pages (11 R236 to R239; 07 R152). -/

/-- 11 R236 to R239: a suspension or resumption is sent to the core that its target names, and a bad target returns 2;
`flt.done` ends a pending fault of the number, its accesses retried or failed, or returns why not; `pmove` and `pzero` return
the code of their checks and begin their work only with 0; a `pmove` whose page's first line is home on another cube asks
there and waits. -/
def Obligations.ManagementInstructions : Prop :=
  ∀ (h : Hd) (d a b : Opd) (s s1 : State) (v : Vals),
    (∀ (i : Instr) (op : Nat), suspendForm i = some (d, op) → Runs i s v s1 →
      (2 ^ 14 ≤ v.a.toNat → ∃ t, exec i s = .next t ∧ ResultWritten i d 2#64 s s1 t) ∧
      (v.a.toNat < 2 ^ 14 → ∃ t, exec i s = .next t ∧
        (∃ g, t.cx.tags = tblSet s.cx.tags s.cx.freeTag g ∧ g.id = s1.tick ∧ g.pc = s.cx.pc) ∧
        t.cx.pc = s.cx.pc + BitVec.ofNat 64 i.bytes ∧ t.cx.g = s.cx.g ∧ t.events = s1.events ++ [.suspensionRequest
          { who := s.meAgent, id := s1.tick, op := op, core := v.a.toNat % 256, group := decide (v.a.toNat < 2 ^ 13),
            slot := v.a.toNat / 256 % 32, image := v.b.toNat, space := s.cx.space, task := decide (s.cx.mode = 0),
            phase := 0 }])) ∧
    (Runs (.fltDone h d a b) s v s1 → Settled s →
      let f := tblGet s.faults (v.a.toNat % 256) ⟨0, false, 0, 0, 0, [], 0, 0, false⟩
      let live := f.pending = true ∧ f.gen = v.a.toNat / 256 % 256
      ∃ t, exec (.fltDone h d a b) s = .next t ∧
        (¬ live → ResultWritten (.fltDone h d a b) d 1#64 s s1 t) ∧
        (1 < v.b.toNat → live → ResultWritten (.fltDone h d a b) d 2#64 s s1 t) ∧
        (v.b.toNat ≤ 1 → live → t.cx.pc = s.cx.pc + BitVec.ofNat 64 (Instr.fltDone h d a b).bytes ∧
          (∀ k : BitVec 4, t.cx.getG k.toNat = if d = .g k then 0#64 else s.cx.getG k.toNat) ∧
          tblGet t.faults (v.a.toNat % 256) f = { f with pending := false, accs := [] } ∧
          ∀ r, r ∈ f.accs → (if v.b = 0#64 then .sectionLookup { r with fresh := true }
            else .data (r.fail .accessError (v.a.toNat % 65536) 2)) ∈ t.events)) ∧
    (∀ b0 b1 b2 b3 l, Runs (.pmove h d a) s v s1 → Described v.a 32 [b0, b1, b2, b3, l] s →
      let w (k : Nat) := gotWords s k
      let code := s.moveCode (w 0) (w 1) (w 2) (ofBytes l)
      let f := pteFrame (ofBytes l) * 4096
      ∃ t, exec (.pmove h d a) s = .next t ∧
        (code ≠ 0 → ResultWritten (.pmove h d a) d (BitVec.ofNat 64 code) s s1 t) ∧
        (code = 0 → t.cx.pc = s.cx.pc + BitVec.ofNat 64 (Instr.pmove h d a).bytes) ∧
        (∀ p, code = 0 → s.layout f = some p → p.cube = s.cubeId →
          (∀ k : BitVec 4, t.cx.getG k.toNat = if d = .g k then 0#64 else s.cx.getG k.toNat) ∧
          ∃ j, j ∈ t.jobs ∧ j.kind = 0 ∧ j.frame = f ∧ j.dest = w 1 / 2 ^ 12 % 2 ^ 40 * 4096) ∧
        (∀ p, code = 0 → s.layout f = some p → p.cube ≠ s.cubeId → t.cx.g = s.cx.g ∧
          ∃ g, t.cx.tags = tblSet s.cx.tags s.cx.freeTag g ∧ g.id = s1.tick)) ∧
    (Runs (.pzero h d a b) s v s1 →
      let z := v.a.toNat % 4
      let f := v.a.toNat / 2 ^ 12 % 2 ^ 40 * 4096
      let bad := 2 ^ 52 ≤ v.a.toNat ∨ v.a.toNat / 4 % 2 ^ 10 ≠ 0 ∨ z = 3 ∨ f % pageBytes z ≠ 0 ∨ v.b.toNat % 8 ≠ 0
      ∃ t, exec (.pzero h d a b) s = .next t ∧
        (bad → ResultWritten (.pzero h d a b) d 2#64 s s1 t) ∧
        (¬ bad → s.frameMapped f (pageBytes z) = false → ResultWritten (.pzero h d a b) d 8#64 s s1 t) ∧
        (¬ bad → s.frameMapped f (pageBytes z) = true → t.cx.pc = s.cx.pc + BitVec.ofNat 64 (Instr.pzero h d a b).bytes ∧
          (∀ k : BitVec 4, t.cx.getG k.toNat = if d = .g k then 0#64 else s.cx.getG k.toNat)))

/-- 07 R152, R154: `exit` of a thread at a boundary whose accesses have been performed frees its context: every register,
predicate, flag and mask of it is at its reset value, and only the serial, one region further on, the tag counts and the start
number stay. The thread leaves its group, which ends with its last member, or, without a group, its own tiles are freed;
memory stays. -/
def Obligations.ExitFreesContext : Prop :=
  ∀ (h : Hd) (s s1 : State) (v : Vals), Runs (.exit h) s v s1 → Passes s → Settled s →
    ∃ t, exec (.exit h) s = .next t ∧
      t.cx = ({ serial := s.cx.serial + 1#16, bdue := s.cx.bdue, tcl := s.cx.tcl, tch := s.cx.tch,
                startNo := s.cx.startNo } : Ctx) ∧
      (s.cx.gv = true →
        (((s.core s.me).group s.cx.group).members.erase s.mx = [] →
          ∀ p, p ∈ (t.core s.me).groups → p.1 ≠ s.cx.group) ∧
        (((s.core s.me).group s.cx.group).members.erase s.mx ≠ [] →
          ((t.core s.me).group s.cx.group).members = ((s.core s.me).group s.cx.group).members.erase s.mx)) ∧
      (s.cx.gv = false → ∀ n e, (t.core s.me).tile n = some e → e.kind ≠ 2 → e.ownk = 1 → e.ownid ≠ s.mx) ∧
      t.dense = s.dense

/-! Steps of the units: the address map and moves of state (01 R11 to R22; 02 R56; 04 R93). -/

/-- 01 Table 1.3, R13, R15, R22: what each command of the map does to the slot that MAP_SEL names when its conditions hold;
every other slot but a partner stays, and MAP_STAT reports success. 01 R22, 02 R56, 04 R93: entries that fit are installed at
their new home, and the confirmation is due here when the sender is this cube; a confirmed line is counted off the hold of its
slot, which ends with the last, and no other hold changes; an installed line holds the bytes sent; its old home answers from
then on with a stub; a line called back for a zeroing is zeroed. -/
def Obligations.MapAndHomeMoves : Prop :=
  (∀ s : State, let k := s.mapIndex
     let d := s.slot k
     let g := s.staged
     let p := s.slot g.partner
     let ok (t : State) : Prop := t.regs.mapErr = 0 ∧ t.cores = s.cores ∧ t.dense = s.dense
     let others (q : Nat) (t : State) : Prop := ∀ j, j ≠ k → j ≠ q → t.slot j = s.slot j
     (k < 64 →
       (∃ t, exec .mapRead (s.due .mapRead) = .next t ∧ ok t ∧ t.map = s.map ∧ t.regs.mapD0 = BitVec.ofNat 64 d.words.1 ∧
         t.regs.mapD1 = BitVec.ofNat 64 d.words.2.1 ∧ t.regs.mapD2 = BitVec.ofNat 64 d.words.2.2) ∧
       (d.state < 2 → g.state = 0 ∨ (g.state = 1 ∧ g.refusal = 0 ∧ s.overlapsAny g k k = false) →
         ∃ t, exec .mapWrite (s.due .mapWrite) = .next t ∧ ok t ∧ t.slot k = g ∧ others k t) ∧
       (d.state = 0 → g.partner ≠ k → p.state = 1 → p.base = g.base → p.size = g.size → g.refusal = 0 →
         s.overlapsAny g k g.partner = false →
         ∃ t, exec .mapBegin (s.due .mapBegin) = .next t ∧ ok t ∧
           t.slot k = { g with state := 2, version := (p.version + 1) % 16, wmark := 0, moving := false } ∧
           t.slot g.partner = { p with state := 3 } ∧ others g.partner t) ∧
       (d.state = 2 → d.wmark ≠ d.granules →
         (∃ t, exec .mapHold (s.due .mapHold) = .next t ∧ ok t ∧ t.slot k = { d with moving := true } ∧ others k t) ∧
         (s.hold = [] → ∃ t, exec .mapStep (s.due .mapStep) = .next t ∧ ok t ∧
           t.slot k = { d with wmark := d.wmark + 1, moving := false } ∧ others k t)) ∧
       (d.state = 2 → d.granules ≤ d.wmark → d.moving = false → d.partner ≠ k →
         ∃ t, exec .mapFinish (s.due .mapFinish) = .next t ∧ ok t ∧
           t.slot k = { d with state := 1, version := (d.version + 1) % 16 } ∧ (t.slot d.partner).state = 0 ∧
           others d.partner t)) ∧
     (∃ t, exec .mapListRead (s.due .mapListRead) = .next t ∧ ok t ∧
       t.regs.mapD0 = setFld s.regs.mapD0 11 0 (tblGet s.cubeList k 0)) ∧
     ((∀ e, e ∈ s.map → e.2.state ≠ 0 → k < e.2.list ∨ e.2.list + e.2.n ≤ k) →
       ∃ t, exec .mapListWrite (s.due .mapListWrite) = .next t ∧ ok t ∧
         tblGet t.cubeList k 0 = s.regs.mapD0.toNat % 2 ^ 12 ∧ ∀ j, j ≠ k → tblGet t.cubeList j 0 = tblGet s.cubeList j 0)) ∧
  (∀ (s : State),
     (∀ m : LineMove, m.src = s.cubeId → moveDone (s.installEntries m.to_ m).1 = true →
       ∃ t, exec .holdTransferInstall (s.due (.holdTransferInstall m)) = .next t ∧
         (∀ w, w ∈ (t.slice (sliceOf m.to_)).watches ↔ w ∈ (s.slice (sliceOf m.to_)).watches ∨
           ∃ v, v ∈ m.watches ∧ w = { v with local_ := m.to_ * 128 + v.local_ % 128 }) ∧
         .holdComplete { job := m.job, part := m.from_ * 4 + 1, ok := true } ∈ t.events) ∧
     (∀ (r : Report) (g : HoldXfer), r.part % 4 = 1 → s.hold.find? (fun h => h.slot == r.job) = some g →
       ∃ t, exec .holdComplete (s.due (.holdComplete r)) = .next t ∧ (∀ h, h.slot ≠ g.slot → (h ∈ t.hold ↔ h ∈ s.hold)) ∧
         ∀ h, h.slot = g.slot → (h ∈ t.hold ↔ 1 < g.left ∧ h = { g with left := g.left - 1 })) ∧
     (∀ (m : LineMove) (p : Place), s.layout (m.to_ * 128) = some p → moveDone (s.installEntries (p.local_ / 128) m).1 = true →
       m.data.length = 128 →
       ∃ t, exec .pmoveLineInstall (s.due (.pmoveLineInstall m)) = .next t ∧ t.homeLine (p.local_ / 128) = m.data ∧
         (m.poison = true → t.poisoned (p.local_ / 128) = true)) ∧
     (∀ (r : Report) (j : FrameJob) (p : Place), s.job r.job = some j → r.part = 1 → r.ok = true → s.layout j.frame = some p →
       ∃ t, exec .pmoveLineConfirm (s.due (.pmoveLineConfirm r)) = .next t ∧
         tblGet t.stubs (p.local_ / 128) 0 = j.dest / 128 + 1) ∧
     (∀ (r : Report) (j : FrameJob), s.job r.job = some j → j.kind = 2 → r.part % 2 = 0 →
       ∃ t, exec .frameZeroReport (s.due (.frameZeroReport r)) = .next t ∧
         t.homeLine (r.part / 2) = List.replicate 128 0#8 ∧
         (∀ w, w ∈ (t.slice (sliceOf (r.part / 2))).watches → w.local_ / 128 ≠ r.part / 2)))

/-! Translation (05 R95 to R118). -/

/-- 05 R97, R102, R104, R118: a lookup that no section entry and no walk of its page serves starts a walk, or waits in order
of arrival while 64 are outstanding at its section or others wait there; the oldest waiting walk takes a free walk context; a
walk that ends MAPPED is installed under its lease, one that ends MALFORMED fails its accesses, and both end; a walk at its
limit ends MALFORMED; the fault that has waited longest for room is looked up again, one at a time; a walk context executes
one instruction of its routine. -/
def Obligations.TranslationSteps : Prop :=
  ∀ (s : State),
    (∀ r : Req, r.fresh = false → s.sectHit (sectionOf r.space r.va) r.space r.va = none →
      (∀ w, w ∈ s.walks → ¬ (w.sect = sectionOf r.space r.va ∧ w.space = r.space ∧ w.vpn = r.va / 4096 % 2 ^ 36 ∧
        w.bypass = false ∧ w.noInstall = false)) →
      let k := sectionOf r.space r.va
      let full : Prop := 64 ≤ (s.walks.filter fun w => w.sect == k).length
      (¬ full → r.turn = true ∨ (s.slice k).sectWait = [] →
        ∃ t w, exec .sectionLookup (s.due (.sectionLookup r)) = .next t ∧ t.walks = s.walks ++ [w] ∧
          w.accs = [{ r with turn := false }] ∧ w.space = r.space ∧ w.vpn = r.va / 4096 % 2 ^ 36 ∧ w.begun = 0 ∧
          .walkDispatch ∈ t.events ∧ (r.turn = false → t.events = s.events ++ [.walkDispatch])) ∧
      (full ∨ (r.turn = false ∧ (s.slice k).sectWait ≠ []) →
        ∃ t, exec .sectionLookup (s.due (.sectionLookup r)) = .next t ∧ t.walks = s.walks ∧ t.events = s.events ∧
          (t.slice k).sectWait = (if r.turn = true then r :: (s.slice k).sectWait else (s.slice k).sectWait ++ [r]))) ∧
    (∀ (w : Walk) (h : Nat), s.walks.find? (fun w => w.begun == 0) = some w → s.freeHart = some h →
      ∃ t w', exec .walkDispatch (s.due .walkDispatch) = .next t ∧ w' ∈ t.walks ∧ w'.id = w.id ∧ w'.begun = 1 ∧
        w'.hart = some h ∧ w'.accs = w.accs) ∧
    (∀ (n pte size info level : Nat) (w : Walk), s.walk n = some w → w.accs = [] → w.noInstall = false → size < 3 →
      bitOf pte 0 = true → bitOf pte 6 = true → pteRWX pte ≠ 0 → pteBad pte size = false →
      (w.cls = 1 → bitOf pte 2 = true → bitOf pte 7 = true) →
      let lease := min (bitsOf pte 63 60) (min (bitsOf w.sd0 57 54) (fld s.regs.leaseCtl 3 0))
      s.regs.refLost = false → lease ≠ 0 →
      ∃ t e, exec .nwdone (s.due (.nwdone n 0 pte 0 size info level)) = .next t ∧ (∀ x, x ∈ t.walks → x.id ≠ n) ∧
        e ∈ (t.slice w.sect).sect ∧ e.size = size ∧ e.space = w.space ∧ e.vpn = pageVpn size (w.vpn * 4096) ∧
        e.pte = BitVec.ofNat 64 pte ∧ e.exp = (w.start + leaseCounts lease) % 2 ^ 32) ∧
    (∀ (n : Nat) (w : Walk), s.walk n = some w →
      (∃ t, exec .nwdone (s.due (.nwdone n 2 0 0 0 0 0)) = .next t ∧ (∀ x, x ∈ t.walks → x.id ≠ n) ∧
        ∀ r, r ∈ w.accs → .data (r.fail .accessError 1 1) ∈ t.events) ∧
      (w.begun = 1 → ∃ t, exec .walkTimeout (s.due (.walkTimeout n)) = .next t ∧
        t.events = s.events ++ [.nwdone n 2 0 0 0 0 0])) ∧
    (∀ r rest, s.faultTurn = none → s.faultWait = r :: rest →
      ∃ t, exec .faultWaitRetry (s.due .faultWaitRetry) = .next t ∧ t.faultTurn = some r.id ∧ t.faultWait = rest ∧
        t.events = s.events ++ [.sectionLookup r]) ∧
    (∀ (n w : Nat) (x : HartCtx) (wk : Walk), s.harts.find? (fun p => p.1 == n) = some (n, x) → s.walk x.walk = some wk →
      s.hartFetch x = some (w, 4) → w % 2 ^ 7 = 0x33 → w / 2 ^ 12 % 8 = 0 → w / 2 ^ 25 = 0 → w < 2 ^ 32 →
      let rd := w / 2 ^ 7 % 32
      ∃ t y, exec .walkerHartInstruction (s.due (.walkerHartInstruction n)) = .next t ∧ tblGet t.harts n x = y ∧
        y.pc = x.pc + 4#64 ∧ y.get rd = (if rd = 0 then 0 else (x.get (w / 2 ^ 15 % 32) + x.get (w / 2 ^ 20 % 32)) % 2 ^ 64) ∧
        t.walkStore = s.walkStore ∧ .walkerHartInstruction n ∈ t.events)

/-- 05 R106, R112, R113, 16 R339: a lease-clock check within one count keeps the section, another drops all its entries, counts it
and sends LEASE_SKEW to its handler; a lost reference drops the entries of every section until it returns; the access counts of
pages are halved at each decay period; a pending LEASE_SKEW of a free context is dropped. -/
def Obligations.LeaseClockSteps : Prop :=
  ∀ (s : State) (n : Nat),
    (∀ x, x = (s.slice n).skew + Config.skewOf s.tick →
      (-1 ≤ x ∧ x ≤ 1 → ∃ t, exec .leaseSkewCheck (s.due (.leaseSkewCheck n)) = .next t ∧ (t.slice n).skew = x ∧
        (t.slice n).sect = (s.slice n).sect ∧ { due := s.leaseNow + 1024, step := .leaseSkewCheck n } ∈ t.timers) ∧
      (¬ (-1 ≤ x ∧ x ≤ 1) → ∃ t, exec .leaseSkewCheck (s.due (.leaseSkewCheck n)) = .next t ∧ (t.slice n).sect = [] ∧
        (t.slice n).skew = 0 ∧ t.regs.skews = (s.regs.skews + 1) % 2 ^ 32 ∧
        .leaseSkewDelivery (fld s.regs.leaseCtl 31 24) (fld s.regs.leaseCtl 20 16) ∈ t.events)) ∧
    (∃ t, exec .referenceLost (s.due .referenceLost) = .next t ∧ t.regs.refLost = true ∧ (t.slice n).sect = [] ∧
      t.dense = s.dense) ∧
    (∃ t, exec .referenceReturn (s.due .referenceReturn) = .next t ∧ t.regs.refLost = false ∧ t.slices = s.slices) ∧
    (fld s.regs.migCtl 31 16 ≠ 0 → ∃ t, exec .migrationDecay (s.due .migrationDecay) = .next t ∧
      (t.slice n).migs = (s.slice n).migs.map (fun e => { e with cnt0 := e.cnt0 / 2, cnt1 := e.cnt1 / 2 }) ∧
      { due := s.leaseNow + 1024 * fld s.regs.migCtl 31 16, step := .migrationDecay } ∈ t.timers) ∧
    (∀ c x, (s.ctx c x).cstate = .free →
      ∃ t, exec .leaseSkewDelivery (s.due (.leaseSkewDelivery c x)) = .next t ∧ (t.ctx c x).skew = none ∧
        t.events = s.events) ∧
    (∀ c x k now, (s.ctx c x).cstate = .active → (s.ctx c x).held = false → (s.ctx c x).wait = .queue 0 →
      (s.ctx c x).tags = [] → (s.ctx c x).skew = some (k, now) → (s.ctx c x).trapVa ≠ 0 →
      ∃ t, exec .leaseSkewDelivery (s.due (.leaseSkewDelivery c x)) = .next t ∧ (t.ctx c x).skew = none ∧
        (t.ctx c x).trapCause = BitVec.ofNat 64 (256 + Cause.leaseSkew.code) ∧ (t.ctx c x).info0 = BitVec.ofNat 64 k)

/-! Steps of the home slices and of the cores' caches (03 R65 to R75; 04 R84 to R87; 08 R173; 12 R250 to R258). -/

/-- 03 Table 3.7, R68 to R71, R74: what a home does with a request it takes up. A load of words that no other agent has
registered is answered with the line's bytes; each word that a core of this cube has registered is forwarded to it; a `wt`
store writes its bytes, over the word of its core that comes with it, takes the words from their registrants and tells how
many acknowledgements to expect; `own` registers the words and grants them; a write-back of words still registered to the
sender writes the dirty ones; the answer of a revoked registrant brings a dirty value home; a lost registrant's word is freed
and its line poisoned. 03 Table 3.7, R68, R74: the answer of a registrant called back writes a dirty value at home and frees
the word; a registrant lost to a revocation loses its word, whose line is poisoned, with a record and the acknowledgement that
the writer awaits. -/
def Obligations.HomesAndRegistrants : Prop :=
  (∀ (s : State) (r : Req) (l : Nat), Accepted s r l →
     let line := l / 128
     let sl := s.slice (sliceOf line)
     (∀ n hint, r.act = .load n 1 hint → r.readCk = false → r.writeCk = false → s.poisoned line = false →
       (s.othersOf r line (r.want n) = [] → ∃ t, exec .req (s.due (.req r)) = .next t ∧ t.homeLine line = s.homeLine line ∧
         .data (lineAns r (r.want n) (s.homeLine line)) ∈ t.events) ∧
       (∀ g, g ∈ s.othersOf r line (r.want n) → g.agent / 256 = s.cubeId →
         ∃ t q, exec .req (s.due (.req r)) = .next t ∧ t.homeLine line = s.homeLine line ∧
           .fwdRead (s.wordMsg g r.who r.id) q ∈ t.events ∧ q.who = r.who ∧ q.id = r.id ∧ q.act = r.act ∧ q.local_ = l ∧
           q.words = r.want n)) ∧
     (∀ hint d, r.act = .store 1 hint d → r.readCk = false → r.writeCk = false → Writable s l d.length →
       l % 128 / 4 * 4 + r.under.length ≤ 128 →
       ∃ t, exec .req (s.due (.req r)) = .next t ∧
         t.homeLine line = overlay (overlay (s.homeLine line) (l % 128 / 4 * 4) r.under) (l % 128) d ∧
         (∀ g, g ∈ (t.slice (sliceOf line)).regs ↔ g ∈ sl.regs ∧ g ∉ s.othersOf r line (wordMask l d.length)) ∧
         .ackWt { r.ans .ok with n := (s.othersOf r line (wordMask l d.length)).length +
           ((sl.sharersOf line).filter fun q => r.holder != some q).length } ∈ t.events) ∧
     (∀ n hint p, r.act = .load n 3 hint → r.readCk = false → r.writeCk = false → s.poisoned line = false →
       r.holder = some p → sl.regs.length ≤ 32736 →
       ∃ t a, exec .req (s.due (.req r)) = .next t ∧ t.homeLine line = s.homeLine line ∧ .grant a ∈ t.events ∧ a.who = r.who ∧
         a.id = r.id ∧ a.st = .ok ∧ a.data = s.homeLine line ∧
         a.n = ((sl.sharersOf line).filter fun q => q != p).length ∧
         ∀ w, w < 32 → bitOf (r.want n) w = true → ∃ g, g ∈ (t.slice (sliceOf line)).regs ∧ g.line = line ∧ g.word = w ∧
           g.isOf r.holder = true) ∧
     (∀ mask dirty data, r.act = .wb mask dirty data → Writable s l 0 → data.length = 128 →
       let mine (w : Nat) : Prop := bitOf mask w = true ∧ ∃ g, g ∈ sl.regs ∧ g.line = line ∧ g.word = w ∧ g.isOf r.holder = true
       ∃ t m, exec .wb (s.due (.wb r)) = .next t ∧ .wbAck m ∈ t.events ∧ m.wid = r.id ∧ m.writer = r.who ∧
         (∀ w, w < 32 → (mine w → bitOf dirty w = true → wordOfLine (t.homeLine line) w = wordOfLine data w) ∧
           (¬ mine w ∨ bitOf dirty w = false → wordOfLine (t.homeLine line) w = wordOfLine (s.homeLine line) w)) ∧
         ∀ g, g ∈ (t.slice (sliceOf line)).regs ↔ g ∈ sl.regs ∧
           ¬ (g.line = line ∧ g.isOf r.holder = true ∧ bitOf mask g.word = true))) ∧
  (∀ (s : State) (m : CohMsg),
     let is (g : RegWord) : Prop := g.line = m.line ∧ g.word = m.word ∧ g.agent = m.agent
     (s.svc.snoops = [] → m.word < 32 → Writable s (m.line * 128) 0 → ∀ g, g ∈ (s.slice (sliceOf m.line)).regs → is g →
       g.space = m.space → g.vline = m.vline → g.host = m.host →
       (∀ v, ∃ t, exec .rwbData (s.due (.rwbData m (some v))) = .next t ∧
         HomeWritten s t (m.line * 128 + m.word * 4) (toBytes v 4) ∧ g ∉ (t.slice (sliceOf m.line)).regs) ∧
       (∃ t, exec .rwbData (s.due (.rwbData m none)) = .next t ∧ t.homeLine m.line = s.homeLine m.line ∧
         g ∉ (t.slice (sliceOf m.line)).regs)) ∧
     (m.host = false → ∀ r,
       ∃ t e, exec .remoteLostAtHome (s.due (.remoteLostAtHome m 1 r)) = .next t ∧ t.poisoned m.line = true ∧
         (∀ g, g ∈ (t.slice (sliceOf m.line)).regs → ¬ is g) ∧ .errorRecordItem e ∈ t.events ∧ e.code = 0x11 ∧
         e.local_ = m.line * 128 + m.word * 4 ∧ (m.writer.cube = s.cubeId → .invAck m ∈ t.events)))

/-- 12 R251, R255, R258; 08 R173; 03 R68: at its home an atomic or counter operation first calls back what is registered or
shared of its word; then it writes the new value over the old one in one step and answers the old one, an overflowing add
writes nothing and fails, and an add satisfies the watches that its counter has reached. A registration that is already
satisfied is answered at once, one that finds room and none waiting is installed, another waits, in order of arrival, until
room is free; a cancelled one is gone. 04 R84, R86, R87: a first access of a region is checked word by word: a tag of another
context that the home does not know to be live is asked for, a live one makes the access a race, and else the access leaves
its tag where its context can count one more; liveness answers end the wait of their line, or are counted for a sweep; a
sweep, made again and again, drops the tags of this cube's contexts that no longer run the region and asks for those of other
cubes; a dropped tag is counted off at its core, where a boundary that waited retires once every checked access is answered
and the half of the serials that it enters has no tag left. -/
def Obligations.HomeAtomicsCountersAndRaces : Prop :=
  (∀ (s : State) (r : Req) (l : Nat), Accepted s r l →
     let line := l / 128
     let sl := s.slice (sliceOf line)
     let r1 := { r with local_ := l, arrived := true, served := false, counted := true }
     let read (n : Nat) : Nat := ofBytes (((s.homeLine line).drop (l % 128)).take n)
     (∀ op form ty v cmp mg dir, r.act = .atomic op form ty v cmp mg dir →
       (s.shared line (wordMask l (atomWidth ty)) r.holder = true →
         ∃ t h, exec .atomicAtHome (s.due (.atomicAtHome r)) = .next t ∧ t.holdOf line = some h ∧
           h.step = some (.atomicAtHome r1) ∧ t.homeLine line = s.homeLine line) ∧
       (s.shared line (wordMask l (atomWidth ty)) r.holder = false → s.poisoned line = false → Writable s l (atomWidth ty) →
         let old := read (atomWidth ty)
         let x := atomNew op ty old v cmp
         ∃ t, exec .atomicAtHome (s.due (.atomicAtHome r)) = .next t ∧ HomeWritten s t l (toBytes x.1 (atomWidth ty)) ∧
           .data { r.ans .ok with value := atomOld ty old, flags := if form = 1 then x.2.toNat else 0 } ∈ t.events ∧
           ∀ d, dir = some d → d.core / 256 = s.cubeId →
             .directedAtomicValue { dir := d, value := atomOld ty old, org := r.org, space := r.space } ∈ t.events)) ∧
     (∀ op v, r.act = .counter op v → s.shared line (wordMask l 8) r.holder = false → s.poisoned line = false → Writable s l 8 →
       let old := read 8
       let exec' := exec .counterOpAtHome (s.due (.counterOpAtHome r))
       (2 ≤ op → ∃ t, exec' = .next t ∧ .data { r.ans .ok with value := old } ∈ t.events ∧ t.homeLine line = s.homeLine line) ∧
       (op < 2 → old + v < 2 ^ 64 → ∃ t, exec' = .next t ∧ .data { r.ans .ok with value := old } ∈ t.events ∧
         HomeWritten s t l (toBytes (old + v) 8) ∧
         ∀ w, w ∈ sl.watches → if w.local_ = l ∧ w.target ≤ old + v then w ∉ (t.slice (sliceOf line)).watches ∧
           (w.who.cube = s.cubeId → .satisfied w.who w.id (old + v) ∈ t.events) else w ∈ (t.slice (sliceOf line)).watches) ∧
       (op < 2 → 2 ^ 64 ≤ old + v → ∃ t, exec' = .next t ∧ .data (r.fail .counterOverflow v old) ∈ t.events ∧
         t.homeLine line = s.homeLine line)) ∧
     (∀ target lo hi, r.act = .watch target → s.word32 l = some lo → s.word32 (l + 4) = some hi →
       let v := lo + 2 ^ 32 * hi
       let exec' := exec .watchRegistration (s.due (.watchRegistration r))
       (target ≤ v → r.who.cube = s.cubeId → ∃ t, exec' = .next t ∧ t.slices = s.slices ∧ .data (r.ans .ok) ∈ t.events ∧
         .satisfied r.who r.id v ∈ t.events) ∧
       (v < target → sl.watches.length < 4096 → r.turn = true ∨ sl.watchWait = [] → ∃ t, exec' = .next t ∧
         .data (r.ans .ok) ∈ t.events ∧
         (t.slice (sliceOf line)).watches = sl.watches ++ [{ local_ := l, target := target, who := r.who, id := r.id }]) ∧
       (v < target → 4096 ≤ sl.watches.length ∨ (r.turn = false ∧ sl.watchWait ≠ []) → ∃ t, exec' = .next t ∧
         t.events = s.events ∧ (t.slice (sliceOf line)).watches = sl.watches ∧ (t.slice (sliceOf line)).watchWait =
           if r.turn = true then .watchRegistration r1 :: sl.watchWait else sl.watchWait ++ [.watchRegistration r1])) ∧
     (∀ id, r.act = .unwatch id → ∃ t, exec .watchRegistration (s.due (.watchRegistration r)) = .next t ∧
       .data (r.ans .ok) ∈ t.events ∧
       ∀ w, w ∈ (t.slice (sliceOf line)).watches ↔ w ∈ sl.watches ∧ ¬ (w.id = id ∧ w.who = r.who)) ∧
     (∀ n rest, (s.slice n).watches.length < 4096 →
       (∀ q, (s.slice n).watchWait = .watchRegistration q :: rest →
         ∃ t, exec .watchRegistrationRetry (s.due (.watchRegistrationRetry n)) = .next t ∧
           t.events = .watchRegistration { q with turn := true } :: s.events ∧ (t.slice n).watchWait = rest) ∧
       (∀ m, (s.slice n).watchWait = .holdTransferInstall m :: rest →
         ∃ t, exec .watchRegistrationRetry (s.due (.watchRegistrationRetry n)) = .next t ∧ (t.slice n).watchWait = rest ∧
           t.events = .holdTransferInstall m :: s.events ++ if rest = [] then [] else [.watchRegistrationRetry n]))) ∧
  ((∀ (s : State) (r : Req) (l : Nat), Accepted s r l →
     let line := l / 128
     let sl := s.slice (sliceOf line)
     (∀ w, r.act = .notice true w → r.readCk = false → r.writeCk = false → s.poisoned line = false →
       s.othersOf r line r.words = [] → ∃ t, exec .regionReadNotice (s.due (.regionReadNotice r)) = .next t ∧
         .data (lineAns r r.words (s.homeLine line)) ∈ t.events) ∧
     (∀ rd wr, r.act = .notice rd wr → (r.readCk || r.writeCk) = true →
       ((∀ w, w ∈ maskWords r.words → sl.race line w = none) → sl.races.length ≤ 16352 →
         (maskWords r.words).length ≤ r.room → ∃ t, exec .regionNotice (s.due (.regionNotice r)) = .next t ∧
           .data { r.ans .ok with mask := r.words, tagSet := (maskWords r.words).length } ∈ t.events ∧
           ∀ w, w ∈ maskWords r.words → ∃ e, (t.slice (sliceOf line)).race line w = some e ∧
             e.wtag = (if wr then some r.tag else none) ∧ e.rtags = if wr then [] else [r.tag]) ∧
       (∀ w e g, w < 32 → r.words = 2 ^ w → sl.race line w = some e → g ∈ (if wr then e.tags else e.wtag.toList) →
         tagCtx g ≠ tagCtx r.tag → (∀ x, x ∈ e.tags → (r.known.any fun k => k.1 == x) = true ∧ deadTag r.known x = false) →
         ∃ t i1, exec .regionNotice (s.due (.regionNotice r)) = .next t ∧ t.slices = s.slices ∧
           .data (r.fail .race i1 (infoHome s.cubeId (line * 128 + w * 4))) ∈ t.events) ∧
       (∀ w e g, w < 32 → r.words = 2 ^ w → sl.race line w = some e → g ∈ e.tags → tagCtx g ≠ tagCtx r.tag →
         (r.known.any fun k => k.1 == g) = false → tagCore g / 256 = s.cubeId →
         ∃ t h, exec .regionNotice (s.due (.regionNotice r)) = .next t ∧ t.slices = s.slices ∧ t.holdOf line = some h ∧
           h.step = some { r with local_ := l, arrived := true, served := false, counted := true }.event ∧
           .check { tag := g, home := s.cubeId, line := line, live := false } ∈ t.events))) ∧
   (∀ (s : State) (c : CheckMsg),
     (c.e2e = none → ∃ t, exec .check (s.due (.check c)) = .next t ∧ t.events = s.events ++ [.checkAnswer { c with
       live := (s.ctx (tagCore c.tag % 256) (tagSlot c.tag)).serial.toNat == c.tag % 65536 }]) ∧
     (c.sweep = true →
       let k := s.slice c.line
       ∃ t, exec .checkAnswer (s.due (.checkAnswer c)) = .next t ∧ (c.live = true → (t.slice c.line).races = k.races) ∧
         (c.live = false → ∀ e, e ∈ (t.slice c.line).races → c.tag ∉ e.tags) ∧
         if k.sweepLeft ≤ 1 then (t.slice c.line).sweepLeft = 0 ∧ (t.slice c.line).raceNow = [] ∧
           ∀ e, e ∈ k.raceNow → e ∈ t.events
         else (t.slice c.line).sweepLeft = k.sweepLeft - 1 ∧ (t.slice c.line).raceNow = k.raceNow) ∧
     ∀ h, c.sweep = false → s.holdOf c.line = some h →
       ∃ t, exec .checkAnswer (s.due (.checkAnswer c)) = .next t ∧
         if h.acks ≤ 1 then t.holdOf c.line = none ∧ t.events =
           (h.step.map fun e => e.withKnown (h.known ++ [(c.tag, c.live)])).toList ++ h.queue ++ s.events
         else t.holdOf c.line = some { h with acks := h.acks - 1, known := h.known ++ [(c.tag, c.live)] } ∧
           t.events = s.events) ∧
   (∀ (s : State) (n : Nat),
     let live (g : Nat) : Prop := tagCore g / 256 ≠ s.cubeId ∨
       (s.ctx (tagCore g % 256) (tagSlot g)).serial.toNat = g % 65536
     let far : Prop := ∃ e g, e ∈ (s.slice n).races ∧ g ∈ e.tags ∧ tagCore g / 256 ≠ s.cubeId
     let again : Timer := { due := s.leaseNow + sweepCounts, step := .sweepPass n }
     ((s.slice n).sweepLeft ≠ 0 →
       ∃ t, exec .sweepPass (s.due (.sweepPass n)) = .next t ∧ t.slices = s.slices ∧ again ∈ t.timers) ∧
     ((s.slice n).sweepLeft = 0 → ∃ t, exec .sweepPass (s.due (.sweepPass n)) = .next t ∧ again ∈ t.timers ∧
       (t.slice n).raceWait = [] ∧ (¬ far → ∀ e, e ∈ (s.slice n).raceWait → e ∈ t.events) ∧
       (far → (t.slice n).raceNow = (s.slice n).raceWait ∧ (t.slice n).sweepLeft ≠ 0) ∧
       (∀ e, e ∈ (t.slice n).races → ∀ g, g ∈ e.tags → live g) ∧
       (∀ e g, e ∈ (s.slice n).races → g ∈ e.tags →
         if live g then ∃ e', e' ∈ (t.slice n).races ∧ e'.line = e.line ∧ e'.word = e.word ∧ g ∈ e'.tags
         else .tagfree (tagCore g) [g] ∈ t.events)) ∧
     (∀ g,
       let x := s.ctx (n % 256) (tagSlot g)
       ∃ t, exec .tagfree (s.due (.tagfree n [g])) = .next t ∧
         (t.ctx (n % 256) (tagSlot g)).tch = x.tch - b2n (bitOf g 15) ∧
         (t.ctx (n % 256) (tagSlot g)).tcl = x.tcl - b2n (!bitOf g 15) ∧
         .boundarySerialWait (n % 256) (tagSlot g) ∈ t.events) ∧
     ∀ c x, (s.ctx c x).wait = .serial →
       let k := s.ctx c x
       let next := k.serial + 1#16
       let clear : Prop := (next.toNat % 2 ^ 15 = 0 → (if next.toNat = 0 then k.tcl else k.tch) = 0) ∧
         ∀ o, o ∈ s.outs → o.who = { kind := .thread, core := s.gcore c, idx := x } → o.tracked = false
       ∃ t, exec .boundarySerialWait (s.due (.boundarySerialWait c x)) = .next t ∧
         (¬ clear → t.ctx c x = k) ∧ (clear → k.bdue = 0 → t.ctx c x = { k with wait := .none }) ∧
         (clear → k.bdue = 1 → t.ctx c x = { k with serial := next, bdue := 0, wait := .none })))

/-- 03 Table 3.7, R63, R67, R68, R71: what a core does with the messages of a home. An INV leaves only its owned words valid
and is acknowledged; a forward answers the requester with the owned word, which FWD_OWN hands over; a revoked word is dropped,
or with REVOKE_WB kept as a copy while its dirty value goes home; a message behind others about its line that wait at the core
waits behind them; the acknowledged write-back frees its place, and what waited for one is tried again. 03 R58, R67 to R69; 01
R19; 04 R85; 05 R108; 12 R244, R252: how an answer ends a thread's request. A load whose words have all come ends with its
bytes, those of words that its core owns as they stand there, and FILL leaves them in the line as copies; a failure traps with
its address, a race with that of the word; the grant of a store makes its words owned and dirty with the stored bytes, and it
and ACK_WT tell how many acknowledgements to expect; the notice of a watch lets its `cwait` go on, a dropped one traps; a
refused request is sent again, to the home named, at once or after 1,024 counts, until its limit, and looked up again where
its lease has ended meanwhile. -/
def Obligations.CopiesAndAnswers : Prop :=
  (∀ (s : State) (m : CohMsg), m.host = false →
     let c := m.agent % 256
     let near (t : State) : Option NLine := (t.core c).nearLine m.space m.vline
     let behind : Prop := ∃ e, e ∈ (s.core c).fwds ∧ aboutLine m e = true
     let waits (e : Ev) (t : State) : Prop := (t.core c).fwds = (s.core c).fwds ++ [e] ∧ t.events = s.events
     (behind → ∀ r,
       (∃ t, exec .inv (s.due (.inv m)) = .next t ∧ waits (.inv m) t) ∧
       (∃ t, exec .fwdRead (s.due (.fwdRead m r)) = .next t ∧ waits (.fwdRead m r) t) ∧
       (∃ t, exec .fwdOwn (s.due (.fwdOwn m r)) = .next t ∧ waits (.fwdOwn m r) t) ∧
       (∃ t, exec .revoke (s.due (.revoke m)) = .next t ∧ waits (.revoke m) t) ∧
       ∃ t, exec .revokeWb (s.due (.revokeWb m)) = .next t ∧ waits (.revokeWb m) t) ∧
     (¬ behind → s.fillComing m = false → m.writer.cube = s.cubeId →
       ∃ t, exec .inv (s.due (.inv m)) = .next t ∧ .invAck m ∈ t.events ∧
         (t.core c).near = (s.core c).near.map fun l =>
           if l.space = m.space ∧ l.vline = m.vline then { l with v := l.v &&& l.o } else l) ∧
     (∀ v d, ¬ behind → s.ownedWord m = some (v, d) →
       (∀ r : Req, r.cube = s.cubeId →
         (∃ t a, exec .fwdRead (s.due (.fwdRead m r)) = .next t ∧ t.cores = s.cores ∧ .data a ∈ t.events ∧ a.who = r.who ∧
           a.id = r.id ∧ a.st = .ok ∧ a.mask = 2 ^ m.word ∧ a.dirty = 0 ∧ wordOfLine a.data m.word = v) ∧
         (∃ t a, exec .fwdOwn (s.due (.fwdOwn m r)) = .next t ∧ t.ownedWord m = none ∧ .data a ∈ t.events ∧ a.who = r.who ∧
           a.id = r.id ∧ a.st = .ok ∧ a.mask = 2 ^ m.word ∧ a.dirty = (if d then 2 ^ m.word else 0) ∧
           wordOfLine a.data m.word = v)) ∧
       (m.writer.cube = s.cubeId → ∃ t, exec .revoke (s.due (.revoke m)) = .next t ∧ t.ownedWord m = none ∧
         .invAck m ∈ t.events) ∧
       (m.home = s.cubeId → ∃ t, exec .revokeWb (s.due (.revokeWb m)) = .next t ∧ t.ownedWord m = none ∧
         .rwbData m (if d then some v else none) ∈ t.events ∧
         ∀ x, near s = some x → ∃ y, near t = some y ∧ y.v = x.v ∧ y.data = x.data)) ∧
     (∃ t, exec .wbAck (s.due (.wbAck m)) = .next t ∧
       (t.core c).wbuf = (s.core c).wbuf.eraseP (fun l => l.space == m.space && l.vline == m.vline) ∧
       (∀ o, o ∈ t.outs → o.id ≠ m.wid) ∧ .wbBufferRetry c ∈ t.events) ∧
     (∃ t, exec .wbBufferRetry (s.due (.wbBufferRetry c)) = .next t ∧ t.events = (s.core c).fills ++ s.events ∧
       (t.core c).fills = [] ∧ ∀ x, (t.ctx c x).wait = if (s.ctx c x).wait = .wbuf then .none else (s.ctx c x).wait) ∧
     (s.svc.snoops = [] →
       (m.writer.kind = .thread → ∃ t, exec .invAck (s.due (.invAck m)) = .next t ∧
         (t.ctx (m.writer.core % 256) m.writer.idx).ackbal = (s.ctx (m.writer.core % 256) m.writer.idx).ackbal - 1) ∧
       (∀ h, m.writer.kind = .home → s.holdOf m.wid = some h → 1 < h.acks →
         ∃ t, exec .invAck (s.due (.invAck m)) = .next t ∧ t.holdOf m.wid = some { h with acks := h.acks - 1 }))) ∧
  (∀ (s : State),
     (∀ (a : Ans) (o : Out), s.out a.who a.id = some o → o.who.kind = .thread → o.req.readCk = false → o.req.writeCk = false →
       a.tagSet = 0 → s.svc.snoops = [] →
       let c := o.who.core % 256
       let x := o.who.idx
       let near (t : State) : Option NLine := (t.core c).nearLine o.req.space (o.req.va / 128)
       let done (t : State) (n : Nat) : Prop := (t.ctx c x).wait = .none ∧ (∀ q, q ∈ t.outs → q.id ≠ o.id) ∧
         (t.ctx c x).got = (s.ctx c x).got ++ [(s.takeWords o a).bytes n]
       (∀ n pol hint, o.req.act = .load n pol hint → pol ≠ 3 → o.purp = .buf → (s.ctx c x).wait = .access o.id → a.st = .ok →
         (o.absorb a).lacks = 0 → s.ownComing o a.mask = false →
         (pol = 1 → ∃ t, exec .data (s.due (.data a)) = .next t ∧ done t n) ∧
         (∃ t, exec .nocache (s.due (.nocache a)) = .next t ∧ done t n) ∧
         (∀ l, near s = some l → ∃ t l', exec .fill (s.due (.fill a)) = .next t ∧ done t n ∧ near t = some l' ∧ l'.o = l.o ∧
           ∀ w, w < 32 → bitOf a.mask w = true → l.o.getLsbD w = false →
             l'.v.getLsbD w = true ∧ wordOfLine l'.data w = wordOfLine (mergeWords l.data a.data a.mask) w)) ∧
       (∀ n hint code i1 i2, o.req.act = .load n 1 hint → o.purp = .buf → (s.ctx c x).wait = .access o.id →
         a.st = .fail code i1 i2 → (s.ctx c x).held = false →
         ∃ t, exec .data (s.due (.data a)) = .next t ∧ (t.ctx c x).trapPc = BitVec.ofNat 64 ((s.ctx c x).pc.toNat % 2 ^ 48) ∧
           (t.ctx c x).trapCause = BitVec.ofNat 64 (256 + (causeOf code).code) ∧
           (t.ctx c x).info0 = BitVec.ofNat 64
             (if code = Cause.race.code then o.req.va / 128 * 128 + i2 % 128 else o.req.va) ∧
               (t.ctx c x).info1 = BitVec.ofNat 64 i1 ∧
           (t.ctx c x).info2 = BitVec.ofNat 64 i2) ∧
       (∀ hint d l, o.req.act = .store 3 hint d → o.purp = .store → o.granted = false → a.st = .ok →
         (o.absorb a).lacks = 0 → o.req.words = wordMask o.req.va d.length → o.req.va % 128 + d.length ≤ 128 → near s = some l →
         ∃ t l', exec .grant (s.due (.grant a)) = .next t ∧ (t.ctx c x).ackbal = (s.ctx c x).ackbal + a.n ∧
           (t.ctx c x).pendg = (s.ctx c x).pendg - b2n o.left ∧ near t = some l' ∧
           (∀ w, w < 32 → bitOf o.req.words w = true →
             l'.v.getLsbD w = true ∧ l'.o.getLsbD w = true ∧ l'.d.getLsbD w = true) ∧
           ∀ i, i < d.length → nthD l'.data (o.req.va % 128 + i) 0#8 = nthD d i 0#8) ∧
       (∀ hint d, o.req.act = .store 1 hint d → o.purp = .store → a.st = .ok →
         ∃ t, exec .ackWt (s.due (.ackWt a)) = .next t ∧ (t.ctx c x).ackbal = (s.ctx c x).ackbal + a.n ∧
           (t.ctx c x).pendg = (s.ctx c x).pendg - b2n o.left ∧ (∀ q, q ∈ t.outs → q.id ≠ o.id) ∧ t.slices = s.slices)) ∧
     (∀ (who : Agent) (id : Nat), who.kind = .thread → (s.ctx (who.core % 256) who.idx).wait = .watch id →
       let c := who.core % 256
       (∀ v, ∃ t, exec .satisfied (s.due (.satisfied who id v)) = .next t ∧ (t.ctx c who.idx).wait = .none ∧
         (t.ctx c who.idx).gotWord 0 = v % 2 ^ 64 ∧ ∀ q, q ∈ t.outs → q.id ≠ id) ∧
       (∀ addr e f g, (s.ctx c who.idx).cw = some (addr, e, f, g) → (s.ctx c who.idx).held = false →
         ∃ t, exec .dropped (s.due (.dropped who id)) = .next t ∧
           (t.ctx c who.idx).trapCause = BitVec.ofNat 64 (256 + Cause.accessError.code) ∧
           (t.ctx c who.idx).info0 = BitVec.ofNat 64 addr ∧ (t.ctx c who.idx).info2 = 3#64)) ∧
     (∀ (n : NackMsg) (o : Out), n.e2e = none → s.out n.who n.id = some o →
       let again (t : State) (ver red : Nat) : Prop := ∃ r : Req, r.event ∈ t.events ∧ r.ver = ver ∧ r.redirects = red ∧
         r.id = o.req.id ∧ r.act = o.req.act ∧ r.pa = o.req.pa
       let lookup (t : State) : Prop := ∃ r : Req, .sectionLookup r ∈ t.events ∧ r.again = true ∧ r.id = o.req.id ∧
         r.act = o.req.act ∧ r.va = o.req.va
       (n.reason = 0 ∨ n.reason = 3 → n.hint = some s.cubeId → s.wanted o.who o.req = true →
         ∃ t, exec .nack (s.due (.nack n)) = .next t ∧
         if o.req.redirects < 8 then
           (if s.leaseOver o.req = true then lookup t else again t n.ver (o.req.redirects + 1))
         else .data (o.req.ans (.fail Cause.accessError.code 0 3)) ∈ t.events) ∧
       (n.reason = 1 ∨ n.reason = 2 ∨ n.reason = 6 → ∃ t, exec .nack (s.due (.nack n)) = .next t ∧
         if o.req.waits < 64 then { due := s.leaseNow + 1024, step := .backoffExpiry n } ∈ t.timers
         else .data (o.req.ans (.fail Cause.accessError.code 0 3)) ∈ t.events) ∧
       (n.reason = 4 → ∃ t, exec .nack (s.due (.nack n)) = .next t ∧ .sectionLookup { o.req with again := true } ∈ t.events) ∧
       (∀ p, s.layout o.req.pa = some p → p.cube = s.cubeId → s.wanted o.who o.req = true →
         ∃ t, exec .backoffExpiry (s.due (.backoffExpiry n)) = .next t ∧
           if s.leaseOver o.req = true then lookup t
           else again t (if n.reason = 5 ∨ n.reason = 6 then o.req.ver else newerVer p.ver n.ver) o.req.redirects)))

/-! Steps of the links, the router and the end-to-end unit (06 R119 to R146; 14 R300 to R304). -/

/-- 06 R121, R145, R146, Table 6.11: the life of a port. Locks, HELLO and HELLO_ACK bring a training port UP; one that is not UP
in time is DOWN; enabling trains it, fencing waits until all is sent and returned, FENCE and FENCE_ACK end with both sides FENCED,
disabling turns it DOWN; silence or a lost lane ISOLATES it, with a record. -/
def Obligations.PortLifeCycle : Prop :=
  ∀ (s : State) (p : Nat), let q := s.port p
    let others (t : State) : Prop := ∀ j, j ≠ p → t.port j = s.port j
    let lost (t : State) : Prop := (t.port p).state = 5 ∧ ∃ e, .errorRecordItem e ∈ t.events ∧ e.source = 2 ∧
      e.code = Cause.remoteLost.code ∧ e.detail = q.peer
    (q.state = 1 →
      (∃ t, exec .laneLock (s.due (.laneLock p)) = .next t ∧ t.port p = { q with laneLock := true } ∧ others t) ∧
      (q.laneLock = true → q.blockLock = false → ∃ t, exec .blockLock (s.due (.blockLock p)) = .next t ∧
        t.port p = { q with blockLock := true } ∧ others t ∧ .helloInterval p q.epoch ∈ t.events) ∧
      (q.blockLock = true → q.lanesOn = true →
        (∃ t, exec .helloInterval (s.due (.helloInterval p q.epoch)) = .next t ∧ Sent s t p (.hello s.cubeId p s.cubeSet) ∧
          others t ∧ { due := s.leaseNow + 66, step := .helloInterval p q.epoch } ∈ t.timers) ∧
        (∀ cube peer, s.cubeSet = true → ∃ t, exec .hello (s.due (.hello p cube peer true)) = .next t ∧
          (t.port p).peer = cube ∧ (t.port p).peerPort = peer ∧ (t.port p).ackSent = true ∧
          Sent s t p (.helloAck s.cubeId p s.cubeSet) ∧ (t.port p).state = if q.ackGot then 2 else 1) ∧
        (∀ cube peer set, ∃ t, exec .helloAck (s.due (.helloAck p cube peer set)) = .next t ∧ (t.port p).ackGot = true ∧
          (t.port p).rxNum = 0 ∧ (t.port p).state = if q.ackSent then 2 else 1)) ∧
      (∃ t, exec .trainingTimeout (s.due (.trainingTimeout p q.epoch)) = .next t ∧ (t.port p).state = 0 ∧
        (t.port p).lanesOn = false ∧ others t)) ∧
    (∃ t, exec .portEnable (s.due (.portEnable p)) = .next t ∧
      if q.state = 1 ∨ q.state = 2 then t.fabric = s.fabric
      else (t.port p).state = 1 ∧ (t.port p).lanesOn = true ∧
        { due := s.leaseNow + 1000000, step := .trainingTimeout p (t.port p).epoch } ∈ t.timers) ∧
    (∃ t, exec .portDisable (s.due (.portDisable p)) = .next t ∧ (t.port p).state = 0) ∧
    (q.state = 2 → ∃ t, exec .portFence (s.due (.portFence p)) = .next t ∧ t.port p = { q with state := 3 } ∧ others t ∧
      (q.drained = true → q.fenceSent = false → .fenceDrained p ∈ t.events)) ∧
    (q.state = 3 → q.drained = true → q.lanesOn = true →
      (q.fencing = true → ∃ t, exec .fenceDrained (s.due (.fenceDrained p)) = .next t ∧ (t.port p).state = 4 ∧
        Sent s t p .fenceAck) ∧
      (q.fencing = false → q.fenceSent = false → ∃ t, exec .fenceDrained (s.due (.fenceDrained p)) = .next t ∧
        (t.port p).state = 3 ∧ (t.port p).fenceSent = true ∧ Sent s t p .fence)) ∧
    (q.state = 2 ∨ q.state = 3 → ∃ t, exec .fenceMsg (s.due (.fenceMsg p)) = .next t ∧
      t.port p = { q with state := 3, fencing := true } ∧ (q.drained = true → .fenceDrained p ∈ t.events)) ∧
    (q.state = 3 → q.fenceSent = true → ∃ t, exec .fenceAck (s.due (.fenceAck p)) = .next t ∧
      t.port p = { q with state := 4 } ∧ others t) ∧
    (q.sends = true →
      (q.heard + 263 ≤ s.leaseNow → ∃ t, exec .linkSilenceTimeout (s.due (.linkSilenceTimeout p q.epoch)) = .next t ∧ lost t) ∧
      (s.leaseNow < q.heard + 263 → ∃ t, exec .linkSilenceTimeout (s.due (.linkSilenceTimeout p q.epoch)) = .next t ∧
        t.fabric = s.fabric ∧
        { due := s.leaseNow + (q.heard + 263 - s.leaseNow), step := .linkSilenceTimeout p q.epoch } ∈ t.timers)) ∧
    (∃ t, exec .laneLockLost (s.due (.laneLockLost p)) = .next t ∧
      (q.state = 1 → t.port p = { q with laneLock := false, blockLock := false }) ∧
      (q.state = 2 ∨ q.state = 3 → lost t) ∧
      (4 ≤ q.state → (t.port p).state = if q.mode = 0 then 1 else 0))

/-- 06 R122, R123, R130, R134: the flow of bundles. The next bundle with a good tag is taken, acknowledged when its flits are
kept, and a packet that ends here committed; the flits of a failed one are sent on as they arrive, before its tag is tested,
and then it asks for a replay and is taken as lost until that comes; a STOMP drops the packet coming in; an acknowledgement
frees the packets it covers, a replay sends again each that was not received whole, returned slots free limit; targets follow
the use of a period, a lowered limit holds at once, and raised limits never promise more than the buffer; while an exchange is
not answered a period announces nothing (the model's choice, log entry 112), and a port with nothing to send sends IDLE. -/
def Obligations.BundlesAndLimits : Prop :=
  ∀ (s : State) (p : Nat), let q := s.port p
    (q.state = 2 → q.lanesOn = true →
      (∀ (b : Bundle) (k : Packet), b.good = true → b.num = q.rxNum → b.flits = .head k :: List.replicate 7 .idle → k.len = 0 →
        k.dst = s.cubeId → ∃ t, exec .bundleReceive (s.due (.bundleReceive p b)) = .next t ∧
          (t.port p).rxNum = (q.rxNum + 1) % 4096 ∧ Sent s t p (.back b.num) ∧
          .packetCommit p { k with hop := k.hop + 1, at_ := s.leaseNow } ∈ t.events) ∧
      (∀ b : Bundle, b.good = false → b.num = q.rxNum → q.discarding = false → q.unsure = false → b.flits ≠ [] →
        ∃ t, exec .bundleReceive (s.due (.bundleReceive p b)) = .next t ∧ (t.port p).unsure = true ∧
          .bundleReceive p { b with flits := [] } ∈ t.events ∧
          ∀ k, b.flits = .head k :: List.replicate 7 .idle → k.dst ≠ s.cubeId → k.pt ≠ 5 →
            .packetForward (some p) { k with hop := k.hop + 1, at_ := s.leaseNow } ∈ t.events) ∧
      (∀ b : Bundle, b.good = false → q.discarding = false → q.fails < 15 → q.partials = none →
        b.num ≠ q.rxNum ∨ q.unsure = true ∨ b.flits = [] → ∃ t, exec .bundleReceive (s.due (.bundleReceive p b)) = .next t ∧
          (t.port p).rxNum = q.rxNum ∧
          (t.port p).discarding = true ∧ (t.port p).tagfail = q.tagfail + 1 ∧ Sent s t p (.lreplay q.rxNum))) ∧
    (q.partials ≠ none → ∃ t, exec .stompFlit (s.due (.stompFlit p)) = .next t ∧ (t.port p).partials = none ∧
      (t.port p).tagfail = q.tagfail + 1) ∧
    (q.quiet → ∀ n, ∃ t, exec .back (s.due (.back p n)) = .next t ∧
      (t.port p).replay = q.replay.filter fun r => !(r.whole && r.flits.all fun x => bundleUpTo x n)) ∧
    (∀ n, ∃ t, exec .lreplay (s.due (.lreplay p n)) = .next t ∧ ∀ r, r ∈ q.replay → r.stomped = false →
      r.whole = false ∨ (∃ x, x ∈ r.flits ∧ bundleUpTo x ((n + 4095) % 4096) = false) →
      (∃ e, e ∈ (t.port p).resend ∧ e.pkt = r.pkt) ∨ ∃ r', r' ∈ (t.port p).replay ∧ r'.pkt = r.pkt) ∧
    (q.quiet → ∀ c n, ∃ t, exec .credit (s.due (.credit p [(c, n)])) = .next t ∧
      (t.port p).unretOf c = q.unretOf c - n ∧ ∀ d, d ≠ c → (t.port p).unretOf d = q.unretOf d) ∧
    (2 ≤ q.state → q.state ≤ 4 → q.targets = [] → q.lanesOn = true →
      ∃ t l, exec .limitPeriod (s.due (.limitPeriod p q.epoch)) = .next t ∧ (t.port p).targets = q.newTargets ∧
        (t.port p).used = [] ∧ Sent s t p (.limits l) ∧ (∀ c, c < 21 → nthD l c 0 = min (nthD q.newTargets c 137) (q.granted c)) ∧
        { due := s.leaseNow + 66, step := .limitPeriod p q.epoch } ∈ t.timers) ∧
    (2 ≤ q.state → q.state ≤ 4 → q.targets ≠ [] → q.lanesOn = true → q.quiet →
      ∃ t, exec .limitPeriod (s.due (.limitPeriod p q.epoch)) = .next t ∧ (t.port p).targets = q.targets ∧
        (t.port p).used = [] ∧ Sent s t p .idle ∧ { due := s.leaseNow + 66, step := .limitPeriod p q.epoch } ∈ t.timers) ∧
    (q.lanesOn = true → ∀ l, l.length = 21 → ∃ t, exec .limits (s.due (.limits p l)) = .next t ∧
      (∀ c, c < 21 → (t.port p).limit c = nthD l c 0) ∧ Sent s t p .limitAck) ∧
    (q.targets ≠ [] → q.lanesOn = true →
      ((countUp 0 21).map fun c => max (tblGet q.held c 0) (min (nthD q.targets c 137) (q.granted c))).sum ≤ 3072 →
      ∃ t, exec .limitAck (s.due (.limitAck p)) = .next t ∧ (t.port p).targets = [] ∧
        Sent s t p (.limits ((t.port p).limRx.map fun x => x.2)) ∧
        ((countUp 0 21).map fun c => max (tblGet q.held c 0) ((t.port p).granted c)).sum ≤ 3072)

/-- 06 R125, R131, R132, R135 to R139, R144; 14 R300 to R304: a packet takes the link of its route, one for this cube is
committed, and a request without a route is answered NO_ROUTE. A request new to its window is performed and from then on a
duplicate, one ahead of its turn is refused with the SEQ expected; answers end the request they are for; a request unanswered
in time is sent again, and after its last retry fails with REMOTE_LOST. A contribution new to its stream is applied to its
block once; an idle entry goes; a row sent to a group is written and acknowledged. -/
def Obligations.PacketsEndToEnd : Prop :=
  (∀ (s : State) (p : Packet),
    let key := (p.src, p.aux % 4, p.seq)
    let leaves (t : State) (pt dst seq : Nat) : Prop := ∃ k, .packetForward none k ∈ t.events ∧ k.pt = pt ∧ k.dst = dst ∧
      k.seq = seq
    (p.dst = s.cubeId → p.pt ≠ 5 → ∃ t, exec .packetForward (s.due (.packetForward none p)) = .next t ∧
      .packetCommit 16 p ∈ t.events) ∧
    (p.dst ≠ s.cubeId → p.pt ≠ 5 → p.cls ≠ 2 → s.chooseRoute p = none →
      ∃ t, exec .packetForward (s.due (.packetForward none p)) = .next t ∧ leaves t 3 p.src p.seq) ∧
    (p.dst ≠ s.cubeId → p.pt = 5 → p.cls ≠ 2 → s.chooseRoute p = none →
      ∃ t, exec .packetForward (s.due (.packetForward none p)) = .next t ∧ leaves t 3 p.src p.opx) ∧
    (∀ o, p.dst ≠ s.cubeId → p.pt ≠ 5 → s.chooseRoute p = some o → (s.port o).quiet →
      ∃ t, exec .packetForward (s.due (.packetForward none p)) = .next t ∧
        ((∃ e, e ∈ (t.port o).entries ∧ e.pkt = p) ∨ ∃ r, r ∈ (t.port o).replay ∧ r.pkt = p)) ∧
    (∀ port, p.good = false → ∃ t, exec .packetCommit (s.due (.packetCommit port p)) = .next t ∧
      (t.port port).tagfail = (s.port port).tagfail + 1 ∧ t.events = s.events) ∧
    (∀ port, p.good = true →
      let test (x : State) : Seen := windowTest (windowOf x.fabric.windows (e2eKey p.src p.cls)) (p.cls == 0) p.seq
      (p.pt = 1 → ∃ t, exec .packetCommit (s.due (.packetCommit port p)) = .next t ∧ .resp p ∈ t.events) ∧
      (p.pt = 2 → ∃ t, exec .packetCommit (s.due (.packetCommit port p)) = .next t ∧ .ack p ∈ t.events) ∧
      (∀ n, p.pt = 3 → p.msg = .nack n → ∃ t, exec .packetCommit (s.due (.packetCommit port p)) = .next t ∧
        .nack { n with e2e := some key } ∈ t.events) ∧
      (∀ r : Req, p.pt = 0 → p.contribs = [] → p.msg = .req r → packetReserved p = false →
        (test s = .new → ∃ t, exec .packetCommit (s.due (.packetCommit port p)) = .next t ∧ test t = .dup ∧
          { r with e2e := some (p.src, p.cls, p.seq), age := p.age, at_ := p.at_, ver := p.ver, others := [] }.event ∈ t.events) ∧
        (test s = .dup → s.fabric.open_.contains (p.src, p.cls, p.seq) = true →
          ∃ t, exec .packetCommit (s.due (.packetCommit port p)) = .next t ∧ t.events = s.events) ∧
        (∀ e, test s = .gap e → ∃ t, exec .packetCommit (s.due (.packetCommit port p)) = .next t ∧
          leaves t 3 p.src p.seq ∧ test t = .gap e))) ∧
    (∀ o, s.e2eOut p.src (p.aux % 4) p.seq = some o → o.relay = none → s.fabric.waiting = [] →
      (∀ a, p.msg = .data a → bitOf p.aux 2 = false → ∃ t, exec .resp (s.due (.resp p)) = .next t ∧
        .data { a with who := o.who, id := o.id } ∈ t.events ∧ t.e2eOut p.src (p.aux % 4) p.seq = none) ∧
      (∀ r : Req, p.msg = .none → p.contribs = [] → o.pkt.msg = .req r → ackEnds r.act = true →
        ∃ t, exec .ack (s.due (.ack p)) = .next t ∧ .data { r.ans .ok with who := o.who, id := o.id } ∈ t.events ∧
          t.e2eOut p.src (p.aux % 4) p.seq = none))) ∧
  (∀ (s : State) (o : E2EOut) (r : Req), o.cls < 3 → s.e2eOut o.dest o.cls o.seq = some o → o.paused = false → o.relay = none →
    o.pkt.msg = .req r → r.exp = none →
    (o.tries < s.fabric.retries → ∃ t k x, exec .retryTimeout (s.due (.retryTimeout o.dest o.cls o.seq o.sent)) = .next t ∧
      .packetForward none k ∈ t.events ∧ k.rty = true ∧ k.dst = o.dest ∧ k.seq = o.seq ∧
      t.e2eOut o.dest o.cls o.seq = some x ∧ x.tries = o.tries + 1) ∧
    (s.fabric.retries ≤ o.tries → ∃ t, exec .retryTimeout (s.due (.retryTimeout o.dest o.cls o.seq o.sent)) = .next t ∧
      .data { r.ans (.fail Cause.remoteLost.code o.dest 0) with who := o.who, id := o.id } ∈ t.events)) ∧
  (∀ (s : State) (r : Req) (l : Nat) (rop stream c : Nat) (d : List Byte), Accepted s r l → l % 256 = 0 →
    r.act = .red rop stream c d → r.others = [] → s.holdOf (l / 128 + 1) = none → s.fabric.streams = [] →
    s.shared (l / 128) allWords none = false → s.shared (l / 128 + 1) allWords none = false →
    s.poisoned (l / 128) = false → s.poisoned (l / 128 + 1) = false →
    Writable s l 128 → Writable s (l + 128) 128 →
    ∃ t e, exec .redApply (s.due (.redApply r)) = .next t ∧ .data (r.ans .ok) ∈ t.events ∧
      t.homeLine (l / 128) ++ t.homeLine (l / 128 + 1) =
        (redBlock rop (s.homeLine (l / 128) ++ s.homeLine (l / 128 + 1)) d).1 ∧
      t.fabric.streams = [e] ∧ e.stream = stream ∧ (c < 56 → (tblGet e.masks (r.pa / 256) 0#56).getLsbD c = true)) ∧
  (∀ (s : State) (n : Nat), ∃ t, exec .streamEntryIdle (s.due (.streamEntryIdle n)) = .next t ∧
    ∀ e, e ∈ t.fabric.streams ↔ e ∈ s.fabric.streams ∧ ¬ (e.stream = n ∧ e.last + s.fabric.streamLife ≤ s.leaseNow)) ∧
  (∀ (s : State) (m : McastMsg) (hop : Nat), m.who.cube ≠ s.cubeId →
    windowTest (windowOf s.fabric.mcWindows (m.who.cube * 256 + m.group)) false m.seq = .new →
    ∃ t x k, exec .mcast (s.due (.mcast m hop true)) = .next t ∧ .drainRow x ∈ t.events ∧ x.core = s.gcore m.core ∧
      x.handle = m.handle ∧ x.row = m.row ∧ x.data = m.data ∧ .packetForward none k ∈ t.events ∧ k.pt = 2 ∧
      k.dst = m.who.cube ∧ k.seq = m.seq)

/-! Steps that start threads and tasks, wake waiting ones and deliver to cores (07 R152 to R168; 08 R171 to R177; 02 R45 to R49; 12
R252, R257, R263). -/

/-- 07 R152, R154 to R157, R160 to R167; 08 R171, R172, R175: a wake puts its threads' starts to each selected core; the wake
that has waited longest starts its threads with the registers of their starts; the notice of an exit elsewhere frees the
origin context; an arrival takes an inbox slot, or waits for one, and a handler starts with its words; a full inbox starts the
spill thread; migrating contexts go, in their order of arrival, each to a core that can take it, of the home's cluster if one
can; a task admitted without waits is READY under the next number, a malformed one is refused and does not move the rotation
of the inputs; a READY task takes the first core that offers what it needs, and its thread is to start there; a chunk that has
started gives its placement slot back, and the last one its card's pool entry. -/
def Obligations.StartsAndTasks : Prop :=
  (∀ (s : State) (m : LaunchMsg) (c : Nat), c < 256 → bitOf (nthD m.words 3 0) (24 + c / 16) = true →
    bitOf (nthD m.words 3 0) (8 + c % 16) = true → ((countUp 0 8).flatMap fun st => launchStage m 0 0 st) ≠ [] →
    ∃ t key, exec .launchWake (s.due (.launchWake m)) = .next t ∧ .startWaitRetry c ∈ t.events ∧
      (t.core c).starts = (s.core c).starts ++ [(countUp 0 8).flatMap fun st => launchStage m (s.gcore c) key st]) ∧
  (∀ (s : State) (c : Nat),
    let k := s.core c
    (∀ (q : StartReq) rest x xs, k.starts = [q] :: rest → (∀ l, l ∈ rest → ∃ p, p ∈ l ∧ p.ctx = none) → q.group = none →
      q.ctx = none → s.clusterUp c = true → k.freeCtxs = x :: xs →
        ∃ t, exec .startWaitRetry (s.due (.startWaitRetry c)) = .next t ∧ (t.core c).starts = rest ∧
        (t.ctx c x).cstate = .active ∧ (t.ctx c x).pc = BitVec.ofNat 64 q.entry ∧
        (t.ctx c x).status = startStatus (s.gcore c) x q ∧
        (s.serialClear c x = true → (k.ctx x).bdue = 0 → (t.ctx c x).serial = (k.ctx x).serial + 1#16) ∧
        (t.ctx c x).startNo = (k.ctx x).startNo + 1#16 ∧ (t.ctx c x).preds = 1#8 ∧ (t.ctx c x).flags = 0#5 ∧
        ∀ i, i < 16 → (t.ctx c x).getG i = BitVec.ofNat 64 (nthD q.regs i 0)) ∧
    (∀ n x, (s.ctx (n % 256) x).cstate = .away → ∃ t,
      exec .exitNotice (s.due (.exitNotice { core := n, ctx := x, start := (s.ctx (n % 256) x).ostart.toNat })) = .next t ∧
      (t.ctx (n % 256) x).cstate = .free ∧ (t.ctx (n % 256) x).serial = (s.ctx (n % 256) x).serial) ∧
    (∀ a : Arrival, c < 256 → ∃ t, exec .inboxArrival (s.due (.inboxArrival c a)) = .next t ∧
      if k.slots < 64 ∧ k.held = [] then (t.core c).inbox = k.inbox ++ [a] ∧ (t.core c).held = [] ∧ .handlerStart c ∈ t.events ∧
        (k.slots = 63 → .spillWake c ∈ t.events)
      else (t.core c).inbox = k.inbox ∧ (t.core c).held = k.held ++ [a] ∧ .spillWake c ∈ t.events) ∧
    (∀ a rest, k.held = a :: rest → k.slots < 64 → ∃ t, exec .inboxHeldRetry (s.due (.inboxHeldRetry c)) = .next t ∧
      (t.core c).inbox = k.inbox ++ [a] ∧ (t.core c).held = rest ∧ .handlerStart c ∈ t.events ∧
      (k.slots = 63 → .spillWake c ∈ t.events)) ∧
    (∀ (a : Arrival) rest x xs, k.inbox = a :: rest → a.kind ≠ 3 → a.mig = none → a.par = true → s.clusterUp c = true →
      k.freeCtxs = x :: xs → ∃ t, exec .handlerStart (s.due (.handlerStart c)) = .next t ∧ (t.core c).inbox = rest ∧
        (t.ctx c x).cstate = .active ∧ (t.ctx c x).pc = BitVec.ofNat 64 a.hnd ∧ (t.ctx c x).startKind = 3 ∧
        (t.ctx c x).space = a.space % 2 ^ 16 ∧
        (t.ctx c x).getG 0 = BitVec.ofNat 64 a.src ∧ (t.ctx c x).getG 1 = BitVec.ofNat 64 a.tag ∧
        (t.ctx c x).getG 2 = BitVec.ofNat 64 a.tile ∧ (t.ctx c x).getG 3 = BitVec.ofNat 64 a.len) ∧
    (bitOf k.spillCtl.toNat 0 = true → (k.ctx 31).cstate = .free → 64 ≤ k.slots →
      ∃ t, exec .spillWake (s.due (.spillWake c)) = .next t ∧ (t.ctx c 31).cstate = .active ∧ (t.ctx c 31).pc = k.spillEntry ∧
        (t.ctx c 31).mode = 1 ∧ (t.ctx c 31).startKind = 4 ∧ (t.ctx c 31).getG 1 = BitVec.ofNat 64 k.slots ∧
        (t.ctx c 31).getG 2 = k.spillHeap)) ∧
  (∀ (s : State) (arrived : Option MigCtx) (m : MigCtx) (rest : List MigCtx) (p : Place), s.layout m.pa = some p →
    s.migWait ++ arrived.toList = m :: rest →
    let home := vaultOf (p.local_ / 128) / 4
    ((∃ c, c < 256 ∧ s.takesMigrant m c = true) → ∃ t c,
      exec .migratingContextArrival (s.due (.migratingContextArrival arrived)) = .next t ∧ t.migWait = rest ∧
      (rest ≠ [] → .migratingContextArrival none ∈ t.events) ∧ c < 256 ∧ s.takesMigrant m c = true ∧
        (t.core c).inbox = (s.core c).inbox ++ [migArrival m] ∧
      .handlerStart c ∈ t.events ∧ ((∃ d, d / 16 = home ∧ s.takesMigrant m d = true) → c / 16 = home)) ∧
    ((∀ c, c < 256 → s.takesMigrant m c = false) → ∃ t,
      exec .migratingContextArrival (s.due (.migratingContextArrival arrived)) = .next t ∧ t.migWait = m :: rest ∧
      t.cores = s.cores)) ∧
  (∀ (s : State) (m : TaskMsg) (i : Nat), i < 3 → s.tu.inputs = [] → s.tu.pool.length < 4096 →
    (taskRefusal m = 0 → m.job = false → m.wv 0 = false → m.wv 1 = false → (∀ e, e ∈ s.tu.pool → e.seq ≠ s.tu.next.toNat) →
      ∃ t e, exec .taskAdmission (s.due (.taskAdmission i (some m))) = .next t ∧ t.tu.next = s.tu.next + 1#64 ∧
        t.tu.lastInput = i ∧
        t.task s.tu.next.toNat = some e ∧ e.msg = m ∧ e.st = 1 ∧ e.queue = bitsOf (m.w 0) 61 56 ∧
        tblGet t.tu.queues e.queue [] = tblGet s.tu.queues e.queue [] ++ [s.tu.next.toNat]) ∧
    (taskRefusal m ≠ 0 → ∃ t x, exec .taskAdmission (s.due (.taskAdmission i (some m))) = .next t ∧ t.tu.next = s.tu.next ∧
      t.tu.pool = s.tu.pool ∧ t.tu.lastInput = s.tu.lastInput ∧ .errorRecordItem x ∈ t.events ∧ x.detail = taskRefusal m ∧
      (m.e2e = none → m.who.kind = .host → .doorbellResult m.who.idx (2 ^ 64 - 1) ∈ t.events))) ∧
  (∀ (s : State) (e : TaskEnt) (home x : Nat) (xs : List Nat), s.tu.pool = [e] → s.tu.placing = [] →
    s.tu.queues = [(e.queue, [e.seq])] → e.queue < 64 →
    e.prio < 4 → e.st = 1 → e.homeKnown = true → e.home = some home → e.msg.job = false → taskFoots e.msg = [] →
    e.msg.accs = 0 → (s.core (16 * home)).freeCtxs = x :: xs →
    ∃ t, exec .taskDecision (s.due .taskDecision) = .next t ∧ .taskDispatch e.seq ∈ t.events ∧
      t.task e.seq = some { e with st := 2, core := 16 * home, ctx := x, group := none, copies := 0 } ∧
      tblGet t.tu.queues e.queue [] = [] ∧ x ∉ (t.core (16 * home)).freeCtxs) ∧
  (∀ (s : State) (e : TaskEnt), s.task e.seq = some e → e.msg.job = true →
    let rest := s.tu.placing.erase e.seq
    ∃ t, exec .taskDispatch (s.due (.taskDispatch e.seq)) = .next t ∧ t.tu.placing = rest ∧
      if bitsOf (e.msg.w 2) 63 32 ≤ e.dealt ∧ e.seq ∉ rest then t.task e.seq = none
      else t.tu.pool = s.tu.pool ∧ .taskDecision ∈ t.events) ∧
  (∀ (s : State) (e : TaskEnt), s.task e.seq = some e → e.msg.job = false →
    ∃ t q, exec .taskDispatch (s.due (.taskDispatch e.seq)) = .next t ∧ t.task e.seq = none ∧
      t.tu.running = s.tu.running ++ [{ e with st := 3 }] ∧ (t.core e.core).starts = (s.core e.core).starts ++ [[q]] ∧
      q.kind = 1 ∧ q.entry = bitsOf (e.msg.w 0) 47 0 ∧ q.ctx = some e.ctx ∧ q.record = .task e.seq ∧
      nthD q.regs 2 0 = e.seq ∧ .startWaitRetry e.core ∈ t.events)

/-- 02 R45, R46, R48; 07 R149; 12 R252, R257, R263; 14 R299: written pecks wake the reads that stalled on them, a changed ring
its waiters in order, a changed queue its first reader and its first writer, a lease count reached its waiter; a row sent to a
tile is written, and the last of a delivery counts at its target; a wait that reaches its limit traps with what it waited for,
unless what it waited for has come by then; a directed atomic's value is written to its tile and counted at its target, where
a handle without a tile is an error; a follow-on `mma` takes the idle sequencer of its core. -/
def Obligations.WaitsAndDeliveries : Prop :=
  ∀ (s : State) (c : Nat), let k := s.core c
    (∃ t, exec .peckReadWake (s.due (.peckReadWake c)) = .next t ∧ (t.core c).engReads = [] ∧
      (∀ m, m ∈ k.engReads → .copyRead m ∈ t.events) ∧
      ∀ x i, (s.ctx c x).wait = .peck i → (t.ctx c x).wait = .none) ∧
    (∀ h, ∃ t, exec .ringTakeRetry (s.due (.ringTakeRetry c h)) = .next t ∧
      (∀ x i, (s.ctx c x).wait = .ring h i → (t.ctx c x).wait = .none) ∧
      (∀ e w rest d, k.tile h = some e → e.isRing = true → e.occ ≤ e.slots → k.producers h = w :: rest → w.step = some d →
        d ∈ t.events ∧ (t.core c).ringWaits = k.ringWaits.erase w) ∧
      (k.tile h = none → ∀ w d, w ∈ k.producers h → w.step = some d → d ∈ t.events)) ∧
    (∀ x n, (s.ctx c x).wait = .lease n → ∃ t, exec .leasewaitReturn (s.due (.leasewaitReturn c x)) = .next t ∧
      (t.ctx c x).wait = (if n ≤ s.leaseNow % 2 ^ 64 then .none else .lease n) ∧ ∀ y, y ≠ x → t.ctx c y = s.ctx c y) ∧
    (∀ (r : RowMsg) (e : Tile), r.core % 256 = c → k.tile r.handle = some e → s.drains = [] → r.row < e.total →
      r.data.length ≤ e.rowBytes → ∃ t, exec .drainRow (s.due (.drainRow r)) = .next t ∧
        t.tileRead e c r.row 0 r.data.length = r.data ∧ (t.firstEmpty e c r.row 0 r.data.length).isSome = false ∧
        (1 < r.total → t.drains = [(r.src, r.id, 1, false)]) ∧
        (r.total ≤ 1 → t.drains = [] ∧
          (r.lcv = true → let key := lcKey (k.tileSet r.handle) r.lc
            (k.lc key).toNat + 1 < 2 ^ 64 → (t.core c).lc key = k.lc key + 1#64) ∧
          (r.hnd ≠ 0 → ∃ a, .inboxArrival c a ∈ t.events ∧ a.kind = 2 ∧ a.hnd = r.hnd ∧ a.src = r.src ∧ a.tag = r.tag))) ∧
    (∀ q x, k.qwait.find? (fun w => w.1 == q) = some (q, x) → (s.ctx c x).wait = .queue q →
      ∃ t, exec .queueWake (s.due (.queueWake c q)) = .next t ∧ (t.ctx c x).wait = .none ∧
        (8 ≤ q → ∀ y, y ≠ x → t.ctx c y = s.ctx c y) ∧
        (q < 8 → ∀ y, k.qwait.find? (fun w => w.1 == 16 + q) = some (16 + q, y) → (s.ctx c y).wait = .queue (16 + q) →
          (t.ctx c y).wait = .none)) ∧
    (∀ x id n, let t0 := s.ctx c x
      t0.waitAt = id → t0.held = false →
      let trapped (t : State) (cause : Cause) (i0 i1 i2 : Nat) : Prop :=
        (t.ctx c x).trapCause = BitVec.ofNat 64 (256 + cause.code) ∧
        (t.ctx c x).trapPc = BitVec.ofNat 64 (t0.pc.toNat % 2 ^ 48) ∧ (t.ctx c x).info0 = BitVec.ofNat 64 i0 ∧
        (t.ctx c x).info1 = BitVec.ofNat 64 i1 ∧ (t.ctx c x).info2 = BitVec.ofNat 64 i2
      (∀ i h p b e, t0.wait = .peck i ∨ t0.wait = .seq → t0.cw = some (h, p, b, n) → k.tile h = some e →
        ∃ t, exec .fillWaitExpired (s.due (.fillWaitExpired c x id)) = .next t ∧
          if s.peckFull e c p b = true then
            t.cores = s.cores ∧ t.events = s.events ++ [.peckReadWake c, .fillWaitExpired c x id]
          else trapped t .fillWaitExpired h p b) ∧
      (∀ h cond e d, t0.cw = some (h, cond, d, n) → k.tile h = some e →
        ∃ t, exec .ringWaitExpired (s.due (.ringWaitExpired c x id)) = .next t ∧
          if s.ringCond c e cond = true then (t.ctx c x).wait = .none ∧ (t.ctx c x).got = [[]]
          else trapped t .ringWaitExpired h (e.head + 16 * e.tail + 256 * e.occ + 8192 * e.slots) cond) ∧
      (∀ i addr target latest, t0.wait = .watch i → t0.cw = some (addr, target, latest, n) →
        let me : Agent := { kind := .thread, core := s.gcore c, idx := x }
        ∃ t, exec .waitExpired (s.due (.waitExpired c x id)) = .next t ∧
          ((∃ v, .satisfied me n v ∈ s.events) → t.cores = s.cores ∧ t.events = s.events) ∧
          ((∀ v, .satisfied me n v ∉ s.events) → trapped t .waitExpired addr target
            (if 2 ^ 63 ≤ addr then (k.lc (lcKey t0.lcSet (addr % 16))).toNat else latest)))) ∧
    (∀ d : DirVal, d.dir.core % 256 = c →
      let key := lcKey (k.tileSet d.dir.handle) d.dir.lc
      ∃ t, exec .directedAtomicValue (s.due (.directedAtomicValue d)) = .next t ∧
        ((k.lc key).toNat + 1 < 2 ^ 64 → (t.core c).lc key = k.lc key + 1#64) ∧
        (∀ e, k.tile d.dir.handle = some e → e.inside (8 * d.dir.entry / e.rowBytes) (8 * d.dir.entry % e.rowBytes) = true →
          t.tileVal c e (8 * d.dir.entry / e.rowBytes) (8 * d.dir.entry % e.rowBytes) 8 = d.value % 2 ^ 64 ∧
          t.peckFull e c (8 * d.dir.entry / e.rowBytes) (8 * d.dir.entry % e.rowBytes) = true) ∧
        (k.tile d.dir.handle = none → ∃ x, .errorRecordItem x ∈ t.events ∧ x.code = Cause.tileFault.code ∧
          x.ident = d.dir.handle ∧ t.dense = s.dense)) ∧
    (∀ (f : FollowMsg) (i : Instr) (g : Nat), k.seq = none → k.follows = [] → k.mayFollow f = true →
      k.accHolder (bitsOf f.word 57 55) = some g → followInstr f.word = some i →
      (∀ fn v, mmaOf i = some (fn, v) →
        k.mmaFault fn v (bitsOf f.word 39 30) (bitsOf f.word 29 20) (k.codebook v.x4.toNat).1 = none →
        ∃ t q, exec .followOnMma (s.due (.followOnMma c (some f))) = .next t ∧ (t.core c).seq = some q ∧ q.follow = some f ∧
          q.i = i ∧ q.step = 0 ∧ q.ctx = 32 ∧ (t.core c).follows = []))

/-! Steps of the vaults' channels, the streamers and the routing engines (08 R181; 14 R294 to R298, R313 to R316; 15 R323 to
R330). -/

/-- 08 R181; 14 R313 to R316; 16 R343: a near-bank command enters its vault's channel and is acknowledged at once, one whose
operands are rejected with the status it will complete with; one for a page that is being moved waits; the cached lines of its
destination are dropped, its ranges held, and with a grant free its burst begins. A burst that has held ordinary requests back
for BOUND counts is to pause at its next safe point; then every request that waited when the bound expired is served, and it
resumes. When it ends, `nb.fill` has written its pattern to each bank, `nb.comb` and `nb.red` the folded elements to the
destination, a result with a poisoned input is poisoned, the record follows, and `nb.stat` tells the commands in progress and
the last status. -/
def Obligations.NearBankChannel : Prop :=
  (∀ (s : State) (r : Req) (c : NbCmd) (l : Nat), r.e2e = none →
    let entered (t : State) (v : Nat) (j : NbJob) : Prop := (t.vault v).fifo = [j] ∧ .data (r.ans .ok) ∈ t.events
    let rejected (v : Nat) (j : NbJob) : Prop :=
      ∃ t, exec .nbCommandAccept (s.due (.nbCommandAccept r c)) = .next t ∧ entered t v j ∧ .nbBurstComplete v ∈ t.events ∧
        t.dense = s.dense ∧ t.slices = s.slices
    (c.status ≠ 0 → (s.vault c.vault).fifo = [] →
      rejected c.vault { key := s.tick, req := r, cmd := c, status := c.status, faddr := c.w 0 }) ∧
    (c.status = 0 → s.placeOf r = none → (s.vault 0).fifo = [] →
      rejected 0 { key := s.tick, req := r, cmd := c, status := 0x40, faddr := c.w 0 }) ∧
    (c.status = 0 → Placed s r l → s.vaultFailed (l / 128) = false → (s.vault (vaultOf (l / 128))).fifo = [] →
      let v := vaultOf (l / 128)
      let j : NbJob := { key := s.tick, req := { r with local_ := l }, cmd := c }
      let stone := l / 2 ^ 21 * 2 ^ 14
      let one : Prop := r.compute = true ∧ ∀ p, s.placeOf r = some p → 21 ≤ p.gran
      let held (h : Hold) : Bool := decide (stone ≤ h.line) && decide (h.line < stone + 2 ^ 14)
      (¬ one → rejected v { j with status := 0x40, faddr := c.w 0 }) ∧
      (one → c.rangeStatus.1 ≠ 0 → rejected v { j with status := c.rangeStatus.1, faddr := c.rangeStatus.2 }) ∧
      (∀ h, one → c.rangeStatus.1 = 0 → s.holds.find? held = some h →
        ∃ t, exec .nbCommandAccept (s.due (.nbCommandAccept r c)) = .next t ∧ t.vaults = s.vaults ∧
          { h with queue := h.queue ++ [r.event] } ∈ t.holds) ∧
      (one → c.rangeStatus = (0, 0) → s.grants < 768 → s.holds.find? held = none → tblGet s.stubs stone 0 = 0 →
        ∃ t, exec .nbCommandAccept (s.due (.nbCommandAccept r c)) = .next t ∧ entered t v { j with st := 1 } ∧
          .combineGrant v (stoneOf (j.stone / 128)) ∈ t.events ∧ t.grants = s.grants + 1 ∧ t.dense = s.dense ∧
          (∀ q, q ∈ c.sources → (s.tick, j.lines q c.len) ∈ t.nbBusy) ∧
          (∀ q, q ∈ c.dests → (s.tick, j.lines q c.out) ∈ t.nbBusy ∧
            ∀ line, (j.lines q c.out).1 ≤ line → line ≤ (j.lines q c.out).2 → t.homeLine line = s.denseLine line)))) ∧
  (∀ (s : State) (v : Nat) (j : NbJob), (s.vault v).fifo = [j] →
    let runs (t : State) : Prop := (t.vault v).fifo = [{ j with st := 2 }] ∧ t.dense = s.dense ∧
      ∃ n, s.leaseNow ≤ n ∧ { due := n, step := .nbBurstComplete v } ∈ t.timers
    (j.st = 1 → ∃ t, exec .combineGrant (s.due (.combineGrant v (stoneOf (j.stone / 128)))) = .next t ∧ runs t) ∧
    (j.st = 3 → ∃ t, exec .burstResume (s.due (.burstResume v)) = .next t ∧ runs t) ∧
    (∀ w ws, j.st = 2 → (s.vault v).waiting = w :: ws →
      let bound := w.2.1 + max 10 (fld s.regs.vaultArb 15 0)
      let again (t : State) (n : Nat) : Prop := { due := n, step := .vaultBoundExpiry v } ∈ t.timers ∧ t.events = s.events
      ((s.vault v).pausing = none → s.leaseNow < bound → ∃ t, exec .vaultBoundExpiry (s.due (.vaultBoundExpiry v)) = .next t ∧
        t.vaults = s.vaults ∧ again t bound) ∧
      ((s.vault v).pausing = none → bound ≤ s.leaseNow → ∃ t d, exec .vaultBoundExpiry (s.due (.vaultBoundExpiry v)) = .next t ∧
        d ≤ 13 ∧ t.vault v = { s.vault v with pausing := some (s.tick, s.leaseNow + d) } ∧ again t (s.leaseNow + d)) ∧
      (∀ p, (s.vault v).pausing = some p → p.2 ≤ s.leaseNow →
        ∃ t, exec .vaultBoundExpiry (s.due (.vaultBoundExpiry v)) = .next t ∧ (t.vault v).fifo = [{ j with st := 3 }] ∧
          (t.vault v).waiting = (w :: ws).filter (fun x => decide (p.1 ≤ x.1)) ∧
          t.events = ((w :: ws).filter fun x => decide (x.1 < p.1)).map (fun x => x.2.2) ++ .burstResume v :: s.events)) ∧
    (let at_ (q : Nat × Nat) : Nat := j.stone + q.1 * 2 ^ 18 + q.2
     let c := j.cmd
     let recorded (t : State) (st done flags : Nat) : Prop :=
       if c.rec_ = 0 then (t.vault v).fifo = [] ∧ (j.req.org, st) ∈ (t.vault v).last
       else ∃ r : Req, .sectionLookup r ∈ t.events ∧ r.va = c.rec_ ∧ r.act = .store 1 0 (bytesOfWords
         [0, putBits st 48 8 + putBits done 0 40, j.faddr, putBits flags 32 5 + b2n (st != 0)])
     c.ctr = 0 → c.rel = false →
     (j.st = 0 → j.status ≠ 0 → j.flags = 0 → j.done = 0 →
       ∃ t, exec .nbBurstComplete (s.due (.nbBurstComplete v)) = .next t ∧ recorded t j.status 0 0 ∧ t.dense = s.dense) ∧
     (j.st = 2 → j.status = 0 → c.kind = 1 → c.rangeStatus = (0, 0) →
       ∃ t, exec .nbBurstComplete (s.due (.nbBurstComplete v)) = .next t ∧ recorded t 0 (c.len * c.dests.length) 0 ∧
         (∀ q k, q ∈ c.dests → k < c.len → memGet t.dense (at_ q + k) = BitVec.ofNat 8 (c.w 5 / 256 ^ (k % 8))) ∧
         (∀ a, (∀ q, q ∈ c.dests → a < at_ q ∨ at_ q + c.len ≤ a) → memGet t.dense a = memGet s.dense a)) ∧
     (∀ q, j.st = 2 → j.status = 0 → c.kind ≠ 1 → c.dests = [q] →
       let data := c.sources.map fun q => (q.1, memRead s.dense (at_ q) c.len)
       let es := countUp 0 (c.seg / c.iw)
       let flags := (es.foldl (fun f e => f ||| (nbElement c data e).2) 0#5).toNat
       ∃ t, exec .nbBurstComplete (s.due (.nbBurstComplete v)) = .next t ∧
         t.dense = memWrite s.dense (at_ q) (es.flatMap fun e => toBytes (nbElement c data e).1 c.ow) ∧
         ((∀ e, e ∈ es → s.nbHurt j e = false) → recorded t 0 c.out flags) ∧
         (∀ e, e ∈ es → s.nbHurt j e = true →
           t.poisoned ((at_ q + e * c.ow) / 128) = true ∧ recorded t Cause.poison.code c.out flags)))) ∧
  (∀ (s : State) (q : Query) (g : Tag), let c := q.who.core % 256
    q.e2e = none → (s.ctx c q.who.idx).tag q.id = some g → (∀ p, p ∈ (s.ctx c q.who.idx).tags → p.2.fcause = 0) →
    g.dkind = 0 → g.dest < 16 →
    ∃ t, exec .nbStatQuery (s.due (.nbStatQuery q)) = .next t ∧ (t.ctx c q.who.idx).tag q.id = none ∧
      (t.ctx c q.who.idx).getG g.dest = BitVec.ofNat 64
        (min ((s.vault q.vault).fifo.filter fun j => j.req.org == q.org).length 255 +
          256 * (((s.vault q.vault).last.find? fun l => l.1 == q.org).map fun l => l.2).getD 0))

/-- 14 R294 to R298; 02 R44, R45, R48: a streamer takes a command while it holds fewer than 32 and answers its id, else 0; the
first waiting command starts when no earlier one is unfinished; a chunk that has ended moves the command on by its length, and
after the last the command is gone and its end remembered for `cpystat`; a read of a tile answers its bytes or waits for an
EMPTY peck, and a write makes its pecks FULL. -/
def Obligations.StreamerSteps : Prop :=
  (∀ (s : State) (c : CopyCmd), c.e2e = none →
    let q := s.streamer c.vault
    let n := if q.serial = 2 ^ 32 - 1 then 1 else q.serial + 1
    let x := c.who.idx
    let k := c.who.core % 256
    let answered (t : State) (v : Nat) : Prop := ∀ g, c.who.kind = .thread → (s.ctx k x).tag c.id = some g →
      (∀ p, p ∈ (s.ctx k x).tags → p.2.fcause = 0) → g.dkind = 0 → g.dest < 16 → (t.ctx k x).getG g.dest = BitVec.ofNat 64 v ∧
        (t.ctx k x).getP 1 = (v != 0) ∧ (t.ctx k x).tag c.id = none
    (q.cmds.length < 32 → ∃ t, exec .copyCommand (s.due (.copyCommand c)) = .next t ∧
      t.streamer c.vault = { q with serial := n, cmds := q.cmds ++ [{ serial := n, cmd := c }] } ∧
      .copyStart c.vault ∈ t.events ∧ answered t (s.copyId c.vault n)) ∧
    (32 ≤ q.cmds.length → ∃ t, exec .copyCommand (s.due (.copyCommand c)) = .next t ∧
      (c.kind ≠ 3 → t.streamers = s.streamers) ∧
      (c.kind = 3 → t.streamer c.vault = { q with waiting := q.waiting ++ [c] }) ∧ answered t 0)) ∧
  (∀ (s : State) (v : Nat) (j : CopyJob), let q := s.streamer v
    let len (p : Nat) : Nat := if j.cmd.kind = 2 then 256 else chunkLen j.cmd.words (copyBytes j.cmd.words) p 4096 0
    let total := copyBytes j.cmd.words
    let k := j.chunk
    let onto (t : State) (j1 : CopyJob) : Prop := t.copyJob v j.serial = some j1 ∧ j1.cmd = j.cmd ∧ j1.st = 1 ∧
      j1.chunk.len = len j1.pos
    ((∀ x, x ∈ q.cmds → x.st = 0) → q.cmds.find? (fun x => x.st == 0) = some j →
      ∃ t j1, exec .copyStart (s.due (.copyStart v)) = .next t ∧ onto t j1 ∧ j1.pos = j.pos) ∧
    ((∃ x, x ∈ q.cmds ∧ x.st ≠ 0) → ∃ t, exec .copyStart (s.due (.copyStart v)) = .next t ∧ t.streamers = s.streamers) ∧
    (s.copyJob v j.serial = some j → j.st = 1 →
      (k.bad = none → popCount k.inside k.len = k.len → j.pos + k.len < total →
        ∃ t j1, exec .copyChunk (s.due (.copyChunk v j.serial)) = .next t ∧ onto t j1 ∧ j1.pos = j.pos + k.len ∧
          j1.done = j.done + k.len ∧ j1.nfail = j.nfail ∧ j1.first = j.first) ∧
      (∀ st dst, k.bad = some (st, dst) → st ≠ 0 → j.pos + k.len < total →
        ∃ t j1, exec .copyChunk (s.due (.copyChunk v j.serial)) = .next t ∧ onto t j1 ∧ j1.pos = j.pos + k.len ∧
          j1.done = j.done ∧ j1.nfail = j.nfail + 1 ∧
          j1.first = some (j.first.getD (st, dst, byteWord j.cmd.words dst j.pos))) ∧
      (k.bad = none → popCount k.inside k.len = k.len → total ≤ j.pos + k.len → j.cmd.kind = 0 → j.cmd.rel = false →
        bitsOf (nthD j.cmd.words 11 0) 47 0 = 0 → bitsOf (nthD j.cmd.words 12 0) 47 0 = 0 →
        bitsOf (nthD j.cmd.words 13 0) 47 0 = 0 → q.waiting = [] →
        ∃ t, exec .copyChunk (s.due (.copyChunk v j.serial)) = .next t ∧ t.copyJob v j.serial = none ∧
          (j.serial, (j.first.getD (0, false, 0)).1, j.done + k.len) ∈ (t.streamer v).finished ∧ .copyStart v ∈ t.events))) ∧
  (∀ (s : State) (m : CopyMsg) (e : Tile) (p b : Nat), let c := m.core % 256
    let answered (t : State) (data : List Byte) : Prop := ∃ a, .data a ∈ t.events ∧ a.who = m.who ∧ a.id = m.id ∧ a.st = .ok ∧
      a.data = data
    (∀ r, m.req = some r → exec .copyRead (s.due (.copyRead m)) = .next (doReq r (s.due (.copyRead m))) ∧
      exec .copyWrite (s.due (.copyWrite m)) = .next (doReq r (s.due (.copyWrite m)))) ∧
    (m.req = none → m.e2e = none → (s.core c).tile m.handle = some e →
      (∀ n, m.reads = [(p * e.rowBytes + b, n)] → 0 < n → b + n ≤ e.rowBytes →
        ∃ t, exec .copyRead (s.due (.copyRead m)) = .next t ∧
          if (s.firstEmpty e c p b n).isSome then (t.core c).engReads = (s.core c).engReads ++ [m] ∧ t.events = s.events
          else answered t (s.tileRead e c p b n) ∧ t.cores = s.cores) ∧
      (∀ d, m.pieces = [(p * e.rowBytes + b, d)] → d ≠ [] → b + d.length ≤ e.rowBytes →
        let row := if e.isRing = true then (m.slot.getD 0) * e.slotRows + p else p
        (e.isRing = true → m.slot ≠ none ∧ p < e.slotRows) → row < e.total →
        ∃ t, exec .copyWrite (s.due (.copyWrite m)) = .next t ∧ answered t [] ∧ t.tileRead e c row b d.length = d ∧
          (t.firstEmpty e c row b d.length).isSome = false ∧ t.dense = s.dense))) ∧
  (∀ (s : State) (q : Query) (g : Tag), let c := q.who.core % 256
    q.e2e = none → (s.ctx c q.who.idx).tag q.id = some g → (∀ p, p ∈ (s.ctx c q.who.idx).tags → p.2.fcause = 0) →
    g.dkind = 0 → g.dest < 16 →
    ∃ t, exec .cpystatQuery (s.due (.cpystatQuery q)) = .next t ∧
      (t.ctx c q.who.idx).getG g.dest = BitVec.ofNat 64 (match s.copyJob q.vault q.serial with
        | some j => putBits (if j.st = 0 then 1 else 2) 56 8 + putBits (j.first.getD (0, false, 0)).1 48 8 + putBits j.done 0 40
        | none => match (s.streamer q.vault).finished.find? fun f => f.1 == q.serial with
          | some f => putBits 3 56 8 + putBits f.2.1 48 8 + putBits f.2.2 0 40
          | none => 0))

/-- 15 R323 to R330: COUNT reads the choices in order and then turns to OFFSET; OFFSET waits for the expert's turn when
ranked, claims the slots of an expert with choices by an add to its fill counter, and passes one without; a turn wait that
expires pauses the run with cause 2; a token begins with its first choice, or its first return-map entry, unless a pause asked
for takes effect before it; a settled token moves the cursor on, or pauses a run whose owner is suspended; after the last
token a run without record, counter and release is DONE. -/
def Obligations.EngineSteps : Prop :=
  ∀ (s : State) (n : Nat), let e := s.engine n
    let asks (t : State) (va : Nat) (act : Act) : Prop := ∃ r : Req, .sectionLookup r ∈ t.events ∧ r.va = va ∧ r.act = act ∧
      r.who = { kind := .engine, core := s.cubeId * 256, idx := n }
    e.state = 2 →
    (e.phase = 0 → e.what = .idle →
      (e.cursor < e.tokens → (e.c = 0 → e.abort = false ∧ e.pause = false) → e.entryVa 1 + 4 ≤ 2 ^ 48 →
        ∃ t, exec .engineCount (s.due (.engineCount n)) = .next t ∧
        asks t (e.entryVa 1) (.load 4 1 0) ∧ t.engine n = { e with what := .count }) ∧
      (e.tokens ≤ e.cursor → e.abort = false → e.pause = false → ∃ t, exec .engineCount (s.due (.engineCount n)) = .next t ∧
        t.engine n = { e with phase := 1, cursor := 0, c := 0 } ∧ .engineOffsetExpert n ∈ t.events)) ∧
    (e.phase = 1 → e.what = .idle →
      let x := e.expert e.cursor
      let cnt := tblGet e.n e.cursor 0
      (e.ranked = true → e.abort = false → e.pause = false → x.turn + 8 ≤ 2 ^ 48 →
        ∃ t id, exec .engineOffsetExpert (s.due (.engineOffsetExpert n)) = .next t ∧
        asks t x.turn (.watch ((e.xc 6 + bitsOf (e.xc 1) 50 39) % 2 ^ 64)) ∧ t.engine n = { e with what := .turn, wid := id }) ∧
      (e.ranked = false → e.abort = false → cnt ≠ 0 → x.fill + 8 ≤ 2 ^ 48 →
        ∃ t, exec .engineOffsetExpert (s.due (.engineOffsetExpert n)) = .next t ∧ asks t x.fill (.counter 1 cnt) ∧
          t.engine n = { e with what := .fill }) ∧
      (e.ranked = false → cnt = 0 → e.abort = false → e.pause = false →
        ∃ t, exec .engineOffsetExpert (s.due (.engineOffsetExpert n)) = .next t ∧
          (e.cursor + 1 < e.nexp → t.engine n = { e with cursor := e.cursor + 1 } ∧ .engineOffsetExpert n ∈ t.events) ∧
          (e.nexp ≤ e.cursor + 1 → t.engine n = { e with phase := 2, cursor := 0, c := 0 } ∧
            .engineTokenIssue n ∈ t.events))) ∧
    (e.what = .turn → ∃ t, exec .turnWaitExpired (s.due (.turnWaitExpired n e.wid)) = .next t ∧
      t.engine n = { e with state := 3, cause := 2, what := .idle, pause := false }) ∧
    (2 ≤ e.phase → e.what = .idle →
      let e1 := { e with c := 0 }
      (e.cursor < e.tokens → e.abort = false → e.pause = false → e.phase = 2 → e1.entryVa 1 + 4 ≤ 2 ^ 48 →
        ∃ t, exec .engineTokenIssue (s.due (.engineTokenIssue n)) = .next t ∧ asks t (e1.entryVa 1) (.load 4 1 0) ∧
          t.engine n = { e1 with bad := false, acc := [], what := .choice }) ∧
      (e.cursor < e.tokens → e.abort = false → e.pause = false → e.phase = 3 → e1.entryVa 2 + 4 ≤ 2 ^ 48 →
        ∃ t, exec .engineTokenIssue (s.due (.engineTokenIssue n)) = .next t ∧ asks t (e1.entryVa 2) (.load 4 1 0) ∧
          t.engine n = { e1 with bad := false, acc := List.replicate (e.rowBytes / 2) 0, what := .entry }) ∧
      (e.cursor < e.tokens → e.abort = false → e.pause = true →
        ∃ t, exec .engineTokenIssue (s.due (.engineTokenIssue n)) = .next t ∧
        t.engine n = { e with state := 3, cause := 1, pause := false }) ∧
      (e.tokens ≤ e.cursor → e.orphan = false → e.abort = false → e.rel = false → bitsOf (e.w 4) 47 0 = 0 →
        bitsOf (e.w 5) 47 0 = 0 → ∃ t, exec .engineTokenIssue (s.due (.engineTokenIssue n)) = .next t ∧
          t.engine n = { e with state := 4, pause := false, cause := 0 }) ∧
      (e.cursor + 1 < e.tokens → e.abort = false →
        ∃ t, exec .tokenSettled (s.due (.tokenSettled n e.cursor)) = .next t ∧
          (e.pause = false → t.engine n = { e with cursor := e.cursor + 1, c := 0 } ∧ .engineTokenIssue n ∈ t.events) ∧
          (e.pause = true → t.engine n = { e with cursor := e.cursor + 1, c := 0, state := 3, cause := 1, pause := false })))

/-! Errors, suspension and the host's port (16 R341 to R348; 17 R350 to R354, R364, R365). -/

/-- 16 R341 to R343; 17 R354, R364, R365: an item of a start that still answers is written to its context's area, at the next
place; one of the cube's queue is appended at the produced count, or counted as lost when the queue is off or full, and kept
by the management target either way. An uncorrectable error poisons its line with a record, the sixteenth within a grain fails
the vault; more than 1,024 corrected errors in a grain set ECC; a failed vault's lines read as poison. -/
def Obligations.ErrorSteps : Prop :=
  (∀ (s : State) (e : ErrItem), let c := e.org.core % 256
    let t0 := s.ctx c e.org.ctx
    let log := if 16 < fld t0.errRec 4 0 then 0 else fld t0.errRec 4 0
    let va := fld t0.errRec 47 6 * 64 + 64 * (t0.errn % 2 ^ log)
    let answers := t0.cstate ≠ .free ∧ t0.startNo.toNat = e.org.start
    (e.queue = false → e.org.ctx ≠ 99 → log ≠ 0 → answers → va + 64 ≤ 2 ^ 48 →
      ∃ t r, exec .errorRecordItem (s.due (.errorRecordItem e)) = .next t ∧ .sectionLookup r ∈ t.events ∧ r.va = va ∧
        r.space = t0.space ∧ r.act = .store 1 0 (bytesOfWords (errWords e false 0 s.leaseNow t0.errn)) ∧
        (t.ctx c e.org.ctx).errn = t0.errn + 1 ∧ t.svc.records = s.svc.records) ∧
    (∀ norec, ((e.queue = true ∨ e.org.ctx = 99) ∧ norec = false) ∨
        (e.queue = false ∧ e.org.ctx ≠ 99 ∧ norec = true ∧ (log = 0 ∨ ¬ answers ∨ 2 ^ 48 < va + 64)) →
      2 ∉ s.queueBusy →
      let q := s.regs.queue 2
      (q.1 = 0 ∨ (∃ v, s.peek q.2.2.1 = .val v ∧ s.regs.queueFull 2 v = true) →
        ∃ t n, exec .errorRecordItem (s.due (.errorRecordItem e)) = .next t ∧
          t.regs.errLost = min 65535 (s.regs.errLost + 1) ∧
          t.svc.records.getLast? = some (errWords e norec s.regs.errLost s.leaseNow n) ∧ t.outs = s.outs) ∧
      (∀ v, q.1 ≠ 0 → s.peek q.2.2.1 = .val v → s.regs.queueFull 2 v = false →
        ∃ t o, exec .errorRecordItem (s.due (.errorRecordItem e)) = .next t ∧
          t.svc.records.getLast? = some (errWords e norec s.regs.errLost s.leaseNow v) ∧ t.regs.errLost = 0 ∧
          o ∈ t.outs ∧ o.purp = .recordPut 2 ∧ o.req.pa = q.2.1 + (v % 2 ^ q.1) * 64 ∧
          o.req.act = .store 1 0 (bytesOfWords (errWords e norec s.regs.errLost s.leaseNow v)) ∧
          (bitOf s.regs.hostCtl.toNat 2 = true → t.regs.msix = s.regs.msix ++ [0])))) ∧
  (∀ (s : State) (line : Nat),
    let struck := s.svc.struck.filter fun p => p.1 != line && decide (s.leaseNow < p.2 + 1024) && vaultOf p.1 == vaultOf line
    ∃ t x, exec .uncorrectableError (s.due (.uncorrectableError line)) = .next t ∧ t.poisoned line = true ∧
      .errorRecordItem x ∈ t.events ∧ x.queue = true ∧ x.source = 1 ∧ x.code = Cause.poison.code ∧ x.local_ = line * 128 ∧
      (15 ≤ struck.length → vaultOf line ∈ t.svc.failed) ∧ (struck.length < 15 → t.svc.failed = s.svc.failed)) ∧
  (∀ (s : State) (line : Nat), ∃ t, exec .correctedError (s.due (.correctedError line)) = .next t ∧ t.dense = s.dense ∧
    t.regs.health = if 1024 ≤ (s.svc.corrected.filter fun n => decide (s.leaseNow < n + 1024)).length
      then s.regs.health ||| 0xA0#64 else s.regs.health) ∧
  (∀ (s : State) (v : Nat), ∃ t, exec .vaultFailure (s.due (.vaultFailure v)) = .next t ∧ v ∈ t.svc.failed ∧
    (v ∉ s.svc.failed → t.regs.health = s.regs.health ||| 0x90#64) ∧ t.dense = s.dense ∧
    ∀ line, vaultOf line = v → (∀ x, x ∈ (s.slice (sliceOf line)).l2 → x.line ≠ line) → t.poisoned line = true)

/-- 11 R236; 16 R344 to R348: a request that its checks refuse is answered with the code, one for a target whose earlier
request is under way waits; a light suspension of a thread between two instructions, none of whose requests stands between
core and home, suspends it, ends its region and answers 0; a full one goes on to write the image from its address; the
resumption of a light-suspended thread lets it issue again. -/
def Obligations.SuspensionSteps : Prop :=
  ∀ (s : State) (m : SuspMsg) (c : Nat) (g : Tag), m.phase = 0 → m.who.core = s.gcore c → c < 256 → m.core < 256 →
    (s.ctx c m.who.idx).tag m.id = some g → (∀ p, p ∈ (s.ctx c m.who.idx).tags → p.2.fcause = 0) → g.dkind = 0 → g.dest < 16 →
    let answered (t : State) (code : Nat) : Prop := (t.ctx c m.who.idx).getG g.dest = BitVec.ofNat 64 code ∧
      (t.ctx c m.who.idx).tag m.id = none
    let x := m.slot
    (s.susps.any (fun j => sameTarget j.m m) = true → ∃ t, exec .suspensionRequest (s.due (.suspensionRequest m)) = .next t ∧
      t.cores = s.cores ∧ t.events = s.events ∧ ∃ j, j ∈ t.susps ∧ j.m = m) ∧
    (s.susps = [] →
      (∀ code, s.suspRefusal m = code → code ≠ 0 →
        ∃ t, exec .suspensionRequest (s.due (.suspensionRequest m)) = .next t ∧ answered t code ∧ t.susps = [] ∧
          ∀ y, (m.core, y) ≠ (c, m.who.idx) → (t.ctx m.core y).cstate = (s.ctx m.core y).cstate) ∧
      (s.suspRefusal m = 0 → m.group = false →
        (m.op < 2 → (s.core m.core).suspended x = false → s.midInstr m.core x = false →
          (∀ p, p ∈ (s.ctx m.core x).tags → p.2.left = true ∨
            s.parked { kind := .thread, core := s.gcore m.core, idx := x } p.2.id = true) → (s.core m.core).seq = none →
          ∃ t, exec .suspensionRequest (s.due (.suspensionRequest m)) = .next t ∧ (t.ctx m.core x).cstate = .suspended ∧
            (s.serialClear m.core x = true → (s.ctx m.core x).bdue = 0 →
              (t.ctx m.core x).serial = (s.ctx m.core x).serial + 1#16) ∧
            (m.op = 0 → answered t 0 ∧ t.susps = []) ∧
            (m.op = 1 → m.image < 2 ^ 48 → ∃ r d, .sectionLookup r ∈ t.events ∧ r.va = m.image ∧ r.space = m.space ∧
              r.act = .store 1 0 d ∧ d.length = 128)) ∧
        (∀ r, m.op = 2 → (s.ctx m.core x).susp = some r → r.full = false → (s.ctx m.core x).sdTrap = false →
          (∀ p, p ∈ (s.ctx m.core x).tags → p.2.fcause = 0) →
          ∃ t, exec .suspensionRequest (s.due (.suspensionRequest m)) = .next t ∧ answered t 0 ∧
            (t.ctx m.core x).cstate = .active ∧ (t.ctx m.core x).susp = none ∧
            (t.ctx m.core x).pc = (s.ctx m.core x).pc)))

/-- 03 R75; 17 R350 to R354: while the window is open the host's reads and writes go to the home of their line, shared,
exclusive or uncached, and a write-back with the words it carries; outside it a read is answered with poison and a write
dropped, each with a record; a snoop unanswered in time loses the host as a registrant. A doorbell presents its slot's packet
to the task unit once the host's earlier writes are performed, one that is malformed or closed is refused, and the slot takes
no word meanwhile. -/
def Obligations.HostSteps : Prop :=
  (∀ (s : State) (off : Nat) (data : List Byte) (dirty : Bool), s.svc.recovery = false →
    let log := fld s.regs.hwinSize 5 0
    let base := fld s.regs.hwinBase 51 28 * 2 ^ 28
    let line := off / 64 * 64
    let open_ := bitOf s.regs.hostCtl.toNat 0 = true ∧ 28 ≤ log ∧ log ≤ 52 ∧ base % 2 ^ log = 0 ∧ line < 2 ^ log
    let words := wordMask line 64
    let sent (t : State) (k : Nat) (act : Act) : Prop := ∃ o, o ∈ t.outs ∧ o.purp = .host k ∧ o.req.pa = base + line ∧
      o.req.act = act ∧ o.req.who = s.hostAgent
    let record (t : State) : Prop := ∃ x, .errorRecordItem x ∈ t.events ∧ x.source = 8 ∧ x.code = Cause.accessError.code
    let poison (t : State) : Prop := record t ∧
      t.svc.answers = s.svc.answers ++ [{ gpa := off, data := [], poison := true }]
    (∃ t, exec .hostReadExclusive (s.due (.hostReadExclusive off)) = .next t ∧
      (open_ → sent t 0 (.load 64 3 0)) ∧ (¬ open_ → poison t)) ∧
    (∃ t, exec .hostReadShared (s.due (.hostReadShared off)) = .next t ∧
      (open_ → sent t 1 (.load 64 2 0)) ∧ (¬ open_ → poison t)) ∧
    (∃ t, exec .hostReadNocache (s.due (.hostReadNocache off)) = .next t ∧
      (open_ → sent t 2 (.load 64 1 0)) ∧ (¬ open_ → poison t)) ∧
    (data.length = 64 → ∃ t, exec .hostWrite (s.due (.hostWrite off data)) = .next t ∧
      (open_ → sent t 3 (.store 1 0 data)) ∧ (¬ open_ → record t ∧ t.svc.answers = s.svc.answers)) ∧
    (data.length = 64 → ∃ t, exec .hostWriteback (s.due (.hostWriteback off dirty data)) = .next t ∧
      (open_ → sent t 4 (.wb words (if dirty then words else 0) (overlay (List.replicate 128 0#8) (line % 128) data))) ∧
      (¬ open_ → record t ∧ t.svc.answers = s.svc.answers))) ∧
  (∀ (s : State) (q : Snoop) (m : CohMsg), s.svc.snoops = [q] → m.home = s.cubeId →
    let lost (kind : Nat) (r : Option Req) : Prop := ∃ t, exec .snoopTimeout (s.due (.snoopTimeout q.id)) = .next t ∧
      t.svc.snoops = [] ∧ .remoteLostAtHome m kind r ∈ t.events
    (q.msg = .inv m → lost 3 none) ∧ (∀ r, q.msg = .fwdRead m r ∨ q.msg = .fwdOwn m r → lost 0 (some r)) ∧
    (q.msg = .revoke m → lost 1 none) ∧ (q.msg = .revokeWb m → lost 2 none)) ∧
  (∀ (s : State) (k : Nat), let h := s.hslot k
    (k < 32 → s.svc.recovery = false →
      (∀ word value, word < 16 → ∃ t, exec .slotPacketWrite (s.due (.slotPacketWrite k word value)) = .next t ∧
        (h.busy = false → ∀ i, nthD (t.hslot k).words i 0 = if i = word then value % 2 ^ 64 else nthD h.words i 0) ∧
        (h.busy = true → t.svc = s.svc)) ∧
      (∀ value, h.busy = false → s.svc.bells = [] →
        let valid := bitOf s.regs.hostCtl.toNat 1 = true ∧ (value = 1 ∨ value = 2)
        let pending := ∃ o, o ∈ s.outs ∧ o.id < s.tick ∧ o.purp = .host 3
        ∃ t, exec .doorbell (s.due (.doorbell k value)) = .next t ∧
          t.hslot k = { h with result := 2 ^ 64 - 2, busy := true } ∧
          (¬ valid → t.events = s.events ++ [.doorbellResult k (2 ^ 64 - 1)]) ∧
          (valid → pending → t.events = s.events ∧ t.svc.bells = [(k, value, s.tick)]) ∧
          (valid → ¬ pending → t.svc.bells = [] ∧ ∃ m, t.events = s.events ++ [.taskAdmission 2 (some m)] ∧
            m.job = (value == 2) ∧ m.who.kind = .host ∧ m.who.idx = k ∧ m.words.length = 16 ∧
            ∀ i, i < 16 → nthD m.words i 0 = nthD h.words i 0))) ∧
    (∀ value, ∃ t, exec .doorbellResult (s.due (.doorbellResult k value)) = .next t ∧
      t.hslot k = { h with result := value, busy := false } ∧
      t.regs.msix = if bitOf s.regs.hostCtl.toNat 2 then s.regs.msix ++ [2] else s.regs.msix))

/-! Boot, power, the mailbox and the management target (17 R355 to R363). -/

/-- 17 R355, R357, R358, R362, R363: a reset in which no slot passes leaves the cube in recovery with the code of the last; in
one where a slot passes, the preferred one first, the body stands at LOAD, the firmware space maps 64 GiB, and the
configuration is applied; the first cluster starts firmware at ENTRY in firmware mode. The governor's samples give
temperatures and, each 100, the average draw; HOT and TRIP rise at their thresholds and clear 5 degrees below; MINVER only
rises, to no more than VER. -/
def Obligations.BootAndPower : Prop :=
  (∀ s : State, ∃ t, exec .cubeReset s = .next t ∧ t.svc.flash = s.svc.flash ∧ t.regs.minver = s.regs.minver ∧ t.cores = [] ∧
    (s.slotCode s.preferred ≠ 0 → s.slotCode (1 - s.preferred) ≠ 0 →
      t.svc.recovery = true ∧ t.regs.bootStat = BitVec.ofNat 64 (s.slotCode (1 - s.preferred)) ∧ t.cubeSet = false ∧
      t.dense = [] ∧ t.events = []) ∧
    (∀ k, k < 64 → ⟨1024, .leaseSkewCheck k⟩ ∈ t.timers ∧ ⟨sweepCounts, .sweepPass k⟩ ∈ t.timers) ∧
    (∀ k, s.slotCode k = 0 → (k = s.preferred ∨ (s.slotCode s.preferred ≠ 0 ∧ k = 1 - s.preferred)) →
      let i := s.imageOf k
      t.svc.recovery = false ∧ t.cubeId = i.cfg 0 2 ∧ t.cubeSet = true ∧ t.regs.bootStat = BitVec.ofNat 64 (256 * k) ∧
        t.regs.fwVer = BitVec.ofNat 64 (i.ver * 2 ^ 32) ∧ t.regs.pwrCap = BitVec.ofNat 64 (i.cfg 2 2) ∧
        t.svc.boot = some (i.load + i.entry) ∧ t.svc.image = i.body ∧ t.svc.config = i.config ∧
        (∀ n, n < i.body.length → memGet t.dense (i.load + n) = nthD i.body n 0#8) ∧
        (∀ n, n < i.walk.length → memGet t.walkStore n = nthD i.walk n 0#8) ∧
        ofBytes (memRead t.dense 0x400000 8) = 2 ^ 63 + 0x800000 ∧ ofBytes (memRead t.dense 0x800000 8) = 0x801001 ∧
        (∀ n, n < 64 → ofBytes (memRead t.dense (0x801000 + 8 * n) 8) = n * 2 ^ 30 + 0xCF) ∧
        ∀ p, p < 16 → (t.port p).state = 1)) ∧
  (∀ (s : State) (c : Nat), c < 16 →
    ∃ t, exec .clusterPowerUp (s.due (.clusterPowerUp c)) = .next t ∧ t.svc.powered = max s.svc.powered (c + 1) ∧
      t.dense = s.dense ∧
      (∀ va, s.svc.boot = some va → c = 0 → t.svc.boot = none ∧ (t.ctx 0 0).cstate = .active ∧ (t.ctx 0 0).mode = 2 ∧
        (t.ctx 0 0).space = 0 ∧ (t.ctx 0 0).pc = BitVec.ofNat 64 va) ∧
      (s.svc.boot = none ∨ c ≠ 0 → t.cores = s.cores)) ∧
  (∀ (s : State) (watts stack logic : Nat),
    let cap := if s.svc.draws.isEmpty then fld s.regs.pwrCap 9 0 else s.svc.cap
    let d := s.svc.draws ++ [min watts (100 * cap - s.svc.draws.foldl (· + ·) 0)]
    ∃ t, exec .governorSample (s.due (.governorSample watts stack logic)) = .next t ∧
      fld t.regs.pwrStat 47 40 = min 255 stack ∧ fld t.regs.pwrStat 39 32 = min 255 logic ∧
      fld t.regs.pwrStat 1 0 = fld s.regs.pwrStat 1 0 ∧
      t.svc.cap = cap ∧ (s.svc.draws.foldl (· + ·) 0 ≤ 100 * cap → d.foldl (· + ·) 0 ≤ 100 * cap) ∧
      (d.length < 100 → t.svc.draws = d ∧ fld t.regs.pwrStat 63 48 = fld s.regs.pwrStat 63 48) ∧
      (100 ≤ d.length → t.svc.draws = [] ∧ fld t.regs.pwrStat 63 48 = d.foldl (· + ·) 0 / d.length % 2 ^ 16)) ∧
  (∀ (s : State) (stack logic : Nat),
    ∃ t, exec .thermalThreshold (s.due (.thermalThreshold stack logic)) = .next t ∧
      let hot := bitOf t.regs.pwrStat.toNat 0
      let trip := bitOf t.regs.pwrStat.toNat 1
      (100 ≤ logic ∨ 95 ≤ stack → hot = true) ∧ (logic ≤ 95 → stack ≤ 90 → hot = false) ∧
      (logic < 100 → stack < 95 → bitOf s.regs.pwrStat.toNat 0 = false → hot = false) ∧
      (95 < logic ∨ 90 < stack → bitOf s.regs.pwrStat.toNat 0 = true → hot = true) ∧
      (110 ≤ logic ∨ 100 ≤ stack → trip = true ∧ t.regs.health.getLsbD 0 = true) ∧
      (logic ≤ 105 → stack ≤ 95 → trip = false) ∧
      (logic < 110 → stack < 100 → bitOf s.regs.pwrStat.toNat 1 = false → trip = false) ∧
      (105 < logic ∨ 95 < stack → bitOf s.regs.pwrStat.toNat 1 = true → trip = true)) ∧
  (∀ (s : State) (v : Nat), ∃ t, exec .minverBurn (s.due (.minverBurn v)) = .next t ∧ t.cores = s.cores ∧
    t.regs.minver = if s.regs.minver < v ∧ v ≤ fld s.regs.fwVer 63 32 then v else s.regs.minver)

/-- 17 R359 to R361: the mailbox and the management target answer their commands: the status registers, the identity key, the
report for a nonce with its signature, the erasure of a slot and the programming of its bytes, the activation of a slot that
passes with a reset, a cap within its limits (which the mailbox does not take in recovery), and the error record of an index
that is kept; a request of the wrong shape, or to the slot whose firmware runs, is Invalid Input and changes nothing. -/
def Obligations.Management : Prop :=
  ∀ (s : State) (body : List Byte),
    -- The command is answered with a return code and bytes, at the mailbox or as the MCTP command's answer.
    let boxed (t : State) (r : MboxRet) (d : List Byte) : Prop := t.svc.mbox = s.svc.mbox ++ [(r, d)]
    let answered (t : State) (cmd : Byte) (r : MboxRet) (d : List Byte) : Prop :=
      t.svc.mctp = s.svc.mctp ++ [cmd :: (match r with
        | .success => 0#8 | .invalidInput => 1#8 | .unsupported => 2#8 | .busy => 3#8) :: d]
    -- Both ways of a command: what its answer is, and what it changes.
    let both (i j : Instr) (e f : Ev) (cmd : Byte) (r : MboxRet) (d : List Byte) (did : State → Prop) : Prop :=
      (∃ t, exec i (s.due e) = .next t ∧ boxed t r d ∧ did t) ∧ (∃ t, exec j (s.due f) = .next t ∧ answered t cmd r d ∧ did t)
    let kept (t : State) : Prop := t.svc.flash = s.svc.flash ∧ t.regs = s.regs ∧ t.events = s.events
    let k := ofBytes (body.take 1)
    let busy := s.svc.recovery = false ∧ k = fld s.regs.bootStat 15 8
    let status := both .mboxGetStatus .mctpGetStatus (.mboxGetStatus body) (.mctpGetStatus body) 1#8
    let key := both .mboxGetKey .mctpGetKey (.mboxGetKey body) (.mctpGetKey body) 3#8
    let attest := both .mboxAttest .mctpAttest (.mboxAttest body) (.mctpAttest body) 4#8
    let cap := both .mboxSetCap .mctpSetCap (.mboxSetCap body) (.mctpSetCap body) 5#8
    let erase := both .mboxImageErase .mctpImageErase (.mboxImageErase body) (.mctpImageErase body) 6#8
    let write := both .mboxImageWrite .mctpImageWrite (.mboxImageWrite body) (.mctpImageWrite body) 7#8
    let activate := both .mboxImageActivate .mctpImageActivate (.mboxImageActivate body) (.mctpImageActivate body) 8#8
    (body = [] → status .success (toBytes s.regs.bootStat.toNat 8 ++ toBytes s.fwVerWord 8 ++ toBytes s.regs.health.toNat 8 ++
      toBytes s.regs.pwrStat.toNat 8) kept) ∧
    (body ≠ [] → status .invalidInput [] kept) ∧
    (body = [] → key .success (edPublic identitySeed) kept) ∧ (body ≠ [] → key .invalidInput [] kept) ∧
    (body.length = 32 →
      let m := toBytes (1 + putBits s.cubeId 16 12) 8 ++ body ++ toBytes s.fwVerWord 8 ++ (fuse 3 ++ fuse 4) ++
        sha512 s.svc.image ++ sha512 (memRead s.walkStore 0 262144) ++ sha512 s.svc.config
      attest .success (m ++ edSign identitySeed m) kept) ∧
    (body.length ≠ 32 → attest .invalidInput [] kept) ∧
    (let capped (t : State) : Prop := t.svc.flash = s.svc.flash ∧
       t.regs = { s.regs with pwrCap := BitVec.ofNat 64 (min 950 (max 300 (ofBytes body))) }
     (s.svc.recovery = false → body.length ≠ 2 → cap .invalidInput [] kept) ∧
     (s.svc.recovery = false → body.length = 2 → cap .success [] capped) ∧
     (s.svc.recovery = true → (∃ t, exec .mboxSetCap (s.due (.mboxSetCap body)) = .next t ∧ boxed t .unsupported [] ∧ kept t) ∧
       (body.length ≠ 2 → ∃ t, exec .mctpSetCap (s.due (.mctpSetCap body)) = .next t ∧ answered t 5#8 .invalidInput [] ∧ kept t) ∧
       (body.length = 2 → ∃ t, exec .mctpSetCap (s.due (.mctpSetCap body)) = .next t ∧ answered t 5#8 .success [] ∧ capped t))) ∧
    (body.length = 1 → k < 2 → ¬ busy → erase .success [] fun t => t.regs = s.regs ∧
      ∀ a n, t.flashRead a n = (countUp a n).map fun b =>
        if k * 0x1000000 ≤ b ∧ b < (k + 1) * 0x1000000 then 0xFF#8 else (memGet s.svc.flash b ^^^ 0xFF#8)) ∧
    (body.length ≠ 1 ∨ 2 ≤ k ∨ busy → erase .invalidInput [] kept) ∧
    (let off := ofBytes ((body.drop 4).take 4)
     let d := body.drop 8
     let shaped := 8 ≤ body.length ∧ ofBytes ((body.drop 1).take 3) = 0 ∧ off % 256 = 0 ∧ 256 ≤ d.length ∧ d.length ≤ 4096 ∧
       d.length % 256 = 0 ∧ off + d.length ≤ 0x1000000
     (shaped → k < 2 → ¬ busy → write .success [] fun t => t.regs = s.regs ∧
       t.flashRead (k * 0x1000000 + off) d.length = d ∧
       ∀ a, a < k * 0x1000000 + off ∨ k * 0x1000000 + off + d.length ≤ a → memGet t.svc.flash a = memGet s.svc.flash a) ∧
     (¬ shaped ∨ 2 ≤ k ∨ busy → write .invalidInput [] kept)) ∧
    (body.length = 1 → k < 2 → s.slotCode k = 0 → activate .success [] fun t => t.preferred = k ∧
      t.events = .cubeReset :: s.events ∧ t.regs = s.regs) ∧
    (body.length ≠ 1 ∨ 2 ≤ k ∨ s.slotCode k ≠ 0 → activate .invalidInput [] kept) ∧
    (let n := ofBytes body
     let first := s.svc.count - s.svc.records.length
     (body.length = 4 → first ≤ n → n < s.svc.count → ∃ t, exec .mctpGetError (s.due (.mctpGetError body)) = .next t ∧
       answered t 2#8 .success (bytesOfWords (nthD s.svc.records (n - first) []) ++ toBytes (s.svc.count - 1) 4) ∧ kept t) ∧
     (body.length ≠ 4 ∨ n < first ∨ s.svc.count ≤ n → ∃ t, exec .mctpGetError (s.due (.mctpGetError body)) = .next t ∧
       answered t 2#8 .invalidInput [] ∧ kept t)) ∧
    (∀ opcode, ∃ t r d, exec .mboxCxlCommand (s.due (.mboxCxlCommand opcode body)) = .next t ∧ boxed t r d ∧ kept t ∧
      (s.svc.recovery = true ∨ 0xC000 ≤ opcode → r = .unsupported ∧ d = [])) ∧
    (∃ t d, exec .mctpControl (s.due (.mctpControl body)) = .next t ∧ t.svc.mctp = s.svc.mctp ++ [d] ∧ kept t)

/-! Encodings, the step and the machine as a whole (10 R200 to R210; 07 R151; 00 R9; 17 R355). -/

/-- 10 R200 to R210: the words of every well-formed instruction, whatever follows them in memory, decode to that instruction,
with every field at every value that the encoding admits. -/
def Obligations.DecodeOfEncode : Prop :=
  ∀ (i : Instr) (rest : List IWord), i.wf = true → encode i ≠ [] → decode (encode i ++ rest) = .ok i

/-- 10 R200, R209: words that decode to an instruction are well formed and are that instruction's encoding, so that no reserved
bit and no unassigned value is passed over. -/
def Obligations.DecodedWordsAreTheEncoding : Prop :=
  ∀ (ws : List IWord) (w : IWord) (i : Instr), ws.head? = some w → wordBytes w ≤ 4 * ws.length → decode ws = .ok i →
    i.wf = true ∧ encode i = ws.take (wordBytes w / 4) ∧ i.bytes = wordBytes w

/-- 10 Tables 10.2, 10.7 to 10.9: these words, written out field by field, are these instructions: `add g1, g2, g3`, `li g2,
-1`, `br.c3` back by one word, `ld.w.si g1, [g3 + 8]`, `fence.rel.sys`, `cwait.cube g4, g5`, `sysrd g6, REGION`, `exit`,
`vadd.f32 v1, v2, v3`; and the all-zero word, an unassigned MAJ, a LEN or FN not allowed, a negated c0 and a reserved field
are none. -/
def Obligations.WordsDecodeAsTabled : Prop :=
  let h : Hd := { pneg := false, pred := 0#3, lit := none }
  decode [0b00000_00011_00010_00001_0_000_000001_00#32] = .ok (.add h (.g 1#4) (.g 2#4) (.g 3#4)) ∧
  decode [0b11111_11111_00000_00010_0_000_001111_00#32] = .ok (.li h (.g 2#4) 0x3FF#10) ∧
  decode [0b11111_11111_11111_11111_0_011_010100_00#32] = .ok (.br { h with pred := 3#3 } 0xFFFFF#20) ∧
  decode [0b10000_00010_00011_00001_0_000_011000_00#32] = .ok (.ld h 2#2 false 0#2 (.g 1#4) (.g 3#4) 2#5 none) ∧
  decode [0b00111_00000_00000_00000_0_000_011110_00#32] = .ok (.fenceRel h 3#2) ∧
  decode [0b10010_00101_00100_00000_0_000_011101_00#32] = .ok (.cwait h 2#2 0#5 (.mem 4#4) (.g 5#4) none) ∧
  decode [0b00000_00000_00100_00110_0_000_011111_00#32] = .ok (.sysrd h (.g 6#4) 4#5 0#5) ∧
  decode [0b00011_00000_00000_00000_0_000_010111_00#32] = .ok (.exit h) ∧
  decode [0b00000_00000_00000_00000_0_000_100000_10#32, 0b000001_000010_000011_000000_000_0_1000#32, 0#32] =
    .ok (.vadd h (.g 0#4) {
      x1 := 1#6, x2 := 2#6, x3 := 3#6, x4 := 0#6, msk := 0#3, ty := .f32, rnd := 0#2, bs := false, sat := false,
      part := 0#2, hint := 0#2, sc := 0#2 }) ∧
  (∀ w, w ∈ [0#32, 0b00000_00000_00000_00000_0_000_000100_00#32, 0b00000_00011_00010_00001_0_000_001000_01#32,
    0b10001_00011_00010_00001_0_000_000001_00#32, 0b00000_00011_00010_00001_1_000_000001_00#32,
    0b00011_00001_00000_00000_0_000_010111_00#32] → ∃ e, decode [w, 0#32, 0#32] = .error e)

/-- 07 R151, 10 R200, R209; 16 R339: a step in which a thread's issue is settled runs the instruction that the words at its PC
encode, as the thread with its space descriptor read, or traps ILLEGAL_ENCODING when they encode none; a step in which one unit's
step is due and no thread can issue runs that step; then time passes. A thread whose line is missing asks for it. -/
def Obligations.StepRunsDecoded : Prop :=
  ∀ (s : State), let s0 := s.wakeTimers
    (∀ (c x : Nat) (s1 : State) (ws : List IWord), s.next = some (c, x) →
      { s0 with cur := (c, x), next := none }.descReady c x = some s1 → (s1.ctx c x).cstate = .active →
      ((s.ctx c x).skew = none ∨ (s.ctx c x).held = true ∨ (s.ctx c x).got ≠ []) → (s1.core c).fetch (s1.ctx c x) = .ok ws →
      (∀ i t, decode ws = .ok i → exec i { s1 with ev := none } = .next t → step s = .next (t.logUndo s1 c x).pass) ∧
      (∀ e t, decode ws = .error e →
        exec .illegalEncoding (s1.due (.illegalEncoding (nthD ws 0 0#32) (nthD ws 1 0#32) (nthD ws 2 0#32))) = .next t →
        step s = .next (t.logUndo s1 c x).pass)) ∧
    (∀ (e : Ev) (r : List Ev) (t : State), s.next = none → s.events = e :: r → s0.tripped = false → s0.choices = [] →
      let q := s0.homeTurn e s0.events.tail
      (exec q.1.instr { q.2.2 with events := q.2.1, ev := some q.1 } = .next t → step s = .next t.pass) ∧
      (s0.homeArrival e = none → q = (e, s0.events.tail, s0)) ∧
      (∀ l p, s0.homeArrival e = some (l, p) → q.1 ∈ s0.events ∧ q.2.1 = s0.events.erase q.1 ∧
        (q.1 = e ∨ ∃ p', s0.homeArrival q.1 = some (l, p')))) ∧
    (∀ (p : Nat × Nat) (x : Nat) (s1 t : State), s.next = none → s0.firstDue = none → s0.choices = [p] →
      s0.issueSlot p.1 p.2 = some (x, s1) → s1.issueThread p.1 x = .next t →
      step s = .next (t.untaken s0 p.1 x).pass ∧ (t.blocked p.1 x = false → t.untaken s0 p.1 x = t)) ∧
    (∀ (old t : State) (c x : Nat), ((old.ctx c x).tags = [] → t.logUndo old c x = t) ∧
      ∃ l, t.logUndo old c x = { t with cores := l }) ∧
    (∀ t : State, t.pass = { t with leaseNow := t.leaseNow + Config.elapsed t.tick, tick := t.tick + 1 })

/-- 02 R31 and the model's memory form (notes/assumptions): every step, of a thread or of a unit, keeps the bytes of the
cube's memory in their canonical form. -/
def Obligations.StepKeepsMemoryCanonical : Prop :=
  ∀ (s t : State), s.wf = true → step s = .next t → t.wf = true

/-- 17 R355 and the Reset columns of 01, 05 to 08, 16 and 17: at reset each register of Table 11.5 reads its stated value, every
context is FREE, the one step due is the reset of the cube, and memory stands in its canonical form. -/
def Obligations.ResetIsAsStated : Prop :=
  State.reset.wf = true ∧ State.reset.events = [.cubeReset] ∧ State.reset.next = none ∧
  (∀ n, 0x080 ≤ n → n < 0x127 → State.reset.readCube n = match n with
    | 0x089 => 15 + 4 * 2 ^ 8
    | 0x0A3 => 1 * 2 ^ 8
    | 0x0A5 => 10000 + 8 * 2 ^ 32
    | 0x0B2 => 200
    | 0x110 => 950
    | _ => 0) ∧
  (∀ c x n, n < 0x080 → State.reset.readLocal c x n = 0) ∧
  (∀ c x, (State.reset.ctx c x).cstate = .free) ∧ (∀ p, (State.reset.port p).state = 0)
end

