-- ==== Sys2Proof/Laws/Table.lean ====
section
/-! SUPPORT. Laws of the sparse tables: a read after a write, and that writes keep the canonical form of memory. -/

namespace Sys2Proof

@[simp] theorem tblGet_nil {α : Type} (k : Nat) (d : α) : tblGet [] k d = d := rfl

/-- A write is read back. -/
@[simp] theorem tblGet_tblSet_same {α : Type} (m : Tbl α) (k : Nat) (v d : α) : tblGet (tblSet m k v) k d = v := by
  induction m with
  | nil => simp [tblSet, tblGet]
  | cons p r ih =>
    obtain ⟨a, b⟩ := p
    simp only [tblSet]
    split
    · simp [tblGet]
    · split
      · simp [tblGet]
      · simp only [tblGet]
        rw [if_neg ‹_›, ih]

/-- A write leaves every other key alone. -/
theorem tblGet_tblSet_other {α : Type} (m : Tbl α) (k j : Nat) (v d : α) (h : j ≠ k) :
    tblGet (tblSet m k v) j d = tblGet m j d := by
  induction m with
  | nil => simp [tblSet, tblGet, h]
  | cons p r ih =>
    obtain ⟨a, b⟩ := p
    simp only [tblSet]
    split
    · simp [tblGet, h]
    · split
      · subst k; simp [tblGet, h]
      · simp only [tblGet, ih]

theorem tblGet_tblSet {α : Type} (m : Tbl α) (k j : Nat) (v d : α) :
    tblGet (tblSet m k v) j d = if j = k then v else tblGet m j d := by
  split
  · subst j; simp
  · exact tblGet_tblSet_other m k j v d ‹_›

/-- A removed key has the default. -/
@[simp] theorem tblGet_tblDel_same {α : Type} (m : Tbl α) (k : Nat) (d : α) : tblGet (tblDel m k) k d = d := by
  induction m with
  | nil => simp [tblDel]
  | cons p r ih =>
    obtain ⟨a, b⟩ := p
    simp only [tblDel]
    split
    · exact ih
    · simp [tblGet, ih, ‹¬ k = a›]

theorem tblGet_tblDel_other {α : Type} (m : Tbl α) (k j : Nat) (d : α) (h : j ≠ k) :
    tblGet (tblDel m k) j d = tblGet m j d := by
  induction m with
  | nil => simp [tblDel]
  | cons p r ih =>
    obtain ⟨a, b⟩ := p
    simp only [tblDel]
    split
    · subst k; rw [ih]; simp [tblGet, h]
    · simp [tblGet, ih]

/-- A write to a store of bits is read back. -/
@[simp] theorem memGet_memSet_same {n : Nat} (m : Tbl (BitVec n)) (k : Nat) (v : BitVec n) :
    memGet (memSet m k v) k = v := by
  unfold memGet memSet; split <;> simp [*]

theorem memGet_memSet_other {n : Nat} (m : Tbl (BitVec n)) (k j : Nat) (v : BitVec n) (h : j ≠ k) :
    memGet (memSet m k v) j = memGet m j := by
  unfold memGet memSet
  split
  · exact tblGet_tblDel_other m k j _ h
  · exact tblGet_tblSet_other m k j v _ h

theorem memGet_memSet {n : Nat} (m : Tbl (BitVec n)) (k j : Nat) (v : BitVec n) :
    memGet (memSet m k v) j = if j = k then v else memGet m j := by
  split
  · subst j; simp
  · exact memGet_memSet_other m k j v ‹_›

theorem memSorted_le {n : Nat} (m : Tbl (BitVec n)) (lo lo' : Nat) (h : lo' ≤ lo) (hm : memSorted lo m = true) :
    memSorted lo' m = true := by
  cases m with
  | nil => rfl
  | cons p r =>
    obtain ⟨a, b⟩ := p
    simp only [memSorted, Bool.and_eq_true, decide_eq_true_eq] at *
    exact ⟨⟨by omega, hm.1.2⟩, hm.2⟩

theorem memSorted_tblSet {n : Nat} (m : Tbl (BitVec n)) (lo k : Nat) (v : BitVec n) (hv : v ≠ 0#n) (hk : lo ≤ k)
    (hm : memSorted lo m = true) : memSorted lo (tblSet m k v) = true := by
  induction m generalizing lo with
  | nil => simp [tblSet, memSorted, hv, hk]
  | cons p r ih =>
    obtain ⟨a, b⟩ := p
    simp only [memSorted, Bool.and_eq_true, decide_eq_true_eq] at hm
    simp only [tblSet]
    split
    · simp only [memSorted, Bool.and_eq_true, decide_eq_true_eq]
      exact ⟨⟨hk, hv⟩, ⟨by omega, hm.1.2⟩, hm.2⟩
    · split
      · simp only [memSorted, Bool.and_eq_true, decide_eq_true_eq]
        subst k; exact ⟨⟨hk, hv⟩, hm.2⟩
      · simp only [memSorted, Bool.and_eq_true, decide_eq_true_eq]
        exact ⟨hm.1, ih (a + 1) (by omega) hm.2⟩

theorem memSorted_tblDel {n : Nat} (m : Tbl (BitVec n)) (lo k : Nat) (hm : memSorted lo m = true) :
    memSorted lo (tblDel m k) = true := by
  induction m generalizing lo with
  | nil => rfl
  | cons p r ih =>
    obtain ⟨a, b⟩ := p
    simp only [memSorted, Bool.and_eq_true, decide_eq_true_eq] at hm
    simp only [tblDel]
    split
    · exact ih lo (memSorted_le r (a + 1) lo (by omega) hm.2)
    · simp only [memSorted, Bool.and_eq_true, decide_eq_true_eq]
      exact ⟨hm.1, ih (a + 1) hm.2⟩

/-- A write keeps the canonical form. -/
theorem memSet_wf {n : Nat} (m : Tbl (BitVec n)) (k : Nat) (v : BitVec n) (hm : Memory.wf m = true) :
    Memory.wf (memSet m k v) = true := by
  unfold memSet Memory.wf at *
  split
  · exact memSorted_tblDel m 0 k hm
  · exact memSorted_tblSet m 0 k v ‹_› (Nat.zero_le k) hm

/-- A write of several bytes keeps the canonical form. -/
theorem memWrite_wf (m : Tbl Byte) (a : Nat) (d : List Byte) (hm : Memory.wf m = true) :
    Memory.wf (memWrite m a d) = true := by
  induction d generalizing m a with
  | nil => exact hm
  | cons b r ih => exact ih _ _ (memSet_wf m a b hm)

/-- Bytes below a write, and above it, stay. -/
theorem memGet_memWrite_other (m : Tbl Byte) (a j : Nat) (d : List Byte) (h : j < a ∨ a + d.length ≤ j) :
    memGet (memWrite m a d) j = memGet m j := by
  induction d generalizing m a with
  | nil => rfl
  | cons b r ih =>
    simp only [memWrite, List.length_cons] at *
    rw [ih _ _ (by omega), memGet_memSet_other _ _ _ _ (by omega)]

/-- A byte written is read back. -/
theorem memGet_memWrite (m : Tbl Byte) (a k : Nat) (d : List Byte) (h : k < d.length) :
    memGet (memWrite m a d) (a + k) = d[k] := by
  induction d generalizing m a k with
  | nil => simp at h
  | cons b r ih =>
    cases k with
    | zero => simp only [memWrite]; rw [memGet_memWrite_other _ _ _ _ (by omega)]; simp
    | succ k =>
      have := ih (memSet m a b) (a + 1) k (by simp at h; omega)
      simp only [memWrite, List.getElem_cons_succ]
      rw [← this]; congr 1; omega

@[simp] theorem memRead_length (m : Tbl Byte) (a k : Nat) : (memRead m a k).length = k := by
  induction k generalizing a with
  | zero => rfl
  | succ k ih => simp [memRead, ih]

end Sys2Proof
end

