-- ==== Sys2Proof/Laws/State.lean ====
section
/-! SUPPORT. What each named update of the state does to each field: one lemma per field per update, and the reads of cores and
contexts after a write of one. -/

namespace Sys2Proof.Machine

/-! `State.setCore`. -/
@[simp] theorem State.setCore_cubeId (s : State) (c : Nat) (k : Core) : (s.setCore c k).cubeId = s.cubeId := rfl
@[simp] theorem State.setCore_cubeSet (s : State) (c : Nat) (k : Core) : (s.setCore c k).cubeSet = s.cubeSet := rfl
@[simp] theorem State.setCore_dense (s : State) (c : Nat) (k : Core) : (s.setCore c k).dense = s.dense := rfl
@[simp] theorem State.setCore_poison (s : State) (c : Nat) (k : Core) : (s.setCore c k).poison = s.poison := rfl
@[simp] theorem State.setCore_map (s : State) (c : Nat) (k : Core) : (s.setCore c k).map = s.map := rfl
@[simp] theorem State.setCore_cubeList (s : State) (c : Nat) (k : Core) : (s.setCore c k).cubeList = s.cubeList := rfl
@[simp] theorem State.setCore_hold (s : State) (c : Nat) (k : Core) : (s.setCore c k).hold = s.hold := rfl
@[simp] theorem State.setCore_slices (s : State) (c : Nat) (k : Core) : (s.setCore c k).slices = s.slices := rfl
@[simp] theorem State.setCore_holds (s : State) (c : Nat) (k : Core) : (s.setCore c k).holds = s.holds := rfl
@[simp] theorem State.setCore_nbBusy (s : State) (c : Nat) (k : Core) : (s.setCore c k).nbBusy = s.nbBusy := rfl
@[simp] theorem State.setCore_nbQueue (s : State) (c : Nat) (k : Core) : (s.setCore c k).nbQueue = s.nbQueue := rfl
@[simp] theorem State.setCore_stubs (s : State) (c : Nat) (k : Core) : (s.setCore c k).stubs = s.stubs := rfl
@[simp] theorem State.setCore_jobs (s : State) (c : Nat) (k : Core) : (s.setCore c k).jobs = s.jobs := rfl
@[simp] theorem State.setCore_cores (s : State) (c : Nat) (k : Core) : (s.setCore c k).cores = tblSet s.cores c k := rfl
@[simp] theorem State.setCore_regs (s : State) (c : Nat) (k : Core) : (s.setCore c k).regs = s.regs := rfl
@[simp] theorem State.setCore_leaseNow (s : State) (c : Nat) (k : Core) : (s.setCore c k).leaseNow = s.leaseNow := rfl
@[simp] theorem State.setCore_walks (s : State) (c : Nat) (k : Core) : (s.setCore c k).walks = s.walks := rfl
@[simp] theorem State.setCore_walkStore (s : State) (c : Nat) (k : Core) : (s.setCore c k).walkStore = s.walkStore := rfl
@[simp] theorem State.setCore_harts (s : State) (c : Nat) (k : Core) : (s.setCore c k).harts = s.harts := rfl
@[simp] theorem State.setCore_faults (s : State) (c : Nat) (k : Core) : (s.setCore c k).faults = s.faults := rfl
@[simp] theorem State.setCore_faultWait (s : State) (c : Nat) (k : Core) : (s.setCore c k).faultWait = s.faultWait := rfl
@[simp] theorem State.setCore_queueBusy (s : State) (c : Nat) (k : Core) : (s.setCore c k).queueBusy = s.queueBusy := rfl
@[simp] theorem State.setCore_queueWait (s : State) (c : Nat) (k : Core) : (s.setCore c k).queueWait = s.queueWait := rfl
@[simp] theorem State.setCore_fltNext (s : State) (c : Nat) (k : Core) : (s.setCore c k).fltNext = s.fltNext := rfl
@[simp] theorem State.setCore_outs (s : State) (c : Nat) (k : Core) : (s.setCore c k).outs = s.outs := rfl
@[simp] theorem State.setCore_fabric (s : State) (c : Nat) (k : Core) : (s.setCore c k).fabric = s.fabric := rfl
@[simp] theorem State.setCore_tu (s : State) (c : Nat) (k : Core) : (s.setCore c k).tu = s.tu := rfl
@[simp] theorem State.setCore_engines (s : State) (c : Nat) (k : Core) : (s.setCore c k).engines = s.engines := rfl
@[simp] theorem State.setCore_streamers (s : State) (c : Nat) (k : Core) : (s.setCore c k).streamers = s.streamers := rfl
@[simp] theorem State.setCore_vaults (s : State) (c : Nat) (k : Core) : (s.setCore c k).vaults = s.vaults := rfl
@[simp] theorem State.setCore_grants (s : State) (c : Nat) (k : Core) : (s.setCore c k).grants = s.grants := rfl
@[simp] theorem State.setCore_grantQueue (s : State) (c : Nat) (k : Core) : (s.setCore c k).grantQueue = s.grantQueue := rfl
@[simp] theorem State.setCore_susps (s : State) (c : Nat) (k : Core) : (s.setCore c k).susps = s.susps := rfl
@[simp] theorem State.setCore_svc (s : State) (c : Nat) (k : Core) : (s.setCore c k).svc = s.svc := rfl
@[simp] theorem State.setCore_drains (s : State) (c : Nat) (k : Core) : (s.setCore c k).drains = s.drains := rfl
@[simp] theorem State.setCore_migWait (s : State) (c : Nat) (k : Core) : (s.setCore c k).migWait = s.migWait := rfl
@[simp] theorem State.setCore_events (s : State) (c : Nat) (k : Core) : (s.setCore c k).events = s.events := rfl
@[simp] theorem State.setCore_ev (s : State) (c : Nat) (k : Core) : (s.setCore c k).ev = s.ev := rfl
@[simp] theorem State.setCore_timers (s : State) (c : Nat) (k : Core) : (s.setCore c k).timers = s.timers := rfl
@[simp] theorem State.setCore_cur (s : State) (c : Nat) (k : Core) : (s.setCore c k).cur = s.cur := rfl
@[simp] theorem State.setCore_next (s : State) (c : Nat) (k : Core) : (s.setCore c k).next = s.next := rfl
@[simp] theorem State.setCore_tick (s : State) (c : Nat) (k : Core) : (s.setCore c k).tick = s.tick := rfl
@[simp] theorem State.setCore_faultTurn (s : State) (c : Nat) (k : Core) : (s.setCore c k).faultTurn = s.faultTurn := rfl
@[simp] theorem State.setCore_reqWait (s : State) (c : Nat) (k : Core) : (s.setCore c k).reqWait = s.reqWait := rfl

/-! `State.updCore`. -/
@[simp] theorem State.updCore_cubeId (s : State) (c : Nat) (f : Core → Core) : (s.updCore c f).cubeId = s.cubeId := rfl
@[simp] theorem State.updCore_cubeSet (s : State) (c : Nat) (f : Core → Core) : (s.updCore c f).cubeSet = s.cubeSet := rfl
@[simp] theorem State.updCore_dense (s : State) (c : Nat) (f : Core → Core) : (s.updCore c f).dense = s.dense := rfl
@[simp] theorem State.updCore_poison (s : State) (c : Nat) (f : Core → Core) : (s.updCore c f).poison = s.poison := rfl
@[simp] theorem State.updCore_map (s : State) (c : Nat) (f : Core → Core) : (s.updCore c f).map = s.map := rfl
@[simp] theorem State.updCore_cubeList (s : State) (c : Nat) (f : Core → Core) : (s.updCore c f).cubeList = s.cubeList := rfl
@[simp] theorem State.updCore_hold (s : State) (c : Nat) (f : Core → Core) : (s.updCore c f).hold = s.hold := rfl
@[simp] theorem State.updCore_slices (s : State) (c : Nat) (f : Core → Core) : (s.updCore c f).slices = s.slices := rfl
@[simp] theorem State.updCore_holds (s : State) (c : Nat) (f : Core → Core) : (s.updCore c f).holds = s.holds := rfl
@[simp] theorem State.updCore_nbBusy (s : State) (c : Nat) (f : Core → Core) : (s.updCore c f).nbBusy = s.nbBusy := rfl
@[simp] theorem State.updCore_nbQueue (s : State) (c : Nat) (f : Core → Core) : (s.updCore c f).nbQueue = s.nbQueue := rfl
@[simp] theorem State.updCore_stubs (s : State) (c : Nat) (f : Core → Core) : (s.updCore c f).stubs = s.stubs := rfl
@[simp] theorem State.updCore_jobs (s : State) (c : Nat) (f : Core → Core) : (s.updCore c f).jobs = s.jobs := rfl
@[simp] theorem State.updCore_cores (s : State) (c : Nat) (f : Core → Core) : (s.updCore c f).cores = tblSet s.cores c (f (s.core c)) := rfl
@[simp] theorem State.updCore_regs (s : State) (c : Nat) (f : Core → Core) : (s.updCore c f).regs = s.regs := rfl
@[simp] theorem State.updCore_leaseNow (s : State) (c : Nat) (f : Core → Core) : (s.updCore c f).leaseNow = s.leaseNow := rfl
@[simp] theorem State.updCore_walks (s : State) (c : Nat) (f : Core → Core) : (s.updCore c f).walks = s.walks := rfl
@[simp] theorem State.updCore_walkStore (s : State) (c : Nat) (f : Core → Core) : (s.updCore c f).walkStore = s.walkStore := rfl
@[simp] theorem State.updCore_harts (s : State) (c : Nat) (f : Core → Core) : (s.updCore c f).harts = s.harts := rfl
@[simp] theorem State.updCore_faults (s : State) (c : Nat) (f : Core → Core) : (s.updCore c f).faults = s.faults := rfl
@[simp] theorem State.updCore_faultWait (s : State) (c : Nat) (f : Core → Core) : (s.updCore c f).faultWait = s.faultWait := rfl
@[simp] theorem State.updCore_queueBusy (s : State) (c : Nat) (f : Core → Core) : (s.updCore c f).queueBusy = s.queueBusy := rfl
@[simp] theorem State.updCore_queueWait (s : State) (c : Nat) (f : Core → Core) : (s.updCore c f).queueWait = s.queueWait := rfl
@[simp] theorem State.updCore_fltNext (s : State) (c : Nat) (f : Core → Core) : (s.updCore c f).fltNext = s.fltNext := rfl
@[simp] theorem State.updCore_outs (s : State) (c : Nat) (f : Core → Core) : (s.updCore c f).outs = s.outs := rfl
@[simp] theorem State.updCore_fabric (s : State) (c : Nat) (f : Core → Core) : (s.updCore c f).fabric = s.fabric := rfl
@[simp] theorem State.updCore_tu (s : State) (c : Nat) (f : Core → Core) : (s.updCore c f).tu = s.tu := rfl
@[simp] theorem State.updCore_engines (s : State) (c : Nat) (f : Core → Core) : (s.updCore c f).engines = s.engines := rfl
@[simp] theorem State.updCore_streamers (s : State) (c : Nat) (f : Core → Core) : (s.updCore c f).streamers = s.streamers := rfl
@[simp] theorem State.updCore_vaults (s : State) (c : Nat) (f : Core → Core) : (s.updCore c f).vaults = s.vaults := rfl
@[simp] theorem State.updCore_grants (s : State) (c : Nat) (f : Core → Core) : (s.updCore c f).grants = s.grants := rfl
@[simp] theorem State.updCore_grantQueue (s : State) (c : Nat) (f : Core → Core) : (s.updCore c f).grantQueue = s.grantQueue := rfl
@[simp] theorem State.updCore_susps (s : State) (c : Nat) (f : Core → Core) : (s.updCore c f).susps = s.susps := rfl
@[simp] theorem State.updCore_svc (s : State) (c : Nat) (f : Core → Core) : (s.updCore c f).svc = s.svc := rfl
@[simp] theorem State.updCore_drains (s : State) (c : Nat) (f : Core → Core) : (s.updCore c f).drains = s.drains := rfl
@[simp] theorem State.updCore_migWait (s : State) (c : Nat) (f : Core → Core) : (s.updCore c f).migWait = s.migWait := rfl
@[simp] theorem State.updCore_events (s : State) (c : Nat) (f : Core → Core) : (s.updCore c f).events = s.events := rfl
@[simp] theorem State.updCore_ev (s : State) (c : Nat) (f : Core → Core) : (s.updCore c f).ev = s.ev := rfl
@[simp] theorem State.updCore_timers (s : State) (c : Nat) (f : Core → Core) : (s.updCore c f).timers = s.timers := rfl
@[simp] theorem State.updCore_cur (s : State) (c : Nat) (f : Core → Core) : (s.updCore c f).cur = s.cur := rfl
@[simp] theorem State.updCore_next (s : State) (c : Nat) (f : Core → Core) : (s.updCore c f).next = s.next := rfl
@[simp] theorem State.updCore_tick (s : State) (c : Nat) (f : Core → Core) : (s.updCore c f).tick = s.tick := rfl
@[simp] theorem State.updCore_faultTurn (s : State) (c : Nat) (f : Core → Core) : (s.updCore c f).faultTurn = s.faultTurn := rfl
@[simp] theorem State.updCore_reqWait (s : State) (c : Nat) (f : Core → Core) : (s.updCore c f).reqWait = s.reqWait := rfl

/-! `State.setCtx`. -/
@[simp] theorem State.setCtx_cubeId (s : State) (c x : Nat) (t : Ctx) : (s.setCtx c x t).cubeId = s.cubeId := rfl
@[simp] theorem State.setCtx_cubeSet (s : State) (c x : Nat) (t : Ctx) : (s.setCtx c x t).cubeSet = s.cubeSet := rfl
@[simp] theorem State.setCtx_dense (s : State) (c x : Nat) (t : Ctx) : (s.setCtx c x t).dense = s.dense := rfl
@[simp] theorem State.setCtx_poison (s : State) (c x : Nat) (t : Ctx) : (s.setCtx c x t).poison = s.poison := rfl
@[simp] theorem State.setCtx_map (s : State) (c x : Nat) (t : Ctx) : (s.setCtx c x t).map = s.map := rfl
@[simp] theorem State.setCtx_cubeList (s : State) (c x : Nat) (t : Ctx) : (s.setCtx c x t).cubeList = s.cubeList := rfl
@[simp] theorem State.setCtx_hold (s : State) (c x : Nat) (t : Ctx) : (s.setCtx c x t).hold = s.hold := rfl
@[simp] theorem State.setCtx_slices (s : State) (c x : Nat) (t : Ctx) : (s.setCtx c x t).slices = s.slices := rfl
@[simp] theorem State.setCtx_holds (s : State) (c x : Nat) (t : Ctx) : (s.setCtx c x t).holds = s.holds := rfl
@[simp] theorem State.setCtx_nbBusy (s : State) (c x : Nat) (t : Ctx) : (s.setCtx c x t).nbBusy = s.nbBusy := rfl
@[simp] theorem State.setCtx_nbQueue (s : State) (c x : Nat) (t : Ctx) : (s.setCtx c x t).nbQueue = s.nbQueue := rfl
@[simp] theorem State.setCtx_stubs (s : State) (c x : Nat) (t : Ctx) : (s.setCtx c x t).stubs = s.stubs := rfl
@[simp] theorem State.setCtx_jobs (s : State) (c x : Nat) (t : Ctx) : (s.setCtx c x t).jobs = s.jobs := rfl
@[simp] theorem State.setCtx_cores (s : State) (c x : Nat) (t : Ctx) : (s.setCtx c x t).cores = tblSet s.cores c ((s.core c).setCtx x t) := rfl
@[simp] theorem State.setCtx_regs (s : State) (c x : Nat) (t : Ctx) : (s.setCtx c x t).regs = s.regs := rfl
@[simp] theorem State.setCtx_leaseNow (s : State) (c x : Nat) (t : Ctx) : (s.setCtx c x t).leaseNow = s.leaseNow := rfl
@[simp] theorem State.setCtx_walks (s : State) (c x : Nat) (t : Ctx) : (s.setCtx c x t).walks = s.walks := rfl
@[simp] theorem State.setCtx_walkStore (s : State) (c x : Nat) (t : Ctx) : (s.setCtx c x t).walkStore = s.walkStore := rfl
@[simp] theorem State.setCtx_harts (s : State) (c x : Nat) (t : Ctx) : (s.setCtx c x t).harts = s.harts := rfl
@[simp] theorem State.setCtx_faults (s : State) (c x : Nat) (t : Ctx) : (s.setCtx c x t).faults = s.faults := rfl
@[simp] theorem State.setCtx_faultWait (s : State) (c x : Nat) (t : Ctx) : (s.setCtx c x t).faultWait = s.faultWait := rfl
@[simp] theorem State.setCtx_queueBusy (s : State) (c x : Nat) (t : Ctx) : (s.setCtx c x t).queueBusy = s.queueBusy := rfl
@[simp] theorem State.setCtx_queueWait (s : State) (c x : Nat) (t : Ctx) : (s.setCtx c x t).queueWait = s.queueWait := rfl
@[simp] theorem State.setCtx_fltNext (s : State) (c x : Nat) (t : Ctx) : (s.setCtx c x t).fltNext = s.fltNext := rfl
@[simp] theorem State.setCtx_outs (s : State) (c x : Nat) (t : Ctx) : (s.setCtx c x t).outs = s.outs := rfl
@[simp] theorem State.setCtx_fabric (s : State) (c x : Nat) (t : Ctx) : (s.setCtx c x t).fabric = s.fabric := rfl
@[simp] theorem State.setCtx_tu (s : State) (c x : Nat) (t : Ctx) : (s.setCtx c x t).tu = s.tu := rfl
@[simp] theorem State.setCtx_engines (s : State) (c x : Nat) (t : Ctx) : (s.setCtx c x t).engines = s.engines := rfl
@[simp] theorem State.setCtx_streamers (s : State) (c x : Nat) (t : Ctx) : (s.setCtx c x t).streamers = s.streamers := rfl
@[simp] theorem State.setCtx_vaults (s : State) (c x : Nat) (t : Ctx) : (s.setCtx c x t).vaults = s.vaults := rfl
@[simp] theorem State.setCtx_grants (s : State) (c x : Nat) (t : Ctx) : (s.setCtx c x t).grants = s.grants := rfl
@[simp] theorem State.setCtx_grantQueue (s : State) (c x : Nat) (t : Ctx) : (s.setCtx c x t).grantQueue = s.grantQueue := rfl
@[simp] theorem State.setCtx_susps (s : State) (c x : Nat) (t : Ctx) : (s.setCtx c x t).susps = s.susps := rfl
@[simp] theorem State.setCtx_svc (s : State) (c x : Nat) (t : Ctx) : (s.setCtx c x t).svc = s.svc := rfl
@[simp] theorem State.setCtx_drains (s : State) (c x : Nat) (t : Ctx) : (s.setCtx c x t).drains = s.drains := rfl
@[simp] theorem State.setCtx_migWait (s : State) (c x : Nat) (t : Ctx) : (s.setCtx c x t).migWait = s.migWait := rfl
@[simp] theorem State.setCtx_events (s : State) (c x : Nat) (t : Ctx) : (s.setCtx c x t).events = s.events := rfl
@[simp] theorem State.setCtx_ev (s : State) (c x : Nat) (t : Ctx) : (s.setCtx c x t).ev = s.ev := rfl
@[simp] theorem State.setCtx_timers (s : State) (c x : Nat) (t : Ctx) : (s.setCtx c x t).timers = s.timers := rfl
@[simp] theorem State.setCtx_cur (s : State) (c x : Nat) (t : Ctx) : (s.setCtx c x t).cur = s.cur := rfl
@[simp] theorem State.setCtx_next (s : State) (c x : Nat) (t : Ctx) : (s.setCtx c x t).next = s.next := rfl
@[simp] theorem State.setCtx_tick (s : State) (c x : Nat) (t : Ctx) : (s.setCtx c x t).tick = s.tick := rfl
@[simp] theorem State.setCtx_faultTurn (s : State) (c x : Nat) (t : Ctx) : (s.setCtx c x t).faultTurn = s.faultTurn := rfl
@[simp] theorem State.setCtx_reqWait (s : State) (c x : Nat) (t : Ctx) : (s.setCtx c x t).reqWait = s.reqWait := rfl

/-! `State.updCtx`. -/
@[simp] theorem State.updCtx_cubeId (s : State) (c x : Nat) (f : Ctx → Ctx) : (s.updCtx c x f).cubeId = s.cubeId := rfl
@[simp] theorem State.updCtx_cubeSet (s : State) (c x : Nat) (f : Ctx → Ctx) : (s.updCtx c x f).cubeSet = s.cubeSet := rfl
@[simp] theorem State.updCtx_dense (s : State) (c x : Nat) (f : Ctx → Ctx) : (s.updCtx c x f).dense = s.dense := rfl
@[simp] theorem State.updCtx_poison (s : State) (c x : Nat) (f : Ctx → Ctx) : (s.updCtx c x f).poison = s.poison := rfl
@[simp] theorem State.updCtx_map (s : State) (c x : Nat) (f : Ctx → Ctx) : (s.updCtx c x f).map = s.map := rfl
@[simp] theorem State.updCtx_cubeList (s : State) (c x : Nat) (f : Ctx → Ctx) : (s.updCtx c x f).cubeList = s.cubeList := rfl
@[simp] theorem State.updCtx_hold (s : State) (c x : Nat) (f : Ctx → Ctx) : (s.updCtx c x f).hold = s.hold := rfl
@[simp] theorem State.updCtx_slices (s : State) (c x : Nat) (f : Ctx → Ctx) : (s.updCtx c x f).slices = s.slices := rfl
@[simp] theorem State.updCtx_holds (s : State) (c x : Nat) (f : Ctx → Ctx) : (s.updCtx c x f).holds = s.holds := rfl
@[simp] theorem State.updCtx_nbBusy (s : State) (c x : Nat) (f : Ctx → Ctx) : (s.updCtx c x f).nbBusy = s.nbBusy := rfl
@[simp] theorem State.updCtx_nbQueue (s : State) (c x : Nat) (f : Ctx → Ctx) : (s.updCtx c x f).nbQueue = s.nbQueue := rfl
@[simp] theorem State.updCtx_stubs (s : State) (c x : Nat) (f : Ctx → Ctx) : (s.updCtx c x f).stubs = s.stubs := rfl
@[simp] theorem State.updCtx_jobs (s : State) (c x : Nat) (f : Ctx → Ctx) : (s.updCtx c x f).jobs = s.jobs := rfl
@[simp] theorem State.updCtx_cores (s : State) (c x : Nat) (f : Ctx → Ctx) : (s.updCtx c x f).cores = tblSet s.cores c ((s.core c).setCtx x (f (s.ctx c x))) := rfl
@[simp] theorem State.updCtx_regs (s : State) (c x : Nat) (f : Ctx → Ctx) : (s.updCtx c x f).regs = s.regs := rfl
@[simp] theorem State.updCtx_leaseNow (s : State) (c x : Nat) (f : Ctx → Ctx) : (s.updCtx c x f).leaseNow = s.leaseNow := rfl
@[simp] theorem State.updCtx_walks (s : State) (c x : Nat) (f : Ctx → Ctx) : (s.updCtx c x f).walks = s.walks := rfl
@[simp] theorem State.updCtx_walkStore (s : State) (c x : Nat) (f : Ctx → Ctx) : (s.updCtx c x f).walkStore = s.walkStore := rfl
@[simp] theorem State.updCtx_harts (s : State) (c x : Nat) (f : Ctx → Ctx) : (s.updCtx c x f).harts = s.harts := rfl
@[simp] theorem State.updCtx_faults (s : State) (c x : Nat) (f : Ctx → Ctx) : (s.updCtx c x f).faults = s.faults := rfl
@[simp] theorem State.updCtx_faultWait (s : State) (c x : Nat) (f : Ctx → Ctx) : (s.updCtx c x f).faultWait = s.faultWait := rfl
@[simp] theorem State.updCtx_queueBusy (s : State) (c x : Nat) (f : Ctx → Ctx) : (s.updCtx c x f).queueBusy = s.queueBusy := rfl
@[simp] theorem State.updCtx_queueWait (s : State) (c x : Nat) (f : Ctx → Ctx) : (s.updCtx c x f).queueWait = s.queueWait := rfl
@[simp] theorem State.updCtx_fltNext (s : State) (c x : Nat) (f : Ctx → Ctx) : (s.updCtx c x f).fltNext = s.fltNext := rfl
@[simp] theorem State.updCtx_outs (s : State) (c x : Nat) (f : Ctx → Ctx) : (s.updCtx c x f).outs = s.outs := rfl
@[simp] theorem State.updCtx_fabric (s : State) (c x : Nat) (f : Ctx → Ctx) : (s.updCtx c x f).fabric = s.fabric := rfl
@[simp] theorem State.updCtx_tu (s : State) (c x : Nat) (f : Ctx → Ctx) : (s.updCtx c x f).tu = s.tu := rfl
@[simp] theorem State.updCtx_engines (s : State) (c x : Nat) (f : Ctx → Ctx) : (s.updCtx c x f).engines = s.engines := rfl
@[simp] theorem State.updCtx_streamers (s : State) (c x : Nat) (f : Ctx → Ctx) : (s.updCtx c x f).streamers = s.streamers := rfl
@[simp] theorem State.updCtx_vaults (s : State) (c x : Nat) (f : Ctx → Ctx) : (s.updCtx c x f).vaults = s.vaults := rfl
@[simp] theorem State.updCtx_grants (s : State) (c x : Nat) (f : Ctx → Ctx) : (s.updCtx c x f).grants = s.grants := rfl
@[simp] theorem State.updCtx_grantQueue (s : State) (c x : Nat) (f : Ctx → Ctx) : (s.updCtx c x f).grantQueue = s.grantQueue := rfl
@[simp] theorem State.updCtx_susps (s : State) (c x : Nat) (f : Ctx → Ctx) : (s.updCtx c x f).susps = s.susps := rfl
@[simp] theorem State.updCtx_svc (s : State) (c x : Nat) (f : Ctx → Ctx) : (s.updCtx c x f).svc = s.svc := rfl
@[simp] theorem State.updCtx_drains (s : State) (c x : Nat) (f : Ctx → Ctx) : (s.updCtx c x f).drains = s.drains := rfl
@[simp] theorem State.updCtx_migWait (s : State) (c x : Nat) (f : Ctx → Ctx) : (s.updCtx c x f).migWait = s.migWait := rfl
@[simp] theorem State.updCtx_events (s : State) (c x : Nat) (f : Ctx → Ctx) : (s.updCtx c x f).events = s.events := rfl
@[simp] theorem State.updCtx_ev (s : State) (c x : Nat) (f : Ctx → Ctx) : (s.updCtx c x f).ev = s.ev := rfl
@[simp] theorem State.updCtx_timers (s : State) (c x : Nat) (f : Ctx → Ctx) : (s.updCtx c x f).timers = s.timers := rfl
@[simp] theorem State.updCtx_cur (s : State) (c x : Nat) (f : Ctx → Ctx) : (s.updCtx c x f).cur = s.cur := rfl
@[simp] theorem State.updCtx_next (s : State) (c x : Nat) (f : Ctx → Ctx) : (s.updCtx c x f).next = s.next := rfl
@[simp] theorem State.updCtx_tick (s : State) (c x : Nat) (f : Ctx → Ctx) : (s.updCtx c x f).tick = s.tick := rfl
@[simp] theorem State.updCtx_faultTurn (s : State) (c x : Nat) (f : Ctx → Ctx) : (s.updCtx c x f).faultTurn = s.faultTurn := rfl
@[simp] theorem State.updCtx_reqWait (s : State) (c x : Nat) (f : Ctx → Ctx) : (s.updCtx c x f).reqWait = s.reqWait := rfl

/-! `State.setCx`. -/
@[simp] theorem State.setCx_cubeId (s : State) (t : Ctx) : (s.setCx t).cubeId = s.cubeId := rfl
@[simp] theorem State.setCx_cubeSet (s : State) (t : Ctx) : (s.setCx t).cubeSet = s.cubeSet := rfl
@[simp] theorem State.setCx_dense (s : State) (t : Ctx) : (s.setCx t).dense = s.dense := rfl
@[simp] theorem State.setCx_poison (s : State) (t : Ctx) : (s.setCx t).poison = s.poison := rfl
@[simp] theorem State.setCx_map (s : State) (t : Ctx) : (s.setCx t).map = s.map := rfl
@[simp] theorem State.setCx_cubeList (s : State) (t : Ctx) : (s.setCx t).cubeList = s.cubeList := rfl
@[simp] theorem State.setCx_hold (s : State) (t : Ctx) : (s.setCx t).hold = s.hold := rfl
@[simp] theorem State.setCx_slices (s : State) (t : Ctx) : (s.setCx t).slices = s.slices := rfl
@[simp] theorem State.setCx_holds (s : State) (t : Ctx) : (s.setCx t).holds = s.holds := rfl
@[simp] theorem State.setCx_nbBusy (s : State) (t : Ctx) : (s.setCx t).nbBusy = s.nbBusy := rfl
@[simp] theorem State.setCx_nbQueue (s : State) (t : Ctx) : (s.setCx t).nbQueue = s.nbQueue := rfl
@[simp] theorem State.setCx_stubs (s : State) (t : Ctx) : (s.setCx t).stubs = s.stubs := rfl
@[simp] theorem State.setCx_jobs (s : State) (t : Ctx) : (s.setCx t).jobs = s.jobs := rfl
@[simp] theorem State.setCx_cores (s : State) (t : Ctx) : (s.setCx t).cores = tblSet s.cores s.cur.1 ((s.core s.cur.1).setCtx s.cur.2 t) := rfl
@[simp] theorem State.setCx_regs (s : State) (t : Ctx) : (s.setCx t).regs = s.regs := rfl
@[simp] theorem State.setCx_leaseNow (s : State) (t : Ctx) : (s.setCx t).leaseNow = s.leaseNow := rfl
@[simp] theorem State.setCx_walks (s : State) (t : Ctx) : (s.setCx t).walks = s.walks := rfl
@[simp] theorem State.setCx_walkStore (s : State) (t : Ctx) : (s.setCx t).walkStore = s.walkStore := rfl
@[simp] theorem State.setCx_harts (s : State) (t : Ctx) : (s.setCx t).harts = s.harts := rfl
@[simp] theorem State.setCx_faults (s : State) (t : Ctx) : (s.setCx t).faults = s.faults := rfl
@[simp] theorem State.setCx_faultWait (s : State) (t : Ctx) : (s.setCx t).faultWait = s.faultWait := rfl
@[simp] theorem State.setCx_queueBusy (s : State) (t : Ctx) : (s.setCx t).queueBusy = s.queueBusy := rfl
@[simp] theorem State.setCx_queueWait (s : State) (t : Ctx) : (s.setCx t).queueWait = s.queueWait := rfl
@[simp] theorem State.setCx_fltNext (s : State) (t : Ctx) : (s.setCx t).fltNext = s.fltNext := rfl
@[simp] theorem State.setCx_outs (s : State) (t : Ctx) : (s.setCx t).outs = s.outs := rfl
@[simp] theorem State.setCx_fabric (s : State) (t : Ctx) : (s.setCx t).fabric = s.fabric := rfl
@[simp] theorem State.setCx_tu (s : State) (t : Ctx) : (s.setCx t).tu = s.tu := rfl
@[simp] theorem State.setCx_engines (s : State) (t : Ctx) : (s.setCx t).engines = s.engines := rfl
@[simp] theorem State.setCx_streamers (s : State) (t : Ctx) : (s.setCx t).streamers = s.streamers := rfl
@[simp] theorem State.setCx_vaults (s : State) (t : Ctx) : (s.setCx t).vaults = s.vaults := rfl
@[simp] theorem State.setCx_grants (s : State) (t : Ctx) : (s.setCx t).grants = s.grants := rfl
@[simp] theorem State.setCx_grantQueue (s : State) (t : Ctx) : (s.setCx t).grantQueue = s.grantQueue := rfl
@[simp] theorem State.setCx_susps (s : State) (t : Ctx) : (s.setCx t).susps = s.susps := rfl
@[simp] theorem State.setCx_svc (s : State) (t : Ctx) : (s.setCx t).svc = s.svc := rfl
@[simp] theorem State.setCx_drains (s : State) (t : Ctx) : (s.setCx t).drains = s.drains := rfl
@[simp] theorem State.setCx_migWait (s : State) (t : Ctx) : (s.setCx t).migWait = s.migWait := rfl
@[simp] theorem State.setCx_events (s : State) (t : Ctx) : (s.setCx t).events = s.events := rfl
@[simp] theorem State.setCx_ev (s : State) (t : Ctx) : (s.setCx t).ev = s.ev := rfl
@[simp] theorem State.setCx_timers (s : State) (t : Ctx) : (s.setCx t).timers = s.timers := rfl
@[simp] theorem State.setCx_cur (s : State) (t : Ctx) : (s.setCx t).cur = s.cur := rfl
@[simp] theorem State.setCx_next (s : State) (t : Ctx) : (s.setCx t).next = s.next := rfl
@[simp] theorem State.setCx_tick (s : State) (t : Ctx) : (s.setCx t).tick = s.tick := rfl
@[simp] theorem State.setCx_faultTurn (s : State) (t : Ctx) : (s.setCx t).faultTurn = s.faultTurn := rfl
@[simp] theorem State.setCx_reqWait (s : State) (t : Ctx) : (s.setCx t).reqWait = s.reqWait := rfl

/-! `State.updCx`. -/
@[simp] theorem State.updCx_cubeId (s : State) (f : Ctx → Ctx) : (s.updCx f).cubeId = s.cubeId := rfl
@[simp] theorem State.updCx_cubeSet (s : State) (f : Ctx → Ctx) : (s.updCx f).cubeSet = s.cubeSet := rfl
@[simp] theorem State.updCx_dense (s : State) (f : Ctx → Ctx) : (s.updCx f).dense = s.dense := rfl
@[simp] theorem State.updCx_poison (s : State) (f : Ctx → Ctx) : (s.updCx f).poison = s.poison := rfl
@[simp] theorem State.updCx_map (s : State) (f : Ctx → Ctx) : (s.updCx f).map = s.map := rfl
@[simp] theorem State.updCx_cubeList (s : State) (f : Ctx → Ctx) : (s.updCx f).cubeList = s.cubeList := rfl
@[simp] theorem State.updCx_hold (s : State) (f : Ctx → Ctx) : (s.updCx f).hold = s.hold := rfl
@[simp] theorem State.updCx_slices (s : State) (f : Ctx → Ctx) : (s.updCx f).slices = s.slices := rfl
@[simp] theorem State.updCx_holds (s : State) (f : Ctx → Ctx) : (s.updCx f).holds = s.holds := rfl
@[simp] theorem State.updCx_nbBusy (s : State) (f : Ctx → Ctx) : (s.updCx f).nbBusy = s.nbBusy := rfl
@[simp] theorem State.updCx_nbQueue (s : State) (f : Ctx → Ctx) : (s.updCx f).nbQueue = s.nbQueue := rfl
@[simp] theorem State.updCx_stubs (s : State) (f : Ctx → Ctx) : (s.updCx f).stubs = s.stubs := rfl
@[simp] theorem State.updCx_jobs (s : State) (f : Ctx → Ctx) : (s.updCx f).jobs = s.jobs := rfl
@[simp] theorem State.updCx_cores (s : State) (f : Ctx → Ctx) : (s.updCx f).cores = tblSet s.cores s.cur.1 ((s.core s.cur.1).setCtx s.cur.2 (f s.cx)) := rfl
@[simp] theorem State.updCx_regs (s : State) (f : Ctx → Ctx) : (s.updCx f).regs = s.regs := rfl
@[simp] theorem State.updCx_leaseNow (s : State) (f : Ctx → Ctx) : (s.updCx f).leaseNow = s.leaseNow := rfl
@[simp] theorem State.updCx_walks (s : State) (f : Ctx → Ctx) : (s.updCx f).walks = s.walks := rfl
@[simp] theorem State.updCx_walkStore (s : State) (f : Ctx → Ctx) : (s.updCx f).walkStore = s.walkStore := rfl
@[simp] theorem State.updCx_harts (s : State) (f : Ctx → Ctx) : (s.updCx f).harts = s.harts := rfl
@[simp] theorem State.updCx_faults (s : State) (f : Ctx → Ctx) : (s.updCx f).faults = s.faults := rfl
@[simp] theorem State.updCx_faultWait (s : State) (f : Ctx → Ctx) : (s.updCx f).faultWait = s.faultWait := rfl
@[simp] theorem State.updCx_queueBusy (s : State) (f : Ctx → Ctx) : (s.updCx f).queueBusy = s.queueBusy := rfl
@[simp] theorem State.updCx_queueWait (s : State) (f : Ctx → Ctx) : (s.updCx f).queueWait = s.queueWait := rfl
@[simp] theorem State.updCx_fltNext (s : State) (f : Ctx → Ctx) : (s.updCx f).fltNext = s.fltNext := rfl
@[simp] theorem State.updCx_outs (s : State) (f : Ctx → Ctx) : (s.updCx f).outs = s.outs := rfl
@[simp] theorem State.updCx_fabric (s : State) (f : Ctx → Ctx) : (s.updCx f).fabric = s.fabric := rfl
@[simp] theorem State.updCx_tu (s : State) (f : Ctx → Ctx) : (s.updCx f).tu = s.tu := rfl
@[simp] theorem State.updCx_engines (s : State) (f : Ctx → Ctx) : (s.updCx f).engines = s.engines := rfl
@[simp] theorem State.updCx_streamers (s : State) (f : Ctx → Ctx) : (s.updCx f).streamers = s.streamers := rfl
@[simp] theorem State.updCx_vaults (s : State) (f : Ctx → Ctx) : (s.updCx f).vaults = s.vaults := rfl
@[simp] theorem State.updCx_grants (s : State) (f : Ctx → Ctx) : (s.updCx f).grants = s.grants := rfl
@[simp] theorem State.updCx_grantQueue (s : State) (f : Ctx → Ctx) : (s.updCx f).grantQueue = s.grantQueue := rfl
@[simp] theorem State.updCx_susps (s : State) (f : Ctx → Ctx) : (s.updCx f).susps = s.susps := rfl
@[simp] theorem State.updCx_svc (s : State) (f : Ctx → Ctx) : (s.updCx f).svc = s.svc := rfl
@[simp] theorem State.updCx_drains (s : State) (f : Ctx → Ctx) : (s.updCx f).drains = s.drains := rfl
@[simp] theorem State.updCx_migWait (s : State) (f : Ctx → Ctx) : (s.updCx f).migWait = s.migWait := rfl
@[simp] theorem State.updCx_events (s : State) (f : Ctx → Ctx) : (s.updCx f).events = s.events := rfl
@[simp] theorem State.updCx_ev (s : State) (f : Ctx → Ctx) : (s.updCx f).ev = s.ev := rfl
@[simp] theorem State.updCx_timers (s : State) (f : Ctx → Ctx) : (s.updCx f).timers = s.timers := rfl
@[simp] theorem State.updCx_cur (s : State) (f : Ctx → Ctx) : (s.updCx f).cur = s.cur := rfl
@[simp] theorem State.updCx_next (s : State) (f : Ctx → Ctx) : (s.updCx f).next = s.next := rfl
@[simp] theorem State.updCx_tick (s : State) (f : Ctx → Ctx) : (s.updCx f).tick = s.tick := rfl
@[simp] theorem State.updCx_faultTurn (s : State) (f : Ctx → Ctx) : (s.updCx f).faultTurn = s.faultTurn := rfl
@[simp] theorem State.updCx_reqWait (s : State) (f : Ctx → Ctx) : (s.updCx f).reqWait = s.reqWait := rfl

/-! `State.updSlice`. -/
@[simp] theorem State.updSlice_cubeId (s : State) (k : Nat) (f : Slice → Slice) : (s.updSlice k f).cubeId = s.cubeId := rfl
@[simp] theorem State.updSlice_cubeSet (s : State) (k : Nat) (f : Slice → Slice) : (s.updSlice k f).cubeSet = s.cubeSet := rfl
@[simp] theorem State.updSlice_dense (s : State) (k : Nat) (f : Slice → Slice) : (s.updSlice k f).dense = s.dense := rfl
@[simp] theorem State.updSlice_poison (s : State) (k : Nat) (f : Slice → Slice) : (s.updSlice k f).poison = s.poison := rfl
@[simp] theorem State.updSlice_map (s : State) (k : Nat) (f : Slice → Slice) : (s.updSlice k f).map = s.map := rfl
@[simp] theorem State.updSlice_cubeList (s : State) (k : Nat) (f : Slice → Slice) : (s.updSlice k f).cubeList = s.cubeList := rfl
@[simp] theorem State.updSlice_hold (s : State) (k : Nat) (f : Slice → Slice) : (s.updSlice k f).hold = s.hold := rfl
@[simp] theorem State.updSlice_slices (s : State) (k : Nat) (f : Slice → Slice) : (s.updSlice k f).slices = tblSet s.slices k (f (s.slice k)) := rfl
@[simp] theorem State.updSlice_holds (s : State) (k : Nat) (f : Slice → Slice) : (s.updSlice k f).holds = s.holds := rfl
@[simp] theorem State.updSlice_nbBusy (s : State) (k : Nat) (f : Slice → Slice) : (s.updSlice k f).nbBusy = s.nbBusy := rfl
@[simp] theorem State.updSlice_nbQueue (s : State) (k : Nat) (f : Slice → Slice) : (s.updSlice k f).nbQueue = s.nbQueue := rfl
@[simp] theorem State.updSlice_stubs (s : State) (k : Nat) (f : Slice → Slice) : (s.updSlice k f).stubs = s.stubs := rfl
@[simp] theorem State.updSlice_jobs (s : State) (k : Nat) (f : Slice → Slice) : (s.updSlice k f).jobs = s.jobs := rfl
@[simp] theorem State.updSlice_cores (s : State) (k : Nat) (f : Slice → Slice) : (s.updSlice k f).cores = s.cores := rfl
@[simp] theorem State.updSlice_regs (s : State) (k : Nat) (f : Slice → Slice) : (s.updSlice k f).regs = s.regs := rfl
@[simp] theorem State.updSlice_leaseNow (s : State) (k : Nat) (f : Slice → Slice) : (s.updSlice k f).leaseNow = s.leaseNow := rfl
@[simp] theorem State.updSlice_walks (s : State) (k : Nat) (f : Slice → Slice) : (s.updSlice k f).walks = s.walks := rfl
@[simp] theorem State.updSlice_walkStore (s : State) (k : Nat) (f : Slice → Slice) : (s.updSlice k f).walkStore = s.walkStore := rfl
@[simp] theorem State.updSlice_harts (s : State) (k : Nat) (f : Slice → Slice) : (s.updSlice k f).harts = s.harts := rfl
@[simp] theorem State.updSlice_faults (s : State) (k : Nat) (f : Slice → Slice) : (s.updSlice k f).faults = s.faults := rfl
@[simp] theorem State.updSlice_faultWait (s : State) (k : Nat) (f : Slice → Slice) : (s.updSlice k f).faultWait = s.faultWait := rfl
@[simp] theorem State.updSlice_queueBusy (s : State) (k : Nat) (f : Slice → Slice) : (s.updSlice k f).queueBusy = s.queueBusy := rfl
@[simp] theorem State.updSlice_queueWait (s : State) (k : Nat) (f : Slice → Slice) : (s.updSlice k f).queueWait = s.queueWait := rfl
@[simp] theorem State.updSlice_fltNext (s : State) (k : Nat) (f : Slice → Slice) : (s.updSlice k f).fltNext = s.fltNext := rfl
@[simp] theorem State.updSlice_outs (s : State) (k : Nat) (f : Slice → Slice) : (s.updSlice k f).outs = s.outs := rfl
@[simp] theorem State.updSlice_fabric (s : State) (k : Nat) (f : Slice → Slice) : (s.updSlice k f).fabric = s.fabric := rfl
@[simp] theorem State.updSlice_tu (s : State) (k : Nat) (f : Slice → Slice) : (s.updSlice k f).tu = s.tu := rfl
@[simp] theorem State.updSlice_engines (s : State) (k : Nat) (f : Slice → Slice) : (s.updSlice k f).engines = s.engines := rfl
@[simp] theorem State.updSlice_streamers (s : State) (k : Nat) (f : Slice → Slice) : (s.updSlice k f).streamers = s.streamers := rfl
@[simp] theorem State.updSlice_vaults (s : State) (k : Nat) (f : Slice → Slice) : (s.updSlice k f).vaults = s.vaults := rfl
@[simp] theorem State.updSlice_grants (s : State) (k : Nat) (f : Slice → Slice) : (s.updSlice k f).grants = s.grants := rfl
@[simp] theorem State.updSlice_grantQueue (s : State) (k : Nat) (f : Slice → Slice) : (s.updSlice k f).grantQueue = s.grantQueue := rfl
@[simp] theorem State.updSlice_susps (s : State) (k : Nat) (f : Slice → Slice) : (s.updSlice k f).susps = s.susps := rfl
@[simp] theorem State.updSlice_svc (s : State) (k : Nat) (f : Slice → Slice) : (s.updSlice k f).svc = s.svc := rfl
@[simp] theorem State.updSlice_drains (s : State) (k : Nat) (f : Slice → Slice) : (s.updSlice k f).drains = s.drains := rfl
@[simp] theorem State.updSlice_migWait (s : State) (k : Nat) (f : Slice → Slice) : (s.updSlice k f).migWait = s.migWait := rfl
@[simp] theorem State.updSlice_events (s : State) (k : Nat) (f : Slice → Slice) : (s.updSlice k f).events = s.events := rfl
@[simp] theorem State.updSlice_ev (s : State) (k : Nat) (f : Slice → Slice) : (s.updSlice k f).ev = s.ev := rfl
@[simp] theorem State.updSlice_timers (s : State) (k : Nat) (f : Slice → Slice) : (s.updSlice k f).timers = s.timers := rfl
@[simp] theorem State.updSlice_cur (s : State) (k : Nat) (f : Slice → Slice) : (s.updSlice k f).cur = s.cur := rfl
@[simp] theorem State.updSlice_next (s : State) (k : Nat) (f : Slice → Slice) : (s.updSlice k f).next = s.next := rfl
@[simp] theorem State.updSlice_tick (s : State) (k : Nat) (f : Slice → Slice) : (s.updSlice k f).tick = s.tick := rfl
@[simp] theorem State.updSlice_faultTurn (s : State) (k : Nat) (f : Slice → Slice) : (s.updSlice k f).faultTurn = s.faultTurn := rfl
@[simp] theorem State.updSlice_reqWait (s : State) (k : Nat) (f : Slice → Slice) : (s.updSlice k f).reqWait = s.reqWait := rfl

/-! `State.updPort`. -/
@[simp] theorem State.updPort_cubeId (s : State) (p : Nat) (f : Port → Port) : (s.updPort p f).cubeId = s.cubeId := rfl
@[simp] theorem State.updPort_cubeSet (s : State) (p : Nat) (f : Port → Port) : (s.updPort p f).cubeSet = s.cubeSet := rfl
@[simp] theorem State.updPort_dense (s : State) (p : Nat) (f : Port → Port) : (s.updPort p f).dense = s.dense := rfl
@[simp] theorem State.updPort_poison (s : State) (p : Nat) (f : Port → Port) : (s.updPort p f).poison = s.poison := rfl
@[simp] theorem State.updPort_map (s : State) (p : Nat) (f : Port → Port) : (s.updPort p f).map = s.map := rfl
@[simp] theorem State.updPort_cubeList (s : State) (p : Nat) (f : Port → Port) : (s.updPort p f).cubeList = s.cubeList := rfl
@[simp] theorem State.updPort_hold (s : State) (p : Nat) (f : Port → Port) : (s.updPort p f).hold = s.hold := rfl
@[simp] theorem State.updPort_slices (s : State) (p : Nat) (f : Port → Port) : (s.updPort p f).slices = s.slices := rfl
@[simp] theorem State.updPort_holds (s : State) (p : Nat) (f : Port → Port) : (s.updPort p f).holds = s.holds := rfl
@[simp] theorem State.updPort_nbBusy (s : State) (p : Nat) (f : Port → Port) : (s.updPort p f).nbBusy = s.nbBusy := rfl
@[simp] theorem State.updPort_nbQueue (s : State) (p : Nat) (f : Port → Port) : (s.updPort p f).nbQueue = s.nbQueue := rfl
@[simp] theorem State.updPort_stubs (s : State) (p : Nat) (f : Port → Port) : (s.updPort p f).stubs = s.stubs := rfl
@[simp] theorem State.updPort_jobs (s : State) (p : Nat) (f : Port → Port) : (s.updPort p f).jobs = s.jobs := rfl
@[simp] theorem State.updPort_cores (s : State) (p : Nat) (f : Port → Port) : (s.updPort p f).cores = s.cores := rfl
@[simp] theorem State.updPort_regs (s : State) (p : Nat) (f : Port → Port) : (s.updPort p f).regs = s.regs := rfl
@[simp] theorem State.updPort_leaseNow (s : State) (p : Nat) (f : Port → Port) : (s.updPort p f).leaseNow = s.leaseNow := rfl
@[simp] theorem State.updPort_walks (s : State) (p : Nat) (f : Port → Port) : (s.updPort p f).walks = s.walks := rfl
@[simp] theorem State.updPort_walkStore (s : State) (p : Nat) (f : Port → Port) : (s.updPort p f).walkStore = s.walkStore := rfl
@[simp] theorem State.updPort_harts (s : State) (p : Nat) (f : Port → Port) : (s.updPort p f).harts = s.harts := rfl
@[simp] theorem State.updPort_faults (s : State) (p : Nat) (f : Port → Port) : (s.updPort p f).faults = s.faults := rfl
@[simp] theorem State.updPort_faultWait (s : State) (p : Nat) (f : Port → Port) : (s.updPort p f).faultWait = s.faultWait := rfl
@[simp] theorem State.updPort_queueBusy (s : State) (p : Nat) (f : Port → Port) : (s.updPort p f).queueBusy = s.queueBusy := rfl
@[simp] theorem State.updPort_queueWait (s : State) (p : Nat) (f : Port → Port) : (s.updPort p f).queueWait = s.queueWait := rfl
@[simp] theorem State.updPort_fltNext (s : State) (p : Nat) (f : Port → Port) : (s.updPort p f).fltNext = s.fltNext := rfl
@[simp] theorem State.updPort_outs (s : State) (p : Nat) (f : Port → Port) : (s.updPort p f).outs = s.outs := rfl
@[simp] theorem State.updPort_tu (s : State) (p : Nat) (f : Port → Port) : (s.updPort p f).tu = s.tu := rfl
@[simp] theorem State.updPort_engines (s : State) (p : Nat) (f : Port → Port) : (s.updPort p f).engines = s.engines := rfl
@[simp] theorem State.updPort_streamers (s : State) (p : Nat) (f : Port → Port) : (s.updPort p f).streamers = s.streamers := rfl
@[simp] theorem State.updPort_vaults (s : State) (p : Nat) (f : Port → Port) : (s.updPort p f).vaults = s.vaults := rfl
@[simp] theorem State.updPort_grants (s : State) (p : Nat) (f : Port → Port) : (s.updPort p f).grants = s.grants := rfl
@[simp] theorem State.updPort_grantQueue (s : State) (p : Nat) (f : Port → Port) : (s.updPort p f).grantQueue = s.grantQueue := rfl
@[simp] theorem State.updPort_susps (s : State) (p : Nat) (f : Port → Port) : (s.updPort p f).susps = s.susps := rfl
@[simp] theorem State.updPort_svc (s : State) (p : Nat) (f : Port → Port) : (s.updPort p f).svc = s.svc := rfl
@[simp] theorem State.updPort_drains (s : State) (p : Nat) (f : Port → Port) : (s.updPort p f).drains = s.drains := rfl
@[simp] theorem State.updPort_migWait (s : State) (p : Nat) (f : Port → Port) : (s.updPort p f).migWait = s.migWait := rfl
@[simp] theorem State.updPort_events (s : State) (p : Nat) (f : Port → Port) : (s.updPort p f).events = s.events := rfl
@[simp] theorem State.updPort_ev (s : State) (p : Nat) (f : Port → Port) : (s.updPort p f).ev = s.ev := rfl
@[simp] theorem State.updPort_timers (s : State) (p : Nat) (f : Port → Port) : (s.updPort p f).timers = s.timers := rfl
@[simp] theorem State.updPort_cur (s : State) (p : Nat) (f : Port → Port) : (s.updPort p f).cur = s.cur := rfl
@[simp] theorem State.updPort_next (s : State) (p : Nat) (f : Port → Port) : (s.updPort p f).next = s.next := rfl
@[simp] theorem State.updPort_tick (s : State) (p : Nat) (f : Port → Port) : (s.updPort p f).tick = s.tick := rfl
@[simp] theorem State.updPort_faultTurn (s : State) (p : Nat) (f : Port → Port) : (s.updPort p f).faultTurn = s.faultTurn := rfl
@[simp] theorem State.updPort_reqWait (s : State) (p : Nat) (f : Port → Port) : (s.updPort p f).reqWait = s.reqWait := rfl

/-! `State.emit`. -/
@[simp] theorem State.emit_cubeId (s : State) (e : Ev) : (s.emit e).cubeId = s.cubeId := rfl
@[simp] theorem State.emit_cubeSet (s : State) (e : Ev) : (s.emit e).cubeSet = s.cubeSet := rfl
@[simp] theorem State.emit_dense (s : State) (e : Ev) : (s.emit e).dense = s.dense := rfl
@[simp] theorem State.emit_poison (s : State) (e : Ev) : (s.emit e).poison = s.poison := rfl
@[simp] theorem State.emit_map (s : State) (e : Ev) : (s.emit e).map = s.map := rfl
@[simp] theorem State.emit_cubeList (s : State) (e : Ev) : (s.emit e).cubeList = s.cubeList := rfl
@[simp] theorem State.emit_hold (s : State) (e : Ev) : (s.emit e).hold = s.hold := rfl
@[simp] theorem State.emit_slices (s : State) (e : Ev) : (s.emit e).slices = s.slices := rfl
@[simp] theorem State.emit_holds (s : State) (e : Ev) : (s.emit e).holds = s.holds := rfl
@[simp] theorem State.emit_nbBusy (s : State) (e : Ev) : (s.emit e).nbBusy = s.nbBusy := rfl
@[simp] theorem State.emit_nbQueue (s : State) (e : Ev) : (s.emit e).nbQueue = s.nbQueue := rfl
@[simp] theorem State.emit_stubs (s : State) (e : Ev) : (s.emit e).stubs = s.stubs := rfl
@[simp] theorem State.emit_jobs (s : State) (e : Ev) : (s.emit e).jobs = s.jobs := rfl
@[simp] theorem State.emit_cores (s : State) (e : Ev) : (s.emit e).cores = s.cores := rfl
@[simp] theorem State.emit_regs (s : State) (e : Ev) : (s.emit e).regs = s.regs := rfl
@[simp] theorem State.emit_leaseNow (s : State) (e : Ev) : (s.emit e).leaseNow = s.leaseNow := rfl
@[simp] theorem State.emit_walks (s : State) (e : Ev) : (s.emit e).walks = s.walks := rfl
@[simp] theorem State.emit_walkStore (s : State) (e : Ev) : (s.emit e).walkStore = s.walkStore := rfl
@[simp] theorem State.emit_harts (s : State) (e : Ev) : (s.emit e).harts = s.harts := rfl
@[simp] theorem State.emit_faults (s : State) (e : Ev) : (s.emit e).faults = s.faults := rfl
@[simp] theorem State.emit_faultWait (s : State) (e : Ev) : (s.emit e).faultWait = s.faultWait := rfl
@[simp] theorem State.emit_queueBusy (s : State) (e : Ev) : (s.emit e).queueBusy = s.queueBusy := rfl
@[simp] theorem State.emit_queueWait (s : State) (e : Ev) : (s.emit e).queueWait = s.queueWait := rfl
@[simp] theorem State.emit_fltNext (s : State) (e : Ev) : (s.emit e).fltNext = s.fltNext := rfl
@[simp] theorem State.emit_outs (s : State) (e : Ev) : (s.emit e).outs = s.outs := rfl
@[simp] theorem State.emit_fabric (s : State) (e : Ev) : (s.emit e).fabric = s.fabric := rfl
@[simp] theorem State.emit_tu (s : State) (e : Ev) : (s.emit e).tu = s.tu := rfl
@[simp] theorem State.emit_engines (s : State) (e : Ev) : (s.emit e).engines = s.engines := rfl
@[simp] theorem State.emit_streamers (s : State) (e : Ev) : (s.emit e).streamers = s.streamers := rfl
@[simp] theorem State.emit_vaults (s : State) (e : Ev) : (s.emit e).vaults = s.vaults := rfl
@[simp] theorem State.emit_grants (s : State) (e : Ev) : (s.emit e).grants = s.grants := rfl
@[simp] theorem State.emit_grantQueue (s : State) (e : Ev) : (s.emit e).grantQueue = s.grantQueue := rfl
@[simp] theorem State.emit_susps (s : State) (e : Ev) : (s.emit e).susps = s.susps := rfl
@[simp] theorem State.emit_svc (s : State) (e : Ev) : (s.emit e).svc = s.svc := rfl
@[simp] theorem State.emit_drains (s : State) (e : Ev) : (s.emit e).drains = s.drains := rfl
@[simp] theorem State.emit_migWait (s : State) (e : Ev) : (s.emit e).migWait = s.migWait := rfl
@[simp] theorem State.emit_events (s : State) (e : Ev) : (s.emit e).events = s.events ++ [e] := rfl
@[simp] theorem State.emit_ev (s : State) (e : Ev) : (s.emit e).ev = s.ev := rfl
@[simp] theorem State.emit_timers (s : State) (e : Ev) : (s.emit e).timers = s.timers := rfl
@[simp] theorem State.emit_cur (s : State) (e : Ev) : (s.emit e).cur = s.cur := rfl
@[simp] theorem State.emit_next (s : State) (e : Ev) : (s.emit e).next = s.next := rfl
@[simp] theorem State.emit_tick (s : State) (e : Ev) : (s.emit e).tick = s.tick := rfl
@[simp] theorem State.emit_faultTurn (s : State) (e : Ev) : (s.emit e).faultTurn = s.faultTurn := rfl
@[simp] theorem State.emit_reqWait (s : State) (e : Ev) : (s.emit e).reqWait = s.reqWait := rfl

/-! `State.emitFirst`. -/
@[simp] theorem State.emitFirst_cubeId (s : State) (es : List Ev) : (s.emitFirst es).cubeId = s.cubeId := rfl
@[simp] theorem State.emitFirst_cubeSet (s : State) (es : List Ev) : (s.emitFirst es).cubeSet = s.cubeSet := rfl
@[simp] theorem State.emitFirst_dense (s : State) (es : List Ev) : (s.emitFirst es).dense = s.dense := rfl
@[simp] theorem State.emitFirst_poison (s : State) (es : List Ev) : (s.emitFirst es).poison = s.poison := rfl
@[simp] theorem State.emitFirst_map (s : State) (es : List Ev) : (s.emitFirst es).map = s.map := rfl
@[simp] theorem State.emitFirst_cubeList (s : State) (es : List Ev) : (s.emitFirst es).cubeList = s.cubeList := rfl
@[simp] theorem State.emitFirst_hold (s : State) (es : List Ev) : (s.emitFirst es).hold = s.hold := rfl
@[simp] theorem State.emitFirst_slices (s : State) (es : List Ev) : (s.emitFirst es).slices = s.slices := rfl
@[simp] theorem State.emitFirst_holds (s : State) (es : List Ev) : (s.emitFirst es).holds = s.holds := rfl
@[simp] theorem State.emitFirst_nbBusy (s : State) (es : List Ev) : (s.emitFirst es).nbBusy = s.nbBusy := rfl
@[simp] theorem State.emitFirst_nbQueue (s : State) (es : List Ev) : (s.emitFirst es).nbQueue = s.nbQueue := rfl
@[simp] theorem State.emitFirst_stubs (s : State) (es : List Ev) : (s.emitFirst es).stubs = s.stubs := rfl
@[simp] theorem State.emitFirst_jobs (s : State) (es : List Ev) : (s.emitFirst es).jobs = s.jobs := rfl
@[simp] theorem State.emitFirst_cores (s : State) (es : List Ev) : (s.emitFirst es).cores = s.cores := rfl
@[simp] theorem State.emitFirst_regs (s : State) (es : List Ev) : (s.emitFirst es).regs = s.regs := rfl
@[simp] theorem State.emitFirst_leaseNow (s : State) (es : List Ev) : (s.emitFirst es).leaseNow = s.leaseNow := rfl
@[simp] theorem State.emitFirst_walks (s : State) (es : List Ev) : (s.emitFirst es).walks = s.walks := rfl
@[simp] theorem State.emitFirst_walkStore (s : State) (es : List Ev) : (s.emitFirst es).walkStore = s.walkStore := rfl
@[simp] theorem State.emitFirst_harts (s : State) (es : List Ev) : (s.emitFirst es).harts = s.harts := rfl
@[simp] theorem State.emitFirst_faults (s : State) (es : List Ev) : (s.emitFirst es).faults = s.faults := rfl
@[simp] theorem State.emitFirst_faultWait (s : State) (es : List Ev) : (s.emitFirst es).faultWait = s.faultWait := rfl
@[simp] theorem State.emitFirst_queueBusy (s : State) (es : List Ev) : (s.emitFirst es).queueBusy = s.queueBusy := rfl
@[simp] theorem State.emitFirst_queueWait (s : State) (es : List Ev) : (s.emitFirst es).queueWait = s.queueWait := rfl
@[simp] theorem State.emitFirst_fltNext (s : State) (es : List Ev) : (s.emitFirst es).fltNext = s.fltNext := rfl
@[simp] theorem State.emitFirst_outs (s : State) (es : List Ev) : (s.emitFirst es).outs = s.outs := rfl
@[simp] theorem State.emitFirst_fabric (s : State) (es : List Ev) : (s.emitFirst es).fabric = s.fabric := rfl
@[simp] theorem State.emitFirst_tu (s : State) (es : List Ev) : (s.emitFirst es).tu = s.tu := rfl
@[simp] theorem State.emitFirst_engines (s : State) (es : List Ev) : (s.emitFirst es).engines = s.engines := rfl
@[simp] theorem State.emitFirst_streamers (s : State) (es : List Ev) : (s.emitFirst es).streamers = s.streamers := rfl
@[simp] theorem State.emitFirst_vaults (s : State) (es : List Ev) : (s.emitFirst es).vaults = s.vaults := rfl
@[simp] theorem State.emitFirst_grants (s : State) (es : List Ev) : (s.emitFirst es).grants = s.grants := rfl
@[simp] theorem State.emitFirst_grantQueue (s : State) (es : List Ev) : (s.emitFirst es).grantQueue = s.grantQueue := rfl
@[simp] theorem State.emitFirst_susps (s : State) (es : List Ev) : (s.emitFirst es).susps = s.susps := rfl
@[simp] theorem State.emitFirst_svc (s : State) (es : List Ev) : (s.emitFirst es).svc = s.svc := rfl
@[simp] theorem State.emitFirst_drains (s : State) (es : List Ev) : (s.emitFirst es).drains = s.drains := rfl
@[simp] theorem State.emitFirst_migWait (s : State) (es : List Ev) : (s.emitFirst es).migWait = s.migWait := rfl
@[simp] theorem State.emitFirst_events (s : State) (es : List Ev) : (s.emitFirst es).events = es ++ s.events := rfl
@[simp] theorem State.emitFirst_ev (s : State) (es : List Ev) : (s.emitFirst es).ev = s.ev := rfl
@[simp] theorem State.emitFirst_timers (s : State) (es : List Ev) : (s.emitFirst es).timers = s.timers := rfl
@[simp] theorem State.emitFirst_cur (s : State) (es : List Ev) : (s.emitFirst es).cur = s.cur := rfl
@[simp] theorem State.emitFirst_next (s : State) (es : List Ev) : (s.emitFirst es).next = s.next := rfl
@[simp] theorem State.emitFirst_tick (s : State) (es : List Ev) : (s.emitFirst es).tick = s.tick := rfl
@[simp] theorem State.emitFirst_faultTurn (s : State) (es : List Ev) : (s.emitFirst es).faultTurn = s.faultTurn := rfl
@[simp] theorem State.emitFirst_reqWait (s : State) (es : List Ev) : (s.emitFirst es).reqWait = s.reqWait := rfl

/-! `State.emits`. -/
@[simp] theorem State.emits_cubeId (s : State) (es : List Ev) : (s.emits es).cubeId = s.cubeId := rfl
@[simp] theorem State.emits_cubeSet (s : State) (es : List Ev) : (s.emits es).cubeSet = s.cubeSet := rfl
@[simp] theorem State.emits_dense (s : State) (es : List Ev) : (s.emits es).dense = s.dense := rfl
@[simp] theorem State.emits_poison (s : State) (es : List Ev) : (s.emits es).poison = s.poison := rfl
@[simp] theorem State.emits_map (s : State) (es : List Ev) : (s.emits es).map = s.map := rfl
@[simp] theorem State.emits_cubeList (s : State) (es : List Ev) : (s.emits es).cubeList = s.cubeList := rfl
@[simp] theorem State.emits_hold (s : State) (es : List Ev) : (s.emits es).hold = s.hold := rfl
@[simp] theorem State.emits_slices (s : State) (es : List Ev) : (s.emits es).slices = s.slices := rfl
@[simp] theorem State.emits_holds (s : State) (es : List Ev) : (s.emits es).holds = s.holds := rfl
@[simp] theorem State.emits_nbBusy (s : State) (es : List Ev) : (s.emits es).nbBusy = s.nbBusy := rfl
@[simp] theorem State.emits_nbQueue (s : State) (es : List Ev) : (s.emits es).nbQueue = s.nbQueue := rfl
@[simp] theorem State.emits_stubs (s : State) (es : List Ev) : (s.emits es).stubs = s.stubs := rfl
@[simp] theorem State.emits_jobs (s : State) (es : List Ev) : (s.emits es).jobs = s.jobs := rfl
@[simp] theorem State.emits_cores (s : State) (es : List Ev) : (s.emits es).cores = s.cores := rfl
@[simp] theorem State.emits_regs (s : State) (es : List Ev) : (s.emits es).regs = s.regs := rfl
@[simp] theorem State.emits_leaseNow (s : State) (es : List Ev) : (s.emits es).leaseNow = s.leaseNow := rfl
@[simp] theorem State.emits_walks (s : State) (es : List Ev) : (s.emits es).walks = s.walks := rfl
@[simp] theorem State.emits_walkStore (s : State) (es : List Ev) : (s.emits es).walkStore = s.walkStore := rfl
@[simp] theorem State.emits_harts (s : State) (es : List Ev) : (s.emits es).harts = s.harts := rfl
@[simp] theorem State.emits_faults (s : State) (es : List Ev) : (s.emits es).faults = s.faults := rfl
@[simp] theorem State.emits_faultWait (s : State) (es : List Ev) : (s.emits es).faultWait = s.faultWait := rfl
@[simp] theorem State.emits_queueBusy (s : State) (es : List Ev) : (s.emits es).queueBusy = s.queueBusy := rfl
@[simp] theorem State.emits_queueWait (s : State) (es : List Ev) : (s.emits es).queueWait = s.queueWait := rfl
@[simp] theorem State.emits_fltNext (s : State) (es : List Ev) : (s.emits es).fltNext = s.fltNext := rfl
@[simp] theorem State.emits_outs (s : State) (es : List Ev) : (s.emits es).outs = s.outs := rfl
@[simp] theorem State.emits_fabric (s : State) (es : List Ev) : (s.emits es).fabric = s.fabric := rfl
@[simp] theorem State.emits_tu (s : State) (es : List Ev) : (s.emits es).tu = s.tu := rfl
@[simp] theorem State.emits_engines (s : State) (es : List Ev) : (s.emits es).engines = s.engines := rfl
@[simp] theorem State.emits_streamers (s : State) (es : List Ev) : (s.emits es).streamers = s.streamers := rfl
@[simp] theorem State.emits_vaults (s : State) (es : List Ev) : (s.emits es).vaults = s.vaults := rfl
@[simp] theorem State.emits_grants (s : State) (es : List Ev) : (s.emits es).grants = s.grants := rfl
@[simp] theorem State.emits_grantQueue (s : State) (es : List Ev) : (s.emits es).grantQueue = s.grantQueue := rfl
@[simp] theorem State.emits_susps (s : State) (es : List Ev) : (s.emits es).susps = s.susps := rfl
@[simp] theorem State.emits_svc (s : State) (es : List Ev) : (s.emits es).svc = s.svc := rfl
@[simp] theorem State.emits_drains (s : State) (es : List Ev) : (s.emits es).drains = s.drains := rfl
@[simp] theorem State.emits_migWait (s : State) (es : List Ev) : (s.emits es).migWait = s.migWait := rfl
@[simp] theorem State.emits_events (s : State) (es : List Ev) : (s.emits es).events = s.events ++ es := rfl
@[simp] theorem State.emits_ev (s : State) (es : List Ev) : (s.emits es).ev = s.ev := rfl
@[simp] theorem State.emits_timers (s : State) (es : List Ev) : (s.emits es).timers = s.timers := rfl
@[simp] theorem State.emits_cur (s : State) (es : List Ev) : (s.emits es).cur = s.cur := rfl
@[simp] theorem State.emits_next (s : State) (es : List Ev) : (s.emits es).next = s.next := rfl
@[simp] theorem State.emits_tick (s : State) (es : List Ev) : (s.emits es).tick = s.tick := rfl
@[simp] theorem State.emits_faultTurn (s : State) (es : List Ev) : (s.emits es).faultTurn = s.faultTurn := rfl
@[simp] theorem State.emits_reqWait (s : State) (es : List Ev) : (s.emits es).reqWait = s.reqWait := rfl

/-! `State.later`. -/
@[simp] theorem State.later_cubeId (s : State) (n : Nat) (e : Ev) : (s.later n e).cubeId = s.cubeId := rfl
@[simp] theorem State.later_cubeSet (s : State) (n : Nat) (e : Ev) : (s.later n e).cubeSet = s.cubeSet := rfl
@[simp] theorem State.later_dense (s : State) (n : Nat) (e : Ev) : (s.later n e).dense = s.dense := rfl
@[simp] theorem State.later_poison (s : State) (n : Nat) (e : Ev) : (s.later n e).poison = s.poison := rfl
@[simp] theorem State.later_map (s : State) (n : Nat) (e : Ev) : (s.later n e).map = s.map := rfl
@[simp] theorem State.later_cubeList (s : State) (n : Nat) (e : Ev) : (s.later n e).cubeList = s.cubeList := rfl
@[simp] theorem State.later_hold (s : State) (n : Nat) (e : Ev) : (s.later n e).hold = s.hold := rfl
@[simp] theorem State.later_slices (s : State) (n : Nat) (e : Ev) : (s.later n e).slices = s.slices := rfl
@[simp] theorem State.later_holds (s : State) (n : Nat) (e : Ev) : (s.later n e).holds = s.holds := rfl
@[simp] theorem State.later_nbBusy (s : State) (n : Nat) (e : Ev) : (s.later n e).nbBusy = s.nbBusy := rfl
@[simp] theorem State.later_nbQueue (s : State) (n : Nat) (e : Ev) : (s.later n e).nbQueue = s.nbQueue := rfl
@[simp] theorem State.later_stubs (s : State) (n : Nat) (e : Ev) : (s.later n e).stubs = s.stubs := rfl
@[simp] theorem State.later_jobs (s : State) (n : Nat) (e : Ev) : (s.later n e).jobs = s.jobs := rfl
@[simp] theorem State.later_cores (s : State) (n : Nat) (e : Ev) : (s.later n e).cores = s.cores := rfl
@[simp] theorem State.later_regs (s : State) (n : Nat) (e : Ev) : (s.later n e).regs = s.regs := rfl
@[simp] theorem State.later_leaseNow (s : State) (n : Nat) (e : Ev) : (s.later n e).leaseNow = s.leaseNow := rfl
@[simp] theorem State.later_walks (s : State) (n : Nat) (e : Ev) : (s.later n e).walks = s.walks := rfl
@[simp] theorem State.later_walkStore (s : State) (n : Nat) (e : Ev) : (s.later n e).walkStore = s.walkStore := rfl
@[simp] theorem State.later_harts (s : State) (n : Nat) (e : Ev) : (s.later n e).harts = s.harts := rfl
@[simp] theorem State.later_faults (s : State) (n : Nat) (e : Ev) : (s.later n e).faults = s.faults := rfl
@[simp] theorem State.later_faultWait (s : State) (n : Nat) (e : Ev) : (s.later n e).faultWait = s.faultWait := rfl
@[simp] theorem State.later_queueBusy (s : State) (n : Nat) (e : Ev) : (s.later n e).queueBusy = s.queueBusy := rfl
@[simp] theorem State.later_queueWait (s : State) (n : Nat) (e : Ev) : (s.later n e).queueWait = s.queueWait := rfl
@[simp] theorem State.later_fltNext (s : State) (n : Nat) (e : Ev) : (s.later n e).fltNext = s.fltNext := rfl
@[simp] theorem State.later_outs (s : State) (n : Nat) (e : Ev) : (s.later n e).outs = s.outs := rfl
@[simp] theorem State.later_fabric (s : State) (n : Nat) (e : Ev) : (s.later n e).fabric = s.fabric := rfl
@[simp] theorem State.later_tu (s : State) (n : Nat) (e : Ev) : (s.later n e).tu = s.tu := rfl
@[simp] theorem State.later_engines (s : State) (n : Nat) (e : Ev) : (s.later n e).engines = s.engines := rfl
@[simp] theorem State.later_streamers (s : State) (n : Nat) (e : Ev) : (s.later n e).streamers = s.streamers := rfl
@[simp] theorem State.later_vaults (s : State) (n : Nat) (e : Ev) : (s.later n e).vaults = s.vaults := rfl
@[simp] theorem State.later_grants (s : State) (n : Nat) (e : Ev) : (s.later n e).grants = s.grants := rfl
@[simp] theorem State.later_grantQueue (s : State) (n : Nat) (e : Ev) : (s.later n e).grantQueue = s.grantQueue := rfl
@[simp] theorem State.later_susps (s : State) (n : Nat) (e : Ev) : (s.later n e).susps = s.susps := rfl
@[simp] theorem State.later_svc (s : State) (n : Nat) (e : Ev) : (s.later n e).svc = s.svc := rfl
@[simp] theorem State.later_drains (s : State) (n : Nat) (e : Ev) : (s.later n e).drains = s.drains := rfl
@[simp] theorem State.later_migWait (s : State) (n : Nat) (e : Ev) : (s.later n e).migWait = s.migWait := rfl
@[simp] theorem State.later_events (s : State) (n : Nat) (e : Ev) : (s.later n e).events = s.events := rfl
@[simp] theorem State.later_ev (s : State) (n : Nat) (e : Ev) : (s.later n e).ev = s.ev := rfl
@[simp] theorem State.later_timers (s : State) (n : Nat) (e : Ev) : (s.later n e).timers = s.timers ++ [{ due := s.leaseNow + n, step := e }] := rfl
@[simp] theorem State.later_cur (s : State) (n : Nat) (e : Ev) : (s.later n e).cur = s.cur := rfl
@[simp] theorem State.later_next (s : State) (n : Nat) (e : Ev) : (s.later n e).next = s.next := rfl
@[simp] theorem State.later_tick (s : State) (n : Nat) (e : Ev) : (s.later n e).tick = s.tick := rfl
@[simp] theorem State.later_faultTurn (s : State) (n : Nat) (e : Ev) : (s.later n e).faultTurn = s.faultTurn := rfl
@[simp] theorem State.later_reqWait (s : State) (n : Nat) (e : Ev) : (s.later n e).reqWait = s.reqWait := rfl

/-! `State.setDenseLine`. -/
@[simp] theorem State.setDenseLine_cubeId (s : State) (l : Nat) (d : List Byte) : (s.setDenseLine l d).cubeId = s.cubeId := rfl
@[simp] theorem State.setDenseLine_cubeSet (s : State) (l : Nat) (d : List Byte) : (s.setDenseLine l d).cubeSet = s.cubeSet := rfl
@[simp] theorem State.setDenseLine_dense (s : State) (l : Nat) (d : List Byte) : (s.setDenseLine l d).dense = memWrite s.dense (l * 128) d := rfl
@[simp] theorem State.setDenseLine_poison (s : State) (l : Nat) (d : List Byte) : (s.setDenseLine l d).poison = s.poison := rfl
@[simp] theorem State.setDenseLine_map (s : State) (l : Nat) (d : List Byte) : (s.setDenseLine l d).map = s.map := rfl
@[simp] theorem State.setDenseLine_cubeList (s : State) (l : Nat) (d : List Byte) : (s.setDenseLine l d).cubeList = s.cubeList := rfl
@[simp] theorem State.setDenseLine_hold (s : State) (l : Nat) (d : List Byte) : (s.setDenseLine l d).hold = s.hold := rfl
@[simp] theorem State.setDenseLine_slices (s : State) (l : Nat) (d : List Byte) : (s.setDenseLine l d).slices = s.slices := rfl
@[simp] theorem State.setDenseLine_holds (s : State) (l : Nat) (d : List Byte) : (s.setDenseLine l d).holds = s.holds := rfl
@[simp] theorem State.setDenseLine_nbBusy (s : State) (l : Nat) (d : List Byte) : (s.setDenseLine l d).nbBusy = s.nbBusy := rfl
@[simp] theorem State.setDenseLine_nbQueue (s : State) (l : Nat) (d : List Byte) : (s.setDenseLine l d).nbQueue = s.nbQueue := rfl
@[simp] theorem State.setDenseLine_stubs (s : State) (l : Nat) (d : List Byte) : (s.setDenseLine l d).stubs = s.stubs := rfl
@[simp] theorem State.setDenseLine_jobs (s : State) (l : Nat) (d : List Byte) : (s.setDenseLine l d).jobs = s.jobs := rfl
@[simp] theorem State.setDenseLine_cores (s : State) (l : Nat) (d : List Byte) : (s.setDenseLine l d).cores = s.cores := rfl
@[simp] theorem State.setDenseLine_regs (s : State) (l : Nat) (d : List Byte) : (s.setDenseLine l d).regs = s.regs := rfl
@[simp] theorem State.setDenseLine_leaseNow (s : State) (l : Nat) (d : List Byte) : (s.setDenseLine l d).leaseNow = s.leaseNow := rfl
@[simp] theorem State.setDenseLine_walks (s : State) (l : Nat) (d : List Byte) : (s.setDenseLine l d).walks = s.walks := rfl
@[simp] theorem State.setDenseLine_walkStore (s : State) (l : Nat) (d : List Byte) : (s.setDenseLine l d).walkStore = s.walkStore := rfl
@[simp] theorem State.setDenseLine_harts (s : State) (l : Nat) (d : List Byte) : (s.setDenseLine l d).harts = s.harts := rfl
@[simp] theorem State.setDenseLine_faults (s : State) (l : Nat) (d : List Byte) : (s.setDenseLine l d).faults = s.faults := rfl
@[simp] theorem State.setDenseLine_faultWait (s : State) (l : Nat) (d : List Byte) : (s.setDenseLine l d).faultWait = s.faultWait := rfl
@[simp] theorem State.setDenseLine_queueBusy (s : State) (l : Nat) (d : List Byte) : (s.setDenseLine l d).queueBusy = s.queueBusy := rfl
@[simp] theorem State.setDenseLine_queueWait (s : State) (l : Nat) (d : List Byte) : (s.setDenseLine l d).queueWait = s.queueWait := rfl
@[simp] theorem State.setDenseLine_fltNext (s : State) (l : Nat) (d : List Byte) : (s.setDenseLine l d).fltNext = s.fltNext := rfl
@[simp] theorem State.setDenseLine_outs (s : State) (l : Nat) (d : List Byte) : (s.setDenseLine l d).outs = s.outs := rfl
@[simp] theorem State.setDenseLine_fabric (s : State) (l : Nat) (d : List Byte) : (s.setDenseLine l d).fabric = s.fabric := rfl
@[simp] theorem State.setDenseLine_tu (s : State) (l : Nat) (d : List Byte) : (s.setDenseLine l d).tu = s.tu := rfl
@[simp] theorem State.setDenseLine_engines (s : State) (l : Nat) (d : List Byte) : (s.setDenseLine l d).engines = s.engines := rfl
@[simp] theorem State.setDenseLine_streamers (s : State) (l : Nat) (d : List Byte) : (s.setDenseLine l d).streamers = s.streamers := rfl
@[simp] theorem State.setDenseLine_vaults (s : State) (l : Nat) (d : List Byte) : (s.setDenseLine l d).vaults = s.vaults := rfl
@[simp] theorem State.setDenseLine_grants (s : State) (l : Nat) (d : List Byte) : (s.setDenseLine l d).grants = s.grants := rfl
@[simp] theorem State.setDenseLine_grantQueue (s : State) (l : Nat) (d : List Byte) : (s.setDenseLine l d).grantQueue = s.grantQueue := rfl
@[simp] theorem State.setDenseLine_susps (s : State) (l : Nat) (d : List Byte) : (s.setDenseLine l d).susps = s.susps := rfl
@[simp] theorem State.setDenseLine_svc (s : State) (l : Nat) (d : List Byte) : (s.setDenseLine l d).svc = s.svc := rfl
@[simp] theorem State.setDenseLine_drains (s : State) (l : Nat) (d : List Byte) : (s.setDenseLine l d).drains = s.drains := rfl
@[simp] theorem State.setDenseLine_migWait (s : State) (l : Nat) (d : List Byte) : (s.setDenseLine l d).migWait = s.migWait := rfl
@[simp] theorem State.setDenseLine_events (s : State) (l : Nat) (d : List Byte) : (s.setDenseLine l d).events = s.events := rfl
@[simp] theorem State.setDenseLine_ev (s : State) (l : Nat) (d : List Byte) : (s.setDenseLine l d).ev = s.ev := rfl
@[simp] theorem State.setDenseLine_timers (s : State) (l : Nat) (d : List Byte) : (s.setDenseLine l d).timers = s.timers := rfl
@[simp] theorem State.setDenseLine_cur (s : State) (l : Nat) (d : List Byte) : (s.setDenseLine l d).cur = s.cur := rfl
@[simp] theorem State.setDenseLine_next (s : State) (l : Nat) (d : List Byte) : (s.setDenseLine l d).next = s.next := rfl
@[simp] theorem State.setDenseLine_tick (s : State) (l : Nat) (d : List Byte) : (s.setDenseLine l d).tick = s.tick := rfl
@[simp] theorem State.setDenseLine_faultTurn (s : State) (l : Nat) (d : List Byte) : (s.setDenseLine l d).faultTurn = s.faultTurn := rfl
@[simp] theorem State.setDenseLine_reqWait (s : State) (l : Nat) (d : List Byte) : (s.setDenseLine l d).reqWait = s.reqWait := rfl

/-! `State.block`. -/
@[simp] theorem State.block_cubeId (s : State) (w : Wait) : (s.block w).cubeId = s.cubeId := rfl
@[simp] theorem State.block_cubeSet (s : State) (w : Wait) : (s.block w).cubeSet = s.cubeSet := rfl
@[simp] theorem State.block_dense (s : State) (w : Wait) : (s.block w).dense = s.dense := rfl
@[simp] theorem State.block_poison (s : State) (w : Wait) : (s.block w).poison = s.poison := rfl
@[simp] theorem State.block_map (s : State) (w : Wait) : (s.block w).map = s.map := rfl
@[simp] theorem State.block_cubeList (s : State) (w : Wait) : (s.block w).cubeList = s.cubeList := rfl
@[simp] theorem State.block_hold (s : State) (w : Wait) : (s.block w).hold = s.hold := rfl
@[simp] theorem State.block_slices (s : State) (w : Wait) : (s.block w).slices = s.slices := rfl
@[simp] theorem State.block_holds (s : State) (w : Wait) : (s.block w).holds = s.holds := rfl
@[simp] theorem State.block_nbBusy (s : State) (w : Wait) : (s.block w).nbBusy = s.nbBusy := rfl
@[simp] theorem State.block_nbQueue (s : State) (w : Wait) : (s.block w).nbQueue = s.nbQueue := rfl
@[simp] theorem State.block_stubs (s : State) (w : Wait) : (s.block w).stubs = s.stubs := rfl
@[simp] theorem State.block_jobs (s : State) (w : Wait) : (s.block w).jobs = s.jobs := rfl
@[simp] theorem State.block_regs (s : State) (w : Wait) : (s.block w).regs = s.regs := rfl
@[simp] theorem State.block_leaseNow (s : State) (w : Wait) : (s.block w).leaseNow = s.leaseNow := rfl
@[simp] theorem State.block_walks (s : State) (w : Wait) : (s.block w).walks = s.walks := rfl
@[simp] theorem State.block_walkStore (s : State) (w : Wait) : (s.block w).walkStore = s.walkStore := rfl
@[simp] theorem State.block_harts (s : State) (w : Wait) : (s.block w).harts = s.harts := rfl
@[simp] theorem State.block_faults (s : State) (w : Wait) : (s.block w).faults = s.faults := rfl
@[simp] theorem State.block_faultWait (s : State) (w : Wait) : (s.block w).faultWait = s.faultWait := rfl
@[simp] theorem State.block_queueBusy (s : State) (w : Wait) : (s.block w).queueBusy = s.queueBusy := rfl
@[simp] theorem State.block_queueWait (s : State) (w : Wait) : (s.block w).queueWait = s.queueWait := rfl
@[simp] theorem State.block_fltNext (s : State) (w : Wait) : (s.block w).fltNext = s.fltNext := rfl
@[simp] theorem State.block_outs (s : State) (w : Wait) : (s.block w).outs = s.outs := rfl
@[simp] theorem State.block_fabric (s : State) (w : Wait) : (s.block w).fabric = s.fabric := rfl
@[simp] theorem State.block_tu (s : State) (w : Wait) : (s.block w).tu = s.tu := rfl
@[simp] theorem State.block_engines (s : State) (w : Wait) : (s.block w).engines = s.engines := rfl
@[simp] theorem State.block_streamers (s : State) (w : Wait) : (s.block w).streamers = s.streamers := rfl
@[simp] theorem State.block_vaults (s : State) (w : Wait) : (s.block w).vaults = s.vaults := rfl
@[simp] theorem State.block_grants (s : State) (w : Wait) : (s.block w).grants = s.grants := rfl
@[simp] theorem State.block_grantQueue (s : State) (w : Wait) : (s.block w).grantQueue = s.grantQueue := rfl
@[simp] theorem State.block_susps (s : State) (w : Wait) : (s.block w).susps = s.susps := rfl
@[simp] theorem State.block_svc (s : State) (w : Wait) : (s.block w).svc = s.svc := rfl
@[simp] theorem State.block_drains (s : State) (w : Wait) : (s.block w).drains = s.drains := rfl
@[simp] theorem State.block_migWait (s : State) (w : Wait) : (s.block w).migWait = s.migWait := rfl
@[simp] theorem State.block_events (s : State) (w : Wait) : (s.block w).events = s.events := rfl
@[simp] theorem State.block_ev (s : State) (w : Wait) : (s.block w).ev = s.ev := rfl
@[simp] theorem State.block_timers (s : State) (w : Wait) : (s.block w).timers = s.timers := rfl
@[simp] theorem State.block_cur (s : State) (w : Wait) : (s.block w).cur = s.cur := rfl
@[simp] theorem State.block_next (s : State) (w : Wait) : (s.block w).next = s.next := rfl
@[simp] theorem State.block_tick (s : State) (w : Wait) : (s.block w).tick = s.tick := rfl
@[simp] theorem State.block_faultTurn (s : State) (w : Wait) : (s.block w).faultTurn = s.faultTurn := rfl
@[simp] theorem State.block_reqWait (s : State) (w : Wait) : (s.block w).reqWait = s.reqWait := rfl

/-! `State.retire`. -/
@[simp] theorem State.retire_cubeId (s : State) (n : Nat) : (s.retire n).cubeId = s.cubeId := rfl
@[simp] theorem State.retire_cubeSet (s : State) (n : Nat) : (s.retire n).cubeSet = s.cubeSet := rfl
@[simp] theorem State.retire_dense (s : State) (n : Nat) : (s.retire n).dense = s.dense := rfl
@[simp] theorem State.retire_poison (s : State) (n : Nat) : (s.retire n).poison = s.poison := rfl
@[simp] theorem State.retire_map (s : State) (n : Nat) : (s.retire n).map = s.map := rfl
@[simp] theorem State.retire_cubeList (s : State) (n : Nat) : (s.retire n).cubeList = s.cubeList := rfl
@[simp] theorem State.retire_hold (s : State) (n : Nat) : (s.retire n).hold = s.hold := rfl
@[simp] theorem State.retire_slices (s : State) (n : Nat) : (s.retire n).slices = s.slices := rfl
@[simp] theorem State.retire_holds (s : State) (n : Nat) : (s.retire n).holds = s.holds := rfl
@[simp] theorem State.retire_nbBusy (s : State) (n : Nat) : (s.retire n).nbBusy = s.nbBusy := rfl
@[simp] theorem State.retire_nbQueue (s : State) (n : Nat) : (s.retire n).nbQueue = s.nbQueue := rfl
@[simp] theorem State.retire_stubs (s : State) (n : Nat) : (s.retire n).stubs = s.stubs := rfl
@[simp] theorem State.retire_jobs (s : State) (n : Nat) : (s.retire n).jobs = s.jobs := rfl
@[simp] theorem State.retire_regs (s : State) (n : Nat) : (s.retire n).regs = s.regs := rfl
@[simp] theorem State.retire_leaseNow (s : State) (n : Nat) : (s.retire n).leaseNow = s.leaseNow := rfl
@[simp] theorem State.retire_walks (s : State) (n : Nat) : (s.retire n).walks = s.walks := rfl
@[simp] theorem State.retire_walkStore (s : State) (n : Nat) : (s.retire n).walkStore = s.walkStore := rfl
@[simp] theorem State.retire_harts (s : State) (n : Nat) : (s.retire n).harts = s.harts := rfl
@[simp] theorem State.retire_faults (s : State) (n : Nat) : (s.retire n).faults = s.faults := rfl
@[simp] theorem State.retire_faultWait (s : State) (n : Nat) : (s.retire n).faultWait = s.faultWait := rfl
@[simp] theorem State.retire_queueBusy (s : State) (n : Nat) : (s.retire n).queueBusy = s.queueBusy := rfl
@[simp] theorem State.retire_queueWait (s : State) (n : Nat) : (s.retire n).queueWait = s.queueWait := rfl
@[simp] theorem State.retire_fltNext (s : State) (n : Nat) : (s.retire n).fltNext = s.fltNext := rfl
@[simp] theorem State.retire_outs (s : State) (n : Nat) : (s.retire n).outs = s.outs := rfl
@[simp] theorem State.retire_fabric (s : State) (n : Nat) : (s.retire n).fabric = s.fabric := rfl
@[simp] theorem State.retire_tu (s : State) (n : Nat) : (s.retire n).tu = s.tu := rfl
@[simp] theorem State.retire_engines (s : State) (n : Nat) : (s.retire n).engines = s.engines := rfl
@[simp] theorem State.retire_streamers (s : State) (n : Nat) : (s.retire n).streamers = s.streamers := rfl
@[simp] theorem State.retire_vaults (s : State) (n : Nat) : (s.retire n).vaults = s.vaults := rfl
@[simp] theorem State.retire_grants (s : State) (n : Nat) : (s.retire n).grants = s.grants := rfl
@[simp] theorem State.retire_grantQueue (s : State) (n : Nat) : (s.retire n).grantQueue = s.grantQueue := rfl
@[simp] theorem State.retire_susps (s : State) (n : Nat) : (s.retire n).susps = s.susps := rfl
@[simp] theorem State.retire_svc (s : State) (n : Nat) : (s.retire n).svc = s.svc := rfl
@[simp] theorem State.retire_drains (s : State) (n : Nat) : (s.retire n).drains = s.drains := rfl
@[simp] theorem State.retire_migWait (s : State) (n : Nat) : (s.retire n).migWait = s.migWait := rfl
@[simp] theorem State.retire_events (s : State) (n : Nat) : (s.retire n).events = s.events := rfl
@[simp] theorem State.retire_ev (s : State) (n : Nat) : (s.retire n).ev = s.ev := rfl
@[simp] theorem State.retire_timers (s : State) (n : Nat) : (s.retire n).timers = s.timers := rfl
@[simp] theorem State.retire_cur (s : State) (n : Nat) : (s.retire n).cur = s.cur := rfl
@[simp] theorem State.retire_next (s : State) (n : Nat) : (s.retire n).next = s.next := rfl
@[simp] theorem State.retire_tick (s : State) (n : Nat) : (s.retire n).tick = s.tick := rfl
@[simp] theorem State.retire_faultTurn (s : State) (n : Nat) : (s.retire n).faultTurn = s.faultTurn := rfl
@[simp] theorem State.retire_reqWait (s : State) (n : Nat) : (s.retire n).reqWait = s.reqWait := rfl

/-! `Core.setCtx`, `Core.setQueue`. -/
@[simp] theorem Core.setCtx_ctxs (k : Core) (x : Nat) (t : Ctx) : (k.setCtx x t).ctxs = tblSet k.ctxs x t := rfl
@[simp] theorem Core.setCtx_queues (k : Core) (x : Nat) (t : Ctx) : (k.setCtx x t).queues = k.queues := rfl
@[simp] theorem Core.setCtx_qwait (k : Core) (x : Nat) (t : Ctx) : (k.setCtx x t).qwait = k.qwait := rfl
@[simp] theorem Core.setCtx_groups (k : Core) (x : Nat) (t : Ctx) : (k.setCtx x t).groups = k.groups := rfl
@[simp] theorem Core.setCtx_lcs (k : Core) (x : Nat) (t : Ctx) : (k.setCtx x t).lcs = k.lcs := rfl
@[simp] theorem Core.setCtx_lcWatch (k : Core) (x : Nat) (t : Ctx) : (k.setCtx x t).lcWatch = k.lcWatch := rfl
@[simp] theorem Core.setCtx_claims (k : Core) (x : Nat) (t : Ctx) : (k.setCtx x t).claims = k.claims := rfl
@[simp] theorem Core.setCtx_acc (k : Core) (x : Nat) (t : Ctx) : (k.setCtx x t).acc = k.acc := rfl
@[simp] theorem Core.setCtx_asat (k : Core) (x : Nat) (t : Ctx) : (k.setCtx x t).asat = k.asat := rfl
@[simp] theorem Core.setCtx_tiles (k : Core) (x : Nat) (t : Ctx) : (k.setCtx x t).tiles = k.tiles := rfl
@[simp] theorem Core.setCtx_pecks (k : Core) (x : Nat) (t : Ctx) : (k.setCtx x t).pecks = k.pecks := rfl
@[simp] theorem Core.setCtx_fulls (k : Core) (x : Nat) (t : Ctx) : (k.setCtx x t).fulls = k.fulls := rfl
@[simp] theorem Core.setCtx_near (k : Core) (x : Nat) (t : Ctx) : (k.setCtx x t).near = k.near := rfl
@[simp] theorem Core.setCtx_wbuf (k : Core) (x : Nat) (t : Ctx) : (k.setCtx x t).wbuf = k.wbuf := rfl
@[simp] theorem Core.setCtx_fills (k : Core) (x : Nat) (t : Ctx) : (k.setCtx x t).fills = k.fills := rfl
@[simp] theorem Core.setCtx_regrec (k : Core) (x : Nat) (t : Ctx) : (k.setCtx x t).regrec = k.regrec := rfl
@[simp] theorem Core.setCtx_icache (k : Core) (x : Nat) (t : Ctx) : (k.setCtx x t).icache = k.icache := rfl
@[simp] theorem Core.setCtx_inbox (k : Core) (x : Nat) (t : Ctx) : (k.setCtx x t).inbox = k.inbox := rfl
@[simp] theorem Core.setCtx_held (k : Core) (x : Nat) (t : Ctx) : (k.setCtx x t).held = k.held := rfl
@[simp] theorem Core.setCtx_popping (k : Core) (x : Nat) (t : Ctx) : (k.setCtx x t).popping = k.popping := rfl
@[simp] theorem Core.setCtx_starts (k : Core) (x : Nat) (t : Ctx) : (k.setCtx x t).starts = k.starts := rfl
@[simp] theorem Core.setCtx_reserved (k : Core) (x : Nat) (t : Ctx) : (k.setCtx x t).reserved = k.reserved := rfl
@[simp] theorem Core.setCtx_launches (k : Core) (x : Nat) (t : Ctx) : (k.setCtx x t).launches = k.launches := rfl
@[simp] theorem Core.setCtx_codebooks (k : Core) (x : Nat) (t : Ctx) : (k.setCtx x t).codebooks = k.codebooks := rfl
@[simp] theorem Core.setCtx_spillEntry (k : Core) (x : Nat) (t : Ctx) : (k.setCtx x t).spillEntry = k.spillEntry := rfl
@[simp] theorem Core.setCtx_spillHeap (k : Core) (x : Nat) (t : Ctx) : (k.setCtx x t).spillHeap = k.spillHeap := rfl
@[simp] theorem Core.setCtx_spillCtl (k : Core) (x : Nat) (t : Ctx) : (k.setCtx x t).spillCtl = k.spillCtl := rfl
@[simp] theorem Core.setCtx_seq (k : Core) (x : Nat) (t : Ctx) : (k.setCtx x t).seq = k.seq := rfl
@[simp] theorem Core.setCtx_ringWaits (k : Core) (x : Nat) (t : Ctx) : (k.setCtx x t).ringWaits = k.ringWaits := rfl
@[simp] theorem Core.setCtx_follows (k : Core) (x : Nat) (t : Ctx) : (k.setCtx x t).follows = k.follows := rfl
@[simp] theorem Core.setCtx_engReads (k : Core) (x : Nat) (t : Ctx) : (k.setCtx x t).engReads = k.engReads := rfl
@[simp] theorem Core.setCtx_last (k : Core) (x : Nat) (t : Ctx) : (k.setCtx x t).last = k.last := rfl
@[simp] theorem Core.setCtx_fwds (k : Core) (x : Nat) (t : Ctx) : (k.setCtx x t).fwds = k.fwds := rfl
@[simp] theorem Core.setQueue_ctxs (k : Core) (q : Nat) (l : List QEnt) : (k.setQueue q l).ctxs = k.ctxs := rfl
@[simp] theorem Core.setQueue_queues (k : Core) (q : Nat) (l : List QEnt) : (k.setQueue q l).queues = tblSet k.queues q l := rfl
@[simp] theorem Core.setQueue_qwait (k : Core) (q : Nat) (l : List QEnt) : (k.setQueue q l).qwait = k.qwait := rfl
@[simp] theorem Core.setQueue_groups (k : Core) (q : Nat) (l : List QEnt) : (k.setQueue q l).groups = k.groups := rfl
@[simp] theorem Core.setQueue_lcs (k : Core) (q : Nat) (l : List QEnt) : (k.setQueue q l).lcs = k.lcs := rfl
@[simp] theorem Core.setQueue_lcWatch (k : Core) (q : Nat) (l : List QEnt) : (k.setQueue q l).lcWatch = k.lcWatch := rfl
@[simp] theorem Core.setQueue_claims (k : Core) (q : Nat) (l : List QEnt) : (k.setQueue q l).claims = k.claims := rfl
@[simp] theorem Core.setQueue_acc (k : Core) (q : Nat) (l : List QEnt) : (k.setQueue q l).acc = k.acc := rfl
@[simp] theorem Core.setQueue_asat (k : Core) (q : Nat) (l : List QEnt) : (k.setQueue q l).asat = k.asat := rfl
@[simp] theorem Core.setQueue_tiles (k : Core) (q : Nat) (l : List QEnt) : (k.setQueue q l).tiles = k.tiles := rfl
@[simp] theorem Core.setQueue_pecks (k : Core) (q : Nat) (l : List QEnt) : (k.setQueue q l).pecks = k.pecks := rfl
@[simp] theorem Core.setQueue_fulls (k : Core) (q : Nat) (l : List QEnt) : (k.setQueue q l).fulls = k.fulls := rfl
@[simp] theorem Core.setQueue_near (k : Core) (q : Nat) (l : List QEnt) : (k.setQueue q l).near = k.near := rfl
@[simp] theorem Core.setQueue_wbuf (k : Core) (q : Nat) (l : List QEnt) : (k.setQueue q l).wbuf = k.wbuf := rfl
@[simp] theorem Core.setQueue_fills (k : Core) (q : Nat) (l : List QEnt) : (k.setQueue q l).fills = k.fills := rfl
@[simp] theorem Core.setQueue_regrec (k : Core) (q : Nat) (l : List QEnt) : (k.setQueue q l).regrec = k.regrec := rfl
@[simp] theorem Core.setQueue_icache (k : Core) (q : Nat) (l : List QEnt) : (k.setQueue q l).icache = k.icache := rfl
@[simp] theorem Core.setQueue_inbox (k : Core) (q : Nat) (l : List QEnt) : (k.setQueue q l).inbox = k.inbox := rfl
@[simp] theorem Core.setQueue_held (k : Core) (q : Nat) (l : List QEnt) : (k.setQueue q l).held = k.held := rfl
@[simp] theorem Core.setQueue_popping (k : Core) (q : Nat) (l : List QEnt) : (k.setQueue q l).popping = k.popping := rfl
@[simp] theorem Core.setQueue_starts (k : Core) (q : Nat) (l : List QEnt) : (k.setQueue q l).starts = k.starts := rfl
@[simp] theorem Core.setQueue_reserved (k : Core) (q : Nat) (l : List QEnt) : (k.setQueue q l).reserved = k.reserved := rfl
@[simp] theorem Core.setQueue_launches (k : Core) (q : Nat) (l : List QEnt) : (k.setQueue q l).launches = k.launches := rfl
@[simp] theorem Core.setQueue_codebooks (k : Core) (q : Nat) (l : List QEnt) : (k.setQueue q l).codebooks = k.codebooks := rfl
@[simp] theorem Core.setQueue_spillEntry (k : Core) (q : Nat) (l : List QEnt) : (k.setQueue q l).spillEntry = k.spillEntry := rfl
@[simp] theorem Core.setQueue_spillHeap (k : Core) (q : Nat) (l : List QEnt) : (k.setQueue q l).spillHeap = k.spillHeap := rfl
@[simp] theorem Core.setQueue_spillCtl (k : Core) (q : Nat) (l : List QEnt) : (k.setQueue q l).spillCtl = k.spillCtl := rfl
@[simp] theorem Core.setQueue_seq (k : Core) (q : Nat) (l : List QEnt) : (k.setQueue q l).seq = k.seq := rfl
@[simp] theorem Core.setQueue_ringWaits (k : Core) (q : Nat) (l : List QEnt) : (k.setQueue q l).ringWaits = k.ringWaits := rfl
@[simp] theorem Core.setQueue_follows (k : Core) (q : Nat) (l : List QEnt) : (k.setQueue q l).follows = k.follows := rfl
@[simp] theorem Core.setQueue_engReads (k : Core) (q : Nat) (l : List QEnt) : (k.setQueue q l).engReads = k.engReads := rfl
@[simp] theorem Core.setQueue_last (k : Core) (q : Nat) (l : List QEnt) : (k.setQueue q l).last = k.last := rfl
@[simp] theorem Core.setQueue_fwds (k : Core) (q : Nat) (l : List QEnt) : (k.setQueue q l).fwds = k.fwds := rfl

/-! `Ctx.setG`, `Ctx.orFlags`, `Ctx.boundary`. -/
@[simp] theorem Ctx.setG_cstate (t : Ctx) (i : Nat) (v : Word) : (t.setG i v).cstate = t.cstate := rfl
@[simp] theorem Ctx.setG_g (t : Ctx) (i : Nat) (v : Word) : (t.setG i v).g = memSet t.g i v := rfl
@[simp] theorem Ctx.setG_pc (t : Ctx) (i : Nat) (v : Word) : (t.setG i v).pc = t.pc := rfl
@[simp] theorem Ctx.setG_status (t : Ctx) (i : Nat) (v : Word) : (t.setG i v).status = t.status := rfl
@[simp] theorem Ctx.setG_preds (t : Ctx) (i : Nat) (v : Word) : (t.setG i v).preds = t.preds := rfl
@[simp] theorem Ctx.setG_flags (t : Ctx) (i : Nat) (v : Word) : (t.setG i v).flags = t.flags := rfl
@[simp] theorem Ctx.setG_masks (t : Ctx) (i : Nat) (v : Word) : (t.setG i v).masks = t.masks := rfl
@[simp] theorem Ctx.setG_fillLimit (t : Ctx) (i : Nat) (v : Word) : (t.setG i v).fillLimit = t.fillLimit := rfl
@[simp] theorem Ctx.setG_toor (t : Ctx) (i : Nat) (v : Word) : (t.setG i v).toor = t.toor := rfl
@[simp] theorem Ctx.setG_serial (t : Ctx) (i : Nat) (v : Word) : (t.setG i v).serial = t.serial := rfl
@[simp] theorem Ctx.setG_tcl (t : Ctx) (i : Nat) (v : Word) : (t.setG i v).tcl = t.tcl := rfl
@[simp] theorem Ctx.setG_tch (t : Ctx) (i : Nat) (v : Word) : (t.setG i v).tch = t.tch := rfl
@[simp] theorem Ctx.setG_ackbal (t : Ctx) (i : Nat) (v : Word) : (t.setG i v).ackbal = t.ackbal := rfl
@[simp] theorem Ctx.setG_pendg (t : Ctx) (i : Nat) (v : Word) : (t.setG i v).pendg = t.pendg := rfl
@[simp] theorem Ctx.setG_maint (t : Ctx) (i : Nat) (v : Word) : (t.setG i v).maint = t.maint := rfl
@[simp] theorem Ctx.setG_nbPend (t : Ctx) (i : Nat) (v : Word) : (t.setG i v).nbPend = t.nbPend := rfl
@[simp] theorem Ctx.setG_engOut (t : Ctx) (i : Nat) (v : Word) : (t.setG i v).engOut = t.engOut := rfl
@[simp] theorem Ctx.setG_tags (t : Ctx) (i : Nat) (v : Word) : (t.setG i v).tags = t.tags := rfl
@[simp] theorem Ctx.setG_wait (t : Ctx) (i : Nat) (v : Word) : (t.setG i v).wait = t.wait := rfl
@[simp] theorem Ctx.setG_waitAt (t : Ctx) (i : Nat) (v : Word) : (t.setG i v).waitAt = t.waitAt := rfl
@[simp] theorem Ctx.setG_latch (t : Ctx) (i : Nat) (v : Word) : (t.setG i v).latch = t.latch := rfl
@[simp] theorem Ctx.setG_got (t : Ctx) (i : Nat) (v : Word) : (t.setG i v).got = t.got := rfl
@[simp] theorem Ctx.setG_noticed (t : Ctx) (i : Nat) (v : Word) : (t.setG i v).noticed = t.noticed := rfl
@[simp] theorem Ctx.setG_cw (t : Ctx) (i : Nat) (v : Word) : (t.setG i v).cw = t.cw := rfl
@[simp] theorem Ctx.setG_trapCause (t : Ctx) (i : Nat) (v : Word) : (t.setG i v).trapCause = t.trapCause := rfl
@[simp] theorem Ctx.setG_trapPc (t : Ctx) (i : Nat) (v : Word) : (t.setG i v).trapPc = t.trapPc := rfl
@[simp] theorem Ctx.setG_trapStatus (t : Ctx) (i : Nat) (v : Word) : (t.setG i v).trapStatus = t.trapStatus := rfl
@[simp] theorem Ctx.setG_info0 (t : Ctx) (i : Nat) (v : Word) : (t.setG i v).info0 = t.info0 := rfl
@[simp] theorem Ctx.setG_info1 (t : Ctx) (i : Nat) (v : Word) : (t.setG i v).info1 = t.info1 := rfl
@[simp] theorem Ctx.setG_info2 (t : Ctx) (i : Nat) (v : Word) : (t.setG i v).info2 = t.info2 := rfl
@[simp] theorem Ctx.setG_errRec (t : Ctx) (i : Nat) (v : Word) : (t.setG i v).errRec = t.errRec := rfl
@[simp] theorem Ctx.setG_errn (t : Ctx) (i : Nat) (v : Word) : (t.setG i v).errn = t.errn := rfl
@[simp] theorem Ctx.setG_startNo (t : Ctx) (i : Nat) (v : Word) : (t.setG i v).startNo = t.startNo := rfl
@[simp] theorem Ctx.setG_ostart (t : Ctx) (i : Nat) (v : Word) : (t.setG i v).ostart = t.ostart := rfl
@[simp] theorem Ctx.setG_skew (t : Ctx) (i : Nat) (v : Word) : (t.setG i v).skew = t.skew := rfl
@[simp] theorem Ctx.setG_migrations (t : Ctx) (i : Nat) (v : Word) : (t.setG i v).migrations = t.migrations := rfl
@[simp] theorem Ctx.setG_record (t : Ctx) (i : Nat) (v : Word) : (t.setG i v).record = t.record := rfl
@[simp] theorem Ctx.setG_susp (t : Ctx) (i : Nat) (v : Word) : (t.setG i v).susp = t.susp := rfl
@[simp] theorem Ctx.setG_idle (t : Ctx) (i : Nat) (v : Word) : (t.setG i v).idle = t.idle := rfl
@[simp] theorem Ctx.setG_rdet (t : Ctx) (i : Nat) (v : Word) : (t.setG i v).rdet = t.rdet := rfl
@[simp] theorem Ctx.setG_yielded (t : Ctx) (i : Nat) (v : Word) : (t.setG i v).yielded = t.yielded := rfl
@[simp] theorem Ctx.setG_trapVa (t : Ctx) (i : Nat) (v : Word) : (t.setG i v).trapVa = t.trapVa := rfl
@[simp] theorem Ctx.setG_sdExp (t : Ctx) (i : Nat) (v : Word) : (t.setG i v).sdExp = t.sdExp := rfl
@[simp] theorem Ctx.setG_sdFresh (t : Ctx) (i : Nat) (v : Word) : (t.setG i v).sdFresh = t.sdFresh := rfl
@[simp] theorem Ctx.setG_sdTrap (t : Ctx) (i : Nat) (v : Word) : (t.setG i v).sdTrap = t.sdTrap := rfl
@[simp] theorem Ctx.setG_nbStatus (t : Ctx) (i : Nat) (v : Word) : (t.setG i v).nbStatus = t.nbStatus := rfl
@[simp] theorem Ctx.setG_departing (t : Ctx) (i : Nat) (v : Word) : (t.setG i v).departing = t.departing := rfl
@[simp] theorem Ctx.setG_pend (t : Ctx) (i : Nat) (v : Word) : (t.setG i v).pend = t.pend := rfl
@[simp] theorem Ctx.setG_seqSave (t : Ctx) (i : Nat) (v : Word) : (t.setG i v).seqSave = t.seqSave := rfl
@[simp] theorem Ctx.setG_bdue (t : Ctx) (i : Nat) (v : Word) : (t.setG i v).bdue = t.bdue := rfl
@[simp] theorem Ctx.setG_relScope (t : Ctx) (i : Nat) (v : Word) : (t.setG i v).relScope = t.relScope := rfl
@[simp] theorem Ctx.orFlags_cstate (t : Ctx) (f : BitVec 5) : (t.orFlags f).cstate = t.cstate := rfl
@[simp] theorem Ctx.orFlags_g (t : Ctx) (f : BitVec 5) : (t.orFlags f).g = t.g := rfl
@[simp] theorem Ctx.orFlags_pc (t : Ctx) (f : BitVec 5) : (t.orFlags f).pc = t.pc := rfl
@[simp] theorem Ctx.orFlags_status (t : Ctx) (f : BitVec 5) : (t.orFlags f).status = t.status := rfl
@[simp] theorem Ctx.orFlags_preds (t : Ctx) (f : BitVec 5) : (t.orFlags f).preds = t.preds := rfl
@[simp] theorem Ctx.orFlags_flags (t : Ctx) (f : BitVec 5) : (t.orFlags f).flags = t.flags ||| f := rfl
@[simp] theorem Ctx.orFlags_masks (t : Ctx) (f : BitVec 5) : (t.orFlags f).masks = t.masks := rfl
@[simp] theorem Ctx.orFlags_fillLimit (t : Ctx) (f : BitVec 5) : (t.orFlags f).fillLimit = t.fillLimit := rfl
@[simp] theorem Ctx.orFlags_toor (t : Ctx) (f : BitVec 5) : (t.orFlags f).toor = t.toor := rfl
@[simp] theorem Ctx.orFlags_serial (t : Ctx) (f : BitVec 5) : (t.orFlags f).serial = t.serial := rfl
@[simp] theorem Ctx.orFlags_tcl (t : Ctx) (f : BitVec 5) : (t.orFlags f).tcl = t.tcl := rfl
@[simp] theorem Ctx.orFlags_tch (t : Ctx) (f : BitVec 5) : (t.orFlags f).tch = t.tch := rfl
@[simp] theorem Ctx.orFlags_ackbal (t : Ctx) (f : BitVec 5) : (t.orFlags f).ackbal = t.ackbal := rfl
@[simp] theorem Ctx.orFlags_pendg (t : Ctx) (f : BitVec 5) : (t.orFlags f).pendg = t.pendg := rfl
@[simp] theorem Ctx.orFlags_maint (t : Ctx) (f : BitVec 5) : (t.orFlags f).maint = t.maint := rfl
@[simp] theorem Ctx.orFlags_nbPend (t : Ctx) (f : BitVec 5) : (t.orFlags f).nbPend = t.nbPend := rfl
@[simp] theorem Ctx.orFlags_engOut (t : Ctx) (f : BitVec 5) : (t.orFlags f).engOut = t.engOut := rfl
@[simp] theorem Ctx.orFlags_tags (t : Ctx) (f : BitVec 5) : (t.orFlags f).tags = t.tags := rfl
@[simp] theorem Ctx.orFlags_wait (t : Ctx) (f : BitVec 5) : (t.orFlags f).wait = t.wait := rfl
@[simp] theorem Ctx.orFlags_waitAt (t : Ctx) (f : BitVec 5) : (t.orFlags f).waitAt = t.waitAt := rfl
@[simp] theorem Ctx.orFlags_latch (t : Ctx) (f : BitVec 5) : (t.orFlags f).latch = t.latch := rfl
@[simp] theorem Ctx.orFlags_got (t : Ctx) (f : BitVec 5) : (t.orFlags f).got = t.got := rfl
@[simp] theorem Ctx.orFlags_noticed (t : Ctx) (f : BitVec 5) : (t.orFlags f).noticed = t.noticed := rfl
@[simp] theorem Ctx.orFlags_cw (t : Ctx) (f : BitVec 5) : (t.orFlags f).cw = t.cw := rfl
@[simp] theorem Ctx.orFlags_trapCause (t : Ctx) (f : BitVec 5) : (t.orFlags f).trapCause = t.trapCause := rfl
@[simp] theorem Ctx.orFlags_trapPc (t : Ctx) (f : BitVec 5) : (t.orFlags f).trapPc = t.trapPc := rfl
@[simp] theorem Ctx.orFlags_trapStatus (t : Ctx) (f : BitVec 5) : (t.orFlags f).trapStatus = t.trapStatus := rfl
@[simp] theorem Ctx.orFlags_info0 (t : Ctx) (f : BitVec 5) : (t.orFlags f).info0 = t.info0 := rfl
@[simp] theorem Ctx.orFlags_info1 (t : Ctx) (f : BitVec 5) : (t.orFlags f).info1 = t.info1 := rfl
@[simp] theorem Ctx.orFlags_info2 (t : Ctx) (f : BitVec 5) : (t.orFlags f).info2 = t.info2 := rfl
@[simp] theorem Ctx.orFlags_errRec (t : Ctx) (f : BitVec 5) : (t.orFlags f).errRec = t.errRec := rfl
@[simp] theorem Ctx.orFlags_errn (t : Ctx) (f : BitVec 5) : (t.orFlags f).errn = t.errn := rfl
@[simp] theorem Ctx.orFlags_startNo (t : Ctx) (f : BitVec 5) : (t.orFlags f).startNo = t.startNo := rfl
@[simp] theorem Ctx.orFlags_ostart (t : Ctx) (f : BitVec 5) : (t.orFlags f).ostart = t.ostart := rfl
@[simp] theorem Ctx.orFlags_skew (t : Ctx) (f : BitVec 5) : (t.orFlags f).skew = t.skew := rfl
@[simp] theorem Ctx.orFlags_migrations (t : Ctx) (f : BitVec 5) : (t.orFlags f).migrations = t.migrations := rfl
@[simp] theorem Ctx.orFlags_record (t : Ctx) (f : BitVec 5) : (t.orFlags f).record = t.record := rfl
@[simp] theorem Ctx.orFlags_susp (t : Ctx) (f : BitVec 5) : (t.orFlags f).susp = t.susp := rfl
@[simp] theorem Ctx.orFlags_idle (t : Ctx) (f : BitVec 5) : (t.orFlags f).idle = t.idle := rfl
@[simp] theorem Ctx.orFlags_rdet (t : Ctx) (f : BitVec 5) : (t.orFlags f).rdet = t.rdet := rfl
@[simp] theorem Ctx.orFlags_yielded (t : Ctx) (f : BitVec 5) : (t.orFlags f).yielded = t.yielded := rfl
@[simp] theorem Ctx.orFlags_trapVa (t : Ctx) (f : BitVec 5) : (t.orFlags f).trapVa = t.trapVa := rfl
@[simp] theorem Ctx.orFlags_sdExp (t : Ctx) (f : BitVec 5) : (t.orFlags f).sdExp = t.sdExp := rfl
@[simp] theorem Ctx.orFlags_sdFresh (t : Ctx) (f : BitVec 5) : (t.orFlags f).sdFresh = t.sdFresh := rfl
@[simp] theorem Ctx.orFlags_sdTrap (t : Ctx) (f : BitVec 5) : (t.orFlags f).sdTrap = t.sdTrap := rfl
@[simp] theorem Ctx.orFlags_nbStatus (t : Ctx) (f : BitVec 5) : (t.orFlags f).nbStatus = t.nbStatus := rfl
@[simp] theorem Ctx.orFlags_departing (t : Ctx) (f : BitVec 5) : (t.orFlags f).departing = t.departing := rfl
@[simp] theorem Ctx.orFlags_pend (t : Ctx) (f : BitVec 5) : (t.orFlags f).pend = t.pend := rfl
@[simp] theorem Ctx.orFlags_seqSave (t : Ctx) (f : BitVec 5) : (t.orFlags f).seqSave = t.seqSave := rfl
@[simp] theorem Ctx.orFlags_bdue (t : Ctx) (f : BitVec 5) : (t.orFlags f).bdue = t.bdue := rfl
@[simp] theorem Ctx.orFlags_relScope (t : Ctx) (f : BitVec 5) : (t.orFlags f).relScope = t.relScope := rfl
@[simp] theorem Ctx.boundary_cstate (t : Ctx) : (t.boundary).cstate = t.cstate := rfl
@[simp] theorem Ctx.boundary_g (t : Ctx) : (t.boundary).g = t.g := rfl
@[simp] theorem Ctx.boundary_pc (t : Ctx) : (t.boundary).pc = t.pc := rfl
@[simp] theorem Ctx.boundary_status (t : Ctx) : (t.boundary).status = t.status := rfl
@[simp] theorem Ctx.boundary_preds (t : Ctx) : (t.boundary).preds = t.preds := rfl
@[simp] theorem Ctx.boundary_flags (t : Ctx) : (t.boundary).flags = t.flags := rfl
@[simp] theorem Ctx.boundary_masks (t : Ctx) : (t.boundary).masks = t.masks := rfl
@[simp] theorem Ctx.boundary_fillLimit (t : Ctx) : (t.boundary).fillLimit = t.fillLimit := rfl
@[simp] theorem Ctx.boundary_toor (t : Ctx) : (t.boundary).toor = t.toor := rfl
@[simp] theorem Ctx.boundary_serial (t : Ctx) : (t.boundary).serial = t.serial + 1#16 := rfl
@[simp] theorem Ctx.boundary_tcl (t : Ctx) : (t.boundary).tcl = t.tcl := rfl
@[simp] theorem Ctx.boundary_tch (t : Ctx) : (t.boundary).tch = t.tch := rfl
@[simp] theorem Ctx.boundary_ackbal (t : Ctx) : (t.boundary).ackbal = t.ackbal := rfl
@[simp] theorem Ctx.boundary_pendg (t : Ctx) : (t.boundary).pendg = t.pendg := rfl
@[simp] theorem Ctx.boundary_maint (t : Ctx) : (t.boundary).maint = t.maint := rfl
@[simp] theorem Ctx.boundary_nbPend (t : Ctx) : (t.boundary).nbPend = t.nbPend := rfl
@[simp] theorem Ctx.boundary_engOut (t : Ctx) : (t.boundary).engOut = t.engOut := rfl
@[simp] theorem Ctx.boundary_tags (t : Ctx) : (t.boundary).tags = t.tags := rfl
@[simp] theorem Ctx.boundary_waitAt (t : Ctx) : (t.boundary).waitAt = t.waitAt := rfl
@[simp] theorem Ctx.boundary_latch (t : Ctx) : (t.boundary).latch = t.latch := rfl
@[simp] theorem Ctx.boundary_got (t : Ctx) : (t.boundary).got = t.got := rfl
@[simp] theorem Ctx.boundary_noticed (t : Ctx) : (t.boundary).noticed = t.noticed := rfl
@[simp] theorem Ctx.boundary_cw (t : Ctx) : (t.boundary).cw = t.cw := rfl
@[simp] theorem Ctx.boundary_trapCause (t : Ctx) : (t.boundary).trapCause = t.trapCause := rfl
@[simp] theorem Ctx.boundary_trapPc (t : Ctx) : (t.boundary).trapPc = t.trapPc := rfl
@[simp] theorem Ctx.boundary_trapStatus (t : Ctx) : (t.boundary).trapStatus = t.trapStatus := rfl
@[simp] theorem Ctx.boundary_info0 (t : Ctx) : (t.boundary).info0 = t.info0 := rfl
@[simp] theorem Ctx.boundary_info1 (t : Ctx) : (t.boundary).info1 = t.info1 := rfl
@[simp] theorem Ctx.boundary_info2 (t : Ctx) : (t.boundary).info2 = t.info2 := rfl
@[simp] theorem Ctx.boundary_errRec (t : Ctx) : (t.boundary).errRec = t.errRec := rfl
@[simp] theorem Ctx.boundary_errn (t : Ctx) : (t.boundary).errn = t.errn := rfl
@[simp] theorem Ctx.boundary_startNo (t : Ctx) : (t.boundary).startNo = t.startNo := rfl
@[simp] theorem Ctx.boundary_ostart (t : Ctx) : (t.boundary).ostart = t.ostart := rfl
@[simp] theorem Ctx.boundary_skew (t : Ctx) : (t.boundary).skew = t.skew := rfl
@[simp] theorem Ctx.boundary_migrations (t : Ctx) : (t.boundary).migrations = t.migrations := rfl
@[simp] theorem Ctx.boundary_record (t : Ctx) : (t.boundary).record = t.record := rfl
@[simp] theorem Ctx.boundary_susp (t : Ctx) : (t.boundary).susp = t.susp := rfl
@[simp] theorem Ctx.boundary_idle (t : Ctx) : (t.boundary).idle = t.idle := rfl
@[simp] theorem Ctx.boundary_rdet (t : Ctx) : (t.boundary).rdet = t.rdet := rfl
@[simp] theorem Ctx.boundary_yielded (t : Ctx) : (t.boundary).yielded = t.yielded := rfl
@[simp] theorem Ctx.boundary_trapVa (t : Ctx) : (t.boundary).trapVa = t.trapVa := rfl
@[simp] theorem Ctx.boundary_sdExp (t : Ctx) : (t.boundary).sdExp = t.sdExp := rfl
@[simp] theorem Ctx.boundary_sdFresh (t : Ctx) : (t.boundary).sdFresh = t.sdFresh := rfl
@[simp] theorem Ctx.boundary_sdTrap (t : Ctx) : (t.boundary).sdTrap = t.sdTrap := rfl
@[simp] theorem Ctx.boundary_nbStatus (t : Ctx) : (t.boundary).nbStatus = t.nbStatus := rfl
@[simp] theorem Ctx.boundary_departing (t : Ctx) : (t.boundary).departing = t.departing := rfl
@[simp] theorem Ctx.boundary_pend (t : Ctx) : (t.boundary).pend = t.pend := rfl
@[simp] theorem Ctx.boundary_seqSave (t : Ctx) : (t.boundary).seqSave = t.seqSave := rfl
@[simp] theorem Ctx.boundary_wait (t : Ctx) : (t.boundary).wait = t.wait := rfl
@[simp] theorem Ctx.boundary_bdue (t : Ctx) : (t.boundary).bdue = t.bdue := rfl
@[simp] theorem Ctx.boundary_relScope (t : Ctx) : (t.boundary).relScope = t.relScope := rfl

/-! Cores and contexts. -/

@[simp] theorem State.core_setCore (s : State) (c : Nat) (k : Core) : (s.setCore c k).core c = k := by
  simp [State.core, State.setCore]

theorem State.core_setCore_other (s : State) (c d : Nat) (k : Core) (h : d ≠ c) : (s.setCore c k).core d = s.core d := by
  simp [State.core, State.setCore, tblGet_tblSet_other _ _ _ _ _ h]

@[simp] theorem State.core_updCore (s : State) (c : Nat) (f : Core → Core) : (s.updCore c f).core c = f (s.core c) := by
  simp [State.updCore]

theorem State.core_updCore_other (s : State) (c d : Nat) (f : Core → Core) (h : d ≠ c) :
    (s.updCore c f).core d = s.core d := by
  simp [State.updCore, State.core_setCore_other, h]

@[simp] theorem Core.ctx_setCtx (k : Core) (x : Nat) (t : Ctx) : (k.setCtx x t).ctx x = t := by
  simp [Core.ctx, Core.setCtx]

theorem Core.ctx_setCtx_other (k : Core) (x y : Nat) (t : Ctx) (h : y ≠ x) : (k.setCtx x t).ctx y = k.ctx y := by
  simp [Core.ctx, Core.setCtx, tblGet_tblSet_other _ _ _ _ _ h]

@[simp] theorem Core.ctx_setQueue (k : Core) (q : Nat) (l : List QEnt) (x : Nat) : (k.setQueue q l).ctx x = k.ctx x := rfl

@[simp] theorem Core.queue_setQueue (k : Core) (q : Nat) (l : List QEnt) : (k.setQueue q l).queue q = l := by
  simp [Core.queue, Core.setQueue]

@[simp] theorem State.core_setCtx (s : State) (c x : Nat) (t : Ctx) : (s.setCtx c x t).core c = (s.core c).setCtx x t := by
  simp [State.setCtx]

theorem State.core_setCtx_other (s : State) (c d x : Nat) (t : Ctx) (h : d ≠ c) : (s.setCtx c x t).core d = s.core d := by
  simp [State.setCtx, State.core_setCore_other, h]

@[simp] theorem State.ctx_setCtx (s : State) (c x : Nat) (t : Ctx) : (s.setCtx c x t).ctx c x = t := by
  simp [State.ctx]

@[simp] theorem State.ctx_updCtx (s : State) (c x : Nat) (f : Ctx → Ctx) : (s.updCtx c x f).ctx c x = f (s.ctx c x) := by
  simp [State.updCtx]

theorem State.ctx_setCtx_other (s : State) (c x d y : Nat) (t : Ctx) (h : (d, y) ≠ (c, x)) :
    (s.setCtx c x t).ctx d y = s.ctx d y := by
  by_cases hd : d = c
  · subst d
    have hy : y ≠ x := fun e => h (by rw [e])
    simp [State.ctx, Core.ctx_setCtx_other, hy]
  · simp [State.ctx, State.core_setCtx_other, hd]

theorem State.ctx_updCtx_other (s : State) (c x d y : Nat) (f : Ctx → Ctx) (h : (d, y) ≠ (c, x)) :
    (s.updCtx c x f).ctx d y = s.ctx d y := State.ctx_setCtx_other _ _ _ _ _ _ h

@[simp] theorem State.cx_setCx (s : State) (t : Ctx) : (s.setCx t).cx = t := by
  simp [State.cx, State.setCx, State.ctx]

@[simp] theorem State.cx_updCx (s : State) (f : Ctx → Ctx) : (s.updCx f).cx = f s.cx := by
  simp [State.updCx]

@[simp] theorem State.cx_emit (s : State) (e : Ev) : (s.emit e).cx = s.cx := rfl
@[simp] theorem State.core_emit (s : State) (e : Ev) (c : Nat) : (s.emit e).core c = s.core c := rfl
@[simp] theorem State.ctx_emit (s : State) (e : Ev) (c x : Nat) : (s.emit e).ctx c x = s.ctx c x := rfl
@[simp] theorem State.cx_emits (s : State) (e : List Ev) : (s.emits e).cx = s.cx := rfl
@[simp] theorem State.core_emits (s : State) (e : List Ev) (c : Nat) : (s.emits e).core c = s.core c := rfl
@[simp] theorem State.ctx_emits (s : State) (e : List Ev) (c x : Nat) : (s.emits e).ctx c x = s.ctx c x := rfl
@[simp] theorem State.cx_later (s : State) (n : Nat) (e : Ev) : (s.later n e).cx = s.cx := rfl
@[simp] theorem State.core_later (s : State) (n : Nat) (e : Ev) (c : Nat) : (s.later n e).core c = s.core c := rfl
@[simp] theorem State.ctx_later (s : State) (n : Nat) (e : Ev) (c x : Nat) : (s.later n e).ctx c x = s.ctx c x := rfl

/-! Registers of a context. -/

@[simp] theorem Ctx.getG_setG (t : Ctx) (i : Nat) (v : Word) : (t.setG i v).getG i = v := by
  simp [Ctx.getG, Ctx.setG]

theorem Ctx.getG_setG_other (t : Ctx) (i j : Nat) (v : Word) (h : j ≠ i) : (t.setG i v).getG j = t.getG j := by
  simp [Ctx.getG, Ctx.setG, memGet_memSet_other _ _ _ _ h]

/-- c0 reads true (10 R207). -/
@[simp] theorem Ctx.getP_zero (t : Ctx) : t.getP 0 = true := rfl
/-- m0 reads all ones (10 Table 10.10). -/
@[simp] theorem Ctx.getM_zero (t : Ctx) : t.getM 0 = BitVec.allOnes 256 := rfl
/-- A write to c0 is discarded (10 R210). -/
@[simp] theorem Ctx.setP_zero (t : Ctx) (v : Bool) : t.setP 0 v = t := rfl
@[simp] theorem Ctx.setM_zero (t : Ctx) (v : BitVec 256) : t.setM 0 v = t := rfl

@[simp] theorem Ctx.getM_setM (t : Ctx) (i : Nat) (v : BitVec 256) (h : i ≠ 0) : (t.setM i v).getM i = v := by
  simp [Ctx.getM, Ctx.setM, h]

/-! The frame of an instruction that retires: its own context goes on, and nothing else of the state changes. -/

@[simp] theorem State.cx_retire (s : State) (n : Nat) :
    (s.retire n).cx = { s.cx with pc := s.cx.pc + BitVec.ofNat 64 n, latch := none, got := [], wait := .none, waitAt := 0,
                                  cw := none, noticed := none, migrations := 0, pend := none } := by
  simp [State.retire]

@[simp] theorem State.cx_block (s : State) (w : Wait) : (s.block w).cx = { s.cx with wait := w } := by
  simp [State.block]

end Sys2Proof.Machine
end

