-- ==== Sys2Proof/Laws/Operands.lean ====
section
/-! SUPPORT. What taking an instruction's operands and writing its result can do: only queues, their waiters, due steps and the
count of numbers change, and the frame of every instruction is opened once. -/

namespace Sys2Proof.Machine

/-- Only queues and queue waiters of cores change, steps become due, and numbers are given. -/
def QueuesOnly (s t : State) : Prop :=
  SameCube s t ∧ ∀ c, t.core c = { s.core c with queues := (t.core c).queues, qwait := (t.core c).qwait }

theorem QueuesOnly.refl (s : State) : QueuesOnly s s := ⟨rfl, fun _ => rfl⟩

theorem QueuesOnly.trans {s t u : State} (h1 : QueuesOnly s t) (h2 : QueuesOnly t u) : QueuesOnly s u := by
  refine ⟨?_, fun c => ?_⟩
  · have a := h1.1; have b := h2.1
    unfold SameCube at *
    rw [b, a]
  · rw [h2.2 c, h1.2 c]

theorem QueuesOnly.ctx {s t : State} (h : QueuesOnly s t) (c x : Nat) : t.ctx c x = s.ctx c x := by
  unfold State.ctx; rw [h.2 c]; rfl

theorem QueuesOnly.cur {s t : State} (h : QueuesOnly s t) : t.cur = s.cur := by rw [h.1]

theorem QueuesOnly.cx {s t : State} (h : QueuesOnly s t) : t.cx = s.cx := by
  unfold State.cx; rw [h.cur, h.ctx]

theorem queuesOnly_updCore (s : State) (c : Nat) (f : Core → Core)
    (hf : ∀ k, f k = { k with queues := (f k).queues, qwait := (f k).qwait }) : QueuesOnly s (s.updCore c f) := by
  refine ⟨rfl, fun d => ?_⟩
  by_cases h : d = c
  · subst d; rw [State.core_updCore]; exact hf _
  · rw [State.core_updCore_other _ _ _ _ h]

theorem queuesOnly_emit (s : State) (e : Ev) : QueuesOnly s (s.emit e) := ⟨rfl, fun _ => rfl⟩

theorem queuesOnly_leaveQueues (s : State) (c x : Nat) : QueuesOnly s (s.leaveQueues c x) := by
  refine ⟨rfl, fun d => ?_⟩
  by_cases h : d = c
  · subst d; simp [State.leaveQueues]
  · simp [State.leaveQueues, State.core_setCore_other _ _ _ _ h]

theorem queuesOnly_queueChanged (s : State) (c q : Nat) : QueuesOnly s (s.queueChanged c q) := by
  unfold State.queueChanged
  simp only
  split
  · exact queuesOnly_emit _ _
  · split
    · exact (queuesOnly_emit _ _).trans (queuesOnly_emit _ _)
    · exact queuesOnly_emit _ _

theorem queuesOnly_readSrc (h : Hd) (s : State) (x : Option Opd) : QueuesOnly s (readSrc h s x).2.2 := by
  unfold readSrc
  split
  · exact .refl _
  · exact .refl _
  · split
    · split
      · exact (queuesOnly_updCore _ _ _ (fun _ => rfl)).trans (queuesOnly_queueChanged _ _ _)
      · exact .refl _
    · exact .refl _
  · exact .refl _

theorem queuesOnly_newId (s : State) : QueuesOnly s s.newId.2 := ⟨rfl, fun _ => rfl⟩

/-- Taking the operands changes nothing but queues. -/
theorem queuesOnly_takeOperands (h : Hd) (o : Roles) (s : State) : QueuesOnly s (takeOperands h o s).2 := by
  have h1 := queuesOnly_readSrc h s o.a
  have h2 := h1.trans (queuesOnly_readSrc h _ o.b)
  have h3 := h2.trans (queuesOnly_readSrc h _ o.ds)
  have h4 := h3.trans (queuesOnly_leaveQueues _ (readSrc h (readSrc h (readSrc h s o.a).2.2 o.b).2.2 o.ds).2.2.me
    (readSrc h (readSrc h (readSrc h s o.a).2.2 o.b).2.2 o.ds).2.2.mx)
  unfold takeOperands
  simp only
  split
  · refine (h4.trans (queuesOnly_newId _)).trans ?_
    dsimp only
    exact queuesOnly_updCore _ _ _ (fun _ => rfl)
  · exact h4

/-- The state in which an instruction acts: the context as it was but for the values it holds. -/
theorem operands_cx (f : Frame) (s : State) : (f.operands s).2.cx = { s.cx with latch := (f.operands s).2.cx.latch } := by
  unfold Frame.operands
  split
  · rfl
  · simp [(queuesOnly_takeOperands f.h f.roles s).cx]

theorem operands_cur (f : Frame) (s : State) : (f.operands s).2.cur = s.cur := by
  unfold Frame.operands
  split
  · rfl
  · simp [(queuesOnly_takeOperands f.h f.roles s).cur]

theorem operands_sameCube (f : Frame) (s : State) : SameCube s (f.operands s).2 := by
  unfold Frame.operands
  split
  · rfl
  · have h := (queuesOnly_takeOperands f.h f.roles s).1
    unfold SameCube at *
    simp only [State.updCx, State.setCx, State.setCtx, State.setCore]
    rw [h]

/-- The operand values are kept with the instruction. -/
theorem operands_latch (f : Frame) (s : State) : ∃ l, (f.operands s).2.cx.latch = some l ∧
    (f.operands s).1 = ⟨l.a, l.b, l.d⟩ := by
  unfold Frame.operands
  split
  · rename_i l h; exact ⟨l, h, rfl⟩
  · exact ⟨_, by simp, rfl⟩

/-- An instruction whose frame lets it run acts on its operands' values. -/
theorem issue_runs {i : Instr} {f : Frame} {s : State} {body : Vals → State → State}
    (hr : f.reserved s = none) (hp : f.holds s) (hm : f.priv s.cx = false) (hl : f.offDie s = none)
    (hq : s.cx.latch = none → f.roles.lacks s = none) :
    issue i f.h f.roles (f.bad s.cx) f.priv body s = .next (body (f.operands s).1 (f.operands s).2) := by
  unfold issue Frame.operands
  unfold Frame.reserved at hr
  unfold Frame.holds at hp
  unfold Frame.offDie at hl
  simp only [hr, hl, hm]
  rw [if_neg (by simpa using hp)]
  simp only [Bool.false_eq_true, if_false]
  cases hL : s.cx.latch with
  | some l => rfl
  | none => simp only [hq hL]

/-- An instruction of a given frame that runs is its body on its operands. -/
theorem runs_issue {i : Instr} {s : State} {v : Vals} {s1 : State} (h : Runs i s v s1) {f : Frame}
    (hf : frameOf i = some f) (body : Vals → State → State) :
    issue i f.h f.roles (f.bad s.cx) f.priv body s = .next (body v s1) := by
  obtain ⟨g, hg, _, hr, hp, hm, hl, hq, ho⟩ := h
  rw [hf] at hg
  cases hg
  rw [issue_runs hr hp hm hl hq, ho]

/-- An instruction that runs does what its meaning gives to its frame as a body; `hb` holds by unfolding the meaning. -/
theorem Runs.next {i : Instr} {s : State} {v : Vals} {s1 : State} (h : Runs i s v s1) {f : Frame}
    (hf : frameOf i = some f) {body : Vals → State → State}
    (hb : exec i s = issue i f.h f.roles (f.bad s.cx) f.priv body s) : exec i s = .next (body v s1) :=
  hb.trans (runs_issue h hf body)

theorem Runs.cx {i : Instr} {s : State} {v : Vals} {s1 : State} (h : Runs i s v s1) :
    s1.cx = { s.cx with latch := s1.cx.latch } := by
  obtain ⟨g, _, _, _, _, _, _, _, ho⟩ := h
  have := operands_cx g s; rw [ho] at this; exact this

theorem Runs.cur {i : Instr} {s : State} {v : Vals} {s1 : State} (h : Runs i s v s1) : s1.cur = s.cur := by
  obtain ⟨g, _, _, _, _, _, _, _, ho⟩ := h
  have := operands_cur g s; rw [ho] at this; exact this

theorem Runs.sameCube {i : Instr} {s : State} {v : Vals} {s1 : State} (h : Runs i s v s1) : SameCube s s1 := by
  obtain ⟨g, _, _, _, _, _, _, _, ho⟩ := h
  have := operands_sameCube g s; rw [ho] at this; exact this

/-! The result. -/

theorem queuesOnly_writeD_queue (s : State) (c x : Nat) (d : Opd) (r : Option Nat) (v : Word) (h : ∀ k, d ≠ .g k) :
    QueuesOnly s (s.writeD c x d r v) := by
  unfold State.writeD
  split
  · exact absurd rfl (h _)
  all_goals first
    | exact .refl _
    | (split
       · exact (queuesOnly_updCore _ _ _ (fun _ => rfl)).trans (queuesOnly_queueChanged _ _ _)
       · exact .refl _)

theorem writeD_cur (s : State) (c x : Nat) (d : Opd) (r : Option Nat) (v : Word) : (s.writeD c x d r v).cur = s.cur := by
  by_cases h : ∃ k, d = .g k
  · obtain ⟨k, rfl⟩ := h; rfl
  · exact (queuesOnly_writeD_queue s c x d r v (fun k e => h ⟨k, e⟩)).cur

/-- A context with a result in register D, if D is one. -/
def Ctx.putD (t : Ctx) (d : Opd) (v : Word) : Ctx :=
  match d with
  | .g k => t.setG k.toNat v
  | _ => t

/-- The context after a result is written: register D, if D is one, holds it. -/
theorem writeD_cx (s : State) (d : Opd) (r : Option Nat) (v : Word) :
    (s.writeD s.me s.mx d r v).cx = s.cx.putD d v := by
  by_cases h : ∃ k, d = .g k
  · obtain ⟨k, rfl⟩ := h
    show (s.updCx fun t => t.setG k.toNat v).cx = s.cx.setG k.toNat v
    simp
  · rw [(queuesOnly_writeD_queue s s.me s.mx d r v (fun k e => h ⟨k, e⟩)).cx]
    cases d with
    | g k => exact absurd ⟨k, rfl⟩ h
    | _ => rfl

/-! Instructions that retire with a value. -/

theorem writeD_other (s : State) (c x d' y : Nat) (d : Opd) (r : Option Nat) (v : Word) (h : (d', y) ≠ (c, x)) :
    (s.writeD c x d r v).ctx d' y = s.ctx d' y := by
  by_cases hk : ∃ k, d = .g k
  · obtain ⟨k, rfl⟩ := hk; exact State.ctx_updCtx_other _ _ _ _ _ _ h
  · exact (queuesOnly_writeD_queue s c x d r v (fun k e => hk ⟨k, e⟩)).ctx d' y

theorem updCx_eq (s : State) (f : Ctx → Ctx) : s.updCx f = s.updCtx s.cur.1 s.cur.2 f := rfl

theorem updCx_other (s : State) (f : Ctx → Ctx) (c y : Nat) (h : (c, y) ≠ s.cur) : (s.updCx f).ctx c y = s.ctx c y :=
  State.ctx_updCtx_other s s.cur.1 s.cur.2 c y f h

theorem retire_other (s : State) (n c y : Nat) (h : (c, y) ≠ s.cur) : (s.retire n).ctx c y = s.ctx c y :=
  updCx_other s _ c y h

theorem retire_cur (s : State) (n : Nat) : (s.retire n).cur = s.cur := rfl

/-- The parts of the state that a context update keeps. -/
theorem sameCore_updCtx (s : State) (c x d : Nat) (f : Ctx → Ctx) : SameCore (s.core d) ((s.updCtx c x f).core d) := by
  by_cases h : d = c
  · subst d; simp [State.updCtx, SameCore, Core.setCtx]
  · rw [State.updCtx, State.core_setCtx_other _ _ _ _ _ h]; rfl

theorem sameCore_updCx (s : State) (d : Nat) (f : Ctx → Ctx) : SameCore (s.core d) ((s.updCx f).core d) :=
  sameCore_updCtx s s.cur.1 s.cur.2 d f

theorem SameCore.trans {a b c : Core} (h1 : SameCore a b) (h2 : SameCore b c) : SameCore a c := by
  unfold SameCore at *; rw [h2, h1]

theorem SameCube.trans {a b c : State} (h1 : SameCube a b) (h2 : SameCube b c) : SameCube a c := by
  unfold SameCube at *; rw [h2, h1]

theorem QueuesOnly.sameCore {s t : State} (h : QueuesOnly s t) (c : Nat) : SameCore (s.core c) (t.core c) := by
  have := h.2 c; unfold SameCore; rw [this]

theorem sameCube_updCtx (s : State) (c x : Nat) (f : Ctx → Ctx) : SameCube s (s.updCtx c x f) := rfl
theorem sameCube_retire (s : State) (n : Nat) : SameCube s (s.retire n) := rfl

theorem sameCore_writeD (s : State) (c x : Nat) (d : Opd) (r : Option Nat) (v : Word) (e : Nat) :
    SameCore (s.core e) ((s.writeD c x d r v).core e) := by
  by_cases hk : ∃ k, d = .g k
  · obtain ⟨k, rfl⟩ := hk; exact sameCore_updCtx _ _ _ _ _
  · exact (queuesOnly_writeD_queue s c x d r v (fun k e => hk ⟨k, e⟩)).sameCore e

theorem sameCube_writeD (s : State) (c x : Nat) (d : Opd) (r : Option Nat) (v : Word) :
    SameCube s (s.writeD c x d r v) := by
  by_cases hk : ∃ k, d = .g k
  · obtain ⟨k, rfl⟩ := hk; rfl
  · exact (queuesOnly_writeD_queue s c x d r v (fun k e => hk ⟨k, e⟩)).1

theorem operands_sameCore (f : Frame) (s : State) (c : Nat) : SameCore (s.core c) ((f.operands s).2.core c) := by
  unfold Frame.operands
  split
  · rfl
  · exact ((queuesOnly_takeOperands f.h f.roles s).sameCore c).trans (sameCore_updCx _ _ _)

theorem operands_other (f : Frame) (s : State) (c y : Nat) (h : (c, y) ≠ s.cur) :
    (f.operands s).2.ctx c y = s.ctx c y := by
  unfold Frame.operands
  split
  · rfl
  · have hq := queuesOnly_takeOperands f.h f.roles s
    rw [← hq.ctx c y]
    exact updCx_other _ _ _ _ (by rw [hq.cur]; exact h)

theorem Runs.sameCore {i : Instr} {s : State} {v : Vals} {s1 : State} (h : Runs i s v s1) (c : Nat) :
    SameCore (s.core c) (s1.core c) := by
  obtain ⟨g, _, _, _, _, _, _, _, ho⟩ := h
  have := operands_sameCore g s c; rw [ho] at this; exact this

theorem Runs.other {i : Instr} {s : State} {v : Vals} {s1 : State} (h : Runs i s v s1) (c y : Nat) (hy : (c, y) ≠ s.cur) :
    s1.ctx c y = s.ctx c y := by
  obtain ⟨g, _, _, _, _, _, _, _, ho⟩ := h
  have := operands_other g s c y hy; rw [ho] at this; exact this

theorem core_queue_updCtx (s : State) (c x d q : Nat) (f : Ctx → Ctx) :
    ((s.updCtx c x f).core d).queue q = (s.core d).queue q := by
  by_cases h : d = c
  · subst d; simp [State.updCtx, Core.queue, Core.setCtx]
  · rw [State.updCtx, State.core_setCtx_other _ _ _ _ _ h]

theorem core_queueChanged (s : State) (c q d : Nat) : (s.queueChanged c q).core d = s.core d := by
  unfold State.queueChanged; simp only; split
  · rfl
  · split <;> rfl

/-- A result is written and the thread goes on elsewhere: its frame. -/
theorem writeD_writtenAt {i : Instr} {s : State} {v : Vals} {s1 : State} (h : Runs i s v s1) (d : Opd) (x : Word)
    (r : Option Nat) (hr : d.isQueue = true → r = s1.cx.latch.bind fun l => l.rid) (f : Ctx → Ctx)
    (hf : ∀ t, SameCtx t (f t) ∧ (f t).g = t.g) :
    WrittenAt (f (s1.cx.putD d x)).pc d x s s1
      ((s1.writeD s1.me s1.mx d r x).updCx f) := by
  obtain ⟨l, hcx⟩ : ∃ l, s1.cx = { s.cx with latch := l } := ⟨_, h.cx⟩
  have hcur := h.cur
  have hme : s1.me = s.me := by unfold State.me; rw [hcur]
  have hw : (s1.writeD s1.me s1.mx d r x).cx = _ := writeD_cx s1 d r x
  have hwc : (s1.writeD s1.me s1.mx d r x).cur = s1.cur := writeD_cur _ _ _ _ _ _
  refine ⟨?_, fun k => ?_, fun c q nm rid hd hrid => ?_, ?_, fun c y hy => ?_, fun c => ?_, ?_⟩
  · rw [State.cx_updCx, hw]
  · rw [State.cx_updCx, hw]
    unfold Ctx.getG
    rw [(hf _).2]
    cases d with
    | g k' =>
      show (s1.cx.setG k'.toNat x).getG k.toNat = _
      by_cases hk : k = k'
      · subst k; simp
      · rw [Ctx.getG_setG_other _ _ _ _ (fun e => hk (BitVec.eq_of_toNat_eq e))]
        rw [if_neg (by intro e; cases e; exact hk rfl), hcx]; rfl
    | _ => simp [hcx, Ctx.putD]
  · have hq : d.isQueue = true := by
      cases d <;> simp [dstQueue] at hd <;> rfl
    rw [← hr hq] at hrid
    subst hrid
    rw [← hme] at hd
    rw [updCx_eq, core_queue_updCtx]
    unfold State.writeD
    cases d <;> simp only [dstQueue, reduceCtorEq, Option.map] at hd ⊢
    · cases hd
      simp [core_queueChanged]
    · split at hd <;> simp_all [core_queueChanged]
  · rw [State.cx_updCx, hw]
    have h1 := (hf (s1.cx.putD d x)).1
    unfold SameCtx at *
    rw [h1]
    cases d <;> simp [hcx, Ctx.setG, Ctx.putD]
  · rw [updCx_other _ _ _ _ (by rw [hwc, hcur]; exact hy)]
    rw [writeD_other _ _ _ _ _ _ _ _ (by
      intro e; apply hy; rw [e, ← hcur]; rfl)]
    exact h.other c y hy
  · exact ((h.sameCore c).trans (sameCore_writeD _ _ _ _ _ _ _)).trans (sameCore_updCx _ _ _)
  · exact (h.sameCube.trans (sameCube_writeD _ _ _ _ _ _)).trans rfl

/-- `finish` writes the result and retires: its frame. -/
theorem finish_resultWritten {i : Instr} {s : State} {v : Vals} {s1 : State} (h : Runs i s v s1) (j : Instr) (d : Opd)
    (x : Word) : ResultWritten j d x s s1 (s1.finish j d x) := by
  have := writeD_writtenAt h d x (s1.cx.latch.bind fun l => l.rid) (fun _ => rfl)
    (fun t => { t with pc := t.pc + BitVec.ofNat 64 j.bytes, latch := none, got := [], wait := .none, waitAt := 0,
                       cw := none, noticed := none, migrations := 0, pend := none })
    (fun t => ⟨rfl, rfl⟩)
  unfold ResultWritten
  have hp : s.cx.pc = s1.cx.pc := by rw [h.cx]
  rw [hp]
  unfold State.finish State.retire
  refine (congrArg (fun p => WrittenAt p d x s s1 _) ?_).mp this
  cases d <;> rfl

end Sys2Proof.Machine
end

