-- ==== Sys2Proof/Laws/Frames.lean ====
section
/-! SUPPORT. Every instruction issues in its frame: its meaning is `issue` of a body that sees only the operand values. -/

namespace Sys2Proof.Machine

/-- The instruction, when no operand makes it illegal, is `issue`, in the frame, of a body that sees only the operand values. -/
def IssuesIn (i : Instr) (f : Frame) : Prop :=
  ∃ body : Vals → State → State, ∀ s, f.ill s = false → exec i s = issue i f.h f.roles (f.bad s.cx) f.priv body s

theorem execAdd_issue (h : Hd) (d : Opd) (a : Opd) (b : Opd) :
    IssuesIn (.add h d a b)
      { h := h, roles := { a := some a, b := some b, d := some d } } :=
  ⟨_, fun s _ => by show execAdd h d a b s = _; unfold execAdd compute; rfl⟩
theorem execSub_issue (h : Hd) (d : Opd) (a : Opd) (b : Opd) :
    IssuesIn (.sub h d a b)
      { h := h, roles := { a := some a, b := some b, d := some d } } :=
  ⟨_, fun s _ => by show execSub h d a b s = _; unfold execSub compute; rfl⟩
theorem execMul_issue (h : Hd) (d : Opd) (a : Opd) (b : Opd) :
    IssuesIn (.mul h d a b)
      { h := h, roles := { a := some a, b := some b, d := some d } } :=
  ⟨_, fun s _ => by show execMul h d a b s = _; unfold execMul compute; rfl⟩
theorem execMulhI64_issue (h : Hd) (d : Opd) (a : Opd) (b : Opd) :
    IssuesIn (.mulhI64 h d a b)
      { h := h, roles := { a := some a, b := some b, d := some d } } :=
  ⟨_, fun s _ => by show execMulhI64 h d a b s = _; unfold execMulhI64 compute; rfl⟩
theorem execMulhN64_issue (h : Hd) (d : Opd) (a : Opd) (b : Opd) :
    IssuesIn (.mulhN64 h d a b)
      { h := h, roles := { a := some a, b := some b, d := some d } } :=
  ⟨_, fun s _ => by show execMulhN64 h d a b s = _; unfold execMulhN64 compute; rfl⟩
theorem execDivI64_issue (h : Hd) (d : Opd) (a : Opd) (b : Opd) :
    IssuesIn (.divI64 h d a b)
      { h := h, roles := { a := some a, b := some b, d := some d } } :=
  ⟨_, fun s _ => by show execDivI64 h d a b s = _; unfold execDivI64 compute; rfl⟩
theorem execDivN64_issue (h : Hd) (d : Opd) (a : Opd) (b : Opd) :
    IssuesIn (.divN64 h d a b)
      { h := h, roles := { a := some a, b := some b, d := some d } } :=
  ⟨_, fun s _ => by show execDivN64 h d a b s = _; unfold execDivN64 compute; rfl⟩
theorem execRemI64_issue (h : Hd) (d : Opd) (a : Opd) (b : Opd) :
    IssuesIn (.remI64 h d a b)
      { h := h, roles := { a := some a, b := some b, d := some d } } :=
  ⟨_, fun s _ => by show execRemI64 h d a b s = _; unfold execRemI64 compute; rfl⟩
theorem execRemN64_issue (h : Hd) (d : Opd) (a : Opd) (b : Opd) :
    IssuesIn (.remN64 h d a b)
      { h := h, roles := { a := some a, b := some b, d := some d } } :=
  ⟨_, fun s _ => by show execRemN64 h d a b s = _; unfold execRemN64 compute; rfl⟩
theorem execMinI64_issue (h : Hd) (d : Opd) (a : Opd) (b : Opd) :
    IssuesIn (.minI64 h d a b)
      { h := h, roles := { a := some a, b := some b, d := some d } } :=
  ⟨_, fun s _ => by show execMinI64 h d a b s = _; unfold execMinI64 compute; rfl⟩
theorem execMinN64_issue (h : Hd) (d : Opd) (a : Opd) (b : Opd) :
    IssuesIn (.minN64 h d a b)
      { h := h, roles := { a := some a, b := some b, d := some d } } :=
  ⟨_, fun s _ => by show execMinN64 h d a b s = _; unfold execMinN64 compute; rfl⟩
theorem execMaxI64_issue (h : Hd) (d : Opd) (a : Opd) (b : Opd) :
    IssuesIn (.maxI64 h d a b)
      { h := h, roles := { a := some a, b := some b, d := some d } } :=
  ⟨_, fun s _ => by show execMaxI64 h d a b s = _; unfold execMaxI64 compute; rfl⟩
theorem execMaxN64_issue (h : Hd) (d : Opd) (a : Opd) (b : Opd) :
    IssuesIn (.maxN64 h d a b)
      { h := h, roles := { a := some a, b := some b, d := some d } } :=
  ⟨_, fun s _ => by show execMaxN64 h d a b s = _; unfold execMaxN64 compute; rfl⟩
theorem execAddsX1_issue (h : Hd) (d : Opd) (a : Opd) (b : Opd) :
    IssuesIn (.addsX1 h d a b)
      { h := h, roles := { a := some a, b := some b, d := some d } } :=
  ⟨_, fun s _ => by show execAddsX1 h d a b s = _; unfold execAddsX1 compute; rfl⟩
theorem execAddsX2_issue (h : Hd) (d : Opd) (a : Opd) (b : Opd) :
    IssuesIn (.addsX2 h d a b)
      { h := h, roles := { a := some a, b := some b, d := some d } } :=
  ⟨_, fun s _ => by show execAddsX2 h d a b s = _; unfold execAddsX2 compute; rfl⟩
theorem execAddsX4_issue (h : Hd) (d : Opd) (a : Opd) (b : Opd) :
    IssuesIn (.addsX4 h d a b)
      { h := h, roles := { a := some a, b := some b, d := some d } } :=
  ⟨_, fun s _ => by show execAddsX4 h d a b s = _; unfold execAddsX4 compute; rfl⟩
theorem execAddsX8_issue (h : Hd) (d : Opd) (a : Opd) (b : Opd) :
    IssuesIn (.addsX8 h d a b)
      { h := h, roles := { a := some a, b := some b, d := some d } } :=
  ⟨_, fun s _ => by show execAddsX8 h d a b s = _; unfold execAddsX8 compute; rfl⟩
theorem execAdd32_issue (h : Hd) (e : Bool) (d : Opd) (a : Opd) (b : Opd) :
    IssuesIn (.add32 h e d a b)
      { h := h, roles := { a := some a, b := some b, d := some d } } :=
  ⟨_, fun s _ => by show execAdd32 h e d a b s = _; unfold execAdd32 compute; rfl⟩
theorem execSub32_issue (h : Hd) (e : Bool) (d : Opd) (a : Opd) (b : Opd) :
    IssuesIn (.sub32 h e d a b)
      { h := h, roles := { a := some a, b := some b, d := some d } } :=
  ⟨_, fun s _ => by show execSub32 h e d a b s = _; unfold execSub32 compute; rfl⟩
theorem execMul32_issue (h : Hd) (e : Bool) (d : Opd) (a : Opd) (b : Opd) :
    IssuesIn (.mul32 h e d a b)
      { h := h, roles := { a := some a, b := some b, d := some d } } :=
  ⟨_, fun s _ => by show execMul32 h e d a b s = _; unfold execMul32 compute; rfl⟩
theorem execMulhI32_issue (h : Hd) (d : Opd) (a : Opd) (b : Opd) :
    IssuesIn (.mulhI32 h d a b)
      { h := h, roles := { a := some a, b := some b, d := some d } } :=
  ⟨_, fun s _ => by show execMulhI32 h d a b s = _; unfold execMulhI32 compute; rfl⟩
theorem execMulhN32_issue (h : Hd) (d : Opd) (a : Opd) (b : Opd) :
    IssuesIn (.mulhN32 h d a b)
      { h := h, roles := { a := some a, b := some b, d := some d } } :=
  ⟨_, fun s _ => by show execMulhN32 h d a b s = _; unfold execMulhN32 compute; rfl⟩
theorem execDivI32_issue (h : Hd) (d : Opd) (a : Opd) (b : Opd) :
    IssuesIn (.divI32 h d a b)
      { h := h, roles := { a := some a, b := some b, d := some d } } :=
  ⟨_, fun s _ => by show execDivI32 h d a b s = _; unfold execDivI32 compute; rfl⟩
theorem execDivN32_issue (h : Hd) (d : Opd) (a : Opd) (b : Opd) :
    IssuesIn (.divN32 h d a b)
      { h := h, roles := { a := some a, b := some b, d := some d } } :=
  ⟨_, fun s _ => by show execDivN32 h d a b s = _; unfold execDivN32 compute; rfl⟩
theorem execRemI32_issue (h : Hd) (d : Opd) (a : Opd) (b : Opd) :
    IssuesIn (.remI32 h d a b)
      { h := h, roles := { a := some a, b := some b, d := some d } } :=
  ⟨_, fun s _ => by show execRemI32 h d a b s = _; unfold execRemI32 compute; rfl⟩
theorem execRemN32_issue (h : Hd) (d : Opd) (a : Opd) (b : Opd) :
    IssuesIn (.remN32 h d a b)
      { h := h, roles := { a := some a, b := some b, d := some d } } :=
  ⟨_, fun s _ => by show execRemN32 h d a b s = _; unfold execRemN32 compute; rfl⟩
theorem execMinI32_issue (h : Hd) (d : Opd) (a : Opd) (b : Opd) :
    IssuesIn (.minI32 h d a b)
      { h := h, roles := { a := some a, b := some b, d := some d } } :=
  ⟨_, fun s _ => by show execMinI32 h d a b s = _; unfold execMinI32 compute; rfl⟩
theorem execMinN32_issue (h : Hd) (d : Opd) (a : Opd) (b : Opd) :
    IssuesIn (.minN32 h d a b)
      { h := h, roles := { a := some a, b := some b, d := some d } } :=
  ⟨_, fun s _ => by show execMinN32 h d a b s = _; unfold execMinN32 compute; rfl⟩
theorem execMaxI32_issue (h : Hd) (d : Opd) (a : Opd) (b : Opd) :
    IssuesIn (.maxI32 h d a b)
      { h := h, roles := { a := some a, b := some b, d := some d } } :=
  ⟨_, fun s _ => by show execMaxI32 h d a b s = _; unfold execMaxI32 compute; rfl⟩
theorem execMaxN32_issue (h : Hd) (d : Opd) (a : Opd) (b : Opd) :
    IssuesIn (.maxN32 h d a b)
      { h := h, roles := { a := some a, b := some b, d := some d } } :=
  ⟨_, fun s _ => by show execMaxN32 h d a b s = _; unfold execMaxN32 compute; rfl⟩
theorem execAnd_issue (h : Hd) (d : Opd) (a : Opd) (b : Opd) :
    IssuesIn (.and h d a b)
      { h := h, roles := { a := some a, b := some b, d := some d } } :=
  ⟨_, fun s _ => by show execAnd h d a b s = _; unfold execAnd compute; rfl⟩
theorem execOr_issue (h : Hd) (d : Opd) (a : Opd) (b : Opd) :
    IssuesIn (.or h d a b)
      { h := h, roles := { a := some a, b := some b, d := some d } } :=
  ⟨_, fun s _ => by show execOr h d a b s = _; unfold execOr compute; rfl⟩
theorem execXor_issue (h : Hd) (d : Opd) (a : Opd) (b : Opd) :
    IssuesIn (.xor h d a b)
      { h := h, roles := { a := some a, b := some b, d := some d } } :=
  ⟨_, fun s _ => by show execXor h d a b s = _; unfold execXor compute; rfl⟩
theorem execAndn_issue (h : Hd) (d : Opd) (a : Opd) (b : Opd) :
    IssuesIn (.andn h d a b)
      { h := h, roles := { a := some a, b := some b, d := some d } } :=
  ⟨_, fun s _ => by show execAndn h d a b s = _; unfold execAndn compute; rfl⟩
theorem execShl_issue (h : Hd) (d : Opd) (a : Opd) (b : Opd) :
    IssuesIn (.shl h d a b)
      { h := h, roles := { a := some a, b := some b, d := some d } } :=
  ⟨_, fun s _ => by show execShl h d a b s = _; unfold execShl compute; rfl⟩
theorem execShr_issue (h : Hd) (d : Opd) (a : Opd) (b : Opd) :
    IssuesIn (.shr h d a b)
      { h := h, roles := { a := some a, b := some b, d := some d } } :=
  ⟨_, fun s _ => by show execShr h d a b s = _; unfold execShr compute; rfl⟩
theorem execSha_issue (h : Hd) (d : Opd) (a : Opd) (b : Opd) :
    IssuesIn (.sha h d a b)
      { h := h, roles := { a := some a, b := some b, d := some d } } :=
  ⟨_, fun s _ => by show execSha h d a b s = _; unfold execSha compute; rfl⟩
theorem execRol_issue (h : Hd) (d : Opd) (a : Opd) (b : Opd) :
    IssuesIn (.rol h d a b)
      { h := h, roles := { a := some a, b := some b, d := some d } } :=
  ⟨_, fun s _ => by show execRol h d a b s = _; unfold execRol compute; rfl⟩
theorem execClz_issue (h : Hd) (d : Opd) (a : Opd) :
    IssuesIn (.clz h d a)
      { h := h, roles := { a := some a, b := none, d := some d } } :=
  ⟨_, fun s _ => by show execClz h d a s = _; unfold execClz compute; rfl⟩
theorem execCtz_issue (h : Hd) (d : Opd) (a : Opd) :
    IssuesIn (.ctz h d a)
      { h := h, roles := { a := some a, b := none, d := some d } } :=
  ⟨_, fun s _ => by show execCtz h d a s = _; unfold execCtz compute; rfl⟩
theorem execPopc_issue (h : Hd) (d : Opd) (a : Opd) :
    IssuesIn (.popc h d a)
      { h := h, roles := { a := some a, b := none, d := some d } } :=
  ⟨_, fun s _ => by show execPopc h d a s = _; unfold execPopc compute; rfl⟩
theorem execMov_issue (h : Hd) (d : Opd) (a : Opd) :
    IssuesIn (.mov h d a)
      { h := h, roles := { a := some a, b := none, d := some d } } :=
  ⟨_, fun s _ => by show execMov h d a s = _; unfold execMov compute; rfl⟩
theorem execBfx_issue (h : Hd) (d : Opd) (a : Opd) (b : Opd) :
    IssuesIn (.bfx h d a b)
      { h := h, roles := { a := some a, b := some b, d := some d } } :=
  ⟨_, fun s _ => by show execBfx h d a b s = _; unfold execBfx compute; rfl⟩
theorem execBfi_issue (h : Hd) (d : Opd) (a : Opd) (b : Opd) :
    IssuesIn (.bfi h d a b)
      { h := h, roles := { a := some a, b := some b, ds := some d }, bad := fun _ => needG d } :=
  ⟨_, fun s _ => by show execBfi h d a b s = _; unfold execBfi; rfl⟩
theorem execSextI8_issue (h : Hd) (d : Opd) (a : Opd) :
    IssuesIn (.sextI8 h d a)
      { h := h, roles := { a := some a, b := none, d := some d } } :=
  ⟨_, fun s _ => by show execSextI8 h d a s = _; unfold execSextI8 compute; rfl⟩
theorem execSextI16_issue (h : Hd) (d : Opd) (a : Opd) :
    IssuesIn (.sextI16 h d a)
      { h := h, roles := { a := some a, b := none, d := some d } } :=
  ⟨_, fun s _ => by show execSextI16 h d a s = _; unfold execSextI16 compute; rfl⟩
theorem execSextI32_issue (h : Hd) (d : Opd) (a : Opd) :
    IssuesIn (.sextI32 h d a)
      { h := h, roles := { a := some a, b := none, d := some d } } :=
  ⟨_, fun s _ => by show execSextI32 h d a s = _; unfold execSextI32 compute; rfl⟩
theorem execZextN8_issue (h : Hd) (d : Opd) (a : Opd) :
    IssuesIn (.zextN8 h d a)
      { h := h, roles := { a := some a, b := none, d := some d } } :=
  ⟨_, fun s _ => by show execZextN8 h d a s = _; unfold execZextN8 compute; rfl⟩
theorem execZextN16_issue (h : Hd) (d : Opd) (a : Opd) :
    IssuesIn (.zextN16 h d a)
      { h := h, roles := { a := some a, b := none, d := some d } } :=
  ⟨_, fun s _ => by show execZextN16 h d a s = _; unfold execZextN16 compute; rfl⟩
theorem execZextN32_issue (h : Hd) (d : Opd) (a : Opd) :
    IssuesIn (.zextN32 h d a)
      { h := h, roles := { a := some a, b := none, d := some d } } :=
  ⟨_, fun s _ => by show execZextN32 h d a s = _; unfold execZextN32 compute; rfl⟩
theorem execSel_issue (h : Hd) (c : BitVec 3) (d : Opd) (a : Opd) (b : Opd) :
    IssuesIn (.sel h c d a b)
      { h := h, roles := { a := some a, b := some b, d := some d } } :=
  ⟨_, fun s _ => by show execSel h c d a b s = _; unfold execSel; rfl⟩
theorem execAddImm_issue (h : Hd) (d : Opd) (a : Opd) (imm : BitVec 10) :
    IssuesIn (.addImm h d a imm)
      { h := h, roles := { a := some a, b := none, d := some d } } :=
  ⟨_, fun s _ => by show execAddImm h d a imm s = _; unfold execAddImm compute; rfl⟩
theorem execAndImm_issue (h : Hd) (d : Opd) (a : Opd) (imm : BitVec 10) :
    IssuesIn (.andImm h d a imm)
      { h := h, roles := { a := some a, b := none, d := some d } } :=
  ⟨_, fun s _ => by show execAndImm h d a imm s = _; unfold execAndImm compute; rfl⟩
theorem execOrImm_issue (h : Hd) (d : Opd) (a : Opd) (imm : BitVec 10) :
    IssuesIn (.orImm h d a imm)
      { h := h, roles := { a := some a, b := none, d := some d } } :=
  ⟨_, fun s _ => by show execOrImm h d a imm s = _; unfold execOrImm compute; rfl⟩
theorem execXorImm_issue (h : Hd) (d : Opd) (a : Opd) (imm : BitVec 10) :
    IssuesIn (.xorImm h d a imm)
      { h := h, roles := { a := some a, b := none, d := some d } } :=
  ⟨_, fun s _ => by show execXorImm h d a imm s = _; unfold execXorImm compute; rfl⟩
theorem execShlImm_issue (h : Hd) (d : Opd) (a : Opd) (imm : BitVec 6) :
    IssuesIn (.shlImm h d a imm)
      { h := h, roles := { a := some a, b := none, d := some d } } :=
  ⟨_, fun s _ => by show execShlImm h d a imm s = _; unfold execShlImm compute; rfl⟩
theorem execShrImm_issue (h : Hd) (d : Opd) (a : Opd) (imm : BitVec 6) :
    IssuesIn (.shrImm h d a imm)
      { h := h, roles := { a := some a, b := none, d := some d } } :=
  ⟨_, fun s _ => by show execShrImm h d a imm s = _; unfold execShrImm compute; rfl⟩
theorem execShaImm_issue (h : Hd) (d : Opd) (a : Opd) (imm : BitVec 6) :
    IssuesIn (.shaImm h d a imm)
      { h := h, roles := { a := some a, b := none, d := some d } } :=
  ⟨_, fun s _ => by show execShaImm h d a imm s = _; unfold execShaImm compute; rfl⟩
theorem execLi_issue (h : Hd) (d : Opd) (imm : BitVec 10) :
    IssuesIn (.li h d imm)
      { h := h, roles := { a := none, b := none, d := some d } } :=
  ⟨_, fun s _ => by show execLi h d imm s = _; unfold execLi compute; rfl⟩
theorem execCmpSigned_issue (h : Hd) (w : BitVec 2) (c : BitVec 3) (d : BitVec 3) (a : Opd) (b : Opd) :
    IssuesIn (.cmpSigned h w c d a b)
      { h := h, roles := { a := some a, b := some b } } :=
  ⟨_, fun s _ => by show execCmpSigned h w c d a b s = _; unfold execCmpSigned compare; rfl⟩
theorem execCmpUnsigned_issue (h : Hd) (w : BitVec 2) (c : BitVec 3) (d : BitVec 3) (a : Opd) (b : Opd) :
    IssuesIn (.cmpUnsigned h w c d a b)
      { h := h, roles := { a := some a, b := some b } } :=
  ⟨_, fun s _ => by show execCmpUnsigned h w c d a b s = _; unfold execCmpUnsigned compare; rfl⟩
theorem execCmpFloat_issue (h : Hd) (bf : Bool) (c : BitVec 3) (d : BitVec 3) (a : Opd) (b : Opd) :
    IssuesIn (.cmpFloat h bf c d a b)
      { h := h, roles := { a := some a, b := some b } } :=
  ⟨_, fun s _ => by show execCmpFloat h bf c d a b s = _; unfold execCmpFloat compare; rfl⟩
theorem execPand_issue (h : Hd) (d : BitVec 3) (a : BitVec 3) (b : BitVec 3) :
    IssuesIn (.pand h d a b)
      { h := h } :=
  ⟨_, fun s _ => by show execPand h d a b s = _; unfold execPand predLogic; rfl⟩
theorem execPor_issue (h : Hd) (d : BitVec 3) (a : BitVec 3) (b : BitVec 3) :
    IssuesIn (.por h d a b)
      { h := h } :=
  ⟨_, fun s _ => by show execPor h d a b s = _; unfold execPor predLogic; rfl⟩
theorem execPxor_issue (h : Hd) (d : BitVec 3) (a : BitVec 3) (b : BitVec 3) :
    IssuesIn (.pxor h d a b)
      { h := h } :=
  ⟨_, fun s _ => by show execPxor h d a b s = _; unfold execPxor predLogic; rfl⟩
theorem execPnot_issue (h : Hd) (d : BitVec 3) (a : BitVec 3) :
    IssuesIn (.pnot h d a)
      { h := h } :=
  ⟨_, fun s _ => by show execPnot h d a s = _; unfold execPnot predLogic; rfl⟩
theorem execBr_issue (h : Hd) (off : BitVec 20) :
    IssuesIn (.br h off)
      { h := h } :=
  ⟨_, fun s _ => by show execBr h off s = _; unfold execBr; rfl⟩
theorem execCallOffset_issue (h : Hd) (off : BitVec 20) :
    IssuesIn (.callOffset h off)
      { h := h } :=
  ⟨_, fun s _ => by show execCallOffset h off s = _; unfold execCallOffset; rfl⟩
theorem execLoop_issue (h : Hd) (d : Opd) (off : BitVec 15) :
    IssuesIn (.loop h d off)
      { h := h, roles := { ds := some d }, bad := fun _ => needG d } :=
  ⟨_, fun s _ => by show execLoop h d off s = _; unfold execLoop; rfl⟩
theorem execJmp_issue (h : Hd) (a : Opd) :
    IssuesIn (.jmp h a)
      { h := h, roles := { a := some a } } :=
  ⟨_, fun s _ => by show execJmp h a s = _; unfold execJmp; rfl⟩
theorem execCallReg_issue (h : Hd) (d : Opd) (a : Opd) :
    IssuesIn (.callReg h d a)
      { h := h, roles := { a := some a, d := some d } } :=
  ⟨_, fun s _ => by show execCallReg h d a s = _; unfold execCallReg; rfl⟩
theorem execRet_issue (h : Hd) (a : Opd) :
    IssuesIn (.ret h a)
      { h := h, roles := { a := some a } } :=
  ⟨_, fun s _ => by show execRet h a s = _; unfold execRet; rfl⟩
theorem execExit_issue (h : Hd) :
    IssuesIn (.exit h)
      { h := h } :=
  ⟨_, fun s _ => by show execExit h s = _; unfold execExit; rfl⟩
theorem execYield_issue (h : Hd) :
    IssuesIn (.yield h)
      { h := h } :=
  ⟨_, fun s _ => by show execYield h s = _; unfold execYield; rfl⟩
theorem execNop_issue (h : Hd) :
    IssuesIn (.nop h)
      { h := h } :=
  ⟨_, fun s _ => by show execNop h s = _; unfold execNop; rfl⟩
theorem execQtry_issue (h : Hd) (d : Opd) (a : Opd) (b : Opd) :
    IssuesIn (.qtry h d a b)
      { h := h, roles := { b := some b, d := some d }, bad := fun t => if t.roam then some a.code.toNat else none } :=
  ⟨_, fun s _ => by show execQtry h d a b s = _; unfold execQtry queueTest; rfl⟩
theorem execQcount_issue (h : Hd) (d : Opd) (a : Opd) :
    IssuesIn (.qcount h d a)
      { h := h, roles := { b := none, d := some d }, bad := fun t => if t.roam then some a.code.toNat else none } :=
  ⟨_, fun s _ => by show execQcount h d a s = _; unfold execQcount queueTest; rfl⟩
theorem execQpeek_issue (h : Hd) (d : Opd) (a : Opd) :
    IssuesIn (.qpeek h d a)
      { h := h, roles := { b := none, d := some d }, bad := fun t => if t.roam then some a.code.toNat else none } :=
  ⟨_, fun s _ => by show execQpeek h d a s = _; unfold execQpeek queueTest; rfl⟩
theorem execLd_issue (h : Hd) (w : BitVec 2) (sx : Bool) (pol : BitVec 2) (d : Opd) (a : Opd) (b : BitVec 5) (x : Option MemExt) :
    IssuesIn (.ld h w sx pol d a b x)
      { h := h, roles := { a := some a, d := some d } } :=
  ⟨_, fun s _ => by show execLd h w sx pol d a b x s = _; unfold execLd; rfl⟩
theorem execSt_issue (h : Hd) (w : BitVec 2) (pol : BitVec 2) (d : Opd) (a : Opd) (b : BitVec 5) (x : Option MemExt) :
    IssuesIn (.st h w pol d a b x)
      { h := h, roles := { a := some a, ds := some d } } :=
  ⟨_, fun s _ => by show execSt h w pol d a b x s = _; unfold execSt; rfl⟩
theorem execLdx_issue (h : Hd) (w : BitVec 2) (sx : Bool) (pol : BitVec 2) (d : Opd) (a : Opd) (b : Opd) (x : Option MemExt) :
    IssuesIn (.ldx h w sx pol d a b x)
      { h := h, roles := { a := some a, b := some b, d := some d } } :=
  ⟨_, fun s _ => by show execLdx h w sx pol d a b x s = _; unfold execLdx; rfl⟩
theorem execStx_issue (h : Hd) (w : BitVec 2) (pol : BitVec 2) (d : Opd) (a : Opd) (b : Opd) (x : Option MemExt) :
    IssuesIn (.stx h w pol d a b x)
      { h := h, roles := { a := some a, b := some b, ds := some d } } :=
  ⟨_, fun s _ => by show execStx h w pol d a b x s = _; unfold execStx; rfl⟩
theorem execAadd_issue (h : Hd) (form : BitVec 2) (d : Opd) (a : Opd) (b : Opd) (v : AOp) :
    IssuesIn (.aadd h form d a b v)
      { h := h, roles := atomRoles 0 form d a b, bad := fun _ => casReg 0 d } :=
  ⟨_, fun s _ => by show execAadd h form d a b v s = _; unfold execAadd atomic; rfl⟩
theorem execAmin_issue (h : Hd) (form : BitVec 2) (d : Opd) (a : Opd) (b : Opd) (v : AOp) :
    IssuesIn (.amin h form d a b v)
      { h := h, roles := atomRoles 1 form d a b, bad := fun _ => casReg 1 d } :=
  ⟨_, fun s _ => by show execAmin h form d a b v s = _; unfold execAmin atomic; rfl⟩
theorem execAmax_issue (h : Hd) (form : BitVec 2) (d : Opd) (a : Opd) (b : Opd) (v : AOp) :
    IssuesIn (.amax h form d a b v)
      { h := h, roles := atomRoles 2 form d a b, bad := fun _ => casReg 2 d } :=
  ⟨_, fun s _ => by show execAmax h form d a b v s = _; unfold execAmax atomic; rfl⟩
theorem execAand_issue (h : Hd) (form : BitVec 2) (d : Opd) (a : Opd) (b : Opd) (v : AOp) :
    IssuesIn (.aand h form d a b v)
      { h := h, roles := atomRoles 3 form d a b, bad := fun _ => casReg 3 d } :=
  ⟨_, fun s _ => by show execAand h form d a b v s = _; unfold execAand atomic; rfl⟩
theorem execAor_issue (h : Hd) (form : BitVec 2) (d : Opd) (a : Opd) (b : Opd) (v : AOp) :
    IssuesIn (.aor h form d a b v)
      { h := h, roles := atomRoles 4 form d a b, bad := fun _ => casReg 4 d } :=
  ⟨_, fun s _ => by show execAor h form d a b v s = _; unfold execAor atomic; rfl⟩
theorem execAxor_issue (h : Hd) (form : BitVec 2) (d : Opd) (a : Opd) (b : Opd) (v : AOp) :
    IssuesIn (.axor h form d a b v)
      { h := h, roles := atomRoles 5 form d a b, bad := fun _ => casReg 5 d } :=
  ⟨_, fun s _ => by show execAxor h form d a b v s = _; unfold execAxor atomic; rfl⟩
theorem execAswap_issue (h : Hd) (form : BitVec 2) (d : Opd) (a : Opd) (b : Opd) (v : AOp) :
    IssuesIn (.aswap h form d a b v)
      { h := h, roles := atomRoles 6 form d a b, bad := fun _ => casReg 6 d } :=
  ⟨_, fun s _ => by show execAswap h form d a b v s = _; unfold execAswap atomic; rfl⟩
theorem execAcas_issue (h : Hd) (form : BitVec 2) (d : Opd) (a : Opd) (b : Opd) (v : AOp) :
    IssuesIn (.acas h form d a b v)
      { h := h, roles := atomRoles 7 form d a b, bad := fun _ => casReg 7 d } :=
  ⟨_, fun s _ => by show execAcas h form d a b v s = _; unfold execAcas atomic; rfl⟩
theorem execCadd_issue (h : Hd) (scope : BitVec 2) (c : Ctr) (b : Opd) :
    IssuesIn (.cadd h scope c b)
      { h := h, roles := { b := some b } } :=
  ⟨_, fun s _ => by show execCadd h scope c b s = _; unfold execCadd counterInstr; rfl⟩
theorem execCfadd_issue (h : Hd) (scope : BitVec 2) (d : Opd) (c : Ctr) (b : Opd) :
    IssuesIn (.cfadd h scope d c b)
      { h := h, roles := { b := some b, d := some d } } :=
  ⟨_, fun s _ => by show execCfadd h scope d c b s = _; unfold execCfadd counterInstr; rfl⟩
theorem execCwait_issue (h : Hd) (scope : BitVec 2) (lim : BitVec 5) (c : Ctr) (b : Opd) (x : Option (BitVec 32)) :
    IssuesIn (.cwait h scope lim c b x)
      { h := h, roles := { b := some b } } :=
  ⟨_, fun s _ => by show execCwait h scope lim c b x s = _; unfold execCwait counterInstr; rfl⟩
theorem execCpoll_issue (h : Hd) (scope : BitVec 2) (d : BitVec 3) (c : Ctr) (b : Opd) :
    IssuesIn (.cpoll h scope d c b)
      { h := h, roles := { b := some b } } :=
  ⟨_, fun s _ => by show execCpoll h scope d c b s = _; unfold execCpoll counterInstr; rfl⟩
theorem execCread_issue (h : Hd) (scope : BitVec 2) (d : Opd) (c : Ctr) :
    IssuesIn (.cread h scope d c)
      { h := h, roles := { d := some d } } :=
  ⟨_, fun s _ => by show execCread h scope d c s = _; unfold execCread counterInstr; rfl⟩
theorem execFenceAcq_issue (h : Hd) (scope : BitVec 2) :
    IssuesIn (.fenceAcq h scope)
      { h := h } :=
  ⟨_, fun s _ => by show execFenceAcq h scope s = _; unfold execFenceAcq fence; rfl⟩
theorem execFenceRel_issue (h : Hd) (scope : BitVec 2) :
    IssuesIn (.fenceRel h scope)
      { h := h } :=
  ⟨_, fun s _ => by show execFenceRel h scope s = _; unfold execFenceRel fence; rfl⟩
theorem execFenceAr_issue (h : Hd) (scope : BitVec 2) :
    IssuesIn (.fenceAr h scope)
      { h := h } :=
  ⟨_, fun s _ => by show execFenceAr h scope s = _; unfold execFenceAr fence; rfl⟩
theorem execFenceSc_issue (h : Hd) (scope : BitVec 2) :
    IssuesIn (.fenceSc h scope)
      { h := h } :=
  ⟨_, fun s _ => by show execFenceSc h scope s = _; unfold execFenceSc fence; rfl⟩
theorem execClean_issue (h : Hd) (a : Opd) (b : Opd) :
    IssuesIn (.clean h a b)
      { h := h, roles := { a := some a, b := some b } } :=
  ⟨_, fun s _ => by show execClean h a b s = _; unfold execClean; rfl⟩
theorem execInval_issue (h : Hd) (a : Opd) (b : Opd) :
    IssuesIn (.inval h a b)
      { h := h, roles := { a := some a, b := some b } } :=
  ⟨_, fun s _ => by show execInval h a b s = _; unfold execInval; rfl⟩
theorem execFlush_issue (h : Hd) (a : Opd) (b : Opd) :
    IssuesIn (.flush h a b)
      { h := h, roles := { a := some a, b := some b } } :=
  ⟨_, fun s _ => by show execFlush h a b s = _; unfold execFlush; rfl⟩
theorem execPref_issue (h : Hd) (hint : BitVec 2) (a : Opd) (b : Opd) :
    IssuesIn (.pref h hint a b)
      { h := h, roles := { a := some a, b := some b } } :=
  ⟨_, fun s _ => by show execPref h hint a b s = _; unfold execPref; rfl⟩
theorem execOwnrel_issue (h : Hd) (a : Opd) (b : Opd) :
    IssuesIn (.ownrel h a b)
      { h := h, roles := { a := some a, b := some b } } :=
  ⟨_, fun s _ => by show execOwnrel h a b s = _; unfold execOwnrel; rfl⟩
theorem execSysrd_issue (h : Hd) (d : Opd) (na : BitVec 5) (nb : BitVec 5) :
    IssuesIn (.sysrd h d na nb)
      { h := h, roles := { d := some d }, priv := regPrivilege (regNum nb na) } :=
  ⟨_, fun s _ => by show execSysrd h d na nb s = _; unfold execSysrd; rfl⟩
theorem execSyswr_issue (h : Hd) (d : Opd) (na : BitVec 5) (nb : BitVec 5) :
    IssuesIn (.syswr h d na nb)
      { h := h, roles := { ds := some d }, priv := regPrivilege (regNum nb na) } :=
  ⟨_, fun s _ => by show execSyswr h d na nb s = _; unfold execSyswr; rfl⟩
theorem execSvc_issue (h : Hd) (a : Opd) :
    IssuesIn (.svc h a)
      { h := h, roles := { a := some a } } :=
  ⟨_, fun s _ => by show execSvc h a s = _; unfold execSvc; rfl⟩
theorem execBrk_issue (h : Hd) (a : Opd) :
    IssuesIn (.brk h a)
      { h := h, roles := { a := some a } } :=
  ⟨_, fun s _ => by show execBrk h a s = _; unfold execBrk; rfl⟩
theorem execEret_issue (h : Hd) :
    IssuesIn (.eret h)
      { h := h, priv := systemOnly } :=
  ⟨_, fun s _ => by show execEret h s = _; unfold execEret; rfl⟩
theorem execSuspendL_issue (h : Hd) (d : Opd) (a : Opd) :
    IssuesIn (.suspendL h d a)
      { h := h, roles := { a := some a, b := none, d := some d }, priv := systemOnly } :=
  ⟨_, fun s _ => by show execSuspendL h d a s = _; unfold execSuspendL suspendInstr; rfl⟩
theorem execSuspendF_issue (h : Hd) (d : Opd) (a : Opd) (b : Opd) :
    IssuesIn (.suspendF h d a b)
      { h := h, roles := { a := some a, b := some b, d := some d }, priv := systemOnly } :=
  ⟨_, fun s _ => by show execSuspendF h d a b s = _; unfold execSuspendF suspendInstr; rfl⟩
theorem execResume_issue (h : Hd) (d : Opd) (a : Opd) (b : Opd) :
    IssuesIn (.resume h d a b)
      { h := h, roles := { a := some a, b := some b, d := some d }, priv := systemOnly } :=
  ⟨_, fun s _ => by show execResume h d a b s = _; unfold execResume suspendInstr; rfl⟩
theorem execLeasewait_issue (h : Hd) (d : Opd) (a : Opd) :
    IssuesIn (.leasewait h d a)
      { h := h, roles := { a := some a, d := some d } } :=
  ⟨_, fun s _ => by show execLeasewait h d a s = _; unfold execLeasewait; rfl⟩
theorem execRdclk_issue (h : Hd) (d : Opd) :
    IssuesIn (.rdclk h d)
      { h := h, roles := { d := some d } } :=
  ⟨_, fun s _ => by show execRdclk h d s = _; unfold execRdclk; rfl⟩
theorem execIdent_issue (h : Hd) (d : Opd) (a : Opd) :
    IssuesIn (.ident h d a)
      { h := h, roles := { a := some a, d := some d } } :=
  ⟨_, fun s _ => by show execIdent h d a s = _; unfold execIdent; rfl⟩
theorem execIfence_issue (h : Hd) :
    IssuesIn (.ifence h)
      { h := h } :=
  ⟨_, fun s _ => by show execIfence h s = _; unfold execIfence; rfl⟩
theorem execFltDone_issue (h : Hd) (d : Opd) (a : Opd) (b : Opd) :
    IssuesIn (.fltDone h d a b)
      { h := h, roles := { a := some a, b := some b, d := some d }, priv := systemOnly } :=
  ⟨_, fun s _ => by show execFltDone h d a b s = _; unfold execFltDone; rfl⟩
theorem execPmove_issue (h : Hd) (d : Opd) (a : Opd) :
    IssuesIn (.pmove h d a)
      { h := h, roles := { a := some a, d := some d }, priv := systemOnly } :=
  ⟨_, fun s _ => by show execPmove h d a s = _; unfold execPmove; rfl⟩
theorem execPzero_issue (h : Hd) (d : Opd) (a : Opd) (b : Opd) :
    IssuesIn (.pzero h d a b)
      { h := h, roles := { a := some a, b := some b, d := some d }, priv := systemOnly } :=
  ⟨_, fun s _ => by show execPzero h d a b s = _; unfold execPzero; rfl⟩
theorem execVadd_issue (h : Hd) (a : Opd) (v : VOp) :
    IssuesIn (.vadd h a v)
      { h := h, roles := bsRoles a v } :=
  ⟨_, fun s _ => by show execVadd h a v s = _; unfold execVadd elementwise; rfl⟩
theorem execVsub_issue (h : Hd) (a : Opd) (v : VOp) :
    IssuesIn (.vsub h a v)
      { h := h, roles := bsRoles a v } :=
  ⟨_, fun s _ => by show execVsub h a v s = _; unfold execVsub elementwise; rfl⟩
theorem execVmul_issue (h : Hd) (a : Opd) (v : VOp) :
    IssuesIn (.vmul h a v)
      { h := h, roles := bsRoles a v } :=
  ⟨_, fun s _ => by show execVmul h a v s = _; unfold execVmul elementwise; rfl⟩
theorem execVmin_issue (h : Hd) (a : Opd) (v : VOp) :
    IssuesIn (.vmin h a v)
      { h := h, roles := bsRoles a v } :=
  ⟨_, fun s _ => by show execVmin h a v s = _; unfold execVmin elementwise; rfl⟩
theorem execVmax_issue (h : Hd) (a : Opd) (v : VOp) :
    IssuesIn (.vmax h a v)
      { h := h, roles := bsRoles a v } :=
  ⟨_, fun s _ => by show execVmax h a v s = _; unfold execVmax elementwise; rfl⟩
theorem execVfma_issue (h : Hd) (a : Opd) (v : VOp) :
    IssuesIn (.vfma h a v)
      { h := h, roles := bsRoles a v } :=
  ⟨_, fun s _ => by show execVfma h a v s = _; unfold execVfma elementwise; rfl⟩
theorem execVabs_issue (h : Hd) (v : VOp) :
    IssuesIn (.vabs h v)
      { h := h } :=
  ⟨_, fun s _ => by show execVabs h v s = _; unfold execVabs unary; rfl⟩
theorem execVneg_issue (h : Hd) (v : VOp) :
    IssuesIn (.vneg h v)
      { h := h } :=
  ⟨_, fun s _ => by show execVneg h v s = _; unfold execVneg unary; rfl⟩
theorem execVrcp_issue (h : Hd) (v : VOp) :
    IssuesIn (.vrcp h v)
      { h := h } :=
  ⟨_, fun s _ => by show execVrcp h v s = _; unfold execVrcp unary; rfl⟩
theorem execVrsqrt_issue (h : Hd) (v : VOp) :
    IssuesIn (.vrsqrt h v)
      { h := h } :=
  ⟨_, fun s _ => by show execVrsqrt h v s = _; unfold execVrsqrt unary; rfl⟩
theorem execVexp2_issue (h : Hd) (v : VOp) :
    IssuesIn (.vexp2 h v)
      { h := h } :=
  ⟨_, fun s _ => by show execVexp2 h v s = _; unfold execVexp2 unary; rfl⟩
theorem execVlog2_issue (h : Hd) (v : VOp) :
    IssuesIn (.vlog2 h v)
      { h := h } :=
  ⟨_, fun s _ => by show execVlog2 h v s = _; unfold execVlog2 unary; rfl⟩
theorem execVcvt_issue (h : Hd) (t : Ty) (v : VOp) :
    IssuesIn (.vcvt h t v)
      { h := h } :=
  ⟨_, fun s _ => by show execVcvt h t v s = _; unfold execVcvt; rfl⟩
theorem execVand_issue (h : Hd) (a : Opd) (v : VOp) :
    IssuesIn (.vand h a v)
      { h := h, roles := bsRoles a v } :=
  ⟨_, fun s _ => by show execVand h a v s = _; unfold execVand elementwise; rfl⟩
theorem execVor_issue (h : Hd) (a : Opd) (v : VOp) :
    IssuesIn (.vor h a v)
      { h := h, roles := bsRoles a v } :=
  ⟨_, fun s _ => by show execVor h a v s = _; unfold execVor elementwise; rfl⟩
theorem execVxor_issue (h : Hd) (a : Opd) (v : VOp) :
    IssuesIn (.vxor h a v)
      { h := h, roles := bsRoles a v } :=
  ⟨_, fun s _ => by show execVxor h a v s = _; unfold execVxor elementwise; rfl⟩
theorem execVshl_issue (h : Hd) (a : Opd) (v : VOp) :
    IssuesIn (.vshl h a v)
      { h := h, roles := bsRoles a v } :=
  ⟨_, fun s _ => by show execVshl h a v s = _; unfold execVshl elementwise; rfl⟩
theorem execVshr_issue (h : Hd) (a : Opd) (v : VOp) :
    IssuesIn (.vshr h a v)
      { h := h, roles := bsRoles a v } :=
  ⟨_, fun s _ => by show execVshr h a v s = _; unfold execVshr elementwise; rfl⟩
theorem execVsha_issue (h : Hd) (a : Opd) (v : VOp) :
    IssuesIn (.vsha h a v)
      { h := h, roles := bsRoles a v } :=
  ⟨_, fun s _ => by show execVsha h a v s = _; unfold execVsha elementwise; rfl⟩
theorem execVcmp_issue (h : Hd) (cond : BitVec 3) (a : Opd) (v : VOp) :
    IssuesIn (.vcmp h cond a v)
      { h := h, roles := bsRoles a v } :=
  ⟨_, fun s _ => by show execVcmp h cond a v s = _; unfold execVcmp; rfl⟩
theorem execVsel_issue (h : Hd) (a : Opd) (v : VOp) :
    IssuesIn (.vsel h a v)
      { h := h, roles := bsRoles a v } :=
  ⟨_, fun s _ => by show execVsel h a v s = _; unfold execVsel; rfl⟩
theorem execVredAdd_issue (h : Hd) (d : Opd) (v : VOp) :
    IssuesIn (.vredAdd h d v)
      { h := h, roles := { d := some d } } :=
  ⟨_, fun s _ => by show execVredAdd h d v s = _; unfold execVredAdd reduce; rfl⟩
theorem execVredMax_issue (h : Hd) (d : Opd) (v : VOp) :
    IssuesIn (.vredMax h d v)
      { h := h, roles := { d := some d } } :=
  ⟨_, fun s _ => by show execVredMax h d v s = _; unfold execVredMax reduce; rfl⟩
theorem execVredMin_issue (h : Hd) (d : Opd) (v : VOp) :
    IssuesIn (.vredMin h d v)
      { h := h, roles := { d := some d } } :=
  ⟨_, fun s _ => by show execVredMin h d v s = _; unfold execVredMin reduce; rfl⟩
theorem execVscan_issue (h : Hd) (a : Opd) (v : VOp) :
    IssuesIn (.vscan h a v)
      { h := h, roles := { a := some a } } :=
  ⟨_, fun s _ => by show execVscan h a v s = _; unfold execVscan; rfl⟩
theorem execVperm_issue (h : Hd) (v : VOp) :
    IssuesIn (.vperm h v)
      { h := h } :=
  ⟨_, fun s _ => by show execVperm h v s = _; unfold execVperm; rfl⟩
theorem execVbcast_issue (h : Hd) (a : Opd) (v : VOp) :
    IssuesIn (.vbcast h a v)
      { h := h, roles := { a := some a } } :=
  ⟨_, fun s _ => by show execVbcast h a v s = _; unfold execVbcast; rfl⟩
theorem execVext_issue (h : Hd) (d : Opd) (b : Opd) (v : VOp) :
    IssuesIn (.vext h d b v)
      { h := h, roles := { b := some b, d := some d } } :=
  ⟨_, fun s _ => by show execVext h d b v s = _; unfold execVext; rfl⟩
theorem execVins_issue (h : Hd) (a : Opd) (b : Opd) (v : VOp) :
    IssuesIn (.vins h a b v)
      { h := h, roles := { a := some a, b := some b } } :=
  ⟨_, fun s _ => by show execVins h a b v s = _; unfold execVins; rfl⟩
theorem execVldT_issue (h : Hd) (a : Opd) (b : Opd) (v : VOp) :
    IssuesIn (.vldT h a b v)
      { h := h, roles := { a := some a, b := some b } } :=
  ⟨_, fun s _ => by show execVldT h a b v s = _; unfold execVldT; rfl⟩
theorem execVstT_issue (h : Hd) (a : Opd) (b : Opd) (v : VOp) :
    IssuesIn (.vstT h a b v)
      { h := h, roles := { a := some a, b := some b } } :=
  ⟨_, fun s _ => by show execVstT h a b v s = _; unfold execVstT; rfl⟩
theorem execVld_issue (h : Hd) (a : Opd) (b : Opd) (v : VOp) :
    IssuesIn (.vld h a b v)
      { h := h, roles := { a := some a, b := some b } } :=
  ⟨_, fun s _ => by show execVld h a b v s = _; unfold execVld; rfl⟩
theorem execVst_issue (h : Hd) (a : Opd) (b : Opd) (v : VOp) :
    IssuesIn (.vst h a b v)
      { h := h, roles := { a := some a, b := some b } } :=
  ⟨_, fun s _ => by show execVst h a b v s = _; unfold execVst; rfl⟩
theorem execVgath_issue (h : Hd) (a : Opd) (v : VOp) :
    IssuesIn (.vgath h a v)
      { h := h, roles := { a := some a } } :=
  ⟨_, fun s _ => by show execVgath h a v s = _; unfold execVgath; rfl⟩
theorem execVscat_issue (h : Hd) (a : Opd) (v : VOp) :
    IssuesIn (.vscat h a v)
      { h := h, roles := { a := some a } } :=
  ⟨_, fun s _ => by show execVscat h a v s = _; unfold execVscat; rfl⟩
theorem execVcb_issue (h : Hd) (v : VOp) :
    IssuesIn (.vcb h v)
      { h := h } :=
  ⟨_, fun s _ => by show execVcb h v s = _; unfold execVcb; rfl⟩
theorem execVclaim_issue (h : Hd) (a : Opd) :
    IssuesIn (.vclaim h a)
      { h := h, roles := { a := some a } } :=
  ⟨_, fun s _ => by show execVclaim h a s = _; unfold execVclaim; rfl⟩
theorem execVtry_issue (h : Hd) (a : Opd) :
    IssuesIn (.vtry h a)
      { h := h, roles := { a := some a } } :=
  ⟨_, fun s _ => by show execVtry h a s = _; unfold execVtry; rfl⟩
theorem execVyield_issue (h : Hd) (a : Opd) :
    IssuesIn (.vyield h a)
      { h := h, roles := { a := some a } } :=
  ⟨_, fun s _ => by show execVyield h a s = _; unfold execVyield; rfl⟩
theorem execTalloc_issue (h : Hd) (d : Opd) (a : Opd) (t : BitVec 6) :
    IssuesIn (.talloc h d a t)
      { h := h, roles := { a := some a, d := some d }, bad := fun _ => needGZ d } :=
  ⟨_, fun s _ => by show execTalloc h d a t s = _; unfold execTalloc; rfl⟩
theorem execTfree_issue (h : Hd) (t : BitVec 6) :
    IssuesIn (.tfree h t)
      { h := h } :=
  ⟨_, fun s _ => by show execTfree h t s = _; unfold execTfree; rfl⟩
theorem execTinfo_issue (h : Hd) (d : Opd) (b : Opd) (t : BitVec 6) :
    IssuesIn (.tinfo h d b t)
      { h := h, roles := { b := some b, d := some d }, bad := fun _ => needGZ d,
        ill := fun s => s.illegalBy h b fun v => decide (2 ≤ v.toNat) } :=
  ⟨_, fun s hi => by
    show execTinfo h d b t s = _
    unfold execTinfo State.orIllegal
    rw [if_neg (by simp only at hi; rw [hi]; exact Bool.false_ne_true)]⟩
theorem execTzero_issue (h : Hd) (a : Opd) (b : Opd) (t : BitVec 6) :
    IssuesIn (.tzero h a b t)
      { h := h, roles := { a := some a, b := some b } } :=
  ⟨_, fun s _ => by show execTzero h a b t s = _; unfold execTzero; rfl⟩
theorem execTempty_issue (h : Hd) (a : Opd) (b : Opd) (t : BitVec 6) :
    IssuesIn (.tempty h a b t)
      { h := h, roles := { a := some a, b := some b } } :=
  ⟨_, fun s _ => by show execTempty h a b t s = _; unfold execTempty; rfl⟩
theorem execRpush_issue (h : Hd) (d : Opd) (t : BitVec 6) :
    IssuesIn (.rpush h d t)
      { h := h, roles := { d := some d }, bad := fun _ => needGZ d } :=
  ⟨_, fun s _ => by show execRpush h d t s = _; unfold execRpush; rfl⟩
theorem execRpop_issue (h : Hd) (d : Opd) (t : BitVec 6) :
    IssuesIn (.rpop h d t)
      { h := h, roles := { d := some d }, bad := fun _ => needGZ d } :=
  ⟨_, fun s _ => by show execRpop h d t s = _; unfold execRpop; rfl⟩
theorem execRwait_issue (h : Hd) (a : Opd) (b : Opd) (t : BitVec 6) :
    IssuesIn (.rwait h a b t)
      { h := h, roles := { a := some a, b := some b },
        ill := fun s => s.illegalBy h a fun v => decide (3 ≤ v.toNat) } :=
  ⟨_, fun s hi => by
    show execRwait h a b t s = _
    unfold execRwait State.orIllegal
    rw [if_neg (by simp only at hi; rw [hi]; exact Bool.false_ne_true)]⟩
theorem execRstate_issue (h : Hd) (d : Opd) (t : BitVec 6) :
    IssuesIn (.rstate h d t)
      { h := h, roles := { d := some d }, bad := fun _ => needGZ d } :=
  ⟨_, fun s _ => by show execRstate h d t s = _; unfold execRstate; rfl⟩
theorem execMmaBf16_issue (h : Hd) (a : Opd) (b : Opd) (v : MOp) :
    IssuesIn (.mmaBf16 h a b v)
      { h := h, roles := { a := some a, b := some b } } :=
  ⟨_, fun s _ => by show execMmaBf16 h a b v s = _; unfold execMmaBf16 mmaIssue; rfl⟩
theorem execMmaI8_issue (h : Hd) (a : Opd) (b : Opd) (v : MOp) :
    IssuesIn (.mmaI8 h a b v)
      { h := h, roles := { a := some a, b := some b } } :=
  ⟨_, fun s _ => by show execMmaI8 h a b v s = _; unfold execMmaI8 mmaIssue; rfl⟩
theorem execMmaCb_issue (h : Hd) (a : Opd) (b : Opd) (v : MOp) :
    IssuesIn (.mmaCb h a b v)
      { h := h, roles := { a := some a, b := some b } } :=
  ⟨_, fun s _ => by show execMmaCb h a b v s = _; unfold execMmaCb mmaIssue; rfl⟩
theorem execMmaSp_issue (h : Hd) (a : Opd) (b : Opd) (v : MOp) :
    IssuesIn (.mmaSp h a b v)
      { h := h, roles := { a := some a, b := some b } } :=
  ⟨_, fun s _ => by show execMmaSp h a b v s = _; unfold execMmaSp mmaIssue; rfl⟩
theorem execAzero_issue (h : Hd) (v : AccOp) :
    IssuesIn (.azero h v)
      { h := h } :=
  ⟨_, fun s _ => by show execAzero h v s = _; unfold execAzero; rfl⟩
theorem execAload_issue (h : Hd) (a : Opd) (v : AccOp) :
    IssuesIn (.aload h a v)
      { h := h, roles := { a := some a } } :=
  ⟨_, fun s _ => by show execAload h a v s = _; unfold execAload; rfl⟩
theorem execAstore_issue (h : Hd) (a : Opd) (v : AccOp) :
    IssuesIn (.astore h a v)
      { h := h, roles := { a := some a } } :=
  ⟨_, fun s _ => by show execAstore h a v s = _; unfold execAstore; rfl⟩
theorem execAdrain_issue (h : Hd) (a : Opd) (b : Opd) (v : AccOp) :
    IssuesIn (.adrain h a b v)
      { h := h, roles := { a := some a, b := some b } } :=
  ⟨_, fun s _ => by show execAdrain h a b v s = _; unfold execAdrain; rfl⟩
theorem execKload_issue (h : Hd) (a : Opd) (b : Opd) (v : KOp) :
    IssuesIn (.kload h a b v)
      { h := h, roles := if v.src then { a := some a, b := some b } else { a := some a } } :=
  ⟨_, fun s _ => by show execKload h a b v s = _; unfold execKload; rfl⟩
theorem execCpy_issue (h : Hd) (d : Opd) (a : Opd) (x : Option EFlags) :
    IssuesIn (.cpy h d a x)
      { h := h, roles := { a := some a, d := some d } } :=
  ⟨_, fun s _ => by show execCpy h d a x s = _; unfold execCpy copyInstr; rfl⟩
theorem execCpyMma_issue (h : Hd) (d : Opd) (a : Opd) (x : Option EFlags) :
    IssuesIn (.cpyMma h d a x)
      { h := h, roles := { a := some a, d := some d } } :=
  ⟨_, fun s _ => by show execCpyMma h d a x s = _; unfold execCpyMma copyInstr; rfl⟩
theorem execCpyr_issue (h : Hd) (d : Opd) (a : Opd) (x : Option EFlags) :
    IssuesIn (.cpyr h d a x)
      { h := h, roles := { a := some a, d := some d } } :=
  ⟨_, fun s _ => by show execCpyr h d a x s = _; unfold execCpyr copyInstr; rfl⟩
theorem execCpystat_issue (h : Hd) (d : Opd) (a : Opd) :
    IssuesIn (.cpystat h d a)
      { h := h, roles := { a := some a, d := some d } } :=
  ⟨_, fun s _ => by show execCpystat h d a s = _; unfold execCpystat; rfl⟩
theorem execSpawn_issue (h : Hd) (d : Opd) (a : Opd) (x : Option EFlags) :
    IssuesIn (.spawn h d a x)
      { h := h, roles := { a := some a, d := some d } } :=
  ⟨_, fun s _ => by show execSpawn h d a x s = _; unfold execSpawn; rfl⟩
theorem execJob_issue (h : Hd) (d : Opd) (a : Opd) (b : Opd) (x : Option EFlags) :
    IssuesIn (.job h d a b x)
      { h := h, roles := { a := some a, b := some b, d := some d } } :=
  ⟨_, fun s _ => by show execJob h d a b x s = _; unfold execJob; rfl⟩
theorem execLaunch_issue (h : Hd) (d : Opd) (a : Opd) (x : Option EFlags) :
    IssuesIn (.launch h d a x)
      { h := h, roles := { a := some a, d := some d } } :=
  ⟨_, fun s _ => by show execLaunch h d a x s = _; unfold execLaunch; rfl⟩
theorem execSend_issue (h : Hd) (a : Opd) (b : Opd) (f : EFlags) (par : Bool) (nw : BitVec 4) (target : BitVec 20) :
    IssuesIn (.send h a b f par nw target)
      { h := h, roles := { a := some a, b := some b } } :=
  ⟨_, fun s _ => by show execSend h a b f par nw target s = _; unfold execSend; rfl⟩
theorem execReplay_issue (h : Hd) (a : Opd) :
    IssuesIn (.replay h a)
      { h := h, roles := { a := some a }, priv := systemOnly } :=
  ⟨_, fun s _ => by show execReplay h a s = _; unfold execReplay; rfl⟩
theorem execMpop_issue (h : Hd) (d : Opd) (a : Opd) :
    IssuesIn (.mpop h d a)
      { h := h, roles := { a := some a, d := some d }, priv := systemOnly } :=
  ⟨_, fun s _ => by show execMpop h d a s = _; unfold execMpop; rfl⟩
theorem execRoam_issue (h : Hd) (d : Opd) (a : Opd) :
    IssuesIn (.roam h d a)
      { h := h, roles := { a := some a, d := some d } } :=
  ⟨_, fun s _ => by show execRoam h d a s = _; unfold execRoam; rfl⟩
theorem execMigrate_issue (h : Hd) (d : Opd) (a : Opd) :
    IssuesIn (.migrate h d a)
      { h := h, roles := { a := some a, d := some d } } :=
  ⟨_, fun s _ => by show execMigrate h d a s = _; unfold execMigrate; rfl⟩
theorem execNmcast_issue (h : Hd) (a : Opd) (b : Opd) (f : EFlags) (vs : BitVec 6) (t : BitVec 6) :
    IssuesIn (.nmcast h a b f vs t)
      { h := h, roles := { a := some a, b := some b } } :=
  ⟨_, fun s _ => by show execNmcast h a b f vs t s = _; unfold execNmcast; rfl⟩
theorem execNred_issue (h : Hd) (a : Opd) (f : EFlags) (vs : BitVec 6) (rop : BitVec 3) (stream : BitVec 13) (cidx : BitVec 6) :
    IssuesIn (.nred h a f vs rop stream cidx)
      { h := h, roles := { a := some a } } :=
  ⟨_, fun s _ => by show execNred h a f vs rop stream cidx s = _; unfold execNred; rfl⟩
theorem execNbComb_issue (h : Hd) (a : Opd) (x : Option EFlags) :
    IssuesIn (.nbComb h a x)
      { h := h, roles := { a := some a } } :=
  ⟨_, fun s _ => by show execNbComb h a x s = _; unfold execNbComb nbInstr; rfl⟩
theorem execNbFill_issue (h : Hd) (a : Opd) (x : Option EFlags) :
    IssuesIn (.nbFill h a x)
      { h := h, roles := { a := some a } } :=
  ⟨_, fun s _ => by show execNbFill h a x s = _; unfold execNbFill nbInstr; rfl⟩
theorem execNbRed_issue (h : Hd) (a : Opd) (x : Option EFlags) :
    IssuesIn (.nbRed h a x)
      { h := h, roles := { a := some a } } :=
  ⟨_, fun s _ => by show execNbRed h a x s = _; unfold execNbRed nbInstr; rfl⟩
theorem execNbStat_issue (h : Hd) (d : Opd) (a : Opd) :
    IssuesIn (.nbStat h d a)
      { h := h, roles := { a := some a, d := some d } } :=
  ⟨_, fun s _ => by show execNbStat h d a s = _; unfold execNbStat; rfl⟩
theorem execXcfg_issue (h : Hd) (d : Opd) (a : Opd) (b : Opd) :
    IssuesIn (.xcfg h d a b)
      { h := h, roles := { a := some a, b := some b, d := some d } } :=
  ⟨_, fun s _ => by show execXcfg h d a b s = _; unfold execXcfg; rfl⟩
theorem execXroute_issue (h : Hd) (d : Opd) (a : Opd) (b : Opd) (x : Option EFlags) :
    IssuesIn (.xroute h d a b x)
      { h := h, roles := { a := some a, b := some b, d := some d } } :=
  ⟨_, fun s _ => by show execXroute h d a b x s = _; unfold execXroute runInstr; rfl⟩
theorem execXcombine_issue (h : Hd) (d : Opd) (a : Opd) (b : Opd) (x : Option EFlags) :
    IssuesIn (.xcombine h d a b x)
      { h := h, roles := { a := some a, b := some b, d := some d } } :=
  ⟨_, fun s _ => by show execXcombine h d a b x s = _; unfold execXcombine runInstr; rfl⟩
theorem execXstat_issue (h : Hd) (d : Opd) (a : Opd) (b : Opd) :
    IssuesIn (.xstat h d a b)
      { h := h, roles := { a := some a, b := some b, d := some d } } :=
  ⟨_, fun s _ => by show execXstat h d a b s = _; unfold execXstat; rfl⟩
theorem execXresume_issue (h : Hd) (d : Opd) (a : Opd) :
    IssuesIn (.xresume h d a)
      { h := h, roles := { a := some a, d := some d } } :=
  ⟨_, fun s _ => by show execXresume h d a s = _; unfold execXresume; rfl⟩
theorem execXabort_issue (h : Hd) (d : Opd) (a : Opd) :
    IssuesIn (.xabort h d a)
      { h := h, roles := { a := some a, d := some d } } :=
  ⟨_, fun s _ => by show execXabort h d a s = _; unfold execXabort; rfl⟩

/-- Every instruction issues in its frame. -/
theorem exec_issue {i : Instr} {f : Frame} (hf : frameOf i = some f) : IssuesIn i f := by
  cases i
  case add h d a b => cases hf; exact execAdd_issue h d a b
  case sub h d a b => cases hf; exact execSub_issue h d a b
  case mul h d a b => cases hf; exact execMul_issue h d a b
  case mulhI64 h d a b => cases hf; exact execMulhI64_issue h d a b
  case mulhN64 h d a b => cases hf; exact execMulhN64_issue h d a b
  case divI64 h d a b => cases hf; exact execDivI64_issue h d a b
  case divN64 h d a b => cases hf; exact execDivN64_issue h d a b
  case remI64 h d a b => cases hf; exact execRemI64_issue h d a b
  case remN64 h d a b => cases hf; exact execRemN64_issue h d a b
  case minI64 h d a b => cases hf; exact execMinI64_issue h d a b
  case minN64 h d a b => cases hf; exact execMinN64_issue h d a b
  case maxI64 h d a b => cases hf; exact execMaxI64_issue h d a b
  case maxN64 h d a b => cases hf; exact execMaxN64_issue h d a b
  case addsX1 h d a b => cases hf; exact execAddsX1_issue h d a b
  case addsX2 h d a b => cases hf; exact execAddsX2_issue h d a b
  case addsX4 h d a b => cases hf; exact execAddsX4_issue h d a b
  case addsX8 h d a b => cases hf; exact execAddsX8_issue h d a b
  case add32 h e d a b => cases hf; exact execAdd32_issue h e d a b
  case sub32 h e d a b => cases hf; exact execSub32_issue h e d a b
  case mul32 h e d a b => cases hf; exact execMul32_issue h e d a b
  case mulhI32 h d a b => cases hf; exact execMulhI32_issue h d a b
  case mulhN32 h d a b => cases hf; exact execMulhN32_issue h d a b
  case divI32 h d a b => cases hf; exact execDivI32_issue h d a b
  case divN32 h d a b => cases hf; exact execDivN32_issue h d a b
  case remI32 h d a b => cases hf; exact execRemI32_issue h d a b
  case remN32 h d a b => cases hf; exact execRemN32_issue h d a b
  case minI32 h d a b => cases hf; exact execMinI32_issue h d a b
  case minN32 h d a b => cases hf; exact execMinN32_issue h d a b
  case maxI32 h d a b => cases hf; exact execMaxI32_issue h d a b
  case maxN32 h d a b => cases hf; exact execMaxN32_issue h d a b
  case and h d a b => cases hf; exact execAnd_issue h d a b
  case or h d a b => cases hf; exact execOr_issue h d a b
  case xor h d a b => cases hf; exact execXor_issue h d a b
  case andn h d a b => cases hf; exact execAndn_issue h d a b
  case shl h d a b => cases hf; exact execShl_issue h d a b
  case shr h d a b => cases hf; exact execShr_issue h d a b
  case sha h d a b => cases hf; exact execSha_issue h d a b
  case rol h d a b => cases hf; exact execRol_issue h d a b
  case clz h d a => cases hf; exact execClz_issue h d a
  case ctz h d a => cases hf; exact execCtz_issue h d a
  case popc h d a => cases hf; exact execPopc_issue h d a
  case mov h d a => cases hf; exact execMov_issue h d a
  case bfx h d a b => cases hf; exact execBfx_issue h d a b
  case bfi h d a b => cases hf; exact execBfi_issue h d a b
  case sextI8 h d a => cases hf; exact execSextI8_issue h d a
  case sextI16 h d a => cases hf; exact execSextI16_issue h d a
  case sextI32 h d a => cases hf; exact execSextI32_issue h d a
  case zextN8 h d a => cases hf; exact execZextN8_issue h d a
  case zextN16 h d a => cases hf; exact execZextN16_issue h d a
  case zextN32 h d a => cases hf; exact execZextN32_issue h d a
  case sel h c d a b => cases hf; exact execSel_issue h c d a b
  case addImm h d a imm => cases hf; exact execAddImm_issue h d a imm
  case andImm h d a imm => cases hf; exact execAndImm_issue h d a imm
  case orImm h d a imm => cases hf; exact execOrImm_issue h d a imm
  case xorImm h d a imm => cases hf; exact execXorImm_issue h d a imm
  case shlImm h d a imm => cases hf; exact execShlImm_issue h d a imm
  case shrImm h d a imm => cases hf; exact execShrImm_issue h d a imm
  case shaImm h d a imm => cases hf; exact execShaImm_issue h d a imm
  case li h d imm => cases hf; exact execLi_issue h d imm
  case cmpSigned h w c d a b => cases hf; exact execCmpSigned_issue h w c d a b
  case cmpUnsigned h w c d a b => cases hf; exact execCmpUnsigned_issue h w c d a b
  case cmpFloat h bf c d a b => cases hf; exact execCmpFloat_issue h bf c d a b
  case pand h d a b => cases hf; exact execPand_issue h d a b
  case por h d a b => cases hf; exact execPor_issue h d a b
  case pxor h d a b => cases hf; exact execPxor_issue h d a b
  case pnot h d a => cases hf; exact execPnot_issue h d a
  case br h off => cases hf; exact execBr_issue h off
  case callOffset h off => cases hf; exact execCallOffset_issue h off
  case loop h d off => cases hf; exact execLoop_issue h d off
  case jmp h a => cases hf; exact execJmp_issue h a
  case callReg h d a => cases hf; exact execCallReg_issue h d a
  case ret h a => cases hf; exact execRet_issue h a
  case exit h => cases hf; exact execExit_issue h
  case yield h => cases hf; exact execYield_issue h
  case nop h => cases hf; exact execNop_issue h
  case qtry h d a b => cases hf; exact execQtry_issue h d a b
  case qcount h d a => cases hf; exact execQcount_issue h d a
  case qpeek h d a => cases hf; exact execQpeek_issue h d a
  case ld h w sx pol d a b x => cases hf; exact execLd_issue h w sx pol d a b x
  case st h w pol d a b x => cases hf; exact execSt_issue h w pol d a b x
  case ldx h w sx pol d a b x => cases hf; exact execLdx_issue h w sx pol d a b x
  case stx h w pol d a b x => cases hf; exact execStx_issue h w pol d a b x
  case aadd h form d a b v => cases hf; exact execAadd_issue h form d a b v
  case amin h form d a b v => cases hf; exact execAmin_issue h form d a b v
  case amax h form d a b v => cases hf; exact execAmax_issue h form d a b v
  case aand h form d a b v => cases hf; exact execAand_issue h form d a b v
  case aor h form d a b v => cases hf; exact execAor_issue h form d a b v
  case axor h form d a b v => cases hf; exact execAxor_issue h form d a b v
  case aswap h form d a b v => cases hf; exact execAswap_issue h form d a b v
  case acas h form d a b v => cases hf; exact execAcas_issue h form d a b v
  case cadd h scope c b => cases hf; exact execCadd_issue h scope c b
  case cfadd h scope d c b => cases hf; exact execCfadd_issue h scope d c b
  case cwait h scope lim c b x => cases hf; exact execCwait_issue h scope lim c b x
  case cpoll h scope d c b => cases hf; exact execCpoll_issue h scope d c b
  case cread h scope d c => cases hf; exact execCread_issue h scope d c
  case fenceAcq h scope => cases hf; exact execFenceAcq_issue h scope
  case fenceRel h scope => cases hf; exact execFenceRel_issue h scope
  case fenceAr h scope => cases hf; exact execFenceAr_issue h scope
  case fenceSc h scope => cases hf; exact execFenceSc_issue h scope
  case clean h a b => cases hf; exact execClean_issue h a b
  case inval h a b => cases hf; exact execInval_issue h a b
  case flush h a b => cases hf; exact execFlush_issue h a b
  case pref h hint a b => cases hf; exact execPref_issue h hint a b
  case ownrel h a b => cases hf; exact execOwnrel_issue h a b
  case sysrd h d na nb => cases hf; exact execSysrd_issue h d na nb
  case syswr h d na nb => cases hf; exact execSyswr_issue h d na nb
  case svc h a => cases hf; exact execSvc_issue h a
  case brk h a => cases hf; exact execBrk_issue h a
  case eret h => cases hf; exact execEret_issue h
  case suspendL h d a => cases hf; exact execSuspendL_issue h d a
  case suspendF h d a b => cases hf; exact execSuspendF_issue h d a b
  case resume h d a b => cases hf; exact execResume_issue h d a b
  case leasewait h d a => cases hf; exact execLeasewait_issue h d a
  case rdclk h d => cases hf; exact execRdclk_issue h d
  case ident h d a => cases hf; exact execIdent_issue h d a
  case ifence h => cases hf; exact execIfence_issue h
  case fltDone h d a b => cases hf; exact execFltDone_issue h d a b
  case pmove h d a => cases hf; exact execPmove_issue h d a
  case pzero h d a b => cases hf; exact execPzero_issue h d a b
  case vadd h a v => cases hf; exact execVadd_issue h a v
  case vsub h a v => cases hf; exact execVsub_issue h a v
  case vmul h a v => cases hf; exact execVmul_issue h a v
  case vmin h a v => cases hf; exact execVmin_issue h a v
  case vmax h a v => cases hf; exact execVmax_issue h a v
  case vfma h a v => cases hf; exact execVfma_issue h a v
  case vabs h v => cases hf; exact execVabs_issue h v
  case vneg h v => cases hf; exact execVneg_issue h v
  case vrcp h v => cases hf; exact execVrcp_issue h v
  case vrsqrt h v => cases hf; exact execVrsqrt_issue h v
  case vexp2 h v => cases hf; exact execVexp2_issue h v
  case vlog2 h v => cases hf; exact execVlog2_issue h v
  case vcvt h t v => cases hf; exact execVcvt_issue h t v
  case vand h a v => cases hf; exact execVand_issue h a v
  case vor h a v => cases hf; exact execVor_issue h a v
  case vxor h a v => cases hf; exact execVxor_issue h a v
  case vshl h a v => cases hf; exact execVshl_issue h a v
  case vshr h a v => cases hf; exact execVshr_issue h a v
  case vsha h a v => cases hf; exact execVsha_issue h a v
  case vcmp h cond a v => cases hf; exact execVcmp_issue h cond a v
  case vsel h a v => cases hf; exact execVsel_issue h a v
  case vredAdd h d v => cases hf; exact execVredAdd_issue h d v
  case vredMax h d v => cases hf; exact execVredMax_issue h d v
  case vredMin h d v => cases hf; exact execVredMin_issue h d v
  case vscan h a v => cases hf; exact execVscan_issue h a v
  case vperm h v => cases hf; exact execVperm_issue h v
  case vbcast h a v => cases hf; exact execVbcast_issue h a v
  case vext h d b v => cases hf; exact execVext_issue h d b v
  case vins h a b v => cases hf; exact execVins_issue h a b v
  case vldT h a b v => cases hf; exact execVldT_issue h a b v
  case vstT h a b v => cases hf; exact execVstT_issue h a b v
  case vld h a b v => cases hf; exact execVld_issue h a b v
  case vst h a b v => cases hf; exact execVst_issue h a b v
  case vgath h a v => cases hf; exact execVgath_issue h a v
  case vscat h a v => cases hf; exact execVscat_issue h a v
  case vcb h v => cases hf; exact execVcb_issue h v
  case vclaim h a => cases hf; exact execVclaim_issue h a
  case vtry h a => cases hf; exact execVtry_issue h a
  case vyield h a => cases hf; exact execVyield_issue h a
  case talloc h d a t => cases hf; exact execTalloc_issue h d a t
  case tfree h t => cases hf; exact execTfree_issue h t
  case tinfo h d b t => cases hf; exact execTinfo_issue h d b t
  case tzero h a b t => cases hf; exact execTzero_issue h a b t
  case tempty h a b t => cases hf; exact execTempty_issue h a b t
  case rpush h d t => cases hf; exact execRpush_issue h d t
  case rpop h d t => cases hf; exact execRpop_issue h d t
  case rwait h a b t => cases hf; exact execRwait_issue h a b t
  case rstate h d t => cases hf; exact execRstate_issue h d t
  case mmaBf16 h a b v => cases hf; exact execMmaBf16_issue h a b v
  case mmaI8 h a b v => cases hf; exact execMmaI8_issue h a b v
  case mmaCb h a b v => cases hf; exact execMmaCb_issue h a b v
  case mmaSp h a b v => cases hf; exact execMmaSp_issue h a b v
  case azero h v => cases hf; exact execAzero_issue h v
  case aload h a v => cases hf; exact execAload_issue h a v
  case astore h a v => cases hf; exact execAstore_issue h a v
  case adrain h a b v => cases hf; exact execAdrain_issue h a b v
  case kload h a b v => cases hf; exact execKload_issue h a b v
  case cpy h d a x => cases hf; exact execCpy_issue h d a x
  case cpyMma h d a x => cases hf; exact execCpyMma_issue h d a x
  case cpyr h d a x => cases hf; exact execCpyr_issue h d a x
  case cpystat h d a => cases hf; exact execCpystat_issue h d a
  case spawn h d a x => cases hf; exact execSpawn_issue h d a x
  case job h d a b x => cases hf; exact execJob_issue h d a b x
  case launch h d a x => cases hf; exact execLaunch_issue h d a x
  case send h a b f par nw target => cases hf; exact execSend_issue h a b f par nw target
  case replay h a => cases hf; exact execReplay_issue h a
  case mpop h d a => cases hf; exact execMpop_issue h d a
  case roam h d a => cases hf; exact execRoam_issue h d a
  case migrate h d a => cases hf; exact execMigrate_issue h d a
  case nmcast h a b f vs t => cases hf; exact execNmcast_issue h a b f vs t
  case nred h a f vs rop stream cidx => cases hf; exact execNred_issue h a f vs rop stream cidx
  case nbComb h a x => cases hf; exact execNbComb_issue h a x
  case nbFill h a x => cases hf; exact execNbFill_issue h a x
  case nbRed h a x => cases hf; exact execNbRed_issue h a x
  case nbStat h d a => cases hf; exact execNbStat_issue h d a
  case xcfg h d a b => cases hf; exact execXcfg_issue h d a b
  case xroute h d a b x => cases hf; exact execXroute_issue h d a b x
  case xcombine h d a b x => cases hf; exact execXcombine_issue h d a b x
  case xstat h d a b => cases hf; exact execXstat_issue h d a b
  case xresume h d a => cases hf; exact execXresume_issue h d a
  case xabort h d a => cases hf; exact execXabort_issue h d a
  all_goals cases hf

end Sys2Proof.Machine
end

