-- ==== Sys2Proof/Tests/Slice0.lean ====
section
/-! SUPPORT. The model's own tests: for each statement with hypotheses, named witnesses that meet them, clause by clause; for each
instruction, a state in which the hypotheses of its completion statement hold; words written out from the spec's encodings and the
instructions they stand for; ill-formed terms that the checks of WellFormed refuse; and results that the spec states. -/

namespace Slice0

open Sys2Proof Sys2Proof.Machine

set_option Elab.async false
set_option linter.unusedVariables false


/-- `Runs`, checked. -/
def runsB (i : Instr) (s : State) : Bool :=
  match frameOf i with
  | some f => decide (f.ill s = false) && decide (f.reserved s = none) && decide (s.cx.getP f.h.pred.toNat ≠ f.h.pneg) && !(f.priv s.cx) &&
      decide (f.offDie s = none) && (s.cx.latch.isSome || decide (f.roles.lacks s = none))
  | none => false

def ops (i : Instr) (s : State) : Vals × State :=
  match frameOf i with
  | some f => f.operands s
  | none => (⟨0, 0, 0⟩, s)

abbrev vs (i : Instr) (s : State) : Vals := (ops i s).1
abbrev s1 (i : Instr) (s : State) : State := (ops i s).2

theorem runs_of {i : Instr} {s : State} (h : runsB i s = true) : Runs i s (vs i s) (s1 i s) := by
  unfold runsB at h
  cases hf : frameOf i with
  | none => simp [hf] at h
  | some f =>
    simp only [hf, Bool.and_eq_true, decide_eq_true_eq, Bool.not_eq_true', Bool.or_eq_true] at h
    obtain ⟨⟨⟨⟨⟨h0, h1⟩, h2⟩, h3⟩, h4⟩, h5⟩ := h
    refine ⟨f, hf, h0, h1, h2, h3, h4, fun hl => ?_, ?_⟩
    · simpa [hl] using h5
    · simp [vs, s1, ops, hf]

/-- `GateOpen`, checked. -/
def gateB (x : Option EFlags) (s : State) : Bool :=
  match x with
  | none => true
  | some f => !(f.acq || f.rel) || (s.serialClear s.me s.mx && s.cx.released (max f.scope.toNat s.cx.relScope))

theorem gate_of {x : Option EFlags} {s : State} (h : gateB x s = true) : GateOpen x s := by
  intro f hf ha
  subst hf
  simp only [gateB, Bool.or_eq_true, Bool.not_eq_true', Bool.and_eq_true, Bool.or_eq_false_iff] at h
  rcases h with h | h
  · simp [h.1, h.2] at ha
  · exact h

/-- No other context of the core has a vector load in progress. -/
def noPend (s : State) : Bool := (s.core s.me).ctxs.all fun e => e.1 == s.mx || e.2.pend.isNone

theorem pending_none {s : State} {p : Nat → Bool} (h : noPend s = true) : s.pending p = false := by
  simp only [noPend, List.all_eq_true, Bool.or_eq_true, beq_iff_eq, Option.isNone_iff_eq_none] at h
  simp only [State.pending, List.any_eq_false]
  intro e he
  rcases h e he with h1 | h1 <;> simp [h1]

theorem some_getD {α : Type} {o : Option α} {d : α} (h : o.isSome = true) : o = some (o.getD d) := by
  cases o with
  | none => cases h
  | some a => rfl

theorem rowFull_of {s : State} {c : Nat} {t : Tile} {p : Nat}
    (h : ∀ k, k ≤ t.ppr → s.peckFull t c p (128 * k) = true) : s.rowFull c t p := by
  intro b hb
  have hb' : b < t.rowBytes := by simp [Tile.inside] at hb; exact hb.2
  have e : s.peckFull t c p b = s.peckFull t c p (128 * (b / 128)) := by
    simp [State.peckFull, Tile.place]
  rw [e]
  exact h _ (by simp only [Tile.rowBytes] at hb'; omega)

def memd : MemForm := { ea := fun _ => 0, n := 1, pol := 0, hint := 0 }

def tx : Ctx := { cstate := .active, g := [(1, 5#64), (2, 3#64), (3, 0x10040#64), (4, 0x2000#64), (5, 1#64), (6, 0xFFFFFFFFFFFFFFFF#64)], pc := 0x1000#64, status := 0x0001000000000000#64, preds := 3#8 }
def st (t : Ctx) (k : Core) : State := { cores := [(0, { k with ctxs := [(0, t)] })] }
def s0 : State := st tx {}
def h0 : Hd := { pneg := false, pred := 0#3, lit := none }
def q0 : Core := { queues := [(0, [⟨1, some 7#64⟩, ⟨2, some 8#64⟩])] }
def nl : NLine := { space := 1, vline := 0x10040 / 128, hint := 0, pline := 3, poison := 0, v := 0xFFFFFFFF#32, o := 0xFFFF0000#32, d := 0#32, data := (List.range 128).map fun k => BitVec.ofNat 8 (k+128) }
def nl2 : NLine := { nl with vline := 0x400, pline := 9 }
def kn : Core := { q0 with near := [nl2, nl] }
def sn : State := st tx kn
def oneMap : List (Nat × Slot) := [(1, { state := 1, n := 1, list := 0, gran := 12, size := 20, lbase := 0, base := 0 })]
def ag : Agent := { kind := .thread, core := 0, idx := 0 }
def og : Origin := ⟨0, 0, 0⟩
def line0 : List Byte := (List.range 128).map fun k => BitVec.ofNat 8 (k+7)
def lm : LineMove := { src := 0, from_ := 9, to_ := 64, data := line0, poison := true, races := [⟨9, 3, some 5, [6]⟩], watches := [⟨9*128+8, 5, ag, 3⟩], job := 4 }
def sb : Machine.State := { s0 with map := oneMap, cubeList := [(0,0)] }
def fj : FrameJob := { id := 4, kind := 0, frame := 0x30000, dest := 0x50000, leaf := 0, bytes := 4096, next := 0, parts := 3, lost := false, ctr := 0, desc := 0, space := 1, task := false, org := og, who := ag, home := 0, hid := 0 }
def hr (a : Act) : Req := { who := ag, id := 5, org := og, space := 1, va := 0x12340, task := true, act := a, pa := 0x8040, words := 0x10000 }
def shome (sl : Slice) : Machine.State := { sb with slices := [(sliceOf (0x8040/128), sl)] }
def rg (a w : Nat) : RegWord := ⟨false, a, 1, 0x77, w, 0x8040/128⟩
def pkt (m : Msg) : Packet := { pt := 0, cls := 0, hop := 0, len := 0, dst := 0, src := 7, sag := 0, seq := 5, ver := 0, tr := false, age := 3, rty := false, mrg := false, op := 1, pin := false, pa := 0x8040, opx := 0, aux := 0, contribs := [], msg := m, good := true }
def spt (q : Port) : Machine.State := { sb with fabric := { ports := [(2, q), (3, { state := 1 })] }, cubeSet := true }

/-! Witnesses that the hypotheses of ArithmeticResult, LogicAndImmediateResult, PredicateResult can be met. -/
namespace T1

def ia : Instr := .add h0 (.g 1) (.g 2) (.q 0)
def ic : Instr := .bfi h0 (.g 1) (.g 2) (.g 6)
def id1 : Instr := .cmpSigned h0 3 2 1 (.g 2) (.q 0)
def id3 : Instr := .pand h0 1 0 0

theorem witness_ArithmeticResult_1 :
    ∃ (i : Instr) (r : AluForm) (s : State) (s1 : State) (v : Vals),
    (alu64 i = some r ∨ alu32 i = some r) ∧
    Runs i s v s1 :=
  ⟨ia, (alu64 ia).getD ⟨.z, fun _ _ => 0⟩, st tx q0, (ops ia (st tx q0)).2, (ops ia (st tx q0)).1, (.inl rfl), runs_of (by decide +kernel)⟩

theorem witness_LogicAndImmediateResult_1 :
    ∃ (i : Instr) (r : AluForm) (s : State) (s1 : State) (v : Vals),
    aluLogic i = some r ∧
    Runs i s v s1 :=
  ⟨ic, (aluLogic ic).getD ⟨.z, fun _ _ => 0⟩, st tx q0, (ops ic (st tx q0)).2, (ops ic (st tx q0)).1, rfl, runs_of (by decide +kernel)⟩

theorem witness_PredicateResult_1 :
    ∃ (h : Hd) (w : BitVec 2) (bf : Bool) (c : BitVec 3) (d : BitVec 3) (p : BitVec 3) (q : BitVec 3) (a : Opd) (b : Opd) (s : State) (s1 : State) (v : Vals),
    Runs (Instr.cmpSigned h w c d a b) s v s1 ∧
    Runs (Instr.cmpUnsigned h w c d a b) s v s1 ∧
    Runs (Instr.cmpFloat h bf c d a b) s v s1 :=
  ⟨h0, 3, false, 2, 1, 0, 0, .g 2, .q 0, st tx q0, (ops id1 (st tx q0)).2, (ops id1 (st tx q0)).1, runs_of (by decide +kernel), runs_of (by decide +kernel), runs_of (by decide +kernel)⟩

theorem witness_PredicateResult_2 :
    ∃ (h : Hd) (w : BitVec 2) (bf : Bool) (c : BitVec 3) (d : BitVec 3) (p : BitVec 3) (q : BitVec 3) (a : Opd) (b : Opd) (s : State) (s1 : State) (v : Vals),
    Runs (Instr.pand h d p q) s v s1 ∧
    Runs (Instr.por h d p q) s v s1 ∧
    Runs (Instr.pxor h d p q) s v s1 ∧
    Runs (Instr.pnot h d p) s v s1 :=
  ⟨h0, 3, false, 2, 1, 0, 0, .g 2, .q 0, st tx q0, (ops id3 (st tx q0)).2, (ops id3 (st tx q0)).1, runs_of (by decide +kernel), runs_of (by decide +kernel), runs_of (by decide +kernel), runs_of (by decide +kernel)⟩

end T1

/-! Witnesses that the hypotheses of TransferGoesToTarget, BadAddressAndTargetTrap, NopAndYield, LoadAndStoreHitLineBytes,
AccessLeavesAsRequest, FenceCompletesOrWaits, CacheMaintenance can be met. -/
namespace T2

def br1 : Instr := .br h0 0xFFFFD#20
def lp2 : Instr := .loop h0 (.g 5) 0x7FFF#15
def jp : Instr := .jmp h0 (.g 2)
def jp2 : Instr := .callReg {h0 with lit := some 0x1000000000000#64} (.g 1) .lit
def ldb : Instr := .ld h0 3 false 0 (.g 1) (.g 2) 0 none
def stb : Instr := .st h0 2 0 (.g 1) (.g 6) 0 none
def ld1 : Instr := .ld h0 2 true 0 (.g 3) (.g 3) 1 none
def st1 : Instr := .st h0 2 3 (.g 6) (.g 3) 1 none
def ldr : Instr := .ld h0 2 true 0 (.g 3) (.g 4) 1 none
def str : Instr := .st h0 2 1 (.g 3) (.g 4) 1 none
def fa : Instr := .fenceAcq h0 2
def fr : Instr := .fenceRel h0 2
def snb : State := st { tx with ackbal := 1 } kn
def knu : Core := { kn with near := [nl2, { nl with o := 0 }] }
def tr : Ctx := {tx with g := [(1, 100#64), (3, 0x10040#64)]}
def sm := st tr knu
def ow : Instr := .ownrel h0 (.g 3) (.g 1)
def cl : Instr := .clean h0 (.g 3) (.g 1)
def fl : Instr := .flush h0 (.g 3) (.g 1)
def pf : Instr := .pref h0 3 (.g 3) (.g 1)
def pf0 : Instr := .pref h0 0 (.g 3) (.g 1)
def sz := st { tr with g := [(3, 0x10040#64)] } knu
def so := st tr kn
def se := st { tr with got := [[], []] } knu
def sp := { se with outs := [{ who := { kind := .thread, core := 0, idx := 0 }, id := 9, purp := .maint, req := { who := { kind := .thread, core := 0, idx := 0 }, id := 9, org := ⟨0,0,0⟩, space := 0, va := 0x10040, task := true, act := .maint false 4096 } }] }
def ifc : Instr := .ifence h0
def si := st tx { kn with icache := [⟨1,2,[]⟩] }

theorem witness_TransferGoesToTarget_1 :
    ∃ (i : Instr) (s : State) (s1 : State) (v : Vals) (x : Word),
    Runs i s v s1 ∧
    targetOf i s.cx v = some x ∧
    BitVec.toNat x % 4 = 0 ∧
    BitVec.toNat x < 2 ^ 48 :=
  ⟨br1, s0, s1 br1 s0, vs br1 s0, 0xFF4#64, runs_of (by decide +kernel), (by decide +kernel)⟩

theorem witness_TransferGoesToTarget_2 :
    ∃ (i : Instr) (s : State) (s1 : State) (v : Vals) (h : Hd) (d : Opd) (off : BitVec 15),
    Runs i s v s1 ∧
    i = Instr.loop h d off ∧
    v.d = 1#64 :=
  ⟨lp2, s0, s1 lp2 s0, vs lp2 s0, h0, (.g 5), 0x7FFF#15, runs_of (by decide +kernel), (by decide +kernel)⟩

theorem witness_BadAddressAndTargetTrap_1 :
    ∃ (i : Instr) (s : State) (s1 : State) (v : Vals) (x : Word),
    Runs i s v s1 ∧
    targetOf i s.cx v = some x ∧
    BitVec.toNat x % 4 ≠ 0 :=
  ⟨jp, s0, s1 jp s0, vs jp s0, 3#64, runs_of (by decide +kernel), (by decide +kernel)⟩

theorem witness_BadAddressAndTargetTrap_2 :
    ∃ (i : Instr) (s : State) (s1 : State) (v : Vals) (x : Word),
    Runs i s v s1 ∧
    targetOf i s.cx v = some x ∧
    BitVec.toNat x % 4 = 0 ∧
    2 ^ 48 ≤ BitVec.toNat x :=
  ⟨jp2, s0, s1 jp2 s0, vs jp2 s0, 0x1000000000000#64, runs_of (by decide +kernel), (by decide +kernel)⟩

theorem witness_BadAddressAndTargetTrap_3 :
    ∃ (i : Instr) (m : MemForm) (s : State) (s1 : State) (v : Vals),
    (loadForm i = some m ∨ storeForm i = some m) ∧
    Runs i s v s1 ∧
    BitVec.toNat (m.ea v) < 2 ^ 48 ∧
    BitVec.toNat (m.ea v) % m.n ≠ 0 :=
  ⟨ldb, (loadForm ldb).getD memd, s0, s1 ldb s0, vs ldb s0, (.inl rfl), runs_of (by decide +kernel), (by decide +kernel)⟩

theorem witness_BadAddressAndTargetTrap_4 :
    ∃ (i : Instr) (m : MemForm) (s : State) (s1 : State) (v : Vals),
    (loadForm i = some m ∨ storeForm i = some m) ∧
    Runs i s v s1 ∧
    2 ^ 48 ≤ BitVec.toNat (m.ea v) :=
  ⟨stb, (storeForm stb).getD memd, s0, s1 stb s0, vs stb s0, (.inr rfl), runs_of (by decide +kernel), (by decide +kernel)⟩

theorem witness_NopAndYield_1 :
    ∃ (h : Hd) (s : State) (s1 : State) (v : Vals),
    Runs (Instr.nop h) s v s1 ∧
    Runs (Instr.yield h) s v s1 :=
  ⟨h0, s0, s1 (.nop h0) s0, vs (.nop h0) s0, runs_of (by decide +kernel), runs_of (by decide +kernel)⟩

theorem witness_LoadAndStoreHitLineBytes_1 :
    ∃ (i : Instr) (m : MemForm) (s : State) (s1 : State) (v : Vals) (l : NLine),
    loadForm i = some m ∧
    Runs i s v s1 ∧
    m.legal v ∧
    StaysHere s1 ∧
    s1.plan (BitVec.toNat (m.ea v)) m.n m.pol false true = Plan.hit ∧
    (s1.core s.me).nearLine s.cx.space (BitVec.toNat (m.ea v) / 128) = some l :=
  ⟨ld1, (loadForm ld1).getD memd, sn, s1 ld1 sn, vs ld1 sn, nl, rfl, runs_of (by decide +kernel), (by unfold MemForm.legal; decide +kernel), (by unfold StaysHere; decide +kernel), (by decide +kernel)⟩

theorem witness_LoadAndStoreHitLineBytes_2 :
    ∃ (i : Instr) (m : MemForm) (s : State) (s1 : State) (v : Vals) (l : NLine),
    storeForm i = some m ∧
    Runs i s v s1 ∧
    m.legal v ∧
    StaysHere s1 ∧
    s1.plan (BitVec.toNat (m.ea v)) m.n m.pol true true = Plan.hit ∧
    (s1.core s.me).nearLine s.cx.space (BitVec.toNat (m.ea v) / 128) = some l :=
  ⟨st1, (storeForm st1).getD memd, sn, s1 st1 sn, vs st1 sn, nl, rfl, runs_of (by decide +kernel), (by unfold MemForm.legal; decide +kernel), (by unfold StaysHere; decide +kernel), (by decide +kernel)⟩

theorem witness_AccessLeavesAsRequest_1 :
    ∃ (i : Instr) (m : MemForm) (s : State) (s1 : State) (v : Vals) (ck : Bool) (miss : Bool),
    Runs i s v s1 ∧
    m.legal v ∧
    StaysHere s1 ∧
    loadForm i = some m ∧
    s1.plan (BitVec.toNat (m.ea v)) m.n m.pol false true = Plan.request ck miss :=
  ⟨ldr, (loadForm ldr).getD memd, sn, s1 ldr sn, vs ldr sn, false, true, runs_of (by decide +kernel), (by unfold MemForm.legal; decide +kernel), (by unfold StaysHere; decide +kernel), rfl, (by decide +kernel)⟩

theorem witness_AccessLeavesAsRequest_2 :
    ∃ (i : Instr) (m : MemForm) (s : State) (s1 : State) (v : Vals) (ck : Bool) (miss : Bool),
    Runs i s v s1 ∧
    m.legal v ∧
    StaysHere s1 ∧
    storeForm i = some m ∧
    s1.plan (BitVec.toNat (m.ea v)) m.n m.pol true true = Plan.request ck miss :=
  ⟨str, (storeForm str).getD memd, sn, s1 str sn, vs str sn, false, true, runs_of (by decide +kernel), (by unfold MemForm.legal; decide +kernel), (by unfold StaysHere; decide +kernel), rfl, (by decide +kernel)⟩

theorem witness_FenceCompletesOrWaits_1 :
    ∃ (h : Hd) (scope : BitVec 2) (i : Instr) (s : State) (s1 : State) (v : Vals),
    Runs i s v s1 ∧
    Passes s ∧
    (i = Instr.fenceAcq h scope ∨ i = Instr.fenceRel h scope ∨ i = Instr.fenceAr h scope ∨ i = Instr.fenceSc h scope) ∧
    (i ≠ Instr.fenceAcq h scope → s.cx.released scope.toNat = true) ∧
    (i = Instr.fenceSc h scope → s.cx.engOut = 0 ∧ s.cx.nbPend = 0) :=
  ⟨h0, 2, fa, sn, s1 fa sn, vs fa sn, runs_of (by decide +kernel), (by unfold Passes; decide +kernel), (by decide +kernel)⟩

theorem witness_FenceCompletesOrWaits_2 :
    ∃ (h : Hd) (scope : BitVec 2) (i : Instr) (s : State) (s1 : State) (v : Vals),
    Runs i s v s1 ∧
    Passes s ∧
    (i = Instr.fenceAcq h scope ∨ i = Instr.fenceRel h scope ∨ i = Instr.fenceAr h scope ∨ i = Instr.fenceSc h scope) ∧
    (i ≠ Instr.fenceAcq h scope → s.cx.released scope.toNat = true) ∧
    (i = Instr.fenceSc h scope → s.cx.engOut = 0 ∧ s.cx.nbPend = 0) :=
  ⟨h0, 2, fr, sn, s1 fr sn, vs fr sn, runs_of (by decide +kernel), (by unfold Passes; decide +kernel), (by decide +kernel)⟩

theorem witness_FenceCompletesOrWaits_3 :
    ∃ (h : Hd) (scope : BitVec 2) (i : Instr) (s : State) (s1 : State) (v : Vals),
    Runs i s v s1 ∧
    Passes s ∧
    (i = Instr.fenceAcq h scope ∨ i = Instr.fenceRel h scope ∨ i = Instr.fenceAr h scope ∨ i = Instr.fenceSc h scope) ∧
    i ≠ Instr.fenceAcq h scope ∧
    s.cx.released scope.toNat = false :=
  ⟨h0, 2, fr, snb, s1 fr snb, vs fr snb, runs_of (by decide +kernel), (by unfold Passes; decide +kernel), (by decide +kernel)⟩

theorem witness_CacheMaintenance_1 :
    ∃ (h : Hd) (hint : BitVec 2) (a : Opd) (b : Opd) (s : State) (s1 : State) (v : Vals) (i : Instr),
    Runs i s v s1 ∧
    BitVec.toNat v.a + BitVec.toNat v.b ≤ 2 ^ 48 ∧
    s.cx.got = [] ∧
    (i = Instr.clean h a b ∨
  i = Instr.flush h a b ∨ i = Instr.inval h a b ∨ i = Instr.ownrel h a b ∨ i = Instr.pref h hint a b) ∧
    v.b = 0#64 :=
  ⟨h0, 0, .g 3, .g 1, sz, s1 ow sz, vs ow sz, ow, runs_of (by decide +kernel), (by decide +kernel)⟩

theorem witness_CacheMaintenance_2 :
    ∃ (h : Hd) (hint : BitVec 2) (a : Opd) (b : Opd) (s : State) (s1 : State) (v : Vals) (i : Instr) (l : NLine) (p : List NLine) (r : List NLine),
    Runs i s v s1 ∧
    BitVec.toNat v.a + BitVec.toNat v.b ≤ 2 ^ 48 ∧
    s.cx.got = [] ∧
    (i = Instr.clean h a b ∨ i = Instr.flush h a b ∨ i = Instr.inval h a b ∨ i = Instr.ownrel h a b) ∧
    v.b ≠ 0#64 ∧
    (s.core s.me).near = p ++ l :: r ∧
    (∀ (x : NLine),
  x ∈ p →
    x.space = s.cx.space ∧
        BitVec.toNat v.a / 128 ≤ x.vline ∧ x.vline ≤ (BitVec.toNat v.a + BitVec.toNat v.b - 1) / 128 →
      x.o = 0#32) ∧
    (l.space = s.cx.space ∧
  BitVec.toNat v.a / 128 ≤ l.vline ∧ l.vline ≤ (BitVec.toNat v.a + BitVec.toNat v.b - 1) / 128) ∧
    l.o ≠ 0#32 ∧
    (s.core s.me).wbuf.length < 8 :=
  ⟨h0, 0, .g 3, .g 1, so, s1 cl so, vs cl so, cl, nl, [nl2], [], runs_of (by decide +kernel), (by decide +kernel)⟩

theorem witness_CacheMaintenance_3 :
    ∃ (h : Hd) (hint : BitVec 2) (a : Opd) (b : Opd) (s : State) (s1 : State) (v : Vals),
    Runs (Instr.ownrel h a b) s v s1 ∧
    Runs (Instr.inval h a b) s v s1 ∧
    BitVec.toNat v.a + BitVec.toNat v.b ≤ 2 ^ 48 ∧
    s.cx.got = [] ∧
    v.b ≠ 0#64 ∧
    (∀ (l : NLine),
  l ∈ (s.core s.me).near →
    l.space = s.cx.space ∧
        BitVec.toNat v.a / 128 ≤ l.vline ∧ l.vline ≤ (BitVec.toNat v.a + BitVec.toNat v.b - 1) / 128 →
      l.o = 0#32) :=
  ⟨h0, 0, .g 3, .g 1, sm, s1 ow sm, vs ow sm, runs_of (by decide +kernel), runs_of (by decide +kernel), (by decide +kernel)⟩

theorem witness_CacheMaintenance_4 :
    ∃ (h : Hd) (hint : BitVec 2) (a : Opd) (b : Opd) (s : State) (s1 : State) (v : Vals),
    Runs (Instr.clean h a b) s v s1 ∧
    BitVec.toNat v.a + BitVec.toNat v.b ≤ 2 ^ 48 ∧
    v.b ≠ 0#64 ∧
    (s.cx.got ≠ [] ∨
  ∀ (l : NLine),
    l ∈ (s.core s.me).near →
      l.space = s.cx.space →
        BitVec.toNat v.a / 128 ≤ l.vline →
          l.vline ≤ (BitVec.toNat v.a + BitVec.toNat v.b - 1) / 128 → l.o = 0#32) ∧
    ((if s.cx.got.length - 1 = 0 then BitVec.toNat v.a
  else (BitVec.toNat v.a / 4096 + (s.cx.got.length - 1)) * 4096) <
  BitVec.toNat v.a + BitVec.toNat v.b) :=
  ⟨h0, 0, .g 3, .g 1, sm, s1 cl sm, vs cl sm, runs_of (by decide +kernel), (by decide +kernel)⟩

theorem witness_CacheMaintenance_5 :
    ∃ (h : Hd) (hint : BitVec 2) (a : Opd) (b : Opd) (s : State) (s1 : State) (v : Vals),
    Runs (Instr.flush h a b) s v s1 ∧
    BitVec.toNat v.a + BitVec.toNat v.b ≤ 2 ^ 48 ∧
    v.b ≠ 0#64 ∧
    (s.cx.got ≠ [] ∨
  ∀ (l : NLine),
    l ∈ (s.core s.me).near →
      l.space = s.cx.space →
        BitVec.toNat v.a / 128 ≤ l.vline →
          l.vline ≤ (BitVec.toNat v.a + BitVec.toNat v.b - 1) / 128 → l.o = 0#32) ∧
    ((if s.cx.got.length - 1 = 0 then BitVec.toNat v.a
  else (BitVec.toNat v.a / 4096 + (s.cx.got.length - 1)) * 4096) <
  BitVec.toNat v.a + BitVec.toNat v.b) :=
  ⟨h0, 0, .g 3, .g 1, sm, s1 fl sm, vs fl sm, runs_of (by decide +kernel), (by decide +kernel)⟩

theorem witness_CacheMaintenance_6 :
    ∃ (h : Hd) (hint : BitVec 2) (a : Opd) (b : Opd) (s : State) (s1 : State) (v : Vals),
    Runs (Instr.pref h hint a b) s v s1 ∧
    BitVec.toNat v.a + BitVec.toNat v.b ≤ 2 ^ 48 ∧
    v.b ≠ 0#64 ∧
    ((if s.cx.got.length - 1 = 0 then BitVec.toNat v.a
  else (BitVec.toNat v.a / 4096 + (s.cx.got.length - 1)) * 4096) <
  BitVec.toNat v.a + BitVec.toNat v.b) ∧
    hint = 3#2 :=
  ⟨h0, 3, .g 3, .g 1, sm, s1 pf sm, vs pf sm, runs_of (by decide +kernel), (by decide +kernel)⟩

theorem witness_CacheMaintenance_7 :
    ∃ (h : Hd) (hint : BitVec 2) (a : Opd) (b : Opd) (s : State) (s1 : State) (v : Vals),
    Runs (Instr.pref h hint a b) s v s1 ∧
    BitVec.toNat v.a + BitVec.toNat v.b ≤ 2 ^ 48 ∧
    v.b ≠ 0#64 ∧
    ((if s.cx.got.length - 1 = 0 then BitVec.toNat v.a
  else (BitVec.toNat v.a / 4096 + (s.cx.got.length - 1)) * 4096) <
  BitVec.toNat v.a + BitVec.toNat v.b) ∧
    hint ≠ 3#2 :=
  ⟨h0, 0, .g 3, .g 1, sm, s1 pf0 sm, vs pf0 sm, runs_of (by decide +kernel), (by decide +kernel)⟩

theorem witness_CacheMaintenance_8 :
    ∃ (h : Hd) (hint : BitVec 2) (a : Opd) (b : Opd) (s : State) (s1 : State) (v : Vals),
    Runs (Instr.clean h a b) s v s1 ∧
    BitVec.toNat v.a + BitVec.toNat v.b ≤ 2 ^ 48 ∧
    v.b ≠ 0#64 ∧
    (BitVec.toNat v.a + BitVec.toNat v.b ≤
  if s.cx.got.length - 1 = 0 then BitVec.toNat v.a else (BitVec.toNat v.a / 4096 + (s.cx.got.length - 1)) * 4096) ∧
    s.cx.got ≠ [] ∧
    s.piecesUnsent = false :=
  ⟨h0, 0, .g 3, .g 1, se, s1 cl se, vs cl se, runs_of (by decide +kernel), (by decide +kernel)⟩

theorem witness_CacheMaintenance_9 :
    ∃ (h : Hd) (hint : BitVec 2) (a : Opd) (b : Opd) (s : State) (s1 : State) (v : Vals),
    Runs (Instr.flush h a b) s v s1 ∧
    BitVec.toNat v.a + BitVec.toNat v.b ≤ 2 ^ 48 ∧
    v.b ≠ 0#64 ∧
    (BitVec.toNat v.a + BitVec.toNat v.b ≤
  if s.cx.got.length - 1 = 0 then BitVec.toNat v.a else (BitVec.toNat v.a / 4096 + (s.cx.got.length - 1)) * 4096) ∧
    s.cx.got ≠ [] ∧
    s.piecesUnsent = false :=
  ⟨h0, 0, .g 3, .g 1, se, s1 fl se, vs fl se, runs_of (by decide +kernel), (by decide +kernel)⟩

theorem witness_CacheMaintenance_10 :
    ∃ (h : Hd) (hint : BitVec 2) (a : Opd) (b : Opd) (s : State) (s1 : State) (v : Vals),
    Runs (Instr.pref h hint a b) s v s1 ∧
    BitVec.toNat v.a + BitVec.toNat v.b ≤ 2 ^ 48 ∧
    v.b ≠ 0#64 ∧
    (BitVec.toNat v.a + BitVec.toNat v.b ≤
  if s.cx.got.length - 1 = 0 then BitVec.toNat v.a else (BitVec.toNat v.a / 4096 + (s.cx.got.length - 1)) * 4096) ∧
    s.piecesUnsent = false :=
  ⟨h0, 3, .g 3, .g 1, se, s1 pf se, vs pf se, runs_of (by decide +kernel), (by decide +kernel)⟩

theorem witness_CacheMaintenance_11 :
    ∃ (h : Hd) (hint : BitVec 2) (a : Opd) (b : Opd) (s : State) (s1 : State) (v : Vals),
    Runs (Instr.clean h a b) s v s1 ∧
    Runs (Instr.flush h a b) s v s1 ∧
    Runs (Instr.pref h hint a b) s v s1 ∧
    BitVec.toNat v.a + BitVec.toNat v.b ≤ 2 ^ 48 ∧
    v.b ≠ 0#64 ∧
    (BitVec.toNat v.a + BitVec.toNat v.b ≤
  if s.cx.got.length - 1 = 0 then BitVec.toNat v.a else (BitVec.toNat v.a / 4096 + (s.cx.got.length - 1)) * 4096) ∧
    s.cx.got ≠ [] ∧
    s.piecesUnsent = true :=
  ⟨h0, 0, .g 3, .g 1, sp, s1 cl sp, vs cl sp, runs_of (by decide +kernel), runs_of (by decide +kernel), runs_of (by decide +kernel), (by decide +kernel)⟩

theorem witness_CacheMaintenance_12 :
    ∃ (h : Hd) (s : State) (s1 : State) (v : Vals),
    Runs (Instr.ifence h) s v s1 ∧
    Performed s 1 :=
  ⟨h0, si, s1 ifc si, vs ifc si, runs_of (by decide +kernel), (by unfold Performed; decide +kernel)⟩

end T2

/-! Witnesses that the hypotheses of AtomicsAndMemoryCountersLeave, LocalCountersAndWaits, PredicatedOffChangesOnlyPc,
IssueTraps, TrapEntry, CallsIntoTheSystemAndReturn, ClockAndIdentity can be met. -/
namespace T3

def av : AOp := ⟨.i32, false, 2, 3, 0x105⟩
def a1 : Instr := .aadd h0 0 (.g 1) (.g 4) (.g 2) av
def c1 : Instr := .cadd h0 2 (.mem 4) (.g 2)
def c2 : Instr := .cfadd h0 2 (.q 1) (.mem 4) (.g 2)
def c3 : Instr := .cread h0 2 (.q 1) (.mem 4)
def c4 : Instr := .cpoll h0 2 5 (.mem 4) (.g 2)
def kl : Core := { kn with lcs := [(16*8+3, 100#64), (16*8+4, 0xFFFFFFFFFFFFFFFF#64)] }
def sl := st tx kl
def d1 : Instr := .cadd h0 2 (.lc 3) (.g 2)
def d2 : Instr := .cfadd h0 2 (.g 1) (.lc 3) (.g 2)
def d3 : Instr := .cread h0 2 (.g 1) (.lc 3)
def d4 : Instr := .cpoll h0 2 5 (.lc 3) (.g 2)
def d5 : Instr := .cfadd h0 2 (.q 1) (.lc 4) (.g 2)
def d6 : Instr := .cwait h0 2 5 (.lc 3) (.g 2) none
def d7 : Instr := .cwait h0 2 0 (.lc 3) (.g 3) (some 7)
def kc : Instr := .cwait h0 2 5 (.mem 4) (.g 2) none
def sg1 : State := st { tx with got := [toBytes 3 8] } kn
def sg0 : State := st { tx with got := [toBytes 2 8] } kn
def sg2 : State := st { tx with got := [toBytes 2 8, toBytes 3 8] } kn
def p1 : Instr := .add {h0 with pneg := true, pred := 1} (.q 3) (.q 4) (.q 5)
def r1 : Instr := .add h0 (.g 1) .lit (.g 2)
def ti : Instr := .tinfo h0 (.q 0) (.g 1) 5
def r2 : Instr := .eret h0
def r3 : Instr := .add h0 (.g 1) (.link 0) (.g 2)
def se : State := st {tx with sdExp := 100, trapVa := 0x8000} kn
def sh : State := st {tx with sdExp := 100, trapVa := 0x8000, trapCause := 0x101#64} kn
def sv : Instr := .svc h0 (.q 0)
def bk : Instr := .brk h0 (.q 0)
def sy : State := st {tx with status := 0x0001400000000000#64, trapPc := 0x4000#64, trapStatus := 0x0001000000000000#64, trapCause := 0x101#64} kn
def er : Instr := .eret h0
def rd : Instr := .rdclk h0 (.q 1)
def lw : Instr := .leasewait h0 (.g 1) .z
def lw2 : Instr := .leasewait h0 (.g 1) (.g 2)
def idn : Instr := .ident h0 (.g 1) (.g 2)

theorem witness_AtomicsAndMemoryCountersLeave_1 :
    ∃ (i : Instr) (op : Nat) (form : BitVec 2) (d : Opd) (a : AOp) (s : State) (s1 : State) (v : Vals),
    Runs i s v s1 ∧
    Passes s ∧
    Settled s ∧
    StaysHere s1 ∧
    atomicForm i = some (op, form, d, a) ∧
    BitVec.toNat v.a < 2 ^ 48 ∧
    BitVec.toNat v.a % atomWidth a.ty = 0 :=
  ⟨a1, 0, 0, .g 1, av, sn, s1 a1 sn, vs a1 sn, runs_of (by decide +kernel), (by unfold Passes; decide +kernel), (by unfold Settled Performed; decide +kernel), (by unfold StaysHere; decide +kernel), (by decide +kernel)⟩

theorem witness_AtomicsAndMemoryCountersLeave_2 :
    ∃ (h : Hd) (scope : BitVec 2) (c : BitVec 4) (d : Opd) (b : Opd) (p : BitVec 3) (s : State) (s1 : State) (v : Vals),
    Passes s ∧
    StaysHere s1 ∧
    Runs (Instr.cadd h scope (Ctr.mem c) b) s v s1 ∧
    Performed s scope.toNat ∧
    BitVec.toNat (s.cx.getG c.toNat) < 2 ^ 48 ∧
    BitVec.toNat (s.cx.getG c.toNat) % 8 = 0 :=
  ⟨h0, 2, 4, .g 1, .g 2, 5, sn, s1 c1 sn, vs c1 sn, (by unfold Passes; decide +kernel), (by unfold StaysHere; decide +kernel), runs_of (by decide +kernel), (by unfold Performed; decide +kernel), (by decide +kernel)⟩

theorem witness_AtomicsAndMemoryCountersLeave_3 :
    ∃ (h : Hd) (scope : BitVec 2) (c : BitVec 4) (d : Opd) (b : Opd) (p : BitVec 3) (s : State) (s1 : State) (v : Vals),
    Passes s ∧
    StaysHere s1 ∧
    Runs (Instr.cfadd h scope d (Ctr.mem c) b) s v s1 ∧
    Performed s scope.toNat ∧
    BitVec.toNat (s.cx.getG c.toNat) < 2 ^ 48 ∧
    BitVec.toNat (s.cx.getG c.toNat) % 8 = 0 :=
  ⟨h0, 2, 4, .q 1, .g 2, 5, sn, s1 c2 sn, vs c2 sn, (by unfold Passes; decide +kernel), (by unfold StaysHere; decide +kernel), runs_of (by decide +kernel), (by unfold Performed; decide +kernel), (by decide +kernel)⟩

theorem witness_AtomicsAndMemoryCountersLeave_4 :
    ∃ (h : Hd) (scope : BitVec 2) (c : BitVec 4) (d : Opd) (b : Opd) (p : BitVec 3) (s : State) (s1 : State) (v : Vals),
    Passes s ∧
    StaysHere s1 ∧
    Runs (Instr.cread h scope d (Ctr.mem c)) s v s1 ∧
    BitVec.toNat (s.cx.getG c.toNat) < 2 ^ 48 ∧
    BitVec.toNat (s.cx.getG c.toNat) % 8 = 0 :=
  ⟨h0, 2, 4, .q 1, .g 2, 5, sn, s1 c3 sn, vs c3 sn, (by unfold Passes; decide +kernel), (by unfold StaysHere; decide +kernel), runs_of (by decide +kernel), (by decide +kernel)⟩

theorem witness_AtomicsAndMemoryCountersLeave_5 :
    ∃ (h : Hd) (scope : BitVec 2) (c : BitVec 4) (d : Opd) (b : Opd) (p : BitVec 3) (s : State) (s1 : State) (v : Vals),
    Passes s ∧
    StaysHere s1 ∧
    Runs (Instr.cpoll h scope p (Ctr.mem c) b) s v s1 ∧
    BitVec.toNat (s.cx.getG c.toNat) < 2 ^ 48 ∧
    BitVec.toNat (s.cx.getG c.toNat) % 8 = 0 :=
  ⟨h0, 2, 4, .q 1, .g 2, 5, sn, s1 c4 sn, vs c4 sn, (by unfold Passes; decide +kernel), (by unfold StaysHere; decide +kernel), runs_of (by decide +kernel), (by decide +kernel)⟩

theorem witness_LocalCountersAndWaits_1 :
    ∃ (h : Hd) (scope : BitVec 2) (n : BitVec 4) (k : BitVec 4) (p : BitVec 3) (b : Opd) (s : State) (s1 : State) (v : Vals),
    Passes s ∧
    Performed s 0 ∧
    Runs (Instr.cadd h scope (Ctr.lc n) b) s v s1 ∧
    BitVec.toNat (s.localCounter n) + BitVec.toNat v.b < 2 ^ 64 :=
  ⟨h0, 2, 3, 1, 5, .g 2, sl, s1 d1 sl, vs d1 sl, (by unfold Passes; decide +kernel), (by unfold Performed; decide +kernel), runs_of (by decide +kernel), (by decide +kernel)⟩

theorem witness_LocalCountersAndWaits_2 :
    ∃ (h : Hd) (scope : BitVec 2) (n : BitVec 4) (k : BitVec 4) (p : BitVec 3) (b : Opd) (s : State) (s1 : State) (v : Vals),
    Passes s ∧
    Performed s 0 ∧
    Runs (Instr.cfadd h scope (Opd.g k) (Ctr.lc n) b) s v s1 ∧
    BitVec.toNat (s.localCounter n) + BitVec.toNat v.b < 2 ^ 64 :=
  ⟨h0, 2, 3, 1, 5, .g 2, sl, s1 d2 sl, vs d2 sl, (by unfold Passes; decide +kernel), (by unfold Performed; decide +kernel), runs_of (by decide +kernel), (by decide +kernel)⟩

theorem witness_LocalCountersAndWaits_3 :
    ∃ (h : Hd) (scope : BitVec 2) (n : BitVec 4) (k : BitVec 4) (p : BitVec 3) (b : Opd) (s : State) (s1 : State) (v : Vals),
    Passes s ∧
    Performed s 0 ∧
    Runs (Instr.cread h scope (Opd.g k) (Ctr.lc n)) s v s1 :=
  ⟨h0, 2, 3, 1, 5, .g 2, sl, s1 d3 sl, vs d3 sl, (by unfold Passes; decide +kernel), (by unfold Performed; decide +kernel), runs_of (by decide +kernel)⟩

theorem witness_LocalCountersAndWaits_4 :
    ∃ (h : Hd) (scope : BitVec 2) (n : BitVec 4) (k : BitVec 4) (p : BitVec 3) (b : Opd) (s : State) (s1 : State) (v : Vals),
    Passes s ∧
    Performed s 0 ∧
    Runs (Instr.cpoll h scope p (Ctr.lc n) b) s v s1 :=
  ⟨h0, 2, 3, 1, 5, .g 2, sl, s1 d4 sl, vs d4 sl, (by unfold Passes; decide +kernel), (by unfold Performed; decide +kernel), runs_of (by decide +kernel)⟩

theorem witness_LocalCountersAndWaits_5 :
    ∃ (h : Hd) (scope : BitVec 2) (n : BitVec 4) (b : Opd) (s : State) (s1 : State) (v : Vals) (d : Opd) (i : Instr),
    Passes s ∧
    Runs i s v s1 ∧
    Performed s 0 ∧
    (i = Instr.cadd h scope (Ctr.lc n) b ∨ i = Instr.cfadd h scope d (Ctr.lc n) b) ∧
    2 ^ 64 ≤ BitVec.toNat (s.localCounter n) + BitVec.toNat v.b :=
  ⟨h0, 2, 4, .g 2, sl, s1 d5 sl, vs d5 sl, .q 1, d5, (by unfold Passes; decide +kernel), runs_of (by decide +kernel), (by unfold Performed; decide +kernel), (by decide +kernel)⟩

theorem witness_LocalCountersAndWaits_6 :
    ∃ (h : Hd) (scope : BitVec 2) (n : BitVec 4) (b : Opd) (s : State) (s1 : State) (v : Vals) (lim : BitVec 5) (x : Option (BitVec 32)),
    Passes s ∧
    Runs (Instr.cwait h scope lim (Ctr.lc n) b x) s v s1 ∧
    BitVec.toNat v.b ≤ BitVec.toNat (s.localCounter n) :=
  ⟨h0, 2, 3, .g 2, sl, s1 d6 sl, vs d6 sl, 5, none, (by unfold Passes; decide +kernel), runs_of (by decide +kernel), (by decide +kernel)⟩

theorem witness_LocalCountersAndWaits_7 :
    ∃ (h : Hd) (scope : BitVec 2) (n : BitVec 4) (b : Opd) (s : State) (s1 : State) (v : Vals) (lim : BitVec 5) (x : Option (BitVec 32)),
    Passes s ∧
    Runs (Instr.cwait h scope lim (Ctr.lc n) b x) s v s1 ∧
    BitVec.toNat (s.localCounter n) < BitVec.toNat v.b :=
  ⟨h0, 2, 3, .g 3, sl, s1 d7 sl, vs d7 sl, 0, some 7, (by unfold Passes; decide +kernel), runs_of (by decide +kernel), (by decide +kernel)⟩

theorem witness_LocalCountersAndWaits_8 :
    ∃ (h : Hd) (scope : BitVec 2) (n : BitVec 4) (b : Opd) (s : State) (s1 : State) (v : Vals) (lim : BitVec 5) (c : BitVec 4) (x : Option (BitVec 32)),
    Passes s ∧
    Runs (Instr.cwait h scope lim (Ctr.mem c) b x) s v s1 ∧
    StaysHere s1 ∧
    BitVec.toNat (s.cx.getG c.toNat) < 2 ^ 48 ∧
    BitVec.toNat (s.cx.getG c.toNat) % 8 = 0 ∧
    s.cx.got = [] :=
  ⟨h0, 2, 0, .g 2, sn, s1 kc sn, vs kc sn, 5, 4, none, (by unfold Passes; decide +kernel), runs_of (by decide +kernel), (by unfold StaysHere; decide +kernel), (by decide +kernel)⟩

theorem witness_LocalCountersAndWaits_9 :
    ∃ (h : Hd) (scope : BitVec 2) (n : BitVec 4) (b : Opd) (s : State) (s1 : State) (v : Vals) (lim : BitVec 5) (c : BitVec 4) (x : Option (BitVec 32)) (r : List Byte),
    Passes s ∧
    Runs (Instr.cwait h scope lim (Ctr.mem c) b x) s v s1 ∧
    StaysHere s1 ∧
    BitVec.toNat (s.cx.getG c.toNat) < 2 ^ 48 ∧
    BitVec.toNat (s.cx.getG c.toNat) % 8 = 0 ∧
    s.cx.got = [r] ∧
    BitVec.toNat v.b ≤ ofBytes r :=
  ⟨h0, 2, 0, .g 2, sg1, s1 kc sg1, vs kc sg1, 5, 4, none, toBytes 3 8, (by unfold Passes; decide +kernel), runs_of (by decide +kernel), (by unfold StaysHere; decide +kernel), (by decide +kernel)⟩

theorem witness_LocalCountersAndWaits_10 :
    ∃ (h : Hd) (scope : BitVec 2) (n : BitVec 4) (b : Opd) (s : State) (s1 : State) (v : Vals) (lim : BitVec 5) (c : BitVec 4) (x : Option (BitVec 32)) (r : List Byte),
    Passes s ∧
    Runs (Instr.cwait h scope lim (Ctr.mem c) b x) s v s1 ∧
    StaysHere s1 ∧
    BitVec.toNat (s.cx.getG c.toNat) < 2 ^ 48 ∧
    BitVec.toNat (s.cx.getG c.toNat) % 8 = 0 ∧
    s.cx.got = [r] ∧
    ofBytes r < BitVec.toNat v.b :=
  ⟨h0, 2, 0, .g 2, sg0, s1 kc sg0, vs kc sg0, 5, 4, none, toBytes 2 8, (by unfold Passes; decide +kernel), runs_of (by decide +kernel), (by unfold StaysHere; decide +kernel), (by decide +kernel)⟩

theorem witness_LocalCountersAndWaits_11 :
    ∃ (h : Hd) (scope : BitVec 2) (n : BitVec 4) (b : Opd) (s : State) (s1 : State) (v : Vals) (lim : BitVec 5) (c : BitVec 4) (x : Option (BitVec 32)),
    Passes s ∧
    Runs (Instr.cwait h scope lim (Ctr.mem c) b x) s v s1 ∧
    StaysHere s1 ∧
    BitVec.toNat (s.cx.getG c.toNat) < 2 ^ 48 ∧
    BitVec.toNat (s.cx.getG c.toNat) % 8 = 0 ∧
    2 ≤ s.cx.got.length :=
  ⟨h0, 2, 0, .g 2, sg2, s1 kc sg2, vs kc sg2, 5, 4, none, (by unfold Passes; decide +kernel), runs_of (by decide +kernel), (by unfold StaysHere; decide +kernel), (by decide +kernel)⟩

theorem witness_PredicatedOffChangesOnlyPc_1 :
    ∃ (i : Instr) (f : Frame) (s : State),
    frameOf i = some f ∧
    ¬f.holds s ∧
    f.reserved s = none :=
  ⟨p1, (frameOf p1).getD {h := h0}, s0, rfl, (by unfold Frame.holds; decide +kernel), (by decide +kernel)⟩

theorem witness_IssueTraps_1 :
    ∃ (i : Instr) (f : Frame) (s : State),
    frameOf i = some f ∧
    f.ill s = true :=
  ⟨ti, (frameOf ti).getD {h := h0}, s0, rfl, (by decide +kernel)⟩

theorem witness_IssueTraps_2 :
    ∃ (i : Instr) (f : Frame) (s : State) (code : Nat),
    frameOf i = some f ∧
    f.ill s = false ∧
    f.reserved s = some code :=
  ⟨r1, (frameOf r1).getD {h := h0}, s0, 29, rfl, (by decide +kernel)⟩

theorem witness_PredicatedOffChangesOnlyPc_2 :
    ∃ (i : Instr) (f : Frame) (s : State) (code : Nat),
    frameOf i = some f ∧
    f.ill s = false ∧
    f.reserved s = some code :=
  ⟨r1, (frameOf r1).getD {h := h0}, s0, 29, rfl, (by decide +kernel)⟩

theorem witness_IssueTraps_3 :
    ∃ (i : Instr) (f : Frame) (s : State),
    frameOf i = some f ∧
    f.holds s ∧
    f.ill s = false ∧
    f.reserved s = none ∧
    f.priv s.cx = true :=
  ⟨r2, (frameOf r2).getD {h := h0}, s0, rfl, (by unfold Frame.holds; decide +kernel), (by decide +kernel)⟩

theorem witness_IssueTraps_4 :
    ∃ (i : Instr) (f : Frame) (s : State) (code : Nat),
    frameOf i = some f ∧
    f.holds s ∧
    f.ill s = false ∧
    f.reserved s = none ∧
    f.priv s.cx = false ∧
    f.offDie s = some code :=
  ⟨r3, (frameOf r3).getD {h := h0}, s0, 24, rfl, (by unfold Frame.holds; decide +kernel), (by decide +kernel)⟩

theorem witness_TrapEntry_1 :
    ∃ (s : State) (cause : Cause) (i0 : Nat) (i1 : Nat) (i2 : Nat),
    s.cx.held = false ∧
    s.cx.sdLive s.leaseNow = true ∧
    s.cx.trapVa ≠ 0 :=
  ⟨se, .svc, 1, 2, 3, (by decide +kernel)⟩

theorem witness_TrapEntry_2 :
    ∃ (s : State) (cause : Cause) (i0 : Nat) (i1 : Nat) (i2 : Nat),
    s.cx.held = true :=
  ⟨sh, .svc, 1, 2, 3, (by decide +kernel)⟩

theorem witness_CallsIntoTheSystemAndReturn_1 :
    ∃ (h : Hd) (a : Opd) (s : State) (s1 : State) (v : Vals),
    Passes s ∧
    Runs (Instr.svc h a) s v s1 :=
  ⟨h0, .q 0, se, s1 sv se, vs sv se, (by unfold Passes; decide +kernel), runs_of (by decide +kernel)⟩

theorem witness_CallsIntoTheSystemAndReturn_2 :
    ∃ (h : Hd) (a : Opd) (s : State) (s1 : State) (v : Vals),
    Passes s ∧
    Runs (Instr.brk h a) s v s1 :=
  ⟨h0, .q 0, se, s1 bk se, vs bk se, (by unfold Passes; decide +kernel), runs_of (by decide +kernel)⟩

theorem witness_CallsIntoTheSystemAndReturn_3 :
    ∃ (h : Hd) (s : State) (s1 : State) (v : Vals),
    Runs (Instr.eret h) s v s1 ∧
    Passes s ∧
    BitVec.toNat s.cx.trapPc % 4 = 0 ∧
    BitVec.toNat s.cx.trapPc < 2 ^ 48 :=
  ⟨h0, sy, s1 er sy, vs er sy, runs_of (by decide +kernel), (by unfold Passes; decide +kernel), (by decide +kernel)⟩

theorem witness_ClockAndIdentity_1 :
    ∃ (h : Hd) (d : Opd) (a : Opd) (s : State) (s1 : State) (v : Vals),
    Runs (Instr.rdclk h d) s v s1 :=
  ⟨h0, .q 1, .g 1, s0, s1 rd s0, vs rd s0, runs_of (by decide +kernel)⟩

theorem witness_ClockAndIdentity_2 :
    ∃ (h : Hd) (d : Opd) (a : Opd) (s : State) (s1 : State) (v : Vals),
    Runs (Instr.leasewait h d a) s v s1 ∧
    BitVec.toNat v.a ≤ s.leaseNow % 2 ^ 64 :=
  ⟨h0, .g 1, .z, s0, s1 lw s0, vs lw s0, runs_of (by decide +kernel), (by decide +kernel)⟩

theorem witness_ClockAndIdentity_3 :
    ∃ (h : Hd) (d : Opd) (a : Opd) (s : State) (s1 : State) (v : Vals),
    Runs (Instr.leasewait h d a) s v s1 ∧
    s.leaseNow % 2 ^ 64 < BitVec.toNat v.a :=
  ⟨h0, .g 1, .g 2, s0, s1 lw2 s0, vs lw2 s0, runs_of (by decide +kernel), (by decide +kernel)⟩

theorem witness_ClockAndIdentity_4 :
    ∃ (h : Hd) (d : Opd) (a : Opd) (s : State) (s1 : State) (v : Vals),
    Runs (Instr.ident h d a) s v s1 :=
  ⟨h0, .g 1, .g 2, s0, s1 idn s0, vs idn s0, runs_of (by decide +kernel)⟩

end T3

/-! Witnesses that the hypotheses of LackingQueueBlocks, SystemRegisters can be met. -/
namespace T4

def r4 : Instr := .add h0 (.g 1) (.q 0) (.g 2)
def sy : State := st {tx with status := 0x0001810000000005#64, trapPc := 0x4000#64, trapStatus := 0x0001000000000000#64, trapCause := 0x101#64, g := [(6, 0xFEDCBA9876543210#64), (1,0xFFFFFFFFFFFFFFFF#64)], flags := 3, toor := 9, preds := 0x81} kn

theorem witness_LackingQueueBlocks_1 :
    ∃ (i : Instr) (f : Frame) (s : State) (q : Nat),
    frameOf i = some f ∧
    f.holds s ∧
    f.ill s = false ∧
    f.reserved s = none ∧
    f.priv s.cx = false ∧
    f.offDie s = none ∧
    s.cx.latch = none ∧
    f.roles.lacks s = some q :=
  ⟨r4, (frameOf r4).getD {h := h0}, s0, 0, rfl, (by unfold Frame.holds; decide +kernel), (by decide +kernel)⟩

theorem witness_SystemRegisters_1 :
    ∃ (h : Hd) (d : Opd) (na : BitVec 5) (nb : BitVec 5) (s : State) (s1 : State) (v : Vals) (m : Nat),
    Runs (Instr.syswr h d na nb) s v s1 ∧
    localRegMask (nb.toNat * 32 + na.toNat) = some m :=
  ⟨h0, .g 1, 1#5, 0#5, sy, s1 (.syswr h0 (.g 1) 1#5 0#5) sy, vs (.syswr h0 (.g 1) 1#5 0#5) sy, (localRegMask 1).getD 0, runs_of (by decide +kernel), (by decide +kernel)⟩

theorem witness_SystemRegisters_2 :
    ∃ (num : Nat) (value : Nat) (m : Nat) (s : State),
    cubeRegMask num = some m ∧
    s.ev = some (Ev.registerWrite num value) :=
  ⟨128, 0xFEDCBA9876543210, (cubeRegMask 128).getD 0, { sy with ev := some (.registerWrite 128 0xFEDCBA9876543210)}, (by decide +kernel)⟩

theorem witness_SystemRegisters_3 :
    ∃ (h : Hd) (d : Opd) (na : BitVec 5) (nb : BitVec 5) (s : State) (s1 : State) (v : Vals),
    Runs (Instr.syswr h d na nb) s v s1 ∧
    128 ≤ nb.toNat * 32 + na.toNat ∧
    nb.toNat * 32 + na.toNat ≠ 265 :=
  ⟨h0, .g 1, 0#5, 4#5, sy, s1 (.syswr h0 (.g 1) 0#5 4#5) sy, vs (.syswr h0 (.g 1) 0#5 4#5) sy, runs_of (by decide +kernel), (by decide +kernel)⟩

theorem witness_SystemRegisters_4 :
    ∃ (h : Hd) (d : Opd) (na : BitVec 5) (nb : BitVec 5) (s : State) (s1 : State) (v : Vals),
    Runs (Instr.sysrd h d na nb) s v s1 :=
  ⟨h0, .g 1, 0#5, 0#5, sy, s1 (.sysrd h0 (.g 1) 0#5 0#5) sy, vs (.sysrd h0 (.g 1) 0#5 0#5) sy, runs_of (by decide +kernel)⟩

end T4

/-! Witnesses that the hypotheses of VectorElementResult, VectorCompareAndReturn can be met. -/
namespace T7

def vd : List (Nat × Byte) := ((List.range 1280).filter fun k => k % 7 == 3 || k % 64 < 4).filterMap fun k => let b : Byte := BitVec.ofNat 8 (k * 37 + k / 256 * 11 + k/7); if b = 0 then none else some (k, b)
def vt : Ctx := { tx with status := 0x0001040000000000#64, masks := [(1, 0xF0F0F0F0A5A5A5A55555555533333333FFFF00001234567800FF00FFCAFEBABE#256)] }
def vk : Core := { kn with groups := [(0, { members := [0], blocks := 2, v := vd })] }
def sv : State := st vt vk
def vo : VOp := ⟨1, 2, 3, 4, 1, .f32, 0, false, false, 0, 0, 0⟩
def vform : VecForm := (vecForm (.vadd h0 .z vo)).getD ⟨0, 1, [], fun _ _ _ => none, fun _ => True, fun _ => 0#5⟩
def vf (i : Instr) : VecForm := (vecForm i).getD vform
def svc : State := st vt { vk with codebooks := [(3, (true, [1,2,3,4,5,6,7,8,9,10,11,12,13,14,255,128]))] }
def vc1 : VOp := {vo with x4 := 0, ty := .i16}
def i1 : Instr := .vcmp h0 2 (.g 0) vc1
def vc3 : VOp := {vo with x1 := 0, x3 := 0, x4 := 0, ty := .i16}
def rf (i : Instr) := (redForm i).getD (.z, vo, fun _ => (0, 0))
def i3 (t : Ty) : Instr := .vredAdd h0 (.g 1) {vc3 with ty := t}
def vc6 : VOp := {vo with x1 := 0, x3 := 0, x4 := 0, msk := 0, ty := .i16}
def i6 : Instr := .vext h0 (.q 1) (.g 6) vc6

theorem witness_VectorElementResult_1 :
    ∃ (i : Instr) (r : VecForm) (s : State) (s1 : State) (v : Vals),
    vecForm i = some r ∧
    Runs i s v s1 ∧
    s1.regsReady r.regs ∧
    i.wf = true ∧
    r.ok s1 :=
  ⟨.vcb h0 {vo with ty := .i8, x4 := 0}, vf (.vcb h0 {vo with ty := .i8, x4 := 0}), svc, s1 (.vcb h0 {vo with ty := .i8, x4 := 0}) svc, vs (.vcb h0 {vo with ty := .i8, x4 := 0}) svc, rfl, runs_of (by decide +kernel), (by unfold State.regsReady; decide +kernel), (by decide +kernel), (by show _ ∧ _; decide +kernel)⟩

theorem witness_VectorCompareAndReturn_1 :
    ∃ (h : Hd) (s : State) (s1 : State) (x : Vals) (cond : BitVec 3) (a : Opd) (v : VOp),
    Runs (Instr.vcmp h cond a v) s x s1 ∧
    (s1.regsReady ([v.x2.toNat] ++ if v.bs = true then [] else [v.x3.toNat])) ∧
    (Instr.vcmp h cond a v).wf = true :=
  ⟨h0, sv, s1 i1 sv, vs i1 sv, 2, (.g 0), vc1, runs_of (by decide +kernel), (by unfold State.regsReady; decide +kernel), (by decide +kernel)⟩

theorem witness_VectorCompareAndReturn_2 :
    ∃ (h : Hd) (s : State) (s1 : State) (x : Vals) (i : Instr) (d : Opd) (v : VOp) (f : State → Nat × FFlags),
    Runs i s x s1 ∧
    s1.regsReady [v.x2.toNat] ∧
    i.wf = true ∧
    redForm i = some (d, v, f) :=
  ⟨h0, sv, s1 (i3 .i16) sv, vs (i3 .i16) sv, i3 .i16, (.g 1), {vc3 with ty := .i16}, (rf (i3 .i16)).2.2, runs_of (by decide +kernel), (by unfold State.regsReady; decide +kernel), (by decide +kernel), rfl⟩

theorem witness_VectorCompareAndReturn_3 :
    ∃ (h : Hd) (s : State) (s1 : State) (x : Vals) (d : Opd) (b : Opd) (v : VOp),
    Runs (Instr.vext h d b v) s x s1 ∧
    s1.regsReady [v.x2.toNat] ∧
    (Instr.vext h d b v).wf = true :=
  ⟨h0, sv, s1 i6 sv, vs i6 sv, .q 1, .g 6, vc6, runs_of (by decide +kernel), (by unfold State.regsReady; decide +kernel), (by decide +kernel)⟩

end T7

/-! Witnesses that the hypotheses of VectorTileAndMemoryAccess, VectorPool can be met. -/
namespace T9

def vd : List (Nat × Byte) := ((List.range 1280).filter fun k => k % 7 == 3 || k % 64 < 4).filterMap fun k => let b : Byte := BitVec.ofNat 8 (k * 37 + k / 256 * 11 + k/7); if b = 0 then none else some (k, b)
def vt : Ctx := { tx with status := 0x0001040000000000#64, masks := [(1, 0xF0F0F0F0A5A5A5A55555555533333333FFFF00001234567800FF00FFCAFEBABE#256)] }
def vk : Core := { kn with groups := [(0, { members := [0], blocks := 2, v := vd })] }
def sv : State := st vt vk
def vo : VOp := ⟨1, 2, 3, 4, 1, .f32, 0, false, false, 0, 0, 0⟩
def e1 : Tile := { kind := 0, level := 0, pinned := false, ownk := 0, ownid := 0, rows := 4, ppr := 2, slots := 0, bbank := 0, bpeck := 1, head := 0, tail := 0, occ := 0, acore := 0 }
def svt0 : State := st vt { vk with tiles := [(2, e1)] }
def svt : State := (List.range 4).foldl (fun s p => s.tileWrite e1 0 p 0 ((List.range 384).map fun k => BitVec.ofNat 8 (k*3+p))) svt0
def tv : VOp := {vo with x3 := 0, x4 := 0, ty := .i16}
def j1 : Instr := .vldT h0 (.g 5) (.g 2) tv
def j2 : Instr := .vstT h0 (.g 5) (.g 1) tv
def vmd : VMemForm := ⟨0, false, vo, [], fun _ _ _ => 0⟩
def vm (i : Instr) : VMemForm := (vmemForm i).getD vmd
def vt1 : Ctx := { vt with masks := [(2, 0x20#256)], g := [(1, 5#64), (3, 0x10038#64), (4, 4#64), (2, 3#64)] }
def near1 : NLine := { nl with o := 0xFFFFFFFF#32 }
def sm1 : State := st vt1 { vk with near := [nl2, near1] }
def lv : VOp := {vo with x2 := 0, x3 := 0, x4 := 0, ty := .i16, msk := 2, part := 3}
def k1 : Instr := .vld h0 (.g 3) (.g 4) lv
def k2 : Instr := .vst h0 (.g 3) (.g 4) lv
def sm3 : State := st {vt1 with masks := []} { vk with near := [nl2, near1] }
def y1 : Instr := .vclaim h0 (.g 5)
def sp : State := st vt { vk with groups := [(0, {members := [0]})] }
def sp2 : State := { cores := [(0, { ctxs := [(0, {vt with wait := .claim})], claims := [{group := 0, n := 2, ctx := some 0, bytes := 4, job := 0}] })], ev := some (.vclaimServe 0) }
def y2 : Instr := .vtry h0 (.g 5)
def y3 : Instr := .vyield h0 (.g 5)

theorem witness_VectorTileAndMemoryAccess_1 :
    ∃ (h : Hd) (a : Opd) (b : Opd) (v : VOp) (e : Tile) (s : State) (s1 : State) (x : Vals),
    s1.regsReady [v.x1.toNat] ∧
    Runs (Instr.vldT h a b v) s x s1 ∧
    (s.core s.me).tile v.x2.toNat = some e ∧
    (Instr.vldT h a b v).wf = true ∧
    (∀ (j k : Nat),
  s.on v.msk j = true →
    j < 256 / v.ty.width →
      k < v.ty.width →
        e.inside (BitVec.toNat x.a) (BitVec.toNat x.b + j * v.ty.width + k) = true →
          s.peckFull e s.me (BitVec.toNat x.a) (BitVec.toNat x.b + j * v.ty.width + k) = true) :=
  ⟨h0, .g 5, .g 2, tv, e1, svt, s1 j1 svt, vs j1 svt, (by unfold State.regsReady; decide +kernel), runs_of (by decide +kernel), (by decide +kernel), (by decide +kernel),
    (have h : ∀ j, j < 256 / tv.ty.width → ∀ k, k < tv.ty.width → svt.on tv.msk j = true →
        e1.inside (BitVec.toNat (vs j1 svt).a) (BitVec.toNat (vs j1 svt).b + j * tv.ty.width + k) = true →
        svt.peckFull e1 svt.me (BitVec.toNat (vs j1 svt).a) (BitVec.toNat (vs j1 svt).b + j * tv.ty.width + k) = true := by
      decide +kernel
    fun j k a b c d => h j b k c a d)⟩

theorem witness_VectorTileAndMemoryAccess_2 :
    ∃ (h : Hd) (a : Opd) (b : Opd) (v : VOp) (e : Tile) (s : State) (s1 : State) (x : Vals),
    s1.regsReady [v.x1.toNat] ∧
    Runs (Instr.vstT h a b v) s x s1 ∧
    (s.core s.me).tile v.x2.toNat = some e ∧
    (Instr.vstT h a b v).wf = true :=
  ⟨h0, .g 5, .g 1, tv, e1, svt, s1 j2 svt, vs j2 svt, (by unfold State.regsReady; decide +kernel), runs_of (by decide +kernel), (by decide +kernel)⟩

theorem witness_VectorTileAndMemoryAccess_3 :
    ∃ (i : Instr) (m : VMemForm) (s : State) (s1 : State) (x : Vals) (j : Nat) (l : NLine),
    vmemForm i = some m ∧
    Runs i s x s1 ∧
    s1.regsReady m.regs ∧
    StaysHere s1 ∧
    i.wf = true ∧
    s.cx.got = [] ∧
    j < 256 / m.v.ty.width ∧
    (∀ (k : Nat), k < 256 / m.v.ty.width → (s.on m.v.msk k = true ↔ k = j)) ∧
    BitVec.toNat (m.ea s x j) < 2 ^ 48 ∧
    BitVec.toNat (m.ea s x j) % m.v.ty.width = 0 ∧
    s1.plan (BitVec.toNat (m.ea s x j)) m.v.ty.width m.v.part.toNat m.store true = Plan.hit ∧
    (s1.core s.me).nearLine s.cx.space (BitVec.toNat (m.ea s x j) / 128) = some l ∧
    l.data.length = 128 ∧
    m.store = false :=
  ⟨k1, vm k1, sm1, s1 k1 sm1, vs k1 sm1, 5, near1, rfl, runs_of (by decide +kernel), (by unfold State.regsReady; decide +kernel), (by unfold StaysHere; decide +kernel), (by decide +kernel)⟩

theorem witness_VectorTileAndMemoryAccess_4 :
    ∃ (i : Instr) (m : VMemForm) (s : State) (s1 : State) (x : Vals) (j : Nat) (l : NLine),
    vmemForm i = some m ∧
    Runs i s x s1 ∧
    s1.regsReady m.regs ∧
    StaysHere s1 ∧
    i.wf = true ∧
    s.cx.got = [] ∧
    j < 256 / m.v.ty.width ∧
    (∀ (k : Nat), k < 256 / m.v.ty.width → (s.on m.v.msk k = true ↔ k = j)) ∧
    BitVec.toNat (m.ea s x j) < 2 ^ 48 ∧
    BitVec.toNat (m.ea s x j) % m.v.ty.width = 0 ∧
    s1.plan (BitVec.toNat (m.ea s x j)) m.v.ty.width m.v.part.toNat m.store true = Plan.hit ∧
    (s1.core s.me).nearLine s.cx.space (BitVec.toNat (m.ea s x j) / 128) = some l ∧
    l.data.length = 128 ∧
    m.store = true :=
  ⟨k2, vm k2, sm1, s1 k2 sm1, vs k2 sm1, 5, near1, rfl, runs_of (by decide +kernel), (by unfold State.regsReady; decide +kernel), (by unfold StaysHere; decide +kernel), (by decide +kernel)⟩

theorem witness_VectorTileAndMemoryAccess_5 :
    ∃ (i : Instr) (m : VMemForm) (s : State) (s1 : State) (x : Vals),
    vmemForm i = some m ∧
    Runs i s x s1 ∧
    s1.regsReady m.regs ∧
    StaysHere s1 ∧
    i.wf = true ∧
    s.cx.got = [] ∧
    (∀ (j : Nat), j < 256 / m.v.ty.width → s.on m.v.msk j = false) :=
  ⟨k2, vm k2, sm3, s1 k2 sm3, vs k2 sm3, rfl, runs_of (by decide +kernel), (by unfold State.regsReady; decide +kernel), (by unfold StaysHere; decide +kernel), (by decide +kernel)⟩

theorem witness_VectorPool_1 :
    ∃ (h : Hd) (a : Opd) (s : State) (s1 : State) (v : Vals),
    Runs (Instr.vclaim h a) s v s1 ∧
    s.cx.gv = true ∧
    v.a ≠ 0#64 ∧
    BitVec.toNat v.a ≤ 8 ∧
    ((s.core s.me).group s.cx.group).blocks = 0 ∧
    (∀ (q : Claim), q ∈ (s.core s.me).claims → q.group ≠ s.cx.group) :=
  ⟨h0, .g 5, sp, s1 y1 sp, vs y1 sp, runs_of (by decide +kernel), (by decide +kernel)⟩

theorem witness_VectorPool_2 :
    ∃ (h : Hd) (a : Opd) (s : State) (s1 : State) (v : Vals) (core : Nat) (x : Nat) (q : Claim) (r : List Claim),
    s.cx.gv = true ∧
    v.a ≠ 0#64 ∧
    (s.core core).claims = q :: r ∧
    q.n ≤ (s.core core).freeBlocks ∧
    q.ctx = some x ∧
    s.ev = some (Ev.vclaimServe core) :=
  ⟨h0, .g 5, {sp2 with }, sp2, vs y1 sp, 0, 0, {group := 0, n := 2, ctx := some 0, bytes := 4, job := 0}, [], (by decide +kernel)⟩

theorem witness_VectorPool_3 :
    ∃ (h : Hd) (a : Opd) (s : State) (s1 : State) (v : Vals),
    Runs (Instr.vtry h a) s v s1 ∧
    s.cx.gv = true ∧
    v.a ≠ 0#64 ∧
    ((s.core s.me).group s.cx.group).blocks + BitVec.toNat v.a ≤ 8 :=
  ⟨h0, .g 5, sp, s1 y2 sp, vs y2 sp, runs_of (by decide +kernel), (by decide +kernel)⟩

theorem witness_VectorPool_4 :
    ∃ (h : Hd) (a : Opd) (s : State) (s1 : State) (v : Vals),
    Runs (Instr.vyield h a) s v s1 ∧
    s.cx.gv = true ∧
    v.a ≠ 0#64 ∧
    BitVec.toNat v.a ≤ ((s.core s.me).group s.cx.group).blocks ∧
    ((s.core s.me).group s.cx.group).giver = none ∧
    (∀ (r : Nat), (s1.pending fun x => x == r) = false) :=
  ⟨h0, .g 5, sv, s1 y3 sv, vs y3 sv, runs_of (by decide +kernel), (by decide +kernel), (by decide +kernel), (by decide +kernel), (by decide +kernel), (fun _ => pending_none (by decide +kernel))⟩

end T9

/-! Witnesses that the hypotheses of TileAllocation, RingsAndRows can be met. -/
namespace T10

def vd : List (Nat × Byte) := ((List.range 1280).filter fun k => k % 7 == 3 || k % 64 < 4).filterMap fun k => let b : Byte := BitVec.ofNat 8 (k * 37 + k / 256 * 11 + k/7); if b = 0 then none else some (k, b)
def vt : Ctx := { tx with status := 0x0001040000000000#64, masks := [(1, 0xF0F0F0F0A5A5A5A55555555533333333FFFF00001234567800FF00FFCAFEBABE#256)] }
def vk : Core := { kn with groups := [(0, { members := [0], blocks := 2, v := vd })] }
def e1 : Tile := { kind := 0, level := 0, pinned := false, ownk := 0, ownid := 0, rows := 4, ppr := 2, slots := 0, bbank := 0, bpeck := 1, head := 0, tail := 0, occ := 0, acore := 0 }
def er : Tile := { e1 with kind := 1, slots := 3, bpeck := 20, head := 3, tail := 1, occ := 2 }
def ef : Tile := { er with occ := 4, tail := 3 }
def ee : Tile := { er with occ := 0, tail := 3 }
def kt : Core := { vk with tiles := [(2, e1), (3, er), (4, ef), (5, ee)] }
def tt : Ctx := { vt with g := [(1, 0x2004#64), (2, 0x100000#64), (3, 0x13FF#64), (5, 1#64), (4, 0#64), (7, 2#64), (8,0x83C04#64)] }
def stl : State := st tt { kt with fulls := (List.range 48).flatMap fun k => (List.range 10).map fun p => (k * 256 + 20 + p, 1#1) }
def ta (g : BitVec 4) (n : BitVec 6) : Instr := .talloc h0 (.g 9) (.g g) n
def tf : Instr := .tfree h0 3
def ti (b : BitVec 4) : Instr := .tinfo h0 (.g 9) (.g b) 3
def rp (n : BitVec 6) : Instr := .rpush h0 (.g 9) n
def rq (n : BitVec 6) : Instr := .rpop h0 (.g 9) n
def rs (n : BitVec 6) : Instr := .rstate h0 (.g 9) n
def rw' (a : BitVec 4) (n : BitVec 6) : Instr := .rwait h0 (.g a) (.g 1) n
def te : Instr := .tempty h0 (.g 5) (.g 7) 2
def tz : Instr := .tzero h0 (.g 5) (.g 4) 2

theorem witness_TileAllocation_1 :
    ∃ (h : Hd) (d : Opd) (a : Opd) (b : Opd) (n : BitVec 6) (s : State) (s1 : State) (v : Vals),
    Runs (Instr.talloc h d a n) s v s1 :=
  ⟨h0, .g 9, .g 1, .g 5, 9, stl, s1 (ta 1 9) stl, vs (ta 1 9) stl, runs_of (by decide +kernel)⟩

theorem witness_TileAllocation_2 :
    ∃ (h : Hd) (d : Opd) (a : Opd) (b : Opd) (n : BitVec 6) (s : State) (s1 : State) (v : Vals),
    Runs (Instr.talloc h d a n) s v s1 ∧
    shapeTile (BitVec.toNat v.a) (s.cx.tileOwner s.mx).fst (s.cx.tileOwner s.mx).snd (s.me % 16) = none ∧
    (List.any (s.core s.me).tiles fun x => x.fst == n.toNat) = false :=
  ⟨h0, .g 9, .g 2, .g 5, 9, stl, s1 (ta 2 9) stl, vs (ta 2 9) stl, runs_of (by decide +kernel), (by decide +kernel)⟩

theorem witness_TileAllocation_3 :
    ∃ (h : Hd) (d : Opd) (a : Opd) (b : Opd) (n : BitVec 6) (s : State) (s1 : State) (v : Vals) (e : Tile),
    Runs (Instr.tfree h n) s v s1 ∧
    (s.core s.me).tile n.toNat = some e ∧
    e.freeBy s.cx s.mx = true :=
  ⟨h0, .g 9, .g 3, .g 5, 3, stl, s1 tf stl, vs tf stl, er, runs_of (by decide +kernel), (by decide +kernel)⟩

theorem witness_TileAllocation_4 :
    ∃ (h : Hd) (d : Opd) (a : Opd) (b : Opd) (n : BitVec 6) (s : State) (s1 : State) (v : Vals) (e : Tile),
    Runs (Instr.tinfo h d b n) s v s1 ∧
    (s.core s.me).tile n.toNat = some e ∧
    BitVec.toNat v.b < 2 :=
  ⟨h0, .g 9, .g 3, .g 5, 3, stl, s1 (ti 5) stl, vs (ti 5) stl, er, runs_of (by decide +kernel), (by decide +kernel)⟩

theorem witness_RingsAndRows_1 :
    ∃ (h : Hd) (d : Opd) (n : BitVec 6) (e : Tile) (s : State) (s1 : State) (v : Vals),
    Runs (Instr.rpush h d n) s v s1 ∧
    (s.core s.me).tile n.toNat = some e ∧
    e.isRing = true ∧
    e.occ ≤ e.slots ∧
    (s.core s.me).producers n.toNat = [] :=
  ⟨h0, .g 9, 3, er, stl, s1 (rp 3) stl, vs (rp 3) stl, runs_of (by decide +kernel), (by decide +kernel)⟩

theorem witness_RingsAndRows_2 :
    ∃ (h : Hd) (d : Opd) (n : BitVec 6) (e : Tile) (s : State) (s1 : State) (v : Vals),
    Runs (Instr.rpush h d n) s v s1 ∧
    (s.core s.me).tile n.toNat = some e ∧
    e.isRing = true ∧
    e.slots < e.occ :=
  ⟨h0, .g 9, 4, ef, stl, s1 (rp 4) stl, vs (rp 4) stl, runs_of (by decide +kernel), (by decide +kernel)⟩

theorem witness_RingsAndRows_3 :
    ∃ (h : Hd) (d : Opd) (n : BitVec 6) (e : Tile) (s : State) (s1 : State) (v : Vals),
    Runs (Instr.rpop h d n) s v s1 ∧
    (s.core s.me).tile n.toNat = some e ∧
    e.isRing = true ∧
    e.occ ≠ 0 :=
  ⟨h0, .g 9, 3, er, stl, s1 (rq 3) stl, vs (rq 3) stl, runs_of (by decide +kernel), (by decide +kernel)⟩

theorem witness_RingsAndRows_4 :
    ∃ (h : Hd) (d : Opd) (n : BitVec 6) (e : Tile) (s : State) (s1 : State) (v : Vals),
    Runs (Instr.rpop h d n) s v s1 ∧
    (s.core s.me).tile n.toNat = some e ∧
    e.isRing = true ∧
    e.occ = 0 :=
  ⟨h0, .g 9, 5, ee, stl, s1 (rq 5) stl, vs (rq 5) stl, runs_of (by decide +kernel), (by decide +kernel)⟩

theorem witness_RingsAndRows_5 :
    ∃ (h : Hd) (d : Opd) (n : BitVec 6) (e : Tile) (s : State) (s1 : State) (v : Vals),
    Runs (Instr.rstate h d n) s v s1 ∧
    (s.core s.me).tile n.toNat = some e ∧
    e.isRing = true :=
  ⟨h0, .g 9, 3, er, stl, s1 (rs 3) stl, vs (rs 3) stl, runs_of (by decide +kernel), (by decide +kernel)⟩

theorem witness_RingsAndRows_6 :
    ∃ (h : Hd) (a : Opd) (b : Opd) (n : BitVec 6) (e : Tile) (s : State) (s1 : State) (v : Vals),
    Runs (Instr.rwait h a b n) s v s1 ∧
    (s.core s.me).tile n.toNat = some e ∧
    e.isRing = true ∧
    BitVec.toNat v.a < 3 ∧
    ((if v.a = 0#64 then e.occ ≠ 0
  else
    if v.a = 1#64 then e.occ ≤ e.slots
    else
      e.occ ≠ 0 ∧
        ∀ (r : Nat),
          r < e.slotRows →
            ∀ (y : Nat),
              y < e.rowBytes →
                e.inside (e.head * e.slotRows + r) y = true →
                  s.peckFull e s.me (e.head * e.slotRows + r) y = true) ∨
  s.cx.got ≠ []) :=
  ⟨h0, .g 4, .g 1, 3, er, stl, s1 (rw' 4 3) stl, vs (rw' 4 3) stl, runs_of (by decide +kernel), (by decide +kernel)⟩

theorem witness_RingsAndRows_7 :
    ∃ (h : Hd) (a : Opd) (b : Opd) (n : BitVec 6) (e : Tile) (s : State) (s1 : State) (v : Vals),
    Runs (Instr.rwait h a b n) s v s1 ∧
    (s.core s.me).tile n.toNat = some e ∧
    e.isRing = true ∧
    BitVec.toNat v.a < 3 ∧
    (¬if v.a = 0#64 then e.occ ≠ 0
  else
    if v.a = 1#64 then e.occ ≤ e.slots
    else
      e.occ ≠ 0 ∧
        ∀ (r : Nat),
          r < e.slotRows →
            ∀ (y : Nat),
              y < e.rowBytes →
                e.inside (e.head * e.slotRows + r) y = true →
                  s.peckFull e s.me (e.head * e.slotRows + r) y = true) ∧
    s.cx.got = [] :=
  ⟨h0, .g 4, .g 1, 5, ee, stl, s1 (rw' 4 5) stl, vs (rw' 4 5) stl, runs_of (by decide +kernel), (by decide +kernel)⟩

theorem witness_RingsAndRows_8 :
    ∃ (h : Hd) (a : Opd) (b : Opd) (n : BitVec 6) (e : Tile) (s : State) (s1 : State) (v : Vals),
    Runs (Instr.tempty h a b n) s v s1 ∧
    (s.core s.me).tile n.toNat = some e ∧
    e.isRing = false :=
  ⟨h0, .g 5, .g 7, 2, e1, stl, s1 te stl, vs te stl, runs_of (by decide +kernel), (by decide +kernel)⟩

theorem witness_RingsAndRows_9 :
    ∃ (h : Hd) (a : Opd) (b : Opd) (n : BitVec 6) (e : Tile) (s : State) (s1 : State) (v : Vals),
    Runs (Instr.tzero h a b n) s v s1 ∧
    (s.core s.me).tile n.toNat = some e ∧
    (v.b = 0#64 ∨ e.total ≤ BitVec.toNat v.a) :=
  ⟨h0, .g 5, .g 4, 2, e1, stl, s1 tz stl, vs tz stl, runs_of (by decide +kernel), (by decide +kernel)⟩

end T10

/-! Witnesses that the hypotheses of SequencerTakesInstruction, MatrixStepUpdatesAccumulator can be met. -/
namespace T11

def tA : Tile := { kind := 0, level := 0, pinned := false, ownk := 0, ownid := 0, rows := 70, ppr := 1, slots := 0, bbank := 0, bpeck := 0, head := 0, tail := 0, occ := 0, acore := 0 }
def tB : Tile := { tA with rows := 500, bpeck := 40 }
def tS : Tile := { tA with rows := 3, ppr := 2, bpeck := 100 }
def vt : Ctx := { tx with status := 0x0001040000000000#64, g := [(1, 3#64), (2, 0#64), (3, 32#64), (4,8#64)] }
def kk : Core := { tiles := [(1, tA), (2, tB), (3, tS)], groups := [(0, { members := [0], accs := 0xFF, blocks := 1 })], codebooks := [(2, (true, [1,2,3,4,5,6,7,8,9,10,11,12,13,14,255,128])), (3, (false, (List.range 16).map fun k => 0x3F80 + 16*k))], acc := [(4096*2+5, 77#32), (4096*3, 99#32)] }
def base : Machine.State := st vt kk
def mv : MOp := ⟨2, 1, 2, 0, .bf16, false, true, true, 3, 1⟩
def mi : Instr := .mmaBf16 h0 (.g 1) (.g 2) mv
def sq (i : Instr) (step va vb : Nat) : SeqSt := { ctx := 0, i := i, pc := 0x1000, step := step, h0a := 0, h0b := 0, va := va, vb := vb, flags := 0, kb := [], kbKind := false, did := 0, follow := none }
def withSeq (s : Machine.State) (q : SeqSt) : Machine.State := { s with cores := [(0, { s.core 0 with seq := some q, ctxs := [(0, { vt with wait := .seq })] })] }

theorem witness_SequencerTakesInstruction_1 :
    ∃ (i : Instr) (s : State) (s1 : State) (x : Vals) (e : Tile) (va : Nat) (vb : Nat),
    Runs i s x s1 ∧
    (s.core s.me).seq = none ∧
    seqForm x e i = some (va, vb) ∧
    (∀ (q : SeqSt), q ∈ s.cx.seqSave → q.i ≠ i) ∧
    (∀ (fn : Nat) (v : MOp),
  mmaOf i = some (fn, v) →
    bitOf ((s.core s.me).grantOf s.cx) v.x1.toNat = true ∧
      (v.isCb = true → (s1.pending fun r => r == 64 + v.x4.toNat) = false) ∧
        (s.core s.me).mmaFault fn v va vb ((s.core s.me).codebook v.x4.toNat).fst = none) ∧
    (∀ (h : Hd) (a : Opd) (v : AccOp),
  i = Instr.aload h a v ∨ i = Instr.astore h a v →
    bitOf ((s.core s.me).grantOf s.cx) v.x1.toNat = true ∧ (s.core s.me).tile v.x2.toNat = some e) ∧
    (∀ (h : Hd) (a b : Opd) (v : AccOp),
  i = Instr.adrain h a b v →
    bitOf ((s.core s.me).grantOf s.cx) v.x1.toNat = true ∧ BitVec.toNat x.a < 2 ^ 35 ∧ BitVec.toNat x.b % 4 = 0) ∧
    (∀ (h : Hd) (a b : Opd) (n : BitVec 6), i = Instr.tzero h a b n → (s.core s.me).tile n.toNat = some e ∧ vb ≠ 0) :=
  ⟨mi, base, s1 mi base, vs mi base, tA, 3, 0, runs_of (by decide +kernel), (by decide +kernel), (by decide +kernel), (by decide +kernel),
    (fun fn v h => by
      have h' : some (0, mv) = some (fn, v) := h
      cases h'; decide +kernel),
    (fun h a v e => by rcases e with e | e <;> cases e), (fun h a b v e => by cases e), (fun h a b n e => by cases e)⟩

def fS : State := withSeq (st vt { kk with fulls := (List.range 48).flatMap fun k => [0, 1, 2, 3, 40, 41, 100, 101, 102].map fun p => (k * 256 + p, 1#1) }) (sq mi 0 3 0)

theorem witness_MatrixStepUpdatesAccumulator_1 :
    ∃ (s : State) (c : Nat) (fn : Nat) (v : MOp) (q : SeqSt) (ta : Tile) (tb : Tile) (ts : Tile),
    (∀ (i : Nat), i < 64 → s.rowFull c ta (ta.operandRow q.va (if q.step = 0 then ta.head else q.h0a) i)) ∧
    (∀ (k : Nat),
  k < 48 → s.rowFull c tb (tb.operandRow q.vb (if q.step = 0 then tb.head else q.h0b) (48 * q.step + k))) ∧
    (v.sav = true ∨ v.sbv = true → s.rowFull c ts v.srow.toNat) ∧
    (s.core c).seq = some q ∧
    mmaOf q.i = some (fn, v) ∧
    q.i.wf = true ∧
    q.follow = none ∧
    q.step < v.groups fn ∧
    (s.core c).tile v.x2.toNat = some ta ∧
    (s.core c).tile v.x3.toNat = some tb ∧
    (v.sav = true ∨ v.sbv = true → (s.core c).tile v.sh.toNat = some ts) ∧
    (fn = 3 →
  ∀ (i : Nat),
    i < 64 →
      popCount (s.tileVal c ta (ta.operandRow q.va (if q.step = 0 then ta.head else q.h0a) i) (6 * q.step) 6)
          48 =
        v.stored) ∧
    (ta.isRing = true → ceilDiv 64 ta.slotRows ≤ ta.occ) ∧
    (tb.isRing = true → ceilDiv (48 * v.groups fn) tb.slotRows ≤ tb.occ) :=
  ⟨fS, 0, 0, mv, sq mi 0 3 0, tA, tB, tS,
    (have h : ∀ i, i < 64 → ∀ k, k ≤ tA.ppr → fS.peckFull tA 0 (3 + i) (128 * k) = true := by decide +kernel
    fun i hi => by simpa [sq, tA, Tile.operandRow, Tile.isRing] using rowFull_of (h i hi)),
    (have h : ∀ i, i < 48 → ∀ k, k ≤ tB.ppr → fS.peckFull tB 0 i (128 * k) = true := by decide +kernel
    fun i hi => by simpa [sq, tB, tA, Tile.operandRow, Tile.isRing] using rowFull_of (h i hi)),
    (fun _ => rowFull_of (by decide +kernel)), (by decide +kernel)⟩

end T11

/-! Witnesses that the hypotheses of SequencerTakesInstruction, AccumulatorAndTileSteps can be met. -/
namespace T13

def tA : Tile := { kind := 0, level := 0, pinned := false, ownk := 0, ownid := 0, rows := 70, ppr := 1, slots := 0, bbank := 0, bpeck := 0, head := 0, tail := 0, occ := 0, acore := 0 }
def tB : Tile := { tA with rows := 500, bpeck := 40 }
def tS : Tile := { tA with rows := 3, ppr := 2, bpeck := 100 }
def vt : Ctx := { tx with status := 0x0001040000000000#64, g := [(1, 3#64), (2, 0#64), (3, 32#64), (4,8#64)] }
def kk : Core := { tiles := [(1, tA), (2, tB), (3, tS)], groups := [(0, { members := [0], accs := 0xFF, blocks := 1 })], codebooks := [(2, (true, [1,2,3,4,5,6,7,8,9,10,11,12,13,14,255,128])), (3, (false, (List.range 16).map fun k => 0x3F80 + 16*k))], acc := [(4096*2+5, 77#32), (4096*3, 99#32)] }
def wr (t : Tile) (rows : List Nat) (f : Nat → Nat → Nat) (s : Machine.State) : Machine.State :=
  rows.foldl (fun s p => ((List.range 3).map fun b => b * 128).foldl (fun s b => s.tileWrite t 0 p b ((List.range 6).map fun k => BitVec.ofNat 8 (f p (b+k)))) s) s
def pat (p b : Nat) : Nat := match b % 4 with | 0 => p * 7 + b | 1 => 0x3F + p % 3 | 2 => 0x80 | _ => 0xBF
def sq (i : Instr) (step va vb : Nat) : SeqSt := { ctx := 0, i := i, pc := 0x1000, step := step, h0a := 0, h0b := 0, va := va, vb := vb, flags := 0, kb := [], kbKind := false, did := 0, follow := none }
def withSeq (s : Machine.State) (q : SeqSt) : Machine.State := { s with cores := [(0, { s.core 0 with seq := some q, ctxs := [(0, { vt with wait := .seq })] })] }
def acv : AccOp := ⟨2, 1, .f32, 0, false, true⟩
def ns : Machine.State := st vt kk
def il : Instr := .aload h0 (.g 1) {acv with zr := false}
def itz : Instr := .tzero h0 (.g 1) (.g 3) 1
def iaz : Instr := .azero h0 ⟨2, 0, .i8, 0, false, false⟩
def kv : KOp := ⟨2, 3, .bf16, true⟩
def ikl : Instr := .kload h0 (.g 1) (.g 3) kv
def tS' := {tS with rows := 5}
def nks := wr tS' [0,1,2,3] pat (st vt {kk with tiles := [(1,tA),(2,tB),(3,tS')]})
def aS : Machine.State := wr tA (List.range 70) pat (st vt {kk with acc := [(4096*2+5, 0x3F800000#32), (4096*2+64*3+7, 0x41234567#32), (4096*2+64*3+8, 0xC1234567#32), (4096*2+64*63+8, 0xC1234567#32),(4096*3, 99#32)]})
def qa (i : Instr) (step va vb : Nat) := sq i step va vb
def tst (i : Instr) (step : Nat) := withSeq aS (qa i step 3 0)
def is2 (t : Ty) : Instr := .astore h0 (.g 1) {acv with ty := t}
def id2 (t : Ty) : Instr := .adrain h0 (.g 1) (.g 4) {acv with ty := t}

theorem witness_SequencerTakesInstruction_2 :
    ∃ (i : Instr) (s : State) (s1 : State) (x : Vals) (h : Hd) (v : AccOp),
    Runs i s x s1 ∧
    (s.core s.me).seq = none ∧
    i = Instr.azero h v ∧
    bitOf ((s.core s.me).grantOf s.cx) v.x1.toNat = true :=
  ⟨iaz, ns, s1 iaz ns, vs iaz ns, h0, ⟨2, 0, .i8, 0, false, false⟩, runs_of (by decide +kernel), (by decide +kernel)⟩

theorem witness_SequencerTakesInstruction_3 :
    ∃ (i : Instr) (s : State) (s1 : State) (x : Vals) (h : Hd) (a : Opd) (b : Opd) (v : KOp) (e : Tile),
    Runs i s x s1 ∧
    (s.core s.me).seq = none ∧
    i = Instr.kload h a b v ∧
    v.src = true ∧
    (s.core s.me).tile v.x2.toNat = some e ∧
    BitVec.toNat x.b % 32 = 0 ∧
    (s1.pending fun r => r == 64 + v.x1.toNat) = false ∧
    (∀ (y : Nat),
  BitVec.toNat x.b ≤ y →
    y < BitVec.toNat x.b + 32 →
      e.inside (BitVec.toNat x.a) y = true → s.peckFull e s.me (BitVec.toNat x.a) y = true) :=
  ⟨ikl, nks, s1 ikl nks, vs ikl nks, h0, .g 1, .g 3, kv, tS', runs_of (by decide +kernel), (by decide +kernel), rfl, (by decide +kernel), (by decide +kernel), (by decide +kernel), (by decide +kernel),
    (have h : ∀ y, y < BitVec.toNat (vs ikl nks).b + 32 → BitVec.toNat (vs ikl nks).b ≤ y →
        tS'.inside (BitVec.toNat (vs ikl nks).a) y = true →
        nks.peckFull tS' nks.me (BitVec.toNat (vs ikl nks).a) y = true := by decide +kernel
    fun y a b c => h y b a c)⟩

theorem witness_AccumulatorAndTileSteps_1 :
    ∃ (s : State) (c : Nat) (q : SeqSt) (h : Hd) (a : Opd) (b : Opd) (v : AccOp) (e : Tile),
    s.rowFull c e (q.va + q.step) ∧
    (s.core c).seq = some q ∧
    q.follow = none ∧
    q.i.wf = true ∧
    q.i = Instr.aload h a v ∧
    q.step < 64 ∧
    (s.core c).tile v.x2.toNat = some e :=
  ⟨tst il 3, 0, qa il 3 3 0, h0, .g 1, .g 4, {acv with zr := false}, tA, rowFull_of (by decide +kernel), (by decide +kernel)⟩

theorem witness_AccumulatorAndTileSteps_2 :
    ∃ (s : State) (c : Nat) (q : SeqSt) (h : Hd) (a : Opd) (b : Opd) (v : AccOp) (e : Tile),
    (s.core c).seq = some q ∧
    q.follow = none ∧
    q.i.wf = true ∧
    q.i = Instr.astore h a v ∧
    q.step < 64 ∧
    (s.core c).tile v.x2.toNat = some e :=
  ⟨tst (is2 .f32) 3, 0, qa (is2 .f32) 3 3 0, h0, .g 1, .g 4, {acv with ty := .f32}, tA, (by decide +kernel)⟩

theorem witness_AccumulatorAndTileSteps_3 :
    ∃ (s : State) (c : Nat) (q : SeqSt) (h : Hd) (a : Opd) (b : Opd) (v : AccOp) (e : Tile),
    (s.core c).seq = some q ∧
    q.follow = none ∧
    q.i.wf = true ∧
    q.i = Instr.adrain h a b v ∧
    q.step < 64 ∧
    bitsOf q.va 19 8 = s.cubeId :=
  ⟨tst (id2 .f32) 3, 0, qa (id2 .f32) 3 3 0, h0, .g 1, .g 4, {acv with ty := .f32}, tA, (by decide +kernel)⟩

theorem witness_AccumulatorAndTileSteps_4 :
    ∃ (s : State) (c : Nat) (q : SeqSt) (h : Hd) (a : Opd) (b : Opd) (v : AccOp) (e : Tile) (n : BitVec 6),
    (s.core c).seq = some q ∧
    q.follow = none ∧
    q.i.wf = true ∧
    q.i = Instr.tzero h a b n ∧
    q.step < q.vb ∧
    (s.core c).tile n.toNat = some e :=
  ⟨withSeq aS (qa itz 3 3 5), 0, qa itz 3 3 5, h0, .g 1, .g 3, acv, tA, 1, (by decide +kernel)⟩

end T13

/-! Witnesses that the hypotheses of EngineCommandsLeave can be met. -/
namespace T14

def bytes (ws : List Nat) : List Byte := ws.flatMap fun w => toBytes w 8
def sg (got : List (List Byte)) : Machine.State := st { tx with g := [(1, 0x2000#64), (2, 3#64), (3, 0x1002#64), (4, 0x4000#64), (5, 1#64)], got := got } kn
def pk : List Nat := [2^52 + 5, 0x2000, 3] ++ List.replicate 13 0
def pk0 : List Nat := [0x1000, 0x2000, 3] ++ List.replicate 13 0
def isp : Instr := .spawn h0 (.g 7) (.g 1) none
def ijb : Instr := .job h0 (.g 7) (.g 1) (.g 3) none
def lb : List Nat := [0x1000, 0x2000, 0x3008, 0x0010030000010100, 0, 0x401, 0,0,0,0,0,0,0,0,0,0]
def ilc : Instr := .launch h0 (.g 7) (.g 1) none
def cd : List Nat := [0, 0x10000, 0x20000, 64*2^40+1, 1] ++ List.replicate 11 0
def icp : Instr := .cpy h0 (.g 7) (.g 1) (some ⟨true, true, 2⟩)
def sc := sg [bytes cd, toBytes 0x30000 8]
def cdt : List Nat := [1*2^62, 0x10000, 0x20000, 64*2^40+1, 1] ++ List.replicate 11 0
def sct := sg [bytes cdt]
def ics : Instr := .cpystat h0 (.g 7) (.g 1)

theorem witness_EngineCommandsLeave_1 :
    ∃ (h : Hd) (d : Opd) (a : Opd) (b : Opd) (x : Option EFlags) (s : State) (s1 : State) (v : Vals) (b0 : List Byte),
    GateOpen x s ∧
    Runs (Instr.spawn h d a x) s v s1 ∧
    Described v.a 128 [b0] s ∧
    bitOf (nthD (wordsOf b0 16) 0 0) 52 = false :=
  ⟨h0, .g 7, .g 1, .g 2, none, sg [bytes pk0], s1 isp (sg [bytes pk0]), vs isp (sg [bytes pk0]), bytes pk0, gate_of (by decide +kernel), runs_of (by decide +kernel), (by unfold Described; decide +kernel), (by decide +kernel)⟩

theorem witness_EngineCommandsLeave_2 :
    ∃ (h : Hd) (d : Opd) (a : Opd) (b : Opd) (x : Option EFlags) (s : State) (s1 : State) (v : Vals) (b0 : List Byte) (p : List Byte),
    GateOpen x s ∧
    Runs (Instr.spawn h d a x) s v s1 ∧
    Described v.a 128 [b0, p] s ∧
    bitOf (nthD (wordsOf b0 16) 0 0) 52 = true :=
  ⟨h0, .g 7, .g 1, .g 2, none, sg [bytes pk, toBytes 0x5000 8], s1 isp (sg [bytes pk, toBytes 0x5000 8]), vs isp (sg [bytes pk, toBytes 0x5000 8]), bytes pk, toBytes 0x5000 8, gate_of (by decide +kernel), runs_of (by decide +kernel), (by unfold Described; decide +kernel), (by decide +kernel)⟩

theorem witness_EngineCommandsLeave_3 :
    ∃ (h : Hd) (d : Opd) (a : Opd) (b : Opd) (x : Option EFlags) (s : State) (s1 : State) (v : Vals) (b0 : List Byte),
    GateOpen x s ∧
    Runs (Instr.job h d a b x) s v s1 ∧
    Described v.a 128 [b0] s ∧
    BitVec.toNat v.b < 2 ^ 13 :=
  ⟨h0, .g 7, .g 1, .g 3, none, sg [bytes pk0], s1 ijb (sg [bytes pk0]), vs ijb (sg [bytes pk0]), bytes pk0, gate_of (by decide +kernel), runs_of (by decide +kernel), (by unfold Described; decide +kernel), (by decide +kernel)⟩

theorem witness_EngineCommandsLeave_4 :
    ∃ (h : Hd) (d : Opd) (a : Opd) (b : Opd) (x : Option EFlags) (s : State) (s1 : State) (v : Vals) (b0 : List Byte),
    GateOpen x s ∧
    Runs (Instr.launch h d a x) s v s1 ∧
    Described v.a 128 [b0] s ∧
    launchBad (wordsOf b0 16) = false :=
  ⟨h0, .g 7, .g 1, .g 3, none, sg [bytes lb], s1 ilc (sg [bytes lb]), vs ilc (sg [bytes lb]), bytes lb, gate_of (by decide +kernel), runs_of (by decide +kernel), (by unfold Described; decide +kernel), (by decide +kernel)⟩

theorem witness_EngineCommandsLeave_5 :
    ∃ (h : Hd) (d : Opd) (a : Opd) (s : State) (s1 : State) (v : Vals) (i : Instr) (x : Option EFlags) (kind : Nat) (b0 : List Byte) (bs : List (List Byte)),
    Runs i s v s1 ∧
    GateOpen x s ∧
    Described v.a 128 (b0 :: bs) s ∧
    copyForm i = some (d, x, kind) ∧
    copyBad kind (wordsOf b0 16) = false ∧
    (s.cx.mode = 0 → srcKind (wordsOf b0 16) ≠ 2 ∧ dstKind (wordsOf b0 16) ≠ 2) ∧
    (srcKind (wordsOf b0 16) = 0 → bs ≠ []) :=
  ⟨h0, .g 7, .g 1, sc, s1 icp sc, vs icp sc, icp, (some ⟨true, true, 2⟩), 0, bytes cd, [toBytes 0x30000 8], runs_of (by decide +kernel), gate_of (by decide +kernel), (by unfold Described; decide +kernel), (by decide +kernel)⟩

theorem witness_EngineCommandsLeave_6 :
    ∃ (h : Hd) (d : Opd) (a : Opd) (s : State) (s1 : State) (v : Vals),
    Runs (Instr.cpystat h d a) s v s1 :=
  ⟨h0, .g 7, .g 1, sct, s1 ics sct, vs ics sct, runs_of (by decide +kernel)⟩

end T14

/-! Witnesses that the hypotheses of EngineCommandsLeave, MessagesLeave, InboxAndRoaming can be met. -/
namespace T15

def vkm : Core := { groups := [(0, { members := [0], blocks := 2, v := [(3*256+7, 9#8)] })] }
def vtm : Ctx := { tx with status := 0x0001040000000000#64 }
def bytes (ws : List Nat) : List Byte := ws.flatMap fun w => toBytes w 8
def sg (got : List (List Byte)) : Machine.State := st { tx with g := [(1, 0x2000#64), (2, 3#64), (3, 0x1002#64), (4, 0x4000#64), (5, 1#64)], got := got } kn
def nbw : List Nat := [0, 2^56*3, 256, 0,0,0,0,0]
def inb : Instr := .nbComb h0 (.g 1) (some ⟨true, true, 2⟩)
def snb := sg [bytes nbw]
def inf : Instr := .nbFill h0 (.g 1) none
def snbm := snb.updCx fun t => { t with maint := 1 }
def ist : Instr := .nbStat h0 (.g 7) (.g 1)
def sns := sg [toBytes 0x30000 8]
def isn : Instr := .send h0 (.g 1) (.g 2) ⟨false, false, 0⟩ true 5 0x105
def sm := { sg [] with cores := [(0, { vkm with ctxs := [(0, { vtm with g := [(1, 0x2000#64), (2, 3#64), (3, 0x00102#64), (4, 0x4000#64), (5, 1#64)] })] })] }
def inr : Instr := .nred h0 (.g 1) ⟨true, false, 2⟩ 3 0 77 55
def inm : Instr := .nmcast h0 (.g 3) (.g 2) ⟨true, false, 2⟩ 3 9
def ss (t : Ctx) (k : Core) := st { t with status := 0x0001400000000000#64, g := [(1, 0x2000#64), (2, 1#64), (3, 0x00102#64), (4, 0x4000#64), (5, 1#64)] } k
def imp : Instr := .mpop h0 (.g 7) (.g 1)
def arr : Arrival := { kind := 1, src := 5, par := true, len := 16, tag := 3, hnd := 0x5000, space := 1, tile := 0, body := [1,2], acq := none, org := ⟨5, 0, 0⟩, ident := 1, mig := none, waiter := none }
def sp1 := ss { tx with got := [[], []] } { kn with popping := [(0, arr)] }

theorem witness_EngineCommandsLeave_7 :
    ∃ (h : Hd) (d : Opd) (a : Opd) (s : State) (s1 : State) (v : Vals) (b0 : List Byte) (i : Instr) (x : Option EFlags) (kind : Nat),
    Runs i s v s1 ∧
    GateOpen x s ∧
    Described v.a 64 [b0] s ∧
    nbForm i = some (x, kind) ∧
    ({ kind := kind, words := wordsOf b0 8, acq := flagA x, rel := flagR x, scope := flagScope x } : NbCmd).bad = false ∧
    s.cx.maint = 0 :=
  ⟨h0, .g 7, .g 1, snb, s1 inb snb, vs inb snb, bytes nbw, inb, (some ⟨true, true, 2⟩), 0, runs_of (by decide +kernel), gate_of (by decide +kernel), (by unfold Described; decide +kernel), (by decide +kernel)⟩

theorem witness_EngineCommandsLeave_8 :
    ∃ (h : Hd) (d : Opd) (a : Opd) (s : State) (s1 : State) (v : Vals) (b0 : List Byte) (i : Instr) (x : Option EFlags) (kind : Nat),
    Runs i s v s1 ∧
    GateOpen x s ∧
    Described v.a 64 [b0] s ∧
    nbForm i = some (x, kind) ∧
    ({ kind := kind, words := wordsOf b0 8, acq := flagA x, rel := flagR x, scope := flagScope x } : NbCmd).bad = false ∧
    s.cx.maint ≠ 0 :=
  ⟨h0, .g 7, .g 1, snbm, s1 inf snbm, vs inf snbm, bytes nbw, inf, none, 1, runs_of (by decide +kernel), gate_of (by decide +kernel), (by unfold Described; decide +kernel), (by decide +kernel)⟩

theorem witness_EngineCommandsLeave_9 :
    ∃ (h : Hd) (d : Opd) (a : Opd) (s : State) (s1 : State) (v : Vals) (b0 : List Byte),
    Runs (Instr.nbStat h d a) s v s1 ∧
    BitVec.toNat v.a < 2 ^ 48 ∧
    s.cx.got = [b0] :=
  ⟨h0, .g 7, .g 1, sns, s1 ist sns, vs ist sns, toBytes 0x30000 8, runs_of (by decide +kernel), (by decide +kernel)⟩

theorem witness_MessagesLeave_1 :
    ∃ (h : Hd) (a : Opd) (b : Opd) (f : EFlags) (s : State) (s1 : State) (v : Vals) (par : Bool) (nw : BitVec 4) (target : BitVec 20),
    GateOpen (some f) s ∧
    Runs (Instr.send h a b f par nw target) s v s1 ∧
    BitVec.toNat v.a < 2 ^ 48 ∧
    BitVec.toNat v.a % 4 = 0 ∧
    BitVec.toNat v.b < 2 ^ 23 ∧
    nw.toNat ≤ 12 :=
  ⟨h0, .g 1, .g 2, ⟨false, false, 0⟩, sm, s1 isn sm, vs isn sm, true, 5, 0x105, gate_of (by decide +kernel), runs_of (by decide +kernel), (by decide +kernel)⟩

theorem witness_MessagesLeave_2 :
    ∃ (h : Hd) (a : Opd) (b : Opd) (f : EFlags) (s : State) (s1 : State) (v : Vals) (vs : BitVec 6) (rop : BitVec 3) (stream : BitVec 13) (cidx : BitVec 6),
    GateOpen (some f) s ∧
    Runs (Instr.nred h a f vs rop stream cidx) s v s1 ∧
    s1.regsReady [vs.toNat] ∧
    cidx.toNat ≤ 55 ∧
    BitVec.toNat v.a < 2 ^ 48 ∧
    BitVec.toNat v.a % 256 = 0 :=
  ⟨h0, .g 1, .g 2, ⟨true, false, 2⟩, sm, s1 inr sm, vs inr sm, 3, 0, 77, 55, gate_of (by decide +kernel), runs_of (by decide +kernel), (by unfold State.regsReady; decide +kernel), (by decide +kernel)⟩

theorem witness_MessagesLeave_3 :
    ∃ (h : Hd) (a : Opd) (b : Opd) (f : EFlags) (s : State) (s1 : State) (v : Vals) (vs : BitVec 6) (t : BitVec 6),
    GateOpen (some f) s ∧
    Runs (Instr.nmcast h a b f vs t) s v s1 ∧
    s1.regsReady [vs.toNat] ∧
    BitVec.toNat v.a < 2 ^ 24 ∧
    BitVec.toNat v.a / 2 ^ 18 % 2 = 0 ∧
    BitVec.toNat v.b < 2 ^ 8 :=
  ⟨h0, .g 3, .g 2, ⟨true, false, 2⟩, sm, s1 inm sm, vs inm sm, 3, 9, gate_of (by decide +kernel), runs_of (by decide +kernel), (by unfold State.regsReady; decide +kernel), (by decide +kernel)⟩

theorem witness_InboxAndRoaming_1 :
    ∃ (h : Hd) (d : Opd) (a : Opd) (s : State) (s1 : State) (v : Vals),
    Runs (Instr.mpop h d a) s v s1 ∧
    BitVec.toNat v.a < 2 ^ 48 ∧
    BitVec.toNat v.a % 256 = 0 ∧
    (s.core s.me).inbox = [] ∧
    (∀ (p : Nat × Arrival), p ∈ (s.core s.me).popping → p.fst ≠ s.mx) :=
  ⟨h0, .g 7, .g 1, ss tx kn, s1 imp (ss tx kn), vs imp (ss tx kn), runs_of (by decide +kernel), (by decide +kernel)⟩

theorem witness_InboxAndRoaming_2 :
    ∃ (h : Hd) (d : Opd) (a : Opd) (s : State) (s1 : State) (v : Vals) (m : Arrival) (r : List (Nat × Arrival)) (r' : List (Nat × Arrival)),
    Runs (Instr.mpop h d a) s v s1 ∧
    BitVec.toNat v.a < 2 ^ 48 ∧
    BitVec.toNat v.a % 256 = 0 ∧
    (s.core s.me).popping = (s.mx, m) :: r ∧
    s.cx.got = [[], []] ∧
    r' = List.filter (fun p => p.fst != s.mx) r :=
  ⟨h0, .g 7, .g 1, sp1, s1 imp sp1, vs imp sp1, arr, [], [], runs_of (by decide +kernel), (by decide +kernel)⟩

end T15

/-! Witnesses that the hypotheses of InboxAndRoaming, EngineInstructions, ManagementInstructions can be met. -/
namespace T16

def bytes (ws : List Nat) : List Byte := ws.flatMap fun w => toBytes w 8
def sg (got : List (List Byte)) : Machine.State := st { tx with g := [(1, 0x2000#64), (2, 3#64), (3, 0x1002#64), (4, 0x4000#64), (5, 1#64)], got := got } kn
def ss (t : Ctx) (k : Core) := st { t with status := 0x0001400000000000#64, g := [(1, 0x2000#64), (2, 1#64), (3, 0x00102#64), (4, 0x4000#64), (5, 1#64)] } k
def arr : Arrival := { kind := 1, src := 5, par := true, len := 16, tag := 3, hnd := 0x5000, space := 1, tile := 0, body := [1,2], acq := none, org := ⟨5, 0, 0⟩, ident := 1, mig := none, waiter := none }
def rec : List Nat := [0x1 * 2^60 + 5 * 2^40 + 16*2^31, 0x1000100000002000, 0, 0] ++ List.replicate 28 0
def irp : Instr := .replay h0 (.g 1)
def srp := ss { tx with got := [bytes (rec.take 16), bytes (rec.drop 16)] } kn
def iro : Instr := .roam h0 (.g 7) (.g 5)
def imi : Instr := .migrate h0 (.g 7) (.g 1)
def smi1 := sg [[0#8]]
def cf : List Nat := [0x4000, 0, 0, 0, 0, 0, 0, 0]
def ex : List Nat := [0x100, 2^48 + 0x1000, 0, 0,0,0,0,0]
def ixc : Instr := .xcfg h0 (.g 7) (.g 1) (.g 5)
def sxc := sg [bytes cf, bytes ex]
def en (st : Nat) (cause : Nat) (ocore : Nat) : Engine := { state := st, ocore := ocore, cause := cause, space := 1, table := [⟨0,0x100,1,0x1000,0,0⟩], cfg := cf }
def sx (e : Engine) (got : List (List Byte)) : Machine.State := { sg got with engines := [(1, e)] }
def rd : List Nat := [0x1000, 0x2000, 0x3000, 2^40, 0, 0, 0, 0]
def ixr (x : Option EFlags) : Instr := .xroute h0 (.g 7) (.g 1) (.g 5) x
def sxr := sx (en 1 0 0) [bytes rd]
def ixs : Instr := .xstat h0 (.g 7) (.g 5) (.g 2)
def ixe : Instr := .xresume h0 (.g 7) (.g 5)
def sx3 := sx (en 3 2 0) [bytes rd]
def sx4 := sx (en 3 2 7) [bytes rd]
def ixa : Instr := .xabort h0 (.g 7) (.g 5)
def sx2 := sx { en 2 0 0 with what := .row } [bytes rd]
def isl : Instr := .suspendL h0 (.g 7) (.g 1)
def ire : Instr := .resume h0 (.g 7) (.g 4) (.g 1)
def sma := ss tx kn

theorem witness_InboxAndRoaming_3 :
    ∃ (h : Hd) (d : Opd) (a : Opd) (s : State) (s1 : State) (v : Vals) (b0 : List Byte) (b1 : List Byte) (m : Arrival),
    Runs (Instr.replay h a) s v s1 ∧
    Described v.a 256 [b0, b1] s ∧
    recordArrival (wordsOf (b0 ++ b1) 32) (s.mx, s1.tick) s.cx.origin = some m :=
  ⟨h0, .g 7, .g 1, srp, s1 irp srp, vs irp srp, bytes (rec.take 16), bytes (rec.drop 16), (recordArrival rec (0, (s1 irp srp).tick) srp.cx.origin).getD arr, runs_of (by decide +kernel), (by unfold Described; decide +kernel), (by decide +kernel)⟩

theorem witness_InboxAndRoaming_4 :
    ∃ (h : Hd) (d : Opd) (a : Opd) (s : State) (s1 : State) (v : Vals),
    Runs (Instr.roam h d a) s v s1 ∧
    BitVec.toNat v.a < 2 :=
  ⟨h0, .g 7, .g 5, s0, s1 iro s0, vs iro s0, runs_of (by decide +kernel), (by decide +kernel)⟩

theorem witness_InboxAndRoaming_5 :
    ∃ (h : Hd) (d : Opd) (a : Opd) (s : State) (s1 : State) (v : Vals) (p : List Byte),
    Runs (Instr.migrate h d a) s v s1 ∧
    Described v.a 1 [p] s ∧
    (s.cx.roam = false ∨ s.cubeOf (ofBytes p) = s.cubeId) :=
  ⟨h0, .g 7, .g 1, smi1, s1 imi smi1, vs imi smi1, [0#8], runs_of (by decide +kernel), (by unfold Described; decide +kernel), (by decide +kernel)⟩

theorem witness_EngineInstructions_1 :
    ∃ (h : Hd) (d : Opd) (a : Opd) (b : Opd) (s : State) (s1 : State) (v : Vals) (n : Nat) (b0 : List Byte) (bs : List (List Byte)),
    Runs (Instr.xcfg h d a b) s v s1 ∧
    Described v.a 64 (b0 :: bs) s ∧
    StaysHere s1 ∧
    BitVec.toNat v.b = n ∧
    n < 4 ∧
    configBad (wordsOf b0 8) = false ∧
    bs.length = nthD (wordsOf b0 8) 1 0 / 2 ^ 52 % 2 ^ 12 + 1 ∧
    nthD (wordsOf b0 8) 0 0 + 64 * (nthD (wordsOf b0 8) 1 0 / 2 ^ 52 % 2 ^ 12 + 1) ≤ 2 ^ 48 ∧
    (∀ (x : List Byte), x ∈ bs → expertBad (bitOf (nthD (wordsOf b0 8) 1 0) 51) (wordsOf x 8) = false) ∧
    ((s.engine n).state = 0 ∨ s.ownsEngine (s.engine n) = true) ∧
    (s.engine n).state ≠ 2 ∧
    (s.engine n).state ≠ 3 :=
  ⟨h0, .g 7, .g 1, .g 5, sxc, s1 ixc sxc, vs ixc sxc, 1, bytes cf, [bytes ex], runs_of (by decide +kernel), (by unfold Described; decide +kernel), (by unfold StaysHere; decide +kernel), (by decide +kernel)⟩

theorem witness_EngineInstructions_2 :
    ∃ (h : Hd) (d : Opd) (a : Opd) (b : Opd) (s : State) (s1 : State) (v : Vals) (n : Nat) (b0 : List Byte) (bs : List (List Byte)),
    Runs (Instr.xcfg h d a b) s v s1 ∧
    Described v.a 64 (b0 :: bs) s ∧
    StaysHere s1 ∧
    BitVec.toNat v.b = n ∧
    n < 4 ∧
    configBad (wordsOf b0 8) = false ∧
    bs.length = nthD (wordsOf b0 8) 1 0 / 2 ^ 52 % 2 ^ 12 + 1 ∧
    nthD (wordsOf b0 8) 0 0 + 64 * (nthD (wordsOf b0 8) 1 0 / 2 ^ 52 % 2 ^ 12 + 1) ≤ 2 ^ 48 ∧
    (∀ (x : List Byte), x ∈ bs → expertBad (bitOf (nthD (wordsOf b0 8) 1 0) 51) (wordsOf x 8) = false) ∧
    (s.engine n).state ≠ 0 ∧
    s.ownsEngine (s.engine n) = false :=
  ⟨h0, .g 7, .g 1, .g 5, sx (en 1 0 5) [bytes cf, bytes ex], s1 ixc (sx (en 1 0 5) [bytes cf, bytes ex]), vs ixc sxc, 1, bytes cf, [bytes ex], runs_of (by decide +kernel), (by unfold Described; decide +kernel), (by unfold StaysHere; decide +kernel), (by decide +kernel)⟩

theorem witness_EngineInstructions_3 :
    ∃ (h : Hd) (d : Opd) (a : Opd) (b : Opd) (s : State) (s1 : State) (v : Vals) (n : Nat) (b0 : List Byte) (bs : List (List Byte)),
    Runs (Instr.xcfg h d a b) s v s1 ∧
    Described v.a 64 (b0 :: bs) s ∧
    StaysHere s1 ∧
    BitVec.toNat v.b = n ∧
    n < 4 ∧
    configBad (wordsOf b0 8) = false ∧
    bs.length = nthD (wordsOf b0 8) 1 0 / 2 ^ 52 % 2 ^ 12 + 1 ∧
    nthD (wordsOf b0 8) 0 0 + 64 * (nthD (wordsOf b0 8) 1 0 / 2 ^ 52 % 2 ^ 12 + 1) ≤ 2 ^ 48 ∧
    (∀ (x : List Byte), x ∈ bs → expertBad (bitOf (nthD (wordsOf b0 8) 1 0) 51) (wordsOf x 8) = false) ∧
    ((s.engine n).state = 0 ∨ s.ownsEngine (s.engine n) = true) ∧
    ((s.engine n).state = 2 ∨ (s.engine n).state = 3) :=
  ⟨h0, .g 7, .g 1, .g 5, sx (en 2 0 0) [bytes cf, bytes ex], s1 ixc (sx (en 2 0 0) [bytes cf, bytes ex]), vs ixc sxc, 1, bytes cf, [bytes ex], runs_of (by decide +kernel), (by unfold Described; decide +kernel), (by unfold StaysHere; decide +kernel), (by decide +kernel)⟩

theorem witness_EngineInstructions_4 :
    ∃ (h : Hd) (d : Opd) (a : Opd) (b : Opd) (s : State) (s1 : State) (v : Vals) (n : Nat) (b0 : List Byte) (i : Instr) (x : Option EFlags) (combine : Bool),
    Runs i s v s1 ∧
    GateOpen x s ∧
    Described v.a 64 [b0] s ∧
    runForm i = some (d, x, combine) ∧
    BitVec.toNat v.b = n ∧
    n < 4 ∧
    routeBad (wordsOf b0 8) = false ∧
    s.ownsEngine (s.engine n) = true ∧
    ((s.engine n).state = 1 ∨ (s.engine n).state = 4) :=
  ⟨h0, .g 7, .g 1, .g 5, sxr, s1 (ixr none) sxr, vs (ixr none) sxr, 1, bytes rd, ixr none, none, false, runs_of (by decide +kernel), gate_of (by decide +kernel), (by unfold Described; decide +kernel), (by decide +kernel)⟩

theorem witness_EngineInstructions_5 :
    ∃ (h : Hd) (d : Opd) (a : Opd) (b : Opd) (s : State) (s1 : State) (v : Vals) (n : Nat) (b0 : List Byte),
    Runs (Instr.xstat h d a b) s v s1 ∧
    BitVec.toNat v.a = n ∧
    n < 4 :=
  ⟨h0, .g 7, .g 5, .g 2, sxr, s1 ixs sxr, vs ixs sxr, 1, bytes rd, runs_of (by decide +kernel), (by decide +kernel)⟩

theorem witness_EngineInstructions_6 :
    ∃ (h : Hd) (d : Opd) (a : Opd) (b : Opd) (s : State) (s1 : State) (v : Vals) (n : Nat) (b0 : List Byte),
    Runs (Instr.xresume h d a) s v s1 ∧
    BitVec.toNat v.a = n ∧
    n < 4 ∧
    s.ownsEngine (s.engine n) = true ∧
    ((s.engine n).state ≠ 3 ∨ (s.engine n).cause ≠ 2) :=
  ⟨h0, .g 7, .g 5, .g 2, sxr, s1 ixe sxr, vs ixe sxr, 1, bytes rd, runs_of (by decide +kernel), (by decide +kernel)⟩

theorem witness_EngineInstructions_7 :
    ∃ (h : Hd) (d : Opd) (a : Opd) (b : Opd) (s : State) (s1 : State) (v : Vals) (n : Nat) (b0 : List Byte),
    Runs (Instr.xresume h d a) s v s1 ∧
    BitVec.toNat v.a = n ∧
    n < 4 ∧
    s.ownsEngine (s.engine n) = true ∧
    (s.engine n).state = 3 ∧
    (s.engine n).cause = 2 :=
  ⟨h0, .g 7, .g 5, .g 2, sx3, s1 ixe sx3, vs ixe sx3, 1, bytes rd, runs_of (by decide +kernel), (by decide +kernel)⟩

theorem witness_EngineInstructions_8 :
    ∃ (h : Hd) (d : Opd) (a : Opd) (b : Opd) (s : State) (s1 : State) (v : Vals) (n : Nat) (b0 : List Byte),
    Runs (Instr.xresume h d a) s v s1 ∧
    BitVec.toNat v.a = n ∧
    n < 4 ∧
    s.ownsEngine (s.engine n) = false :=
  ⟨h0, .g 7, .g 5, .g 2, sx4, s1 ixe sx4, vs ixe sx4, 1, bytes rd, runs_of (by decide +kernel), (by decide +kernel)⟩

theorem witness_EngineInstructions_9 :
    ∃ (h : Hd) (d : Opd) (a : Opd) (b : Opd) (s : State) (s1 : State) (v : Vals) (n : Nat) (b0 : List Byte),
    Runs (Instr.xabort h d a) s v s1 ∧
    BitVec.toNat v.a = n ∧
    n < 4 ∧
    s.ownsEngine (s.engine n) = false ∧
    s.cx.mode = 0 :=
  ⟨h0, .g 7, .g 5, .g 2, sx4, s1 ixa sx4, vs ixa sx4, 1, bytes rd, runs_of (by decide +kernel), (by decide +kernel)⟩

theorem witness_EngineInstructions_10 :
    ∃ (h : Hd) (d : Opd) (a : Opd) (b : Opd) (s : State) (s1 : State) (v : Vals) (n : Nat) (b0 : List Byte),
    Runs (Instr.xabort h d a) s v s1 ∧
    BitVec.toNat v.a = n ∧
    n < 4 ∧
    s.ownsEngine (s.engine n) = true ∧
    (s.engine n).state ≠ 2 ∧
    (s.engine n).state ≠ 3 :=
  ⟨h0, .g 7, .g 5, .g 2, sxr, s1 ixa sxr, vs ixa sxr, 1, bytes rd, runs_of (by decide +kernel), (by decide +kernel)⟩

theorem witness_EngineInstructions_11 :
    ∃ (h : Hd) (d : Opd) (a : Opd) (b : Opd) (s : State) (s1 : State) (v : Vals) (n : Nat) (b0 : List Byte),
    Runs (Instr.xabort h d a) s v s1 ∧
    BitVec.toNat v.a = n ∧
    n < 4 ∧
    s.ownsEngine (s.engine n) = true ∧
    (s.engine n).state = 2 ∧
    (s.engine n).what ≠ EWhat.record ∧
    (s.engine n).what ≠ EWhat.acks ∧
    (s.engine n).what ≠ EWhat.add ∧
    (s.engine n).what ≠ EWhat.turn :=
  ⟨h0, .g 7, .g 5, .g 2, sx2, s1 ixa sx2, vs ixa sx2, 1, bytes rd, runs_of (by decide +kernel), (by decide +kernel)⟩

theorem witness_ManagementInstructions_1 :
    ∃ (h : Hd) (d : Opd) (a : Opd) (b : Opd) (s : State) (s1 : State) (v : Vals) (i : Instr) (op : Nat),
    Runs i s v s1 ∧
    suspendForm i = some (d, op) ∧
    BitVec.toNat v.a < 2 ^ 14 :=
  ⟨h0, .g 7, .g 1, .g 2, sma, s1 isl sma, vs isl sma, isl, 0, runs_of (by decide +kernel), (by decide +kernel)⟩

theorem witness_ManagementInstructions_2 :
    ∃ (h : Hd) (d : Opd) (a : Opd) (b : Opd) (s : State) (s1 : State) (v : Vals) (i : Instr) (op : Nat),
    Runs i s v s1 ∧
    suspendForm i = some (d, op) ∧
    2 ^ 14 ≤ BitVec.toNat v.a :=
  ⟨h0, .g 7, .g 4, .g 1, sma, s1 ire sma, vs ire sma, ire, 2, runs_of (by decide +kernel), (by decide +kernel)⟩

end T16

/-! Witnesses that the hypotheses of ManagementInstructions, ExitFreesContext can be met. -/
namespace T17

def ss (t : Ctx) (k : Core) := st { t with status := 0x0001400000000000#64, g := [(1, 0x2000#64), (2, 1#64), (3, 0x00102#64), (4, 0x4000#64), (5, 1#64)] } k
def sma := ss tx kn
def ifd : Instr := .fltDone h0 (.g 7) (.g 3) (.g 2)
def aReq : Req := { who := { kind := .thread, core := 0, idx := 0 }, id := 77, org := ⟨0,0,0⟩, space := 1, va := 0x30000, task := true, act := .load 4 0 0 }
def sfl := { sma with faults := [(2, { gen := 1, pending := true, space := 1, vpn := 5, cls := 0, accs := [aReq, { aReq with id := 78 }], record := 0, count := 0 })] }
def ifb : Instr := .fltDone h0 (.g 7) (.g 3) (.g 4)
def ipm : Instr := .pmove h0 (.g 7) (.g 1)
def pmb (a b c l : Nat) : List (List Byte) := [toBytes a 8, toBytes b 8, toBytes c 8, toBytes 0 8, toBytes l 8]
def mapd (s : Machine.State) : Machine.State := { s with map := [(1, { state := 1, n := 1, list := 0, gran := 12, size := 30, lbase := 0, base := 0 })], cubeList := [(0, 0)] }
def spm (g : List (List Byte)) := mapd (ss { tx with got := g } kn)
def pmt (a b c l : Nat) : Machine.State := spm (pmb a b c l)
def leaf : Nat := 0x30 * 4096 + 0xCF
def spm1 := pmt 0x1000 0x50000 0 leaf
def spm2 := pmt 0x1000 0x50000 0 0
def t8 (a : Nat) : List Byte := toBytes a 8
def ipz : Instr := .pzero h0 (.g 7) (.g 1) (.g 8)
def iex : Instr := .exit h0
def sgx := { cores := [(0, { kn with ctxs := [(0, { tx with status := 0x0001040000000000#64 }), (1, tx)], groups := [(0, { members := [0, 1], blocks := 2 })] })] : Machine.State }
def sge := { cores := [(0, { kn with ctxs := [(0, { tx with status := 0x0001040000000000#64 }), (1, tx)], groups := [(0, { members := [0], blocks := 2 })] })] : Machine.State }

theorem witness_ManagementInstructions_3 :
    ∃ (h : Hd) (d : Opd) (a : Opd) (b : Opd) (s : State) (s1 : State) (v : Vals),
    Runs (Instr.fltDone h d a b) s v s1 ∧
    Settled s ∧
    BitVec.toNat v.b ≤ 1 ∧
    ((tblGet s.faults (BitVec.toNat v.a % 256)
        { gen := 0, pending := false, space := 0, vpn := 0, cls := 0, accs := [], record := 0,
          count := 0 }).pending =
    true ∧
  (tblGet s.faults (BitVec.toNat v.a % 256)
        { gen := 0, pending := false, space := 0, vpn := 0, cls := 0, accs := [], record := 0,
          count := 0 }).gen =
    BitVec.toNat v.a / 256 % 256) :=
  ⟨h0, .g 7, .g 3, .g 2, sfl, s1 ifd sfl, vs ifd sfl, runs_of (by decide +kernel), (by unfold Settled Performed; decide +kernel), (by decide +kernel), by decide +kernel, by decide +kernel⟩

theorem witness_ManagementInstructions_4 :
    ∃ (h : Hd) (d : Opd) (a : Opd) (b : Opd) (s : State) (s1 : State) (v : Vals),
    Runs (Instr.fltDone h d a b) s v s1 ∧
    Settled s ∧
    (¬((tblGet s.faults (BitVec.toNat v.a % 256)
          { gen := 0, pending := false, space := 0, vpn := 0, cls := 0, accs := [], record := 0,
            count := 0 }).pending =
      true ∧
    (tblGet s.faults (BitVec.toNat v.a % 256)
          { gen := 0, pending := false, space := 0, vpn := 0, cls := 0, accs := [], record := 0,
            count := 0 }).gen =
      BitVec.toNat v.a / 256 % 256)) :=
  ⟨h0, .g 7, .g 3, .g 2, sma, s1 ifd sma, vs ifd sma, runs_of (by decide +kernel), (by unfold Settled Performed; decide +kernel), (by decide +kernel)⟩

theorem witness_ManagementInstructions_5 :
    ∃ (h : Hd) (d : Opd) (a : Opd) (b : Opd) (s : State) (s1 : State) (v : Vals),
    Runs (Instr.fltDone h d a b) s v s1 ∧
    Settled s ∧
    1 < BitVec.toNat v.b ∧
    ((tblGet s.faults (BitVec.toNat v.a % 256)
        { gen := 0, pending := false, space := 0, vpn := 0, cls := 0, accs := [], record := 0,
          count := 0 }).pending =
    true ∧
  (tblGet s.faults (BitVec.toNat v.a % 256)
        { gen := 0, pending := false, space := 0, vpn := 0, cls := 0, accs := [], record := 0,
          count := 0 }).gen =
    BitVec.toNat v.a / 256 % 256) :=
  ⟨h0, .g 7, .g 3, .g 4, sfl, s1 ifb sfl, vs ifb sfl, runs_of (by decide +kernel), (by unfold Settled Performed; decide +kernel), (by decide +kernel)⟩

theorem witness_ManagementInstructions_6 :
    ∃ (h : Hd) (d : Opd) (a : Opd) (b : Opd) (s : State) (s1 : State) (v : Vals) (b0 : List Byte) (b1 : List Byte) (b2 : List Byte) (b3 : List Byte) (l : List Byte),
    Runs (Instr.pmove h d a) s v s1 ∧
    Described v.a 32 [b0, b1, b2, b3, l] s ∧
    s.moveCode (gotWords s 0) (gotWords s 1) (gotWords s 2) (ofBytes l) = 0 :=
  ⟨h0, .g 7, .g 1, .g 2, spm1, s1 ipm spm1, vs ipm spm1, t8 0x1000, t8 0x50000, t8 0, t8 0, t8 leaf, runs_of (by decide +kernel), (by unfold Described; decide +kernel), (by decide +kernel)⟩

theorem witness_ManagementInstructions_7 :
    ∃ (h : Hd) (d : Opd) (a : Opd) (b : Opd) (s : State) (s1 : State) (v : Vals) (b0 : List Byte) (b1 : List Byte) (b2 : List Byte) (b3 : List Byte) (l : List Byte),
    Runs (Instr.pmove h d a) s v s1 ∧
    Described v.a 32 [b0, b1, b2, b3, l] s ∧
    s.moveCode (gotWords s 0) (gotWords s 1) (gotWords s 2) (ofBytes l) ≠ 0 :=
  ⟨h0, .g 7, .g 1, .g 2, spm2, s1 ipm spm2, vs ipm spm2, t8 0x1000, t8 0x50000, t8 0, t8 0, t8 0, runs_of (by decide +kernel), (by unfold Described; decide +kernel), (by decide +kernel)⟩

theorem witness_ManagementInstructions_8 :
    ∃ (h : Hd) (d : Opd) (a : Opd) (b : Opd) (s : State) (s1 : State) (v : Vals),
    Runs (Instr.pzero h d a b) s v s1 ∧
    (¬(2 ^ 52 ≤ BitVec.toNat v.a ∨
    BitVec.toNat v.a / 4 % 2 ^ 10 ≠ 0 ∨
      BitVec.toNat v.a % 4 = 3 ∨
        BitVec.toNat v.a / 2 ^ 12 % 2 ^ 40 * 4096 % pageBytes (BitVec.toNat v.a % 4) ≠ 0 ∨
          BitVec.toNat v.b % 8 ≠ 0)) ∧
    s.frameMapped (BitVec.toNat v.a / 2 ^ 12 % 2 ^ 40 * 4096) (pageBytes (BitVec.toNat v.a % 4)) = true :=
  ⟨h0, .g 7, .g 1, .g 8, spm2, s1 ipz spm2, vs ipz spm2, runs_of (by decide +kernel), (by decide +kernel)⟩

theorem witness_ManagementInstructions_9 :
    ∃ (h : Hd) (d : Opd) (a : Opd) (b : Opd) (s : State) (s1 : State) (v : Vals),
    Runs (Instr.pzero h d a b) s v s1 ∧
    (¬(2 ^ 52 ≤ BitVec.toNat v.a ∨
    BitVec.toNat v.a / 4 % 2 ^ 10 ≠ 0 ∨
      BitVec.toNat v.a % 4 = 3 ∨
        BitVec.toNat v.a / 2 ^ 12 % 2 ^ 40 * 4096 % pageBytes (BitVec.toNat v.a % 4) ≠ 0 ∨
          BitVec.toNat v.b % 8 ≠ 0)) ∧
    s.frameMapped (BitVec.toNat v.a / 2 ^ 12 % 2 ^ 40 * 4096) (pageBytes (BitVec.toNat v.a % 4)) = false :=
  ⟨h0, .g 7, .g 1, .g 8, sma, s1 ipz sma, vs ipz sma, runs_of (by decide +kernel), (by decide +kernel)⟩

theorem witness_ExitFreesContext_1 :
    ∃ (h : Hd) (s : State) (s1 : State) (v : Vals),
    Runs (Instr.exit h) s v s1 ∧
    Passes s ∧
    Settled s ∧
    s.cx.gv = false :=
  ⟨h0, s0, s1 iex s0, vs iex s0, runs_of (by decide +kernel), (by unfold Passes; decide +kernel), (by unfold Settled Performed; decide +kernel), (by decide +kernel)⟩

theorem witness_ExitFreesContext_2 :
    ∃ (h : Hd) (s : State) (s1 : State) (v : Vals),
    Runs (Instr.exit h) s v s1 ∧
    Passes s ∧
    Settled s ∧
    s.cx.gv = true ∧
    ((s.core s.me).group s.cx.group).members.erase s.mx ≠ [] :=
  ⟨h0, sgx, s1 iex sgx, vs iex sgx, runs_of (by decide +kernel), (by unfold Passes; decide +kernel), (by unfold Settled Performed; decide +kernel), (by decide +kernel)⟩

theorem witness_ExitFreesContext_3 :
    ∃ (h : Hd) (s : State) (s1 : State) (v : Vals),
    Runs (Instr.exit h) s v s1 ∧
    Passes s ∧
    Settled s ∧
    s.cx.gv = true ∧
    ((s.core s.me).group s.cx.group).members.erase s.mx = [] :=
  ⟨h0, sge, s1 iex sge, vs iex sge, runs_of (by decide +kernel), (by unfold Passes; decide +kernel), (by unfold Settled Performed; decide +kernel), (by decide +kernel)⟩

end T17

/-! Witnesses that the hypotheses of MapAndHomeMoves can be met. -/
namespace T20

def d1 : Slot := { state := 1, n := 1, list := 0, gran := 12, size := 20, lbase := 0, base := 0 }
def d2 : Slot := { state := 2, n := 1, list := 3, gran := 12, size := 20, lbase := 0x1000, base := 0x400, partner := 2, wmark := 5, version := 3 }
def d3 : Slot := { state := 3, n := 1, list := 5, gran := 12, size := 20, lbase := 0x2000, base := 0x400 }
def ma (k : Nat) (d : Slot) (m : List (Nat × Slot)) : Machine.State := { s0 with map := m, regs := { mapSel := BitVec.ofNat 64 k, mapD0 := BitVec.ofNat 64 d.words.1, mapD1 := BitVec.ofNat 64 d.words.2.1, mapD2 := BitVec.ofNat 64 d.words.2.2 }, cubeList := [(0, 0),(3,1),(7,9)] }

theorem witness_MapAndHomeMoves_1 :
    ∃ (s : State),
    s.mapIndex < 64 ∧
    (s.slot s.mapIndex).state = 2 ∧
    (s.slot s.mapIndex).wmark ≠ (s.slot s.mapIndex).granules ∧
    s.hold = [] :=
  ⟨ma 1 d1 [(1, d2), (2, d3)], (by decide +kernel)⟩

theorem witness_MapAndHomeMoves_2 :
    ∃ (s : State),
    s.mapIndex < 64 ∧
    (s.slot s.mapIndex).state < 2 ∧
    (s.staged.state = 0 ∨
  s.staged.state = 1 ∧ s.staged.refusal = 0 ∧ s.overlapsAny s.staged s.mapIndex s.mapIndex = false) :=
  ⟨ma 7 {d1 with base := 0x800} [(1, d2), (2, d3)], (by decide +kernel)⟩

theorem witness_MapAndHomeMoves_3 :
    ∃ (s : State),
    s.mapIndex < 64 ∧
    (s.slot s.mapIndex).state < 2 ∧
    (s.staged.state = 0 ∨
  s.staged.state = 1 ∧ s.staged.refusal = 0 ∧ s.overlapsAny s.staged s.mapIndex s.mapIndex = false) ∧
    (s.slot s.mapIndex).state = 0 ∧
    s.staged.partner ≠ s.mapIndex ∧
    (s.slot s.staged.partner).state = 1 ∧
    (s.slot s.staged.partner).base = s.staged.base ∧
    (s.slot s.staged.partner).size = s.staged.size ∧
    s.staged.refusal = 0 ∧
    s.overlapsAny s.staged s.mapIndex s.staged.partner = false :=
  ⟨ma 7 {d1 with base := 0, state := 0, partner := 3, lbase := 0x1000} [(1, d2), (2, d3), (3, d1)], (by decide +kernel)⟩

theorem witness_MapAndHomeMoves_4 :
    ∃ (s : State),
    s.mapIndex < 64 ∧
    (s.slot s.mapIndex).state = 2 ∧
    (s.slot s.mapIndex).granules ≤ (s.slot s.mapIndex).wmark ∧
    (s.slot s.mapIndex).moving = false ∧
    (s.slot s.mapIndex).partner ≠ s.mapIndex :=
  ⟨ma 1 d1 [(1, {d2 with wmark := 256}), (2, d3)], (by decide +kernel)⟩

theorem witness_MapAndHomeMoves_5 :
    ∃ (s : State),
    (∀ (e : Nat × Slot), e ∈ s.map → e.snd.state ≠ 0 → s.mapIndex < e.snd.list ∨ e.snd.list + e.snd.n ≤ s.mapIndex) :=
  ⟨ma 7 d1 [(1, d2), (2, d3)], (by decide +kernel)⟩

end T20

/-! Witnesses that the hypotheses of MapAndHomeMoves, TranslationSteps, LeaseClockSteps can be met. -/
namespace T21

def fz := { fj with kind := 2 }
def rq : Req := { who := ag, id := 5, org := og, space := 1, va := 0x12345678, task := true, act := .load 4 0 0 }
def wlk : Walk := { id := 3, sect := 2, space := 1, vpn := 0x77, cls := 0, accs := [rq], noInstall := false, bypass := false, hart := none, start := 1, restarts := 0, begun := 0, sd0 := 15*2^54 }
def wl0 := { wlk with accs := [], begun := 1, hart := some 0 }
def sw := {s0 with walks := [wl0, { wlk with id := 9 }]}
def sw1 := {s0 with walks := [{wlk with begun := 1, hart := some 0, accs := [rq, { rq with id := 6}] }]}
def sfw : State := {s0 with faultWait := [rq, { rq with id := 6}]}
def sfull64 : State := { s0 with walks := (List.range 64).map fun k => { wlk with id := k + 10, vpn := k, sect := sectionOf 1 0x12345678 } }
def swait : State := { s0 with slices := [(sectionOf 1 0x12345678, { sectWait := [{ rq with id := 4 }] })] }
def hc : HartCtx := { walk := 3, x := [(1, 5#64), (2, 0xFFFFFFFFFFFFFFFE#64)], pc := BitVec.ofNat 64 (walkBase + 0x100), nwspace := 1, nwva := 0, nwclass := 0, nwsdp := 0, nwstart := 0, nwctx := 0, nwpte := 0, nwpaddr := 0, nwsize := 0, nwinfo := 0 }
def insn (rd : Nat) : Nat := 0x33 + rd * 128 + 1 * 2^15 + 2 * 2^20
def sh (rd : Nat) := { sw1 with harts := [(0, hc)], walkStore := (List.range 4).filterMap fun k => let b : Byte := BitVec.ofNat 8 (insn rd / 256^k); if b = 0 then none else some (0x100 + k, b) }
def sent : SEnt := { size := 0, g := false, space := 1, vpn := 5, exp := 9, pte := 1 }
def sl (x : Int) : Machine.State := { s0 with slices := [(3, { sect := [sent], skew := x, migs := [⟨1,2,5,3,7⟩] })], regs := { leaseCtl := 0x40F#64, migCtl := 0x00050000#64 } }
def ssk := st { tx with skew := some (3, 5), wait := .queue 0, trapVa := 0x8000 } {}

theorem witness_MapAndHomeMoves_6 :
    ∃ (s : State) (m : LineMove),
    m.src = s.cubeId ∧
    moveDone (s.installEntries m.to_ m).fst = true :=
  ⟨sb, lm, (by decide +kernel)⟩

theorem witness_MapAndHomeMoves_7 :
    ∃ (s : State) (r : Report) (g : HoldXfer),
    r.part % 4 = 1 ∧
    List.find? (fun h => h.slot == r.job) s.hold = some g :=
  ⟨{sb with hold := [⟨1, 3, 0⟩]}, ⟨1, 9*4+1, true⟩, ⟨1,3,0⟩, (by decide +kernel)⟩

theorem witness_MapAndHomeMoves_8 :
    ∃ (s : State) (m : LineMove) (p : Place),
    s.layout (m.to_ * 128) = some p ∧
    moveDone (s.installEntries (p.local_ / 128) m).fst = true ∧
    m.data.length = 128 ∧
    m.poison = true :=
  ⟨{sb with jobs := [fj]}, lm, (sb.layout (64*128)).getD ⟨0,0,0,false,0⟩, some_getD (by decide +kernel), (by decide +kernel)⟩

theorem witness_MapAndHomeMoves_9 :
    ∃ (s : State) (r : Report) (j : FrameJob) (p : Place),
    s.job r.job = some j ∧
    r.part = 1 ∧
    r.ok = true ∧
    s.layout j.frame = some p :=
  ⟨{sb with jobs := [fj]}, ⟨4, 1, true⟩, fj, (sb.layout 0x30000).getD ⟨0,0,0,false,0⟩, (by decide +kernel), (by decide +kernel), (by decide +kernel), some_getD (by decide +kernel)⟩

theorem witness_MapAndHomeMoves_10 :
    ∃ (s : State) (r : Report) (j : FrameJob),
    s.job r.job = some j ∧
    j.kind = 2 ∧
    r.part % 2 = 0 :=
  ⟨{sb with jobs := [fz], slices := [(0, { l2 := [⟨64,true,0,line0⟩]})]}, ⟨4, 128, true⟩, fz, (by decide +kernel)⟩

theorem witness_TranslationSteps_1 :
    ∃ (s : State) (r : Req),
    r.fresh = false ∧
    s.sectHit (sectionOf r.space r.va) r.space r.va = none ∧
    (∀ (w : Walk),
  w ∈ s.walks →
    ¬(w.sect = sectionOf r.space r.va ∧
        w.space = r.space ∧ w.vpn = r.va / 4096 % 2 ^ 36 ∧ w.bypass = false ∧ w.noInstall = false)) ∧
    ¬64 ≤ (List.filter (fun w => w.sect == sectionOf r.space r.va) s.walks).length ∧
    (r.turn = true ∨ (s.slice (sectionOf r.space r.va)).sectWait = []) ∧
    r.turn = false :=
  ⟨s0, rq, (by decide +kernel)⟩

theorem witness_TranslationSteps_2 :
    ∃ (s : State) (w : Walk) (h : Nat),
    List.find? (fun w => w.begun == 0) s.walks = some w ∧
    s.freeHart = some h :=
  ⟨{s0 with walks := [{ wlk with id := 1, begun := 1, hart := some 0}, wlk]}, wlk, ({s0 with walks := [{ wlk with id := 1, begun := 1, hart := some 0}, wlk]} : Machine.State).freeHart.getD 99, (by decide +kernel)⟩

theorem witness_TranslationSteps_3 :
    ∃ (s : State) (n : Nat) (pte : Nat) (size : Nat) (info : Nat) (level : Nat) (w : Walk),
    s.walk n = some w ∧
    w.accs = [] ∧
    w.noInstall = false ∧
    size < 3 ∧
    bitOf pte 0 = true ∧
    bitOf pte 6 = true ∧
    pteRWX pte ≠ 0 ∧
    pteBad pte size = false ∧
    (w.cls = 1 → bitOf pte 2 = true → bitOf pte 7 = true) ∧
    s.regs.refLost = false ∧
    min (bitsOf pte 63 60) (min (bitsOf w.sd0 57 54) (fld s.regs.leaseCtl 3 0)) ≠ 0 :=
  ⟨sw, 3, (0x30 * 4096 + 0xCF + 2^63), 0, 0, 0, wl0, (by decide +kernel)⟩

theorem witness_TranslationSteps_4 :
    ∃ (s : State) (n : Nat) (w : Walk),
    s.walk n = some w ∧
    w.begun = 1 :=
  ⟨sw1, 3, {wlk with begun := 1, hart := some 0, accs := [rq, { rq with id := 6}] }, (by decide +kernel)⟩

theorem witness_TranslationSteps_5 :
    ∃ (s : State) (r : Req) (rest : List Req),
    s.faultTurn = none ∧
    s.faultWait = r :: rest :=
  ⟨sfw, rq, [{ rq with id := 6}], (by decide +kernel)⟩

theorem witness_TranslationSteps_6 :
    ∃ (s : State) (r : Req),
    r.fresh = false ∧
    s.sectHit (sectionOf r.space r.va) r.space r.va = none ∧
    (∀ (w : Walk),
  w ∈ s.walks →
    ¬(w.sect = sectionOf r.space r.va ∧
        w.space = r.space ∧ w.vpn = r.va / 4096 % 2 ^ 36 ∧ w.bypass = false ∧ w.noInstall = false)) ∧
    (64 ≤ (List.filter (fun w => w.sect == sectionOf r.space r.va) s.walks).length ∨
  r.turn = false ∧ (s.slice (sectionOf r.space r.va)).sectWait ≠ []) :=
  ⟨sfull64, rq, (by decide +kernel)⟩

theorem witness_TranslationSteps_7 :
    ∃ (s : State) (r : Req),
    r.fresh = false ∧
    s.sectHit (sectionOf r.space r.va) r.space r.va = none ∧
    (∀ (w : Walk),
  w ∈ s.walks →
    ¬(w.sect = sectionOf r.space r.va ∧
        w.space = r.space ∧ w.vpn = r.va / 4096 % 2 ^ 36 ∧ w.bypass = false ∧ w.noInstall = false)) ∧
    ¬64 ≤ (List.filter (fun w => w.sect == sectionOf r.space r.va) s.walks).length ∧
    (r.turn = true ∨ (s.slice (sectionOf r.space r.va)).sectWait = []) :=
  ⟨swait, { rq with turn := true }, (by decide +kernel)⟩

theorem witness_TranslationSteps_8 :
    ∃ (s : State) (n : Nat) (w : Nat) (x : HartCtx) (wk : Walk),
    List.find? (fun p => p.fst == n) s.harts = some (n, x) ∧
    s.walk x.walk = some wk ∧
    s.hartFetch x = some (w, 4) ∧
    w % 2 ^ 7 = 51 ∧
    w / 2 ^ 12 % 8 = 0 ∧
    w / 2 ^ 25 = 0 ∧
    w < 2 ^ 32 :=
  ⟨sh 3, 0, insn 3, hc, {wlk with begun := 1, hart := some 0, accs := [rq, { rq with id := 6}] }, (by decide +kernel)⟩

theorem witness_LeaseClockSteps_1 :
    ∃ (s : State) (n : Nat),
    fld s.regs.migCtl 31 16 ≠ 0 :=
  ⟨sl 0, 3, (by decide +kernel)⟩

theorem witness_LeaseClockSteps_2 :
    ∃ (s : State) (n : Nat) (c : Nat) (x : Nat) (k : Nat) (now : Nat),
    (s.ctx c x).cstate = CState.active ∧
    (s.ctx c x).held = false ∧
    (s.ctx c x).wait = Wait.queue 0 ∧
    (s.ctx c x).tags = [] ∧
    (s.ctx c x).skew = some (k, now) ∧
    (s.ctx c x).trapVa ≠ 0 :=
  ⟨ssk, 3, 0, 0, 3, 5, (by decide +kernel)⟩

theorem witness_LeaseClockSteps_3 :
    ∃ (s : State) (n : Nat) (c : Nat) (x : Nat),
    (s.ctx c x).cstate = CState.free :=
  ⟨ssk, 3, 9, 4, (by decide +kernel)⟩

end T21

/-! Witnesses that the hypotheses of HomesAndRegistrants can be met. -/
namespace T23

def l2 : List CLine := [⟨0x8040/128, false, 0, line0⟩]
def h1 := shome { l2 := l2 }
def ld := hr (.load 4 1 0)
def h2 := shome { l2 := l2, regs := [rg 5 16, rg 6 17] }
def h3 := shome { l2 := l2, regs := [rg 5 16, rg 6 17, rg 7 20], sharers := [(0x8040/128, [⟨false, 5, 1, 0x77⟩, ⟨false, 9, 1, 0x77⟩])] }
def sto := hr (.store 1 0 [1,2,3,4])
def own := hr (.load 4 3 0)
def wbr := { hr (.wb 0x30000 0x10000 (List.replicate 128 9#8)) with }
def hw := shome { l2 := l2, regs := [⟨false, 0, 1, 0x12340/128, 16, 0x8040/128⟩, rg 6 17] }
def cm : CohMsg := { agent := 5, host := false, space := 1, vline := 0x77, line := 0x8040/128, word := 16, writer := ag, wid := 5, home := 0 }

theorem witness_HomesAndRegistrants_1 :
    ∃ (s : State) (r : Req) (l : Nat) (n : Nat) (hint : Nat),
    Accepted s r l ∧
    r.act = Act.load n 1 hint ∧
    r.readCk = false ∧
    r.writeCk = false ∧
    s.poisoned (l / 128) = false ∧
    s.othersOf r (l / 128) (r.want n) = [] :=
  ⟨h1, ld, 0x8040, 4, 0, (by unfold Accepted Placed; decide +kernel), (by decide +kernel)⟩

theorem witness_HomesAndRegistrants_2 :
    ∃ (s : State) (r : Req) (l : Nat) (n : Nat) (hint : Nat),
    Accepted s r l ∧
    r.act = Act.load n 1 hint ∧
    r.readCk = false ∧
    r.writeCk = false ∧
    s.poisoned (l / 128) = false :=
  ⟨h2, ld, 0x8040, 4, 0, (by unfold Accepted Placed; decide +kernel), (by decide +kernel)⟩

theorem witness_HomesAndRegistrants_3 :
    ∃ (s : State) (r : Req) (l : Nat) (n : Nat) (hint : Nat) (g : RegWord),
    Accepted s r l ∧
    r.act = Act.load n 1 hint ∧
    r.readCk = false ∧
    r.writeCk = false ∧
    s.poisoned (l / 128) = false ∧
    g ∈ s.othersOf r (l / 128) (r.want n) ∧
    g.agent / 256 = s.cubeId :=
  ⟨h2, ld, 0x8040, 4, 0, rg 5 16, (by unfold Accepted Placed; decide +kernel), (by decide +kernel)⟩

theorem witness_HomesAndRegistrants_4 :
    ∃ (s : State) (r : Req) (l : Nat) (hint : Nat) (d : List Byte),
    Accepted s r l ∧
    Writable s l d.length ∧
    r.act = Act.store 1 hint d ∧
    r.readCk = false ∧
    r.writeCk = false ∧
    l % 128 / 4 * 4 + r.under.length ≤ 128 :=
  ⟨h3, sto, 0x8040, 0, [1,2,3,4], (by unfold Accepted Placed; decide +kernel), (by unfold Writable; decide +kernel), (by decide +kernel)⟩

theorem witness_HomesAndRegistrants_5 :
    ∃ (s : State) (r : Req) (l : Nat) (n : Nat) (hint : Nat) (p : Ptr),
    Accepted s r l ∧
    r.act = Act.load n 3 hint ∧
    r.readCk = false ∧
    r.writeCk = false ∧
    s.poisoned (l / 128) = false ∧
    r.holder = some p ∧
    (s.slice (sliceOf (l / 128))).regs.length ≤ 32736 :=
  ⟨h3, own, 0x8040, 4, 0, (own.holder).getD ⟨false, 0,0,0⟩, (by unfold Accepted Placed; decide +kernel), (by decide +kernel)⟩

theorem witness_HomesAndRegistrants_6 :
    ∃ (s : State) (r : Req) (l : Nat) (mask : Nat) (dirty : Nat) (data : List Byte),
    Accepted s r l ∧
    Writable s l 0 ∧
    r.act = Act.wb mask dirty data ∧
    data.length = 128 :=
  ⟨hw, wbr, 0x8040, 0x30000, 0x10000, List.replicate 128 9#8, (by unfold Accepted Placed; decide +kernel), (by unfold Writable; decide +kernel), (by decide +kernel)⟩

theorem witness_HomesAndRegistrants_7 :
    ∃ (s : State) (m : CohMsg) (g : RegWord),
    Writable s (m.line * 128) 0 ∧
    s.svc.snoops = [] ∧
    m.word < 32 ∧
    g ∈ (s.slice (sliceOf m.line)).regs ∧
    (g.line = m.line ∧ g.word = m.word ∧ g.agent = m.agent) ∧
    g.space = m.space ∧
    g.vline = m.vline ∧
    g.host = m.host :=
  ⟨h3, cm, rg 5 16, (by unfold Writable; decide +kernel), (by decide +kernel)⟩

theorem witness_HomesAndRegistrants_8 :
    ∃ (s : State) (m : CohMsg) (r : Option Req),
    m.host = false ∧
    m.writer.cube = s.cubeId :=
  ⟨h3, cm, none, (by decide +kernel)⟩

end T23

/-! Witnesses that the hypotheses of HomeAtomicsCountersAndRaces can be met. -/
namespace T24

def l2 : List CLine := [⟨0x8040/128, false, 0, line0⟩]
def L := 0x8040/128
def at1 := hr (.atomic 0 1 .i32 5 0 false none)
def hh := shome { l2 := l2 }
def hs := shome { l2 := l2, regs := [rg 5 16] }
def hc := shome { l2 := [⟨L, false, 0, (List.replicate 64 0#8) ++ toBytes 100 8 ++ List.replicate 56 0#8⟩], watches := [⟨0x8040, 103, ag, 3⟩, ⟨0x8040, 110, ag, 4⟩, ⟨0x8048, 1, ag, 5⟩] }
def lmw : LineMove := { lm with to_ := L, watches := [⟨9*128+8, 5, ag, 3⟩] }
def rr (rd wr : Bool) (tag : Nat) : Req := { hr (.notice rd wr) with readCk := rd, writeCk := wr, tag := tag }
def hrc := shome { l2 := l2, races := [⟨L, 16, some 0x10009, [0x20009]⟩] }
def rk (rd wr : Bool) : Req := { rr rd wr 7 with known := [(0x10009, true), (0x20009, true)] }
def hold1 (n : Nat) : Hold := { line := L, step := some (.regionNotice (rr false true 7)), acks := n, known := [], queue := [.sweepPass 3], near := false }
def ck0 : CheckMsg := { tag := 0x10009, home := 0, line := L, live := true }
def swc (n : Nat) : Machine.State := { hrc with slices := [(sliceOf L, { hrc.slice (sliceOf L) with sweepLeft := n, raceNow := [.sweepPass 3] })] }
def swp := { hrc with slices := [(sliceOf L, { races := [⟨L, 16, some 0x10009, [0x20000, 0x40001, 0]⟩, ⟨L, 17, some 0x10009, []⟩], raceWait := [.sweepPass 9] })] }
def swf := { hrc with slices := [(sliceOf L, { races := [⟨L, 16, some 0x10009, [300 * 2^21, 0x40001, 0]⟩, ⟨L, 17, some 0x10009, []⟩], raceWait := [.sweepPass 9] })] }
def sser (tc : Nat) (sn : BitVec 16) (b : Nat) : Machine.State := {s0 with cores := [(0, {ctxs := [(0, {tx with tch := 3, tcl := tc, wait := .serial, serial := sn, bdue := b})]})]}

theorem witness_HomeAtomicsCountersAndRaces_1 :
    ∃ (s : State) (r : Req) (l : Nat) (op : Nat) (form : Nat) (ty : Ty) (v : Nat) (cmp : Nat) (mg : Bool) (dir : Option DirTo),
    Accepted s r l ∧
    r.act = Act.atomic op form ty v cmp mg dir ∧
    s.shared (l / 128) (wordMask l (atomWidth ty)) r.holder = true :=
  ⟨hs, at1, 0x8040, 0, 1, .i32, 5, 0, false, none, (by unfold Accepted Placed; decide +kernel), (by decide +kernel)⟩

theorem witness_HomeAtomicsCountersAndRaces_2 :
    ∃ (s : State) (r : Req) (l : Nat) (op : Nat) (form : Nat) (ty : Ty) (v : Nat) (cmp : Nat) (mg : Bool) (dir : Option DirTo),
    Accepted s r l ∧
    Writable s l (atomWidth ty) ∧
    r.act = Act.atomic op form ty v cmp mg dir ∧
    s.shared (l / 128) (wordMask l (atomWidth ty)) r.holder = false ∧
    s.poisoned (l / 128) = false :=
  ⟨hh, at1, 0x8040, 0, 1, .i32, 5, 0, false, none, (by unfold Accepted Placed; decide +kernel), (by unfold Writable; decide +kernel), (by decide +kernel)⟩

theorem witness_HomeAtomicsCountersAndRaces_3 :
    ∃ (s : State) (r : Req) (l : Nat) (op : Nat) (v : Nat),
    Accepted s r l ∧
    Writable s l 8 ∧
    r.act = Act.counter op v ∧
    s.shared (l / 128) (wordMask l 8) r.holder = false ∧
    s.poisoned (l / 128) = false ∧
    op < 2 ∧
    ofBytes (List.take 8 (List.drop (l % 128) (s.homeLine (l / 128)))) + v < 2 ^ 64 :=
  ⟨hc, hr (.counter 0 5), 0x8040, 0, 5, (by unfold Accepted Placed; decide +kernel), (by unfold Writable; decide +kernel), (by decide +kernel)⟩

theorem witness_HomeAtomicsCountersAndRaces_4 :
    ∃ (s : State) (r : Req) (l : Nat) (op : Nat) (v : Nat),
    Accepted s r l ∧
    Writable s l 8 ∧
    r.act = Act.counter op v ∧
    s.shared (l / 128) (wordMask l 8) r.holder = false ∧
    s.poisoned (l / 128) = false ∧
    2 ≤ op :=
  ⟨hc, hr (.counter 3 5), 0x8040, 3, 5, (by unfold Accepted Placed; decide +kernel), (by unfold Writable; decide +kernel), (by decide +kernel)⟩

theorem witness_HomeAtomicsCountersAndRaces_5 :
    ∃ (s : State) (r : Req) (l : Nat) (op : Nat) (v : Nat),
    Accepted s r l ∧
    Writable s l 8 ∧
    r.act = Act.counter op v ∧
    s.shared (l / 128) (wordMask l 8) r.holder = false ∧
    s.poisoned (l / 128) = false ∧
    op < 2 ∧
    2 ^ 64 ≤ ofBytes (List.take 8 (List.drop (l % 128) (s.homeLine (l / 128)))) + v :=
  ⟨hc, hr (.counter 1 (2^64-50)), 0x8040, 1, 2^64-50, (by unfold Accepted Placed; decide +kernel), (by unfold Writable; decide +kernel), (by decide +kernel)⟩

theorem witness_HomeAtomicsCountersAndRaces_6 :
    ∃ (s : State) (r : Req) (l : Nat) (target : Nat) (lo : Nat) (hi : Nat),
    Accepted s r l ∧
    r.act = Act.watch target ∧
    s.word32 l = some lo ∧
    s.word32 (l + 4) = some hi ∧
    target ≤ lo + 2 ^ 32 * hi ∧
    r.who.cube = s.cubeId :=
  ⟨hc, hr (.watch 50), 0x8040, 50, 100, 0, (by unfold Accepted Placed; decide +kernel), (by decide +kernel)⟩

theorem witness_HomeAtomicsCountersAndRaces_7 :
    ∃ (s : State) (r : Req) (l : Nat) (target : Nat) (lo : Nat) (hi : Nat),
    Accepted s r l ∧
    r.act = Act.watch target ∧
    s.word32 l = some lo ∧
    s.word32 (l + 4) = some hi ∧
    lo + 2 ^ 32 * hi < target ∧
    (s.slice (sliceOf (l / 128))).watches.length < 4096 ∧
    (r.turn = true ∨ (s.slice (sliceOf (l / 128))).watchWait = []) :=
  ⟨hc, hr (.watch 150), 0x8040, 150, 100, 0, (by unfold Accepted Placed; decide +kernel), (by decide +kernel)⟩

theorem witness_HomeAtomicsCountersAndRaces_8 :
    ∃ (s : State) (r : Req) (l : Nat) (id : Nat),
    Accepted s r l ∧
    r.act = Act.unwatch id :=
  ⟨hc, hr (.unwatch 3), 0x8040, 3, (by unfold Accepted Placed; decide +kernel), (by decide +kernel)⟩

theorem witness_HomeAtomicsCountersAndRaces_9 :
    ∃ (s : State) (r : Req) (l : Nat) (target : Nat) (lo : Nat) (hi : Nat),
    Accepted s r l ∧
    r.act = Act.watch target ∧
    s.word32 l = some lo ∧
    s.word32 (l + 4) = some hi ∧
    lo + 2 ^ 32 * hi < target ∧
    (4096 ≤ (s.slice (sliceOf (l / 128))).watches.length ∨
  r.turn = false ∧ (s.slice (sliceOf (l / 128))).watchWait ≠ []) :=
  ⟨{ hc with slices := [(sliceOf L, { hc.slice (sliceOf L) with watchWait := [.watchRegistration (hr (.watch 4))] })] }, hr (.watch 150), 0x8040, 150, 100, 0, (by unfold Accepted Placed; decide +kernel), (by decide +kernel)⟩

theorem witness_HomeAtomicsCountersAndRaces_10 :
    ∃ (s : State) (r : Req) (l : Nat) (n : Nat) (rest : List Ev) (q : Req),
    Accepted s r l ∧
    (s.slice n).watches.length < 4096 ∧
    (s.slice n).watchWait = Ev.watchRegistration q :: rest :=
  ⟨shome { watchWait := [.watchRegistration (hr (.watch 4)), .sweepPass 0] }, hr (.watch 4), 0x8040, sliceOf L, [.sweepPass 0], hr (.watch 4), (by unfold Accepted Placed; decide +kernel), (by decide +kernel)⟩

theorem witness_HomeAtomicsCountersAndRaces_11 :
    ∃ (s : State) (r : Req) (l : Nat) (n : Nat) (rest : List Ev) (m : LineMove),
    Accepted s r l ∧
    (s.slice n).watches.length < 4096 ∧
    (s.slice n).watchWait = Ev.holdTransferInstall m :: rest :=
  ⟨shome { watchWait := [.holdTransferInstall lmw, .sweepPass 0] }, hr (.watch 4), 0x8040, sliceOf L, [.sweepPass 0], lmw, (by unfold Accepted Placed; decide +kernel), (by decide +kernel)⟩

theorem witness_HomeAtomicsCountersAndRaces_12 :
    ∃ (s : State) (r : Req) (l : Nat) (w : Bool),
    Accepted s r l ∧
    r.act = Act.notice true w ∧
    r.readCk = false ∧
    r.writeCk = false ∧
    s.poisoned (l / 128) = false ∧
    s.othersOf r (l / 128) r.words = [] :=
  ⟨hh, {hr (.notice true false) with }, 0x8040, false, (by unfold Accepted Placed; decide +kernel), (by decide +kernel)⟩

theorem witness_HomeAtomicsCountersAndRaces_13 :
    ∃ (s : State) (r : Req) (l : Nat) (rd : Bool) (wr : Bool),
    Accepted s r l ∧
    r.act = Act.notice rd wr ∧
    (r.readCk || r.writeCk) = true ∧
    (∀ (w : Nat), w ∈ maskWords r.words → (s.slice (sliceOf (l / 128))).race (l / 128) w = none) ∧
    (s.slice (sliceOf (l / 128))).races.length ≤ 16352 ∧
    (maskWords r.words).length ≤ r.room :=
  ⟨hh, rr true false 7, 0x8040, true, false, (by unfold Accepted Placed; decide +kernel), (by decide +kernel)⟩

theorem witness_HomeAtomicsCountersAndRaces_14 :
    ∃ (s : State) (r : Req) (l : Nat) (rd : Bool) (wr : Bool) (w : Nat) (e : RaceEnt) (g : Nat),
    Accepted s r l ∧
    r.act = Act.notice rd wr ∧
    (r.readCk || r.writeCk) = true ∧
    w < 32 ∧
    r.words = 2 ^ w ∧
    (s.slice (sliceOf (l / 128))).race (l / 128) w = some e ∧
    (g ∈ if wr = true then e.tags else e.wtag.toList) ∧
    tagCtx g ≠ tagCtx r.tag ∧
    (∀ (x : Nat), x ∈ e.tags → (r.known.any fun k => k.fst == x) = true ∧ deadTag r.known x = false) :=
  ⟨hrc, rk false true, 0x8040, false, true, 16, ⟨L, 16, some 0x10009, [0x20009]⟩, 0x10009, (by unfold Accepted Placed; decide +kernel), (by decide +kernel)⟩

theorem witness_HomeAtomicsCountersAndRaces_15 :
    ∃ (s : State) (r : Req) (l : Nat) (rd : Bool) (wr : Bool) (w : Nat) (e : RaceEnt) (g : Nat),
    Accepted s r l ∧
    r.act = Act.notice rd wr ∧
    (r.readCk || r.writeCk) = true ∧
    w < 32 ∧
    r.words = 2 ^ w ∧
    (s.slice (sliceOf (l / 128))).race (l / 128) w = some e ∧
    g ∈ e.tags ∧
    tagCtx g ≠ tagCtx r.tag ∧
    (r.known.any fun k => k.fst == g) = false ∧
    tagCore g / 256 = s.cubeId :=
  ⟨hrc, rr false true 7, 0x8040, false, true, 16, ⟨L, 16, some 0x10009, [0x20009]⟩, 0x10009, (by unfold Accepted Placed; decide +kernel), (by decide +kernel)⟩

theorem witness_HomeAtomicsCountersAndRaces_16 :
    ∃ (s : State) (c : CheckMsg),
    c.e2e = none :=
  ⟨hrc, { tag := 0x10009, home := 0, line := L, live := true }, (by decide +kernel)⟩

theorem witness_HomeAtomicsCountersAndRaces_17 :
    ∃ (s : State) (c : CheckMsg) (h : Hold),
    c.sweep = false ∧
    s.holdOf c.line = some h :=
  ⟨{hrc with holds := [hold1 1]}, ck0, hold1 1, (by decide +kernel)⟩

theorem witness_HomeAtomicsCountersAndRaces_18 :
    ∃ (s : State) (c : CheckMsg),
    c.sweep = true ∧
    c.live = true :=
  ⟨swc 1, { ck0 with line := sliceOf L, sweep := true }, (by decide +kernel)⟩

theorem witness_HomeAtomicsCountersAndRaces_19 :
    ∃ (s : State) (c : CheckMsg),
    c.sweep = true ∧
    c.live = false :=
  ⟨swc 2, { ck0 with line := sliceOf L, sweep := true, live := false }, (by decide +kernel)⟩

theorem witness_HomeAtomicsCountersAndRaces_20 :
    ∃ (s : State) (n : Nat),
    (s.slice n).sweepLeft = 0 ∧
    (¬∃ e g, e ∈ (s.slice n).races ∧ g ∈ e.tags ∧ tagCore g / 256 ≠ s.cubeId) :=
  ⟨swp, sliceOf L, (by decide +kernel), fun ⟨e, g, he, hg, h⟩ => absurd h (by
      have a : ∀ e ∈ (swp.slice (sliceOf L)).races, ∀ g ∈ e.tags, ¬ tagCore g / 256 ≠ swp.cubeId := by decide +kernel
      exact a e he g hg)⟩

theorem witness_HomeAtomicsCountersAndRaces_21 :
    ∃ (s : State) (n : Nat),
    (s.slice n).sweepLeft = 0 ∧
    (∃ e g, e ∈ (s.slice n).races ∧ g ∈ e.tags ∧ tagCore g / 256 ≠ s.cubeId) :=
  ⟨swf, sliceOf L, (by decide +kernel), by
      have a : ∃ e ∈ (swf.slice (sliceOf L)).races, ∃ g ∈ e.tags, tagCore g / 256 ≠ swf.cubeId := by decide +kernel
      obtain ⟨e, he, g, hg, h⟩ := a
      exact ⟨e, g, he, hg, h⟩⟩

theorem witness_HomeAtomicsCountersAndRaces_22 :
    ∃ (s : State) (n : Nat),
    (s.slice n).sweepLeft ≠ 0 :=
  ⟨swc 2, sliceOf L, (by decide +kernel)⟩

theorem witness_HomeAtomicsCountersAndRaces_23 :
    ∃ (s : State) (n : Nat) (c : Nat) (x : Nat),
    (s.ctx c x).wait = Wait.serial ∧
    (¬((((s.ctx c x).serial + 1#16).toNat % 2 ^ 15 = 0 →
      (if ((s.ctx c x).serial + 1#16).toNat = 0 then (s.ctx c x).tcl else (s.ctx c x).tch) = 0) ∧
    ∀ (o : Out), o ∈ s.outs → o.who = { kind := AKind.thread, core := s.gcore c, idx := x } → o.tracked = false)) :=
  ⟨sser 2 0x7FFF#16 1, 0, 0, 0, (by decide +kernel)⟩

theorem witness_HomeAtomicsCountersAndRaces_24 :
    ∃ (s : State) (n : Nat) (c : Nat) (x : Nat),
    (s.ctx c x).wait = Wait.serial ∧
    ((((s.ctx c x).serial + 1#16).toNat % 2 ^ 15 = 0 →
    (if ((s.ctx c x).serial + 1#16).toNat = 0 then (s.ctx c x).tcl else (s.ctx c x).tch) = 0) ∧
  ∀ (o : Out), o ∈ s.outs → o.who = { kind := AKind.thread, core := s.gcore c, idx := x } → o.tracked = false) ∧
    (s.ctx c x).bdue = 1 :=
  ⟨sser 0 0xFFFF#16 1, 0, 0, 0, (by decide +kernel)⟩

theorem witness_HomeAtomicsCountersAndRaces_25 :
    ∃ (s : State) (n : Nat) (c : Nat) (x : Nat),
    (s.ctx c x).wait = Wait.serial ∧
    ((((s.ctx c x).serial + 1#16).toNat % 2 ^ 15 = 0 →
    (if ((s.ctx c x).serial + 1#16).toNat = 0 then (s.ctx c x).tcl else (s.ctx c x).tch) = 0) ∧
  ∀ (o : Out), o ∈ s.outs → o.who = { kind := AKind.thread, core := s.gcore c, idx := x } → o.tracked = false) ∧
    (s.ctx c x).bdue = 0 :=
  ⟨sser 0 0xFFFF#16 0, 0, 0, 0, (by decide +kernel)⟩

end T24

/-! Witnesses that the hypotheses of CopiesAndAnswers can be met. -/
namespace T25

def nlo : NLine := { nl with o := 0xFFFF0000#32, d := 0x10000#32 }
def cmx (w : Nat) : CohMsg := { agent := 0, host := false, space := 1, vline := nl.vline, line := 3, word := w, writer := ag, wid := 5, home := 0 }
def sc : Machine.State := st tx { near := [nl2, nlo] }
def rq2 : Req := { hr (.load 4 1 0) with cube := 0 }
def sfw : Machine.State := st tx { near := [nl2, nlo], fwds := [.inv (cmx 3)] }
def swb : Machine.State := { cores := [(0, { near := [nl2], wbuf := [{nl2 with d := 1}, nlo], fills := [.sweepPass 3], ctxs := [(0, {tx with wait := .wbuf}), (1, tx)] })], outs := [{ id := 5, who := ag, req := rq2, purp := .wb }] }
def hd2 : Hold := { line := 5, step := none, acks := 2, known := [], queue := [], near := false }
def ou (a : Act) (p : Purp) : Out := { id := 5, who := ag, req := { hr a with va := 0x10040, words := 0x10000 }, purp := p }
def sa (o : Out) : Machine.State := { cores := [(0, { near := [nl2, { nl with o := 0xFFFE0000#32 }], ctxs := [(0, {tx with wait := .access 5, pendg := 3})] })], outs := [o] }
def an : Ans := { who := ag, id := 5, st := .ok, mask := 0x10000, data := line0, dirty := 0, n := 2, value := 7, flags := 0, tagSet := 0 }
def ol := ou (.load 4 1 0) .buf
def ol0 := ou (.load 4 0 0) .buf
def os3 := ou (.store 3 0 [1,2,3,4]) .store
def os1 := ou (.store 1 0 [1,2,3,4]) .store
def sw : Machine.State := { cores := [(0, { ctxs := [(0, {tx with wait := .watch 5, cw := some (0x3000, 1, 2, 3)})] })], outs := [ou (.watch 4) .watch] }
def nk (r : Nat) (h : Option Nat) : NackMsg := { who := ag, id := 5, reason := r, hint := h, ver := 3, e2e := none }
def ole : Out := { ol with req := { ol.req with exp := some 100 } }
def sle : Machine.State := { sa ole with map := oneMap, cubeList := [(0,0)], leaseNow := 5000 }

theorem witness_CopiesAndAnswers_1 :
    ∃ (s : State) (m : CohMsg) (r : Req),
    m.host = false ∧
    (∃ e, e ∈ (s.core (m.agent % 256)).fwds ∧ aboutLine m e = true) :=
  ⟨sfw, cmx 16, rq2, (by decide +kernel)⟩

theorem witness_CopiesAndAnswers_2 :
    ∃ (s : State) (m : CohMsg),
    m.host = false ∧
    (¬∃ e, e ∈ (s.core (m.agent % 256)).fwds ∧ aboutLine m e = true) ∧
    s.fillComing m = false ∧
    m.writer.cube = s.cubeId :=
  ⟨sc, cmx 16, (by decide +kernel)⟩

theorem witness_CopiesAndAnswers_3 :
    ∃ (s : State) (m : CohMsg) (v : Nat) (d : Bool) (r : Req),
    m.host = false ∧
    (¬∃ e, e ∈ (s.core (m.agent % 256)).fwds ∧ aboutLine m e = true) ∧
    s.ownedWord m = some (v, d) ∧
    r.cube = s.cubeId :=
  ⟨sc, cmx 16, ((sc.ownedWord (cmx 16)).getD (0, false)).1, ((sc.ownedWord (cmx 16)).getD (0, false)).2, rq2, (by decide +kernel)⟩

theorem witness_CopiesAndAnswers_4 :
    ∃ (s : State) (m : CohMsg) (v : Nat) (d : Bool),
    m.host = false ∧
    (¬∃ e, e ∈ (s.core (m.agent % 256)).fwds ∧ aboutLine m e = true) ∧
    s.ownedWord m = some (v, d) ∧
    m.writer.cube = s.cubeId :=
  ⟨sc, cmx 16, ((sc.ownedWord (cmx 16)).getD (0, false)).1, ((sc.ownedWord (cmx 16)).getD (0, false)).2, (by decide +kernel)⟩

theorem witness_CopiesAndAnswers_5 :
    ∃ (s : State) (m : CohMsg) (v : Nat) (d : Bool),
    m.host = false ∧
    (¬∃ e, e ∈ (s.core (m.agent % 256)).fwds ∧ aboutLine m e = true) ∧
    s.ownedWord m = some (v, d) ∧
    m.home = s.cubeId :=
  ⟨sc, cmx 16, ((sc.ownedWord (cmx 16)).getD (0, false)).1, ((sc.ownedWord (cmx 16)).getD (0, false)).2, (by decide +kernel)⟩

theorem witness_CopiesAndAnswers_6 :
    ∃ (s : State) (m : CohMsg),
    m.host = false :=
  ⟨swb, cmx 16, (by decide +kernel)⟩

theorem witness_CopiesAndAnswers_7 :
    ∃ (s : State) (m : CohMsg),
    m.host = false :=
  ⟨swb, cmx 16, (by decide +kernel)⟩

theorem witness_CopiesAndAnswers_8 :
    ∃ (s : State) (m : CohMsg),
    m.host = false ∧
    s.svc.snoops = [] ∧
    m.writer.kind = AKind.thread :=
  ⟨sc, cmx 16, (by decide +kernel)⟩

theorem witness_CopiesAndAnswers_9 :
    ∃ (s : State) (m : CohMsg) (h : Hold),
    m.host = false ∧
    s.svc.snoops = [] ∧
    m.writer.kind = AKind.home ∧
    s.holdOf m.wid = some h ∧
    1 < h.acks :=
  ⟨{sc with holds := [hd2]}, {cmx 16 with writer := { ag with kind := .home }}, hd2, (by decide +kernel)⟩

theorem witness_CopiesAndAnswers_10 :
    ∃ (s : State) (a : Ans) (o : Out) (n : Nat) (pol : Nat) (hint : Nat),
    s.out a.who a.id = some o ∧
    o.who.kind = AKind.thread ∧
    o.req.readCk = false ∧
    o.req.writeCk = false ∧
    a.tagSet = 0 ∧
    s.svc.snoops = [] ∧
    o.req.act = Act.load n pol hint ∧
    pol ≠ 3 ∧
    o.purp = Purp.buf ∧
    (s.ctx (o.who.core % 256) o.who.idx).wait = Wait.access o.id ∧
    a.st = Status.ok ∧
    (o.absorb a).lacks = 0 ∧
    s.ownComing o a.mask = false ∧
    pol = 1 :=
  ⟨sa ol, an, ol, 4, 1, 0, (by decide +kernel)⟩

theorem witness_CopiesAndAnswers_11 :
    ∃ (s : State) (a : Ans) (o : Out) (n : Nat) (pol : Nat) (hint : Nat),
    s.out a.who a.id = some o ∧
    o.who.kind = AKind.thread ∧
    o.req.readCk = false ∧
    o.req.writeCk = false ∧
    a.tagSet = 0 ∧
    s.svc.snoops = [] ∧
    o.req.act = Act.load n pol hint ∧
    pol ≠ 3 ∧
    o.purp = Purp.buf ∧
    (s.ctx (o.who.core % 256) o.who.idx).wait = Wait.access o.id ∧
    a.st = Status.ok ∧
    (o.absorb a).lacks = 0 ∧
    s.ownComing o a.mask = false :=
  ⟨sa ol0, an, ol0, 4, 0, 0, (by decide +kernel)⟩

theorem witness_CopiesAndAnswers_12 :
    ∃ (s : State) (a : Ans) (o : Out) (n : Nat) (pol : Nat) (hint : Nat) (l : NLine),
    s.out a.who a.id = some o ∧
    o.who.kind = AKind.thread ∧
    o.req.readCk = false ∧
    o.req.writeCk = false ∧
    a.tagSet = 0 ∧
    s.svc.snoops = [] ∧
    o.req.act = Act.load n pol hint ∧
    pol ≠ 3 ∧
    o.purp = Purp.buf ∧
    (s.ctx (o.who.core % 256) o.who.idx).wait = Wait.access o.id ∧
    a.st = Status.ok ∧
    (o.absorb a).lacks = 0 ∧
    s.ownComing o a.mask = false ∧
    (s.core (o.who.core % 256)).nearLine o.req.space (o.req.va / 128) = some l :=
  ⟨sa ol, an, ol, 4, 1, 0, { nl with o := 0xFFFE0000#32 }, (by decide +kernel)⟩

theorem witness_CopiesAndAnswers_13 :
    ∃ (s : State) (a : Ans) (o : Out) (n : Nat) (hint : Nat) (code : Nat) (i1 : Nat) (i2 : Nat),
    s.out a.who a.id = some o ∧
    o.who.kind = AKind.thread ∧
    o.req.readCk = false ∧
    o.req.writeCk = false ∧
    a.tagSet = 0 ∧
    s.svc.snoops = [] ∧
    o.req.act = Act.load n 1 hint ∧
    o.purp = Purp.buf ∧
    (s.ctx (o.who.core % 256) o.who.idx).wait = Wait.access o.id ∧
    a.st = Status.fail code i1 i2 ∧
    (s.ctx (o.who.core % 256) o.who.idx).held = false :=
  ⟨sa ol, {an with st := .fail 6 3 4}, ol, 4, 0, 6, 3, 4, (by decide +kernel)⟩

theorem witness_CopiesAndAnswers_14 :
    ∃ (s : State) (a : Ans) (o : Out) (hint : Nat) (d : List Byte) (l : NLine),
    s.out a.who a.id = some o ∧
    o.who.kind = AKind.thread ∧
    o.req.readCk = false ∧
    o.req.writeCk = false ∧
    a.tagSet = 0 ∧
    s.svc.snoops = [] ∧
    o.req.act = Act.store 3 hint d ∧
    o.purp = Purp.store ∧
    o.granted = false ∧
    a.st = Status.ok ∧
    (o.absorb a).lacks = 0 ∧
    o.req.words = wordMask o.req.va d.length ∧
    o.req.va % 128 + d.length ≤ 128 ∧
    (s.core (o.who.core % 256)).nearLine o.req.space (o.req.va / 128) = some l :=
  ⟨sa os3, an, os3, 0, [1,2,3,4], { nl with o := 0xFFFE0000#32 }, (by decide +kernel)⟩

theorem witness_CopiesAndAnswers_15 :
    ∃ (s : State) (a : Ans) (o : Out) (hint : Nat) (d : List Byte),
    s.out a.who a.id = some o ∧
    o.who.kind = AKind.thread ∧
    o.req.readCk = false ∧
    o.req.writeCk = false ∧
    a.tagSet = 0 ∧
    s.svc.snoops = [] ∧
    o.req.act = Act.store 1 hint d ∧
    o.purp = Purp.store ∧
    a.st = Status.ok :=
  ⟨sa os1, an, os1, 0, [1,2,3,4], (by decide +kernel)⟩

theorem witness_CopiesAndAnswers_16 :
    ∃ (s : State) (who : Agent) (id : Nat) (v : Nat),
    who.kind = AKind.thread ∧
    (s.ctx (who.core % 256) who.idx).wait = Wait.watch id :=
  ⟨sw, ag, 5, 9, (by decide +kernel)⟩

theorem witness_CopiesAndAnswers_17 :
    ∃ (s : State) (who : Agent) (id : Nat) (addr : Nat) (e : Nat) (f : Nat) (g : Nat),
    who.kind = AKind.thread ∧
    (s.ctx (who.core % 256) who.idx).wait = Wait.watch id ∧
    (s.ctx (who.core % 256) who.idx).cw = some (addr, e, f, g) ∧
    (s.ctx (who.core % 256) who.idx).held = false :=
  ⟨sw, ag, 5, 0x3000, 1, 2, 3, (by decide +kernel)⟩

theorem witness_CopiesAndAnswers_18 :
    ∃ (s : State) (n : NackMsg) (o : Out),
    n.e2e = none ∧
    s.out n.who n.id = some o ∧
    (n.reason = 0 ∨ n.reason = 3) ∧
    n.hint = some s.cubeId ∧
    s.wanted o.who o.req = true :=
  ⟨sa ol, nk 0 (some 0), ol, (by decide +kernel)⟩

theorem witness_CopiesAndAnswers_19 :
    ∃ (s : State) (n : NackMsg) (o : Out),
    n.e2e = none ∧
    s.out n.who n.id = some o ∧
    (n.reason = 1 ∨ n.reason = 2 ∨ n.reason = 6) :=
  ⟨sa ol, nk 1 none, ol, (by decide +kernel)⟩

theorem witness_CopiesAndAnswers_20 :
    ∃ (s : State) (n : NackMsg) (o : Out),
    n.e2e = none ∧
    s.out n.who n.id = some o ∧
    n.reason = 4 :=
  ⟨sa ol, nk 4 none, ol, (by decide +kernel)⟩

theorem witness_CopiesAndAnswers_21 :
    ∃ (s : State) (n : NackMsg) (o : Out) (p : Place),
    n.e2e = none ∧
    s.out n.who n.id = some o ∧
    s.layout o.req.pa = some p ∧
    p.cube = s.cubeId ∧
    s.wanted o.who o.req = true :=
  ⟨sle, nk 1 (some 0), ole, (sle.layout ole.req.pa).getD ⟨0,0,0,false,0⟩, (by decide +kernel), (by decide +kernel), some_getD (by decide +kernel), (by decide +kernel)⟩

end T25

/-! Witnesses that the hypotheses of PortLifeCycle can be met. -/
namespace T26

def sp (q : Port) : Machine.State := { sb with fabric := { ports := [(2, q), (3, { state := 1 })] }, cubeSet := true }
def q1 : Port := { state := 1 }
def q1l : Port := { state := 1, laneLock := true, lanesOn := true }
def q1b : Port := { state := 1, laneLock := true, blockLock := true, lanesOn := true }
def q2 : Port := { state := 2, lanesOn := true, peer := 9 }
def q3 : Port := { state := 3, lanesOn := true, peer := 9 }
def q3f : Port := { state := 3, lanesOn := true, peer := 9, fencing := true }
def q3s : Port := { state := 3, lanesOn := true, peer := 9, fenceSent := true }
def q4 : Port := { state := 4, lanesOn := true, peer := 9 }

theorem witness_PortLifeCycle_1 :
    ∃ (s : State) (p : Nat),
    (s.port p).state = 1 :=
  ⟨sp q1, 2, (by decide +kernel)⟩

theorem witness_PortLifeCycle_2 :
    ∃ (s : State) (p : Nat),
    (s.port p).state = 1 ∧
    (s.port p).laneLock = true ∧
    (s.port p).blockLock = false :=
  ⟨sp q1l, 2, (by decide +kernel)⟩

theorem witness_PortLifeCycle_3 :
    ∃ (s : State) (p : Nat),
    (s.port p).state = 1 ∧
    (s.port p).blockLock = true ∧
    (s.port p).lanesOn = true :=
  ⟨sp q1b, 2, (by decide +kernel)⟩

theorem witness_PortLifeCycle_4 :
    ∃ (s : State) (p : Nat) (cube : Nat) (peer : Nat),
    (s.port p).state = 1 ∧
    (s.port p).blockLock = true ∧
    (s.port p).lanesOn = true ∧
    s.cubeSet = true :=
  ⟨sp q1b, 2, 9, 4, (by decide +kernel)⟩

theorem witness_PortLifeCycle_5 :
    ∃ (s : State) (p : Nat),
    (s.port p).state = 2 ∧
    (s.port p).drained = true ∧
    (s.port p).fenceSent = false ∧
    ((s.port p).state = 2 ∨ (s.port p).state = 3) ∧
    (s.port p).sends = true ∧
    s.leaseNow < (s.port p).heard + 263 :=
  ⟨sp q2, 2, (by decide +kernel)⟩

theorem witness_PortLifeCycle_6 :
    ∃ (s : State) (p : Nat),
    (s.port p).state = 3 ∧
    (s.port p).drained = true ∧
    (s.port p).lanesOn = true ∧
    (s.port p).fencing = false ∧
    (s.port p).fenceSent = false ∧
    ((s.port p).state = 2 ∨ (s.port p).state = 3) ∧
    (s.port p).sends = true ∧
    s.leaseNow < (s.port p).heard + 263 :=
  ⟨sp q3, 2, (by decide +kernel)⟩

theorem witness_PortLifeCycle_7 :
    ∃ (s : State) (p : Nat),
    (s.port p).state = 3 ∧
    (s.port p).drained = true ∧
    (s.port p).lanesOn = true ∧
    (s.port p).fencing = true ∧
    ((s.port p).state = 2 ∨ (s.port p).state = 3) ∧
    (s.port p).sends = true ∧
    s.leaseNow < (s.port p).heard + 263 :=
  ⟨sp q3f, 2, (by decide +kernel)⟩

theorem witness_PortLifeCycle_8 :
    ∃ (s : State) (p : Nat),
    (s.port p).state = 3 ∧
    (s.port p).drained = true ∧
    (s.port p).lanesOn = true ∧
    ((s.port p).state = 2 ∨ (s.port p).state = 3) ∧
    (s.port p).fenceSent = true ∧
    (s.port p).sends = true ∧
    s.leaseNow < (s.port p).heard + 263 :=
  ⟨sp q3s, 2, (by decide +kernel)⟩

theorem witness_PortLifeCycle_9 :
    ∃ (s : State) (p : Nat),
    4 ≤ (s.port p).state :=
  ⟨sp q4, 2, (by decide +kernel)⟩

theorem witness_PortLifeCycle_10 :
    ∃ (s : State) (p : Nat),
    (s.port p).state = 2 ∧
    (s.port p).drained = true ∧
    (s.port p).fenceSent = false ∧
    ((s.port p).state = 2 ∨ (s.port p).state = 3) ∧
    (s.port p).sends = true ∧
    (s.port p).heard + 263 ≤ s.leaseNow :=
  ⟨{sp q2 with leaseNow := 300}, 2, (by decide +kernel)⟩

end T26

/-! Witnesses that the hypotheses of BundlesAndLimits can be met. -/
namespace T27

def pk1 := pkt (.check { tag := 1, home := 0, line := 0, live := false })
def q2 : Port := { state := 2, lanesOn := true, peer := 9, rxNum := 4095, partials := none }
def bn (g : Bool) : Bundle := { num := 4095, good := g, flits := .head pk1 :: List.replicate 7 .idle }
def q2p : Port := { q2 with partials := some { pkt := pk1, got := 1 } }
def sent (n : List Nat) (w : Bool) : SentPkt := { pkt := { pk1 with len := if w then 0 else 3, seq := 100 + n.length }, flits := n }
def q2r : Port := { q2 with replay := [sent [5] true, sent [6] true, sent [7,8] false], txNum := 9 }

theorem witness_BundlesAndLimits_1 :
    ∃ (s : State) (p : Nat) (b : Bundle),
    (s.port p).state = 2 ∧
    (s.port p).lanesOn = true ∧
    b.good = false ∧
    (s.port p).discarding = false ∧
    (s.port p).fails < 15 ∧
    (s.port p).partials = none ∧
    (b.num ≠ (s.port p).rxNum ∨ (s.port p).unsure = true ∨ b.flits = []) :=
  ⟨spt q2, 2, { bn false with flits := [] }, (by decide +kernel)⟩

theorem witness_BundlesAndLimits_2 :
    ∃ (s : State) (p : Nat) (b : Bundle),
    (s.port p).state = 2 ∧
    (s.port p).lanesOn = true ∧
    b.good = false ∧
    b.num = (s.port p).rxNum ∧
    (s.port p).discarding = false ∧
    (s.port p).unsure = false ∧
    b.flits ≠ [] :=
  ⟨spt q2, 2, { bn false with flits := .head { pk1 with dst := 9 } :: List.replicate 7 .idle }, (by decide +kernel)⟩

theorem witness_BundlesAndLimits_3 :
    ∃ (s : State) (p : Nat) (b : Bundle) (k : Packet),
    (s.port p).state = 2 ∧
    (s.port p).lanesOn = true ∧
    b.good = true ∧
    b.num = (s.port p).rxNum ∧
    b.flits = Flit.head k :: List.replicate 7 Flit.idle ∧
    k.len = 0 ∧
    k.dst = s.cubeId :=
  ⟨spt q2, 2, bn true, pk1, (by decide +kernel)⟩

theorem witness_BundlesAndLimits_4 :
    ∃ (s : State) (p : Nat),
    (s.port p).partials ≠ none :=
  ⟨spt q2p, 2, (by decide +kernel)⟩

theorem witness_BundlesAndLimits_5 :
    ∃ (s : State) (p : Nat) (n : Nat),
    (s.port p).quiet :=
  ⟨spt q2r, 2, 5, (by unfold Port.quiet; decide +kernel)⟩

theorem witness_BundlesAndLimits_6 :
    ∃ (s : State) (p : Nat) (c : Nat) (n : Nat),
    (s.port p).quiet :=
  ⟨spt {q2 with unret := [(3,7)]}, 2, 3, 5, (by unfold Port.quiet; decide +kernel)⟩

theorem witness_BundlesAndLimits_7 :
    ∃ (s : State) (p : Nat),
    2 ≤ (s.port p).state ∧
    (s.port p).state ≤ 4 ∧
    (s.port p).targets = [] ∧
    (s.port p).lanesOn = true :=
  ⟨spt {q2 with used := [(3,700)], held := [(3,5)]}, 2, (by decide +kernel)⟩

theorem witness_BundlesAndLimits_8 :
    ∃ (s : State) (p : Nat) (l : List Nat),
    (s.port p).lanesOn = true ∧
    l.length = 21 :=
  ⟨spt {q2 with used := [(3,700)], held := [(3,5)]}, 2, List.range 21, (by decide +kernel)⟩

theorem witness_BundlesAndLimits_9 :
    ∃ (s : State) (p : Nat),
    (s.port p).quiet ∧
    2 ≤ (s.port p).state ∧
    (s.port p).state ≤ 4 ∧
    (s.port p).targets ≠ [] ∧
    (s.port p).lanesOn = true :=
  ⟨spt {q2 with targets := List.replicate 21 140, limRx := []}, 2, (by unfold Port.quiet; decide +kernel), (by decide +kernel)⟩

theorem witness_BundlesAndLimits_10 :
    ∃ (s : State) (p : Nat),
    (s.port p).targets ≠ [] ∧
    (s.port p).lanesOn = true ∧
    (List.map
      (fun c => max (tblGet (s.port p).held c 0) (min (nthD (s.port p).targets c 137) ((s.port p).granted c)))
      (countUp 0 21)).sum ≤
  3072 :=
  ⟨spt {q2 with targets := List.replicate 21 140, limRx := []}, 2, (by decide +kernel)⟩

end T27

/-! Witnesses that the hypotheses of PacketsEndToEnd can be met. -/
namespace T28

def pk1 := pkt (.check { tag := 1, home := 0, line := 0, live := false })
def q2 : Port := { state := 2, lanesOn := true, peer := 9, rxNum := 4095, partials := none }
def pS : Machine.State := { sb with fabric := { ports := [(2, q2), (3, q2)], routes := [(9, BitVec.ofNat 64 ((0x8000 + 2*2048 + 1*256) + 65536*(0x8000+3*2048+2*256)))] }, cubeSet := true }
def nk : NackMsg := { who := ag, id := 3, reason := 5, ver := 0, hint := none }
def rq := hr (.load 4 1 0)
def pD : Machine.State := { pS with fabric := { pS.fabric with windows := [(7*4+1, ⟨5, []⟩)], open_ := [(7,1,5)] } }
def oo : E2EOut := { dest := 7, cls := 1, seq := 5, who := ag, id := 5, pkt := { pk1 with msg := .req rq, dst := 7, src := 0 } }
def pA (a : Act) : Machine.State := { pS with fabric := { pS.fabric with outs := [{ oo with pkt := { oo.pkt with msg := .req (hr a) } }] }, outs := [{ id := 5, who := ag, req := hr a, purp := .tag }] }
def an : Ans := (rq.ans .ok)
def nbr := hr (.nb {kind:=0,words:=[],acq:=false,rel:=false,scope:=0})
def pT : Machine.State := { pS with fabric := { pS.fabric with outs := [{ oo with tries := 8 }] } }
def blk : List Byte := (List.range 256).map fun k => BitVec.ofNat 8 (3*k+1)
def rr (c : Nat) := { hr (.red 0 33 c blk) with pa := 0x8100, va := 0x12300 }
def mcm : McastMsg := { group := 3, seq := 8, core := 4, handle := 7, row := 5, lcv := false, lc := 0, data := [1,2], who := {ag with core := 7*256}, id := 5, org := og, space := 1 }

theorem witness_PacketsEndToEnd_1 :
    ∃ (s : State) (p : Packet),
    p.dst = s.cubeId ∧
    p.pt ≠ 5 :=
  ⟨pS, pk1, (by decide +kernel)⟩

theorem witness_PacketsEndToEnd_2 :
    ∃ (s : State) (p : Packet),
    p.dst ≠ s.cubeId ∧
    p.pt ≠ 5 ∧
    p.cls ≠ 2 ∧
    s.chooseRoute p = none :=
  ⟨pS, { pk1 with dst := 8, seq := 4 }, (by decide +kernel)⟩

theorem witness_PacketsEndToEnd_3 :
    ∃ (s : State) (p : Packet),
    p.dst ≠ s.cubeId ∧
    p.pt = 5 ∧
    p.cls ≠ 2 ∧
    s.chooseRoute p = none :=
  ⟨pS, { pk1 with dst := 8, seq := 4, pt := 5, opx := 77 }, (by decide +kernel)⟩

theorem witness_PacketsEndToEnd_4 :
    ∃ (s : State) (p : Packet) (o : Nat),
    (s.port o).quiet ∧
    p.dst ≠ s.cubeId ∧
    p.pt ≠ 5 ∧
    s.chooseRoute p = some o :=
  ⟨pS, { pk1 with dst := 9 }, 2, (by unfold Port.quiet; decide +kernel), (by decide +kernel)⟩

theorem witness_PacketsEndToEnd_5 :
    ∃ (s : State) (p : Packet) (port : Nat),
    p.good = false :=
  ⟨pS, { pk1 with good := false }, 2, (by decide +kernel)⟩

theorem witness_PacketsEndToEnd_6 :
    ∃ (s : State) (p : Packet) (port : Nat),
    p.good = true ∧
    p.pt = 1 :=
  ⟨pS, { pk1 with pt := 1 }, 2, (by decide +kernel)⟩

theorem witness_PacketsEndToEnd_7 :
    ∃ (s : State) (p : Packet) (port : Nat),
    p.good = true ∧
    p.pt = 2 :=
  ⟨pS, { pk1 with pt := 2 }, 2, (by decide +kernel)⟩

theorem witness_PacketsEndToEnd_8 :
    ∃ (s : State) (p : Packet) (port : Nat) (n : NackMsg),
    p.good = true ∧
    p.pt = 3 ∧
    p.msg = Msg.nack n :=
  ⟨pS, { pk1 with pt := 3, msg := .nack nk, aux := 5 }, 2, nk, (by decide +kernel)⟩

theorem witness_PacketsEndToEnd_9 :
    ∃ (s : State) (p : Packet) (port : Nat) (r : Req),
    p.good = true ∧
    p.pt = 0 ∧
    p.contribs = [] ∧
    p.msg = Msg.req r ∧
    packetReserved p = false ∧
    windowTest (windowOf s.fabric.windows (e2eKey p.src p.cls)) (p.cls == 0) p.seq = Seen.new :=
  ⟨pS, { pk1 with msg := .req rq, cls := 1, seq := 3 }, 2, rq, (by decide +kernel)⟩

theorem witness_PacketsEndToEnd_10 :
    ∃ (s : State) (p : Packet) (port : Nat) (r : Req),
    p.good = true ∧
    p.pt = 0 ∧
    p.contribs = [] ∧
    p.msg = Msg.req r ∧
    packetReserved p = false :=
  ⟨pS, { pk1 with msg := .req rq, cls := 0, seq := 5 }, 2, rq, (by decide +kernel)⟩

theorem witness_PacketsEndToEnd_11 :
    ∃ (s : State) (p : Packet) (port : Nat) (r : Req) (e : Nat),
    p.good = true ∧
    p.pt = 0 ∧
    p.contribs = [] ∧
    p.msg = Msg.req r ∧
    packetReserved p = false ∧
    windowTest (windowOf s.fabric.windows (e2eKey p.src p.cls)) (p.cls == 0) p.seq = Seen.gap e :=
  ⟨pS, { pk1 with msg := .req rq, cls := 0, seq := 5 }, 2, rq, 0, (by decide +kernel)⟩

theorem witness_PacketsEndToEnd_12 :
    ∃ (s : State) (p : Packet) (port : Nat) (r : Req),
    p.good = true ∧
    p.pt = 0 ∧
    p.contribs = [] ∧
    p.msg = Msg.req r ∧
    packetReserved p = false ∧
    windowTest (windowOf s.fabric.windows (e2eKey p.src p.cls)) (p.cls == 0) p.seq = Seen.dup ∧
    s.fabric.open_.contains (p.src, p.cls, p.seq) = true :=
  ⟨pD, { pk1 with msg := .req rq, cls := 1, seq := 5 }, 2, rq, (by decide +kernel)⟩

theorem witness_PacketsEndToEnd_13 :
    ∃ (s : State) (p : Packet) (o : E2EOut) (a : Ans),
    s.e2eOut p.src (p.aux % 4) p.seq = some o ∧
    o.relay = none ∧
    s.fabric.waiting = [] ∧
    p.msg = Msg.data a ∧
    bitOf p.aux 2 = false :=
  ⟨pA (.load 4 1 0), { pk1 with pt := 1, aux := 1, msg := .data an }, { oo with pkt := { oo.pkt with msg := .req rq } }, an, (by decide +kernel)⟩

theorem witness_PacketsEndToEnd_14 :
    ∃ (s : State) (p : Packet) (o : E2EOut) (r : Req),
    s.e2eOut p.src (p.aux % 4) p.seq = some o ∧
    o.relay = none ∧
    s.fabric.waiting = [] :=
  ⟨pA (.notice true false), { pk1 with pt := 2, aux := 1, msg := .none }, { oo with pkt := { oo.pkt with msg := .req (hr (.notice true false)) } }, hr (.notice true false), (by decide +kernel)⟩

theorem witness_PacketsEndToEnd_15 :
    ∃ (s : State) (p : Packet) (o : E2EOut) (r : Req),
    s.e2eOut p.src (p.aux % 4) p.seq = some o ∧
    o.relay = none ∧
    s.fabric.waiting = [] ∧
    p.msg = Msg.none ∧
    p.contribs = [] ∧
    o.pkt.msg = Msg.req r ∧
    ackEnds r.act = true :=
  ⟨pA nbr.act, { pk1 with pt := 2, aux := 1, msg := .none }, { oo with pkt := { oo.pkt with msg := .req nbr } }, nbr, (by decide +kernel)⟩

theorem witness_PacketsEndToEnd_16 :
    ∃ (s : State) (o : E2EOut) (r : Req),
    o.cls < 3 ∧
    s.e2eOut o.dest o.cls o.seq = some o ∧
    o.paused = false ∧
    o.relay = none ∧
    o.pkt.msg = Msg.req r ∧
    r.exp = none ∧
    o.tries < s.fabric.retries :=
  ⟨pA (.load 4 1 0), { oo with pkt := { oo.pkt with msg := .req rq } }, rq, (by decide +kernel)⟩

theorem witness_PacketsEndToEnd_17 :
    ∃ (s : State) (o : E2EOut) (r : Req),
    o.cls < 3 ∧
    s.e2eOut o.dest o.cls o.seq = some o ∧
    o.paused = false ∧
    o.relay = none ∧
    o.pkt.msg = Msg.req r ∧
    r.exp = none ∧
    s.fabric.retries ≤ o.tries :=
  ⟨pT, { oo with tries := 8 }, rq, (by decide +kernel)⟩

theorem witness_PacketsEndToEnd_18 :
    ∃ (s : State) (r : Req) (l : Nat) (rop : Nat) (stream : Nat) (c : Nat) (d : List Byte),
    Accepted s r l ∧
    Writable s l 128 ∧
    Writable s (l + 128) 128 ∧
    l % 256 = 0 ∧
    r.act = Act.red rop stream c d ∧
    r.others = [] ∧
    s.holdOf (l / 128 + 1) = none ∧
    s.fabric.streams = [] ∧
    s.shared (l / 128) allWords none = false ∧
    s.shared (l / 128 + 1) allWords none = false ∧
    s.poisoned (l / 128) = false ∧
    s.poisoned (l / 128 + 1) = false ∧
    c < 56 :=
  ⟨sb, rr 4, 0x8100, 0, 33, 4, blk, (by unfold Accepted Placed; decide +kernel), (by unfold Writable; decide +kernel), (by unfold Writable; decide +kernel), (by decide +kernel)⟩

theorem witness_PacketsEndToEnd_19 :
    ∃ (s : State) (r : Req) (l : Nat) (rop : Nat) (stream : Nat) (c : Nat) (d : List Byte),
    Accepted s r l ∧
    Writable s l 128 ∧
    Writable s (l + 128) 128 ∧
    l % 256 = 0 ∧
    r.act = Act.red rop stream c d ∧
    r.others = [] ∧
    s.holdOf (l / 128 + 1) = none ∧
    s.fabric.streams = [] ∧
    s.shared (l / 128) allWords none = false ∧
    s.shared (l / 128 + 1) allWords none = false ∧
    s.poisoned (l / 128) = false ∧
    s.poisoned (l / 128 + 1) = false :=
  ⟨sb, rr 60, 0x8100, 0, 33, 60, blk, (by unfold Accepted Placed; decide +kernel), (by unfold Writable; decide +kernel), (by unfold Writable; decide +kernel), (by decide +kernel)⟩

theorem witness_PacketsEndToEnd_20 :
    ∃ (s : State) (m : McastMsg) (hop : Nat),
    m.who.cube ≠ s.cubeId ∧
    windowTest (windowOf s.fabric.mcWindows (m.who.cube * 256 + m.group)) false m.seq = Seen.new :=
  ⟨pS, mcm, 2, (by decide +kernel)⟩

end T28

/-! Witnesses that the hypotheses of StartsAndTasks can be met. -/
namespace T29

def up (s : Machine.State) : Machine.State := { s with svc := { s.svc with powered := 16 } }
def lw : List Nat := [0x1000, 0x7000, 0, 2^24 + 2^11, 5, 2 + 2^14, 0x3 + 2^24]
def lmsg : LaunchMsg := { who := ag, id := 5, org := og, space := 1, words := lw, acq := some 2 }
def sq : StartReq := { kind := 1, entry := 0x4000, stage := 2, cls := 1, space := 5, regs := [1,2,3], group := none, accs := 0, acq := none, record := .task 4, ctx := none }
def ks (r : List (List StartReq)) : Machine.State := up { sb with cores := [(0, { starts := r, ctxs := [(0, tx)] })] }
def away : Machine.State := up { sb with cores := [(7, { ctxs := [(3, { tx with cstate := .away, serial := 7#16, ostart := 5#16 })] })] }
def ar : Arrival := { kind := 1, src := 3, par := true, len := 24, tag := 9, hnd := 0x5000, space := 1, tile := 66, body := [5,6,7], acq := some 1, org := og, ident := 3, mig := none, waiter := none }
def full1 : Machine.State := up { sb with cores := [(4, { inbox := List.replicate 2 ar, held := [ar, {ar with par := false}] })] }
def inb : Machine.State := up { sb with cores := [(4, { inbox := [ar, {ar with par := false}] })] }
def spl : Machine.State := up { sb with cores := [(4, { inbox := List.replicate 64 ar, spillCtl := 1#64, spillEntry := 0x8000#64, spillHeap := 0x9000#64 })] }
def mig : MigCtx := { words := (List.range 20), va := 0x100, fromCore := 7*256, fromCtx := 3, pa := 0x8040, migrations := 1, start := 3, dreg := none }
def pl : Place := ((up sb).layout mig.pa).getD ⟨0,0,0,false,0⟩
def tw : List Nat := [0x1000 + 2^58, 2^62, 0,0,0,0,0,0,0,0,0,0,5,6,7,8]
def tm : TaskMsg := { who := ag, id := 5, org := og, job := false, words := tw, acq := some 2 }
def te : TaskEnt := { seq := 7, msg := tm, st := 1, waits := [], dealt := 0, core := 0, ctx := 0, group := none, copies := 0, prio := 2, queue := 4, homeKnown := true, home := some 5 }
def tds : Machine.State := up { sb with tu := { pool := [te], queues := [(4, [7])] } }
def tj : TaskEnt := { te with msg := { tm with job := true, words := tw.set 2 (5 * 2^32) }, dealt := 5 }
def sj (e : TaskEnt) (p : List Nat) : Machine.State := { tds with tu := { pool := [e], placing := p } }
def full2 : Machine.State := up { sb with cores := (List.range 256).map fun c => (c, { inbox := List.replicate 64 ar }) }
def full3 : Machine.State := up { sb with cores := [(4, { inbox := List.replicate 63 ar, held := [ar] })] }

theorem witness_StartsAndTasks_1 :
    ∃ (s : State) (m : LaunchMsg) (c : Nat),
    c < 256 ∧
    bitOf (nthD m.words 3 0) (24 + c / 16) = true ∧
    bitOf (nthD m.words 3 0) (8 + c % 16) = true ∧
    List.flatMap (fun st => launchStage m 0 0 st) (countUp 0 8) ≠ [] :=
  ⟨up sb, lmsg, 3, (by decide +kernel)⟩

theorem witness_StartsAndTasks_2 :
    ∃ (s : State) (c : Nat) (q : StartReq) (rest : List (List StartReq)) (x : Nat) (xs : List Nat),
    (s.core c).starts = [q] :: rest ∧
    (∀ (l : List StartReq), l ∈ rest → ∃ p, p ∈ l ∧ p.ctx = none) ∧
    q.group = none ∧
    q.ctx = none ∧
    s.clusterUp c = true ∧
    (s.core c).freeCtxs = x :: xs ∧
    s.serialClear c x = true ∧
    ((s.core c).ctx x).bdue = 0 :=
  ⟨ks [[sq]], 0, sq, [], 1, (List.range 29).map (· + 2), (by decide +kernel)⟩

theorem witness_StartsAndTasks_3 :
    ∃ (s : State) (c : Nat) (n : Nat) (x : Nat),
    (s.ctx (n % 256) x).cstate = CState.away :=
  ⟨away, 0, 7+512, 3, (by decide +kernel)⟩

theorem witness_StartsAndTasks_4 :
    ∃ (s : State) (c : Nat) (a : Arrival),
    c < 256 :=
  ⟨up sb, 4, ar, (by decide +kernel)⟩

theorem witness_StartsAndTasks_5 :
    ∃ (s : State) (c : Nat) (a : Arrival) (rest : List Arrival),
    (s.core c).held = a :: rest ∧
    (s.core c).slots < 64 :=
  ⟨full1, 4, ar, [{ar with par := false}], (by decide +kernel)⟩

theorem witness_StartsAndTasks_6 :
    ∃ (s : State) (c : Nat) (a : Arrival) (rest : List Arrival) (x : Nat) (xs : List Nat),
    (s.core c).inbox = a :: rest ∧
    a.kind ≠ 3 ∧
    a.mig = none ∧
    a.par = true ∧
    s.clusterUp c = true ∧
    (s.core c).freeCtxs = x :: xs :=
  ⟨inb, 4, ar, [{ar with par := false}], 0, (List.range 30).map (· + 1), (by decide +kernel)⟩

theorem witness_StartsAndTasks_7 :
    ∃ (s : State) (c : Nat),
    bitOf (BitVec.toNat (s.core c).spillCtl) 0 = true ∧
    ((s.core c).ctx 31).cstate = CState.free ∧
    64 ≤ (s.core c).slots :=
  ⟨spl, 4, (by decide +kernel)⟩

theorem witness_StartsAndTasks_8 :
    ∃ (s : State) (arrived : Option MigCtx) (m : MigCtx) (rest : List MigCtx) (p : Place),
    s.layout m.pa = some p ∧
    s.migWait ++ arrived.toList = m :: rest ∧
    (∃ c, c < 256 ∧ s.takesMigrant m c = true) ∧
    (∃ d, d / 16 = vaultOf (p.local_ / 128) / 4 ∧ s.takesMigrant m d = true) :=
  ⟨up sb, some mig, mig, [], pl, some_getD (by decide +kernel), (by decide +kernel), (by decide +kernel), ⟨16 * (vaultOf (pl.local_ / 128) / 4), by decide +kernel⟩⟩

theorem witness_StartsAndTasks_9 :
    ∃ (s : State) (arrived : Option MigCtx) (m : MigCtx) (rest : List MigCtx) (p : Place),
    s.layout m.pa = some p ∧
    s.migWait ++ arrived.toList = m :: rest ∧
    (∃ c, c < 256 ∧ s.takesMigrant m c = true) ∧
    rest ≠ [] ∧
    (∃ d, d / 16 = vaultOf (p.local_ / 128) / 4 ∧ s.takesMigrant m d = true) :=
  ⟨{up sb with migWait := [{mig with fromCtx := 9}]}, some mig, {mig with fromCtx := 9}, [mig], pl, some_getD (by decide +kernel), (by decide +kernel), (by decide +kernel), (by decide +kernel), ⟨16 * (vaultOf (pl.local_ / 128) / 4), by decide +kernel⟩⟩

theorem witness_StartsAndTasks_10 :
    ∃ (s : State) (m : TaskMsg) (i : Nat),
    i < 3 ∧
    s.tu.inputs = [] ∧
    s.tu.pool.length < 4096 ∧
    taskRefusal m = 0 ∧
    m.job = false ∧
    m.wv 0 = false ∧
    m.wv 1 = false ∧
    (∀ (e : TaskEnt), e ∈ s.tu.pool → e.seq ≠ BitVec.toNat s.tu.next) :=
  ⟨up sb, tm, 1, (by decide +kernel)⟩

theorem witness_StartsAndTasks_11 :
    ∃ (s : State) (m : TaskMsg) (i : Nat),
    i < 3 ∧
    s.tu.inputs = [] ∧
    s.tu.pool.length < 4096 ∧
    taskRefusal m ≠ 0 :=
  ⟨up sb, { tm with words := [1] }, 1, (by decide +kernel)⟩

theorem witness_StartsAndTasks_12 :
    ∃ (s : State) (m : TaskMsg) (i : Nat),
    i < 3 ∧
    s.tu.inputs = [] ∧
    s.tu.pool.length < 4096 ∧
    taskRefusal m ≠ 0 ∧
    m.e2e = none ∧
    m.who.kind = AKind.host :=
  ⟨up sb, { tm with words := [1], job := true, who := { ag with kind := .host, idx := 6 } }, 2, (by decide +kernel)⟩

theorem witness_StartsAndTasks_13 :
    ∃ (s : State) (e : TaskEnt) (home : Nat) (x : Nat) (xs : List Nat),
    s.tu.pool = [e] ∧
    s.tu.placing = [] ∧
    s.tu.queues = [(e.queue, [e.seq])] ∧
    e.queue < 64 ∧
    e.prio < 4 ∧
    e.st = 1 ∧
    e.homeKnown = true ∧
    e.home = some home ∧
    e.msg.job = false ∧
    taskFoots e.msg = [] ∧
    e.msg.accs = 0 ∧
    (s.core (16 * home)).freeCtxs = x :: xs :=
  ⟨tds, te, 5, 0, (List.range 30).map (· + 1), (by decide +kernel)⟩

theorem witness_StartsAndTasks_14 :
    ∃ (s : State) (e : TaskEnt),
    s.task e.seq = some e ∧
    e.msg.job = false :=
  ⟨{ tds with tu := { pool := [{ te with st := 2, core := 80, ctx := 3 }] } }, { te with st := 2, core := 80, ctx := 3 }, (by decide +kernel)⟩

theorem witness_StartsAndTasks_15 :
    ∃ (s : State) (e : TaskEnt),
    s.task e.seq = some e ∧
    e.msg.job = true :=
  ⟨sj tj [7], tj, (by decide +kernel)⟩

theorem witness_StartsAndTasks_16 :
    ∃ (s : State) (arrived : Option MigCtx) (m : MigCtx) (rest : List MigCtx) (p : Place),
    s.layout m.pa = some p ∧
    s.migWait ++ arrived.toList = m :: rest ∧
    (∀ (c : Nat), c < 256 → s.takesMigrant m c = false) :=
  ⟨full2, some mig, mig, [], pl, some_getD (by decide +kernel), (by decide +kernel), (by decide +kernel)⟩

theorem witness_StartsAndTasks_17 :
    ∃ (s : State) (c : Nat) (a : Arrival) (rest : List Arrival),
    (s.core c).held = a :: rest ∧
    (s.core c).slots < 64 ∧
    (s.core c).slots = 63 :=
  ⟨full3, 4, ar, [], (by decide +kernel)⟩

end T29

/-! Witnesses that the hypotheses of WaitsAndDeliveries can be met. -/
namespace T30

def e1 : Tile := { kind := 0, level := 0, pinned := false, ownk := 0, ownid := 0, rows := 4, ppr := 2, slots := 0, bbank := 0, bpeck := 1, head := 0, tail := 0, occ := 0, acore := 0 }
def er : Tile := { e1 with kind := 1, slots := 3, bpeck := 20, head := 3, tail := 1, occ := 2 }
def cpm : CopyMsg := { who := { kind := .streamer, core := 0, idx := 3 }, id := 5, core := 0, handle := 4, reads := [(5,8)] }
def W (w : Wait) (k : Core) : Machine.State := { s0 with cores := [(0, { k with ctxs := [(0, { tx with wait := w }), (2, { tx with wait := .peck 8 })] })] }
def kt : Core := { tiles := [(4, e1), (5, er)], engReads := [cpm], ringWaits := [⟨5, some 0, none⟩, ⟨5, none, some (.copyWrite { cpm with id := 6 })⟩, ⟨5, none, some (.copyWrite { cpm with id := 7 })⟩, ⟨9, none, some (.copyWrite { cpm with id := 8 })⟩] }
def rm : RowMsg := { core := 0, handle := 4, row := 3, data := (List.range 256).map fun k => BitVec.ofNat 8 (k+9), lcv := true, lc := 4, tag := 8, hnd := 0x5000, src := 3, par := true, space := 1, org := og, id := 3, total := 1 }
def TW (w : Wait) (cw : Option (Nat × Nat × Nat × Nat)) : Machine.State := { s0 with cores := [(0, { kt with ctxs := [(0, { tx with wait := w, cw := cw, waitAt := 9 })] })] }
def tws : Machine.State := { TW (.watch 7) (some (0x2000,11,6,7)) with events := [.satisfied ag 7 7] }
def dv : DirVal := { dir := { core := 0, handle := 4, entry := 9, lc := 3 }, value := 0x123456789ABCDEF012, org := og, space := 1 }
def tA : Tile := { kind := 0, level := 0, pinned := false, ownk := 0, ownid := 0, rows := 70, ppr := 1, slots := 0, bbank := 0, bpeck := 0, head := 0, tail := 0, occ := 0, acore := 0 }
def tB : Tile := { tA with rows := 500, bpeck := 40 }
def kk : Core := { tiles := [(1, tA), (2, tB)], groups := [(0, { members := [0], accs := 0xFF, blocks := 1 })] }
def fw : Nat := 2^55*2 + 2^49*1 + 2^43*2 + 2^58*9
def fm : FollowMsg := { who := ag, serial := 5, core := 0, word := fw }
def ffi : Instr := (followInstr fw).getD (.nop h0)
def mvv : Nat × MOp := (mmaOf ffi).getD (0, ⟨0,0,0,0,.i8,false,false,false,0,0⟩)

theorem witness_WaitsAndDeliveries_1 :
    ∃ (s : State) (c : Nat) (h : Nat),
    (s.core c).tile h = none :=
  ⟨W (.ring 9 7) kt, 0, 9, (by decide +kernel)⟩

theorem witness_WaitsAndDeliveries_2 :
    ∃ (s : State) (c : Nat) (x : Nat) (n : Nat),
    (s.ctx c x).wait = Wait.lease n :=
  ⟨{W (.lease 77) kt with leaseNow := 77}, 0, 0, 77, (by decide +kernel)⟩

theorem witness_WaitsAndDeliveries_3 :
    ∃ (s : State) (c : Nat) (r : RowMsg) (e : Tile),
    r.core % 256 = c ∧
    (s.core c).tile r.handle = some e ∧
    s.drains = [] ∧
    r.row < e.total ∧
    r.data.length ≤ e.rowBytes ∧
    r.total ≤ 1 ∧
    r.lcv = true ∧
    BitVec.toNat ((s.core c).lc (lcKey ((s.core c).tileSet r.handle) r.lc)) + 1 < 2 ^ 64 ∧
    r.hnd ≠ 0 :=
  ⟨W .none kt, 0, rm, e1, (by decide +kernel)⟩

theorem witness_WaitsAndDeliveries_4 :
    ∃ (s : State) (c : Nat) (r : RowMsg) (e : Tile),
    r.core % 256 = c ∧
    (s.core c).tile r.handle = some e ∧
    s.drains = [] ∧
    r.row < e.total ∧
    r.data.length ≤ e.rowBytes ∧
    1 < r.total :=
  ⟨W .none kt, 0, { rm with total := 2 }, e1, (by decide +kernel)⟩

theorem witness_WaitsAndDeliveries_5 :
    ∃ (s : State) (c : Nat) (q : Nat) (x : Nat),
    List.find? (fun w => w.fst == q) (s.core c).qwait = some (q, x) ∧
    (s.ctx c x).wait = Wait.queue q ∧
    8 ≤ q :=
  ⟨W (.queue 9) { kt with qwait := [(8,0),(9,0),(9,2)] }, 0, 9, 0, (by decide +kernel)⟩

theorem witness_WaitsAndDeliveries_6 :
    ∃ (s : State) (c : Nat) (q : Nat) (x : Nat),
    List.find? (fun w => w.fst == q) (s.core c).qwait = some (q, x) ∧
    (s.ctx c x).wait = Wait.queue q ∧
    q < 8 :=
  ⟨W (.queue 5) { kt with qwait := [(8,0),(5,0),(21,2)] }, 0, 5, 0, (by decide +kernel)⟩

theorem witness_WaitsAndDeliveries_7 :
    ∃ (s : State) (c : Nat) (x : Nat) (id : Nat) (n : Nat) (i : Nat) (h : Nat) (p : Nat) (b : Nat) (e : Tile),
    (s.ctx c x).waitAt = id ∧
    (s.ctx c x).held = false ∧
    ((s.ctx c x).wait = Wait.peck i ∨ (s.ctx c x).wait = Wait.seq) ∧
    (s.ctx c x).cw = some (h, p, b, n) ∧
    (s.core c).tile h = some e :=
  ⟨TW (.peck 7) (some (4,3,6,7)), 0, 0, 9, 7, 7, 4, 3, 6, e1, (by decide +kernel)⟩

theorem witness_WaitsAndDeliveries_8 :
    ∃ (s : State) (c : Nat) (x : Nat) (id : Nat) (n : Nat) (h : Nat) (cond : Nat) (e : Tile) (d : Nat),
    (s.ctx c x).waitAt = id ∧
    (s.ctx c x).held = false ∧
    (s.ctx c x).cw = some (h, cond, d, n) ∧
    (s.core c).tile h = some e :=
  ⟨TW (.ring 5 7) (some (5,1,6,7)), 0, 0, 9, 7, 5, 1, er, 6, (by decide +kernel)⟩

theorem witness_WaitsAndDeliveries_9 :
    ∃ (s : State) (c : Nat) (x : Nat) (id : Nat) (n : Nat) (i : Nat) (addr : Nat) (target : Nat) (latest : Nat),
    (s.ctx c x).waitAt = id ∧
    (s.ctx c x).held = false ∧
    (s.ctx c x).wait = Wait.watch i ∧
    (s.ctx c x).cw = some (addr, target, latest, n) ∧
    (∃ v, Ev.satisfied { kind := AKind.thread, core := s.gcore c, idx := x } n v ∈ s.events) :=
  ⟨tws, 0, 0, 9, 7, 7, 0x2000, 11, 6, (by decide +kernel), (by decide +kernel), (by decide +kernel), (by decide +kernel), ⟨7, by decide +kernel⟩⟩

theorem witness_WaitsAndDeliveries_10 :
    ∃ (s : State) (c : Nat) (x : Nat) (id : Nat) (n : Nat) (i : Nat) (addr : Nat) (target : Nat) (latest : Nat),
    (s.ctx c x).waitAt = id ∧
    (s.ctx c x).held = false ∧
    (s.ctx c x).wait = Wait.watch i ∧
    (s.ctx c x).cw = some (addr, target, latest, n) ∧
    (∀ (v : Nat), ¬Ev.satisfied { kind := AKind.thread, core := s.gcore c, idx := x } n v ∈ s.events) :=
  ⟨TW (.watch 7) (some (2^63 + 3,11,6,7)), 0, 0, 9, 7, 7, 2^63 + 3, 11, 6, (by decide +kernel), (by decide +kernel), (by decide +kernel), (by decide +kernel), (fun v => by
      have a : ∀ e ∈ (TW (.watch 7) (some (2^63 + 3,11,6,7))).events, e ≠ Ev.satisfied { kind := AKind.thread, core := 0, idx := 0 } 7 v := by
        intro e he; cases he
      exact fun h => a _ h rfl)⟩

theorem witness_WaitsAndDeliveries_11 :
    ∃ (s : State) (c : Nat) (d : DirVal),
    d.dir.core % 256 = c ∧
    BitVec.toNat ((s.core c).lc (lcKey ((s.core c).tileSet d.dir.handle) d.dir.lc)) + 1 < 2 ^ 64 :=
  ⟨W .none kt, 0, dv, (by decide +kernel)⟩

theorem witness_WaitsAndDeliveries_12 :
    ∃ (s : State) (c : Nat) (d : DirVal),
    d.dir.core % 256 = c ∧
    BitVec.toNat ((s.core c).lc (lcKey ((s.core c).tileSet d.dir.handle) d.dir.lc)) + 1 < 2 ^ 64 ∧
    (s.core c).tile d.dir.handle = none :=
  ⟨W .none kt, 0, { dv with dir := { core := 0, handle := 6, entry := 9, lc := 3 } }, (by decide +kernel)⟩

theorem witness_WaitsAndDeliveries_13 :
    ∃ (s : State) (c : Nat) (f : FollowMsg) (i : Instr) (g : Nat) (fn : Nat) (v : MOp),
    (s.core c).seq = none ∧
    (s.core c).follows = [] ∧
    (s.core c).mayFollow f = true ∧
    (s.core c).accHolder (bitsOf f.word 57 55) = some g ∧
    followInstr f.word = some i ∧
    mmaOf i = some (fn, v) ∧
    (s.core c).mmaFault fn v (bitsOf f.word 39 30) (bitsOf f.word 29 20) ((s.core c).codebook v.x4.toNat).fst = none :=
  ⟨st tx kk, 0, fm, ffi, 0, mvv.1, mvv.2, (by decide +kernel)⟩

end T30

/-! Witnesses that the hypotheses of NearBankChannel can be met. -/
namespace T31

def nbw (mask off dst db len segw : Nat) : List Nat := [0, 2^56*mask + 2^53*db + 2^30*off + 2^12*dst, len + 2^20*segw, 0, 0, 0, 0, 0]
def cmd (k : Nat) (ws : List Nat) : NbCmd := { kind := k, words := ws, acq := false, rel := false, scope := 0 }
def r0 (c : NbCmd) : Req := { hr (.nb c) with pa := 0x8000, va := 0x12000, compute := true, words := 0 }
def mapB : Machine.State := { s0 with map := [(1, { state := 1, n := 1, list := 0, gran := 21, size := 30, lbase := 0, base := 0 })], cubeList := [(0,0)], cubeSet := true }
def c1 := cmd 0 (nbw 3 0 0x1000 2 256 0)
def hb : Hold := { line := 5, step := none, acks := 2, known := [], queue := [], near := false }
def c2 := cmd 0 (nbw 3 0 0x3FF80 2 256 0)
def nbj (c : NbCmd) (st status : Nat) : NbJob := { key := 3, req := { r0 c with local_ := 0x8000 }, cmd := c, st := st, status := status, faddr := 77 }
def wt (n a : Nat) : Nat × Nat × Ev := (n, a, .req (hr (.load 4 1 0)))
def V (j : NbJob) (b : Option (Nat × Nat)) : Machine.State := { mapB with leaseNow := 300, tick := 9, vaults := [(5, { fifo := [j], pausing := b, waiting := [wt 3 290, wt 8 295] })], dense := (List.range 300).map fun k => (0x0 + k * 4 + 1, BitVec.ofNat 8 (k+1)) }
def recd (c : NbCmd) : NbCmd := { c with words := [c.w 0, c.w 1, c.w 2, 0, 0x7000, c.w 5, 0, 0] }
def cf := cmd 1 [0, 2^56*5 + 2^12*0x1003, 13, 0, 0, 0x1122334455667788, 0, 0]
def qs : Nat × Nat := (2, 0x1000)
def cr := cmd 2 (nbw 5 0 0x1000 2 256 64)
def VP (j : NbJob) : Machine.State := { V j none with poison := [(1, 0xFFFFFFFF)] }
def tg : Tag := { id := 5, pc := 0x1000#64, va := 0x12340, dkind := 0, dest := 7, width := 8, signed := false, latch := none, left := true, rid := none, ge := none, acq := none, bound := false, fcause := 0, finfo1 := 0, finfo2 := 0 }
def qy : Query := { who := ag, id := 5, vault := 5, serial := 0, org := og, near := true }
def sQ : Machine.State := { V (nbj c1 2 0) none with cores := [(0, { ctxs := [(0, { tx with wait := .tag, tags := [(0, tg)] })] })], vaults := [(5, { fifo := [nbj c1 2 0, nbj c1 0 0], last := [(og, 0x41)] })] }

theorem witness_NearBankChannel_1 :
    ∃ (s : State) (r : Req) (c : NbCmd) (l : Nat),
    Placed s r l ∧
    List.find? (fun h => decide (l / 2 ^ 21 * 2 ^ 14 ≤ h.line) && decide (h.line < l / 2 ^ 21 * 2 ^ 14 + 2 ^ 14))
    s.holds =
  none ∧
    r.e2e = none ∧
    c.status = 0 ∧
    s.vaultFailed (l / 128) = false ∧
    (s.vault (vaultOf (l / 128))).fifo = [] ∧
    (r.compute = true ∧ ∀ (p : Place), s.placeOf r = some p → 21 ≤ p.gran) ∧
    c.rangeStatus = (0, 0) ∧
    s.grants < 768 ∧
    tblGet s.stubs (l / 2 ^ 21 * 2 ^ 14) 0 = 0 :=
  ⟨mapB, r0 c1, c1, 0x8000, (by unfold Placed; decide +kernel), (by decide +kernel), (by decide +kernel)⟩

theorem witness_NearBankChannel_2 :
    ∃ (s : State) (r : Req) (c : NbCmd) (l : Nat),
    r.e2e = none ∧
    c.status ≠ 0 ∧
    (s.vault c.vault).fifo = [] :=
  ⟨mapB, r0 { c1 with status := 3 }, { c1 with status := 3 }, 0x8000, (by decide +kernel)⟩

theorem witness_NearBankChannel_3 :
    ∃ (s : State) (r : Req) (c : NbCmd) (l : Nat),
    r.e2e = none ∧
    c.status = 0 ∧
    s.placeOf r = none ∧
    (s.vault 0).fifo = [] :=
  ⟨mapB, { r0 c1 with pa := 2^50 }, c1, 0x8000, (by decide +kernel)⟩

theorem witness_NearBankChannel_4 :
    ∃ (s : State) (r : Req) (c : NbCmd) (l : Nat),
    Placed s r l ∧
    r.e2e = none ∧
    c.status = 0 ∧
    s.vaultFailed (l / 128) = false ∧
    (s.vault (vaultOf (l / 128))).fifo = [] ∧
    (¬(r.compute = true ∧ ∀ (p : Place), s.placeOf r = some p → 21 ≤ p.gran)) :=
  ⟨mapB, { r0 c1 with compute := false }, c1, 0x8000, (by unfold Placed; decide +kernel), (by decide +kernel)⟩

theorem witness_NearBankChannel_5 :
    ∃ (s : State) (r : Req) (c : NbCmd) (l : Nat) (h : Hold),
    Placed s r l ∧
    List.find? (fun h => decide (l / 2 ^ 21 * 2 ^ 14 ≤ h.line) && decide (h.line < l / 2 ^ 21 * 2 ^ 14 + 2 ^ 14))
    s.holds =
  some h ∧
    r.e2e = none ∧
    c.status = 0 ∧
    s.vaultFailed (l / 128) = false ∧
    (s.vault (vaultOf (l / 128))).fifo = [] ∧
    (r.compute = true ∧ ∀ (p : Place), s.placeOf r = some p → 21 ≤ p.gran) ∧
    c.rangeStatus.fst = 0 :=
  ⟨{ mapB with holds := [hb] }, r0 c1, c1, 0x8000, hb, (by unfold Placed; decide +kernel), (by decide +kernel), (by decide +kernel)⟩

theorem witness_NearBankChannel_6 :
    ∃ (s : State) (r : Req) (c : NbCmd) (l : Nat),
    Placed s r l ∧
    r.e2e = none ∧
    c.status = 0 ∧
    s.vaultFailed (l / 128) = false ∧
    (s.vault (vaultOf (l / 128))).fifo = [] ∧
    (r.compute = true ∧ ∀ (p : Place), s.placeOf r = some p → 21 ≤ p.gran) ∧
    c.rangeStatus.fst ≠ 0 :=
  ⟨mapB, r0 c2, c2, 0x8000, (by unfold Placed; decide +kernel), (by decide +kernel)⟩

theorem witness_NearBankChannel_7 :
    ∃ (s : State) (v : Nat) (j : NbJob),
    (s.vault v).fifo = [j] ∧
    j.st = 1 :=
  ⟨V (nbj c1 1 0) none, 5, nbj c1 1 0, (by decide +kernel)⟩

theorem witness_NearBankChannel_8 :
    ∃ (s : State) (v : Nat) (j : NbJob),
    (s.vault v).fifo = [j] ∧
    j.st = 3 :=
  ⟨V (nbj c1 3 0) none, 5, nbj c1 3 0, (by decide +kernel)⟩

theorem witness_NearBankChannel_9 :
    ∃ (s : State) (v : Nat) (j : NbJob) (w : Nat × Nat × Ev) (ws : List (Nat × Nat × Ev)),
    (s.vault v).fifo = [j] ∧
    j.st = 2 ∧
    (s.vault v).waiting = w :: ws ∧
    (s.vault v).pausing = none ∧
    s.leaseNow < w.snd.fst + max 10 (fld s.regs.vaultArb 15 0) :=
  ⟨V (nbj c1 2 0) none, 5, nbj c1 2 0, wt 3 290, [wt 8 295], (by decide +kernel)⟩

theorem witness_NearBankChannel_10 :
    ∃ (s : State) (v : Nat) (j : NbJob) (w : Nat × Nat × Ev) (ws : List (Nat × Nat × Ev)),
    (s.vault v).fifo = [j] ∧
    j.st = 2 ∧
    (s.vault v).waiting = w :: ws ∧
    (s.vault v).pausing = none ∧
    w.snd.fst + max 10 (fld s.regs.vaultArb 15 0) ≤ s.leaseNow :=
  ⟨{ V (nbj c1 2 0) none with leaseNow := 490 }, 5, nbj c1 2 0, wt 3 290, [wt 8 295], (by decide +kernel)⟩

theorem witness_NearBankChannel_11 :
    ∃ (s : State) (v : Nat) (j : NbJob) (w : Nat × Nat × Ev) (ws : List (Nat × Nat × Ev)),
    (s.vault v).fifo = [j] ∧
    j.st = 2 ∧
    (s.vault v).waiting = w :: ws :=
  ⟨V (nbj c1 2 0) (some (5, 299)), 5, nbj c1 2 0, wt 3 290, [wt 8 295], (by decide +kernel)⟩

theorem witness_NearBankChannel_12 :
    ∃ (s : State) (v : Nat) (j : NbJob) (w : Nat × Nat × Ev) (ws : List (Nat × Nat × Ev)) (p : Nat × Nat),
    (s.vault v).fifo = [j] ∧
    j.st = 2 ∧
    (s.vault v).waiting = w :: ws ∧
    (s.vault v).pausing = some p ∧
    p.snd ≤ s.leaseNow :=
  ⟨V (nbj c1 2 0) (some (5, 299)), 5, nbj c1 2 0, wt 3 290, [wt 8 295], (5, 299), (by decide +kernel)⟩

theorem witness_NearBankChannel_13 :
    ∃ (s : State) (v : Nat) (j : NbJob),
    (s.vault v).fifo = [j] ∧
    j.cmd.ctr = 0 ∧
    j.cmd.rel = false ∧
    j.st = 0 ∧
    j.status ≠ 0 ∧
    j.flags = 0 ∧
    j.done = 0 :=
  ⟨V (nbj c1 0 3) none, 5, nbj c1 0 3, (by decide +kernel)⟩

theorem witness_NearBankChannel_14 :
    ∃ (s : State) (v : Nat) (j : NbJob),
    (s.vault v).fifo = [j] ∧
    j.cmd.ctr = 0 ∧
    j.cmd.rel = false ∧
    j.st = 2 ∧
    j.status = 0 ∧
    j.cmd.kind = 1 ∧
    j.cmd.rangeStatus = (0, 0) :=
  ⟨V (nbj cf 2 0) none, 5, nbj cf 2 0, (by decide +kernel)⟩

theorem witness_NearBankChannel_15 :
    ∃ (s : State) (v : Nat) (j : NbJob) (q : Nat × Nat),
    (s.vault v).fifo = [j] ∧
    j.cmd.ctr = 0 ∧
    j.cmd.rel = false ∧
    j.st = 2 ∧
    j.status = 0 ∧
    j.cmd.kind ≠ 1 ∧
    j.cmd.dests = [q] ∧
    (∀ (e : Nat), e ∈ countUp 0 (j.cmd.seg / j.cmd.iw) → s.nbHurt j e = false) :=
  ⟨V (nbj c1 2 0) none, 5, nbj c1 2 0, qs, (by decide +kernel)⟩

theorem witness_NearBankChannel_16 :
    ∃ (s : State) (v : Nat) (j : NbJob) (q : Nat × Nat),
    (s.vault v).fifo = [j] ∧
    j.cmd.ctr = 0 ∧
    j.cmd.rel = false ∧
    j.st = 2 ∧
    j.status = 0 ∧
    j.cmd.kind ≠ 1 ∧
    j.cmd.dests = [q] :=
  ⟨VP (nbj (recd cr) 2 0), 5, nbj (recd cr) 2 0, qs, (by decide +kernel)⟩

theorem witness_NearBankChannel_17 :
    ∃ (s : State) (q : Query) (g : Tag),
    q.e2e = none ∧
    (s.ctx (q.who.core % 256) q.who.idx).tag q.id = some g ∧
    (∀ (p : Nat × Tag), p ∈ (s.ctx (q.who.core % 256) q.who.idx).tags → p.snd.fcause = 0) ∧
    g.dkind = 0 ∧
    g.dest < 16 :=
  ⟨sQ, qy, tg, (by decide +kernel)⟩

end T31

/-! Witnesses that the hypotheses of StreamerSteps can be met. -/
namespace T32

def mapped : Machine.State := { s0 with map := [(1, { state := 1, n := 1, list := 0, gran := 12, size := 30, lbase := 0, base := 0 })], cubeList := [(0,0)], cubeSet := true }
def cd : List Nat := [0, 0x10000, 0x20000, 10000*2^40+1, 1] ++ List.replicate 11 0
def cc : CopyCmd := { who := ag, id := 5, org := og, kind := 0, space := 1, task := true, words := cd, acq := false, rel := false, scope := 0, vault := 5 }
def tg : Tag := { id := 5, pc := 0x1000#64, va := 0x12340, dkind := 0, dest := 7, width := 8, signed := false, latch := none, left := true, rid := none, ge := none, acq := none, bound := false, fcause := 0, finfo1 := 0, finfo2 := 0 }
def sC (q : Streamer) : Machine.State := { mapped with cores := [(0, { ctxs := [(0, { tx with wait := .tag, tags := [(0, tg)] })] })], streamers := [(5, q)] }
def cj : CopyJob := { serial := 3, cmd := cc }
def cjr : CopyJob := { cj with st := 1, chunk := { len := 4096, stage := 3, todo := [], buf := List.replicate 4096 0#8, inside := 2^4096 - 1 } }
def cjb : CopyJob := { cj with st := 1, chunk := { len := 4096, stage := 3, todo := [], bad := some (6, true) } }
def cje : CopyJob := { cjr with pos := 8192, chunk := { len := 1808, stage := 3, todo := [], inside := 2^1808-1 }, done := 8192 }
def e1 : Tile := { kind := 0, level := 0, pinned := false, ownk := 0, ownid := 0, rows := 4, ppr := 2, slots := 0, bbank := 0, bpeck := 1, head := 0, tail := 0, occ := 0, acore := 0 }
def er : Tile := { e1 with kind := 1, slots := 3, bpeck := 20, head := 3, tail := 1, occ := 2 }
def mm : CopyMsg := { who := { kind := .streamer, core := 0, idx := 5 }, id := 3, core := 0, handle := 4, reads := [(384*2+100, 60)] }
def sT : Machine.State := { mapped with cores := [(0, { tiles := [(4, e1), (5, er)] })] }
def sF : Machine.State := sT.tileWrite e1 0 2 64 ((List.range 128).map fun k => BitVec.ofNat 8 k)
def mw : CopyMsg := { mm with reads := [], pieces := [(384*2+100, [1,2,3,4])] }
def qy : Query := { who := ag, id := 5, vault := 5, serial := 3, org := og, near := false }

theorem witness_StreamerSteps_1 :
    ∃ (s : State) (c : CopyCmd),
    c.e2e = none ∧
    (s.streamer c.vault).cmds.length < 32 :=
  ⟨sC {}, cc, (by decide +kernel)⟩

theorem witness_StreamerSteps_2 :
    ∃ (s : State) (c : CopyCmd),
    c.e2e = none ∧
    32 ≤ (s.streamer c.vault).cmds.length ∧
    c.kind ≠ 3 :=
  ⟨sC { serial := 2^32-1, cmds := List.replicate 32 cj }, cc, (by decide +kernel)⟩

theorem witness_StreamerSteps_3 :
    ∃ (s : State) (c : CopyCmd),
    c.e2e = none ∧
    32 ≤ (s.streamer c.vault).cmds.length ∧
    c.kind = 3 :=
  ⟨sC { serial := 2^32-1, cmds := List.replicate 32 cj }, { cc with kind := 3 }, (by decide +kernel)⟩

theorem witness_StreamerSteps_4 :
    ∃ (s : State) (v : Nat) (j : CopyJob),
    (∀ (x : CopyJob), x ∈ (s.streamer v).cmds → x.st = 0) ∧
    List.find? (fun x => x.st == 0) (s.streamer v).cmds = some j :=
  ⟨sC { cmds := [cj] }, 5, cj, (by decide +kernel)⟩

theorem witness_StreamerSteps_5 :
    ∃ (s : State) (v : Nat) (j : CopyJob),
    (∃ x, x ∈ (s.streamer v).cmds ∧ x.st ≠ 0) :=
  ⟨sC { cmds := [cj, {cj with serial := 4, st := 1}] }, 5, cj, (by decide +kernel)⟩

def cjq : CopyJob := { cjr with chunk := { cjr.chunk with len := 256, buf := List.replicate 256 0#8, inside := 2^256 - 1 } }

theorem witness_StreamerSteps_6 :
    ∃ (s : State) (v : Nat) (j : CopyJob),
    s.copyJob v j.serial = some j ∧
    j.st = 1 ∧
    j.chunk.bad = none ∧
    popCount j.chunk.inside j.chunk.len = j.chunk.len ∧
    j.pos + j.chunk.len < copyBytes j.cmd.words :=
  ⟨sC { cmds := [cjq] }, 5, cjq, (by decide +kernel)⟩

theorem witness_StreamerSteps_7 :
    ∃ (s : State) (v : Nat) (j : CopyJob) (st : Nat) (dst : Bool),
    s.copyJob v j.serial = some j ∧
    j.st = 1 ∧
    j.chunk.bad = some (st, dst) ∧
    st ≠ 0 ∧
    j.pos + j.chunk.len < copyBytes j.cmd.words :=
  ⟨sC { cmds := [cjb] }, 5, cjb, 6, true, (by decide +kernel)⟩

theorem witness_StreamerSteps_8 :
    ∃ (s : State) (v : Nat) (j : CopyJob),
    s.copyJob v j.serial = some j ∧
    j.st = 1 ∧
    j.chunk.bad = none ∧
    popCount j.chunk.inside j.chunk.len = j.chunk.len ∧
    copyBytes j.cmd.words ≤ j.pos + j.chunk.len ∧
    j.cmd.kind = 0 ∧
    j.cmd.rel = false ∧
    bitsOf (nthD j.cmd.words 11 0) 47 0 = 0 ∧
    bitsOf (nthD j.cmd.words 12 0) 47 0 = 0 ∧
    bitsOf (nthD j.cmd.words 13 0) 47 0 = 0 ∧
    (s.streamer v).waiting = [] :=
  ⟨sC { cmds := [cje, {cj with serial := 4}] }, 5, cje, (by decide +kernel)⟩

theorem witness_StreamerSteps_9 :
    ∃ (s : State) (m : CopyMsg) (e : Tile) (p : Nat) (b : Nat),
    m.req = none ∧
    m.e2e = none ∧
    (s.core (m.core % 256)).tile m.handle = some e :=
  ⟨sT, mm, e1, 2, 100, (by decide +kernel)⟩

theorem witness_StreamerSteps_10 :
    ∃ (s : State) (m : CopyMsg) (e : Tile) (p : Nat) (b : Nat) (n : Nat),
    m.req = none ∧
    m.e2e = none ∧
    (s.core (m.core % 256)).tile m.handle = some e ∧
    m.reads = [(p * e.rowBytes + b, n)] ∧
    0 < n ∧
    b + n ≤ e.rowBytes :=
  ⟨sF, mm, e1, 2, 100, 60, (by decide +kernel)⟩

theorem witness_StreamerSteps_11 :
    ∃ (s : State) (m : CopyMsg) (e : Tile) (p : Nat) (b : Nat) (d : List Byte),
    m.req = none ∧
    m.e2e = none ∧
    (s.core (m.core % 256)).tile m.handle = some e ∧
    m.pieces = [(p * e.rowBytes + b, d)] ∧
    d ≠ [] ∧
    b + d.length ≤ e.rowBytes ∧
    (e.isRing = true → m.slot ≠ none ∧ p < e.slotRows) ∧
    ((if e.isRing = true then m.slot.getD 0 * e.slotRows + p else p) < e.total) :=
  ⟨sF, mw, e1, 2, 100, [1,2,3,4], (by decide +kernel)⟩

theorem witness_StreamerSteps_12 :
    ∃ (s : State) (m : CopyMsg) (e : Tile) (p : Nat) (b : Nat) (r : Req),
    m.req = some r :=
  ⟨sF, { mw with req := some (hr (.load 4 1 0)) }, e1, 2, 100, hr (.load 4 1 0), (by decide +kernel)⟩

theorem witness_StreamerSteps_13 :
    ∃ (s : State) (q : Query) (g : Tag),
    q.e2e = none ∧
    (s.ctx (q.who.core % 256) q.who.idx).tag q.id = some g ∧
    (∀ (p : Nat × Tag), p ∈ (s.ctx (q.who.core % 256) q.who.idx).tags → p.snd.fcause = 0) ∧
    g.dkind = 0 ∧
    g.dest < 16 :=
  ⟨sC { cmds := [cje] }, qy, tg, (by decide +kernel)⟩

end T32

/-! Witnesses that the hypotheses of EngineSteps can be met. -/
namespace T33

def mapped : Machine.State := { s0 with map := [(1, { state := 1, n := 1, list := 0, gran := 12, size := 30, lbase := 0, base := 0 })], cubeList := [(0,0)], cubeSet := true }
def rdw : List Nat := [0x1000, 0x2000 , 0x3000, 5*2^40, 0, 0, 0, 0]
def cfg : List Nat := [0x4000, 2*2^52, 0, 0, 0, 0, 0, 0]
def en : Engine := { state := 2, ocore := 0, space := 1, table := [⟨0,0x100,1,0x1000,0x2000,0⟩,⟨0,0x200,1,0x1008,0x2008,0⟩,⟨0,0x300,1,0x1010,0x2010,0⟩], cfg := cfg, words := rdw, n := [(1, 4)] }
def sx (e : Engine) : Machine.State := { mapped with engines := [(1, e)] }
def e1 : Engine := { en with phase := 1 }
def er : Engine := { e1 with cfg := [0x4000, 2*2^52 + 2^51 + 3*2^39, 0,0,0,0,7,0] }
def e2 : Engine := { en with phase := 2 }

theorem witness_EngineSteps_1 :
    ∃ (s : State) (n : Nat),
    (s.engine n).state = 2 ∧
    (s.engine n).phase = 0 ∧
    (s.engine n).what = EWhat.idle ∧
    (s.engine n).cursor < (s.engine n).tokens ∧
    ((s.engine n).c = 0 → (s.engine n).abort = false ∧ (s.engine n).pause = false) ∧
    (s.engine n).entryVa 1 + 4 ≤ 2 ^ 48 :=
  ⟨sx en, 1, (by decide +kernel)⟩

theorem witness_EngineSteps_2 :
    ∃ (s : State) (n : Nat),
    (s.engine n).state = 2 ∧
    (s.engine n).phase = 0 ∧
    (s.engine n).what = EWhat.idle ∧
    (s.engine n).tokens ≤ (s.engine n).cursor ∧
    (s.engine n).abort = false ∧
    (s.engine n).pause = false :=
  ⟨sx { en with cursor := 1000000 }, 1, (by decide +kernel)⟩

theorem witness_EngineSteps_3 :
    ∃ (s : State) (n : Nat),
    (s.engine n).state = 2 ∧
    (s.engine n).phase = 1 ∧
    (s.engine n).what = EWhat.idle ∧
    (s.engine n).ranked = false ∧
    tblGet (s.engine n).n (s.engine n).cursor 0 = 0 ∧
    (s.engine n).abort = false ∧
    (s.engine n).pause = false ∧
    (s.engine n).cursor + 1 < (s.engine n).nexp :=
  ⟨sx e1, 1, (by decide +kernel)⟩

theorem witness_EngineSteps_4 :
    ∃ (s : State) (n : Nat),
    (s.engine n).state = 2 ∧
    (s.engine n).phase = 1 ∧
    (s.engine n).what = EWhat.idle ∧
    (s.engine n).ranked = false ∧
    (s.engine n).abort = false ∧
    tblGet (s.engine n).n (s.engine n).cursor 0 ≠ 0 ∧
    ((s.engine n).expert (s.engine n).cursor).fill + 8 ≤ 2 ^ 48 :=
  ⟨sx { e1 with cursor := 1 }, 1, (by decide +kernel)⟩

theorem witness_EngineSteps_5 :
    ∃ (s : State) (n : Nat),
    (s.engine n).state = 2 ∧
    (s.engine n).phase = 1 ∧
    (s.engine n).what = EWhat.idle ∧
    (s.engine n).ranked = false ∧
    tblGet (s.engine n).n (s.engine n).cursor 0 = 0 ∧
    (s.engine n).abort = false ∧
    (s.engine n).pause = false ∧
    (s.engine n).nexp ≤ (s.engine n).cursor + 1 :=
  ⟨sx { e1 with cursor := 2 }, 1, (by decide +kernel)⟩

theorem witness_EngineSteps_6 :
    ∃ (s : State) (n : Nat),
    (s.engine n).state = 2 ∧
    (s.engine n).phase = 1 ∧
    (s.engine n).what = EWhat.idle ∧
    (s.engine n).ranked = true ∧
    (s.engine n).abort = false ∧
    (s.engine n).pause = false ∧
    ((s.engine n).expert (s.engine n).cursor).turn + 8 ≤ 2 ^ 48 :=
  ⟨sx er, 1, (by decide +kernel)⟩

theorem witness_EngineSteps_7 :
    ∃ (s : State) (n : Nat),
    (s.engine n).state = 2 ∧
    (s.engine n).what = EWhat.turn :=
  ⟨sx { er with what := .turn, wid := 77 }, 1, (by decide +kernel)⟩

theorem witness_EngineSteps_8 :
    ∃ (s : State) (n : Nat),
    (s.engine n).state = 2 ∧
    2 ≤ (s.engine n).phase ∧
    (s.engine n).what = EWhat.idle ∧
    (s.engine n).cursor < (s.engine n).tokens ∧
    (s.engine n).phase = 2 ∧
    ({ s.engine n with c := 0 } : Engine).entryVa 1 + 4 ≤ 2 ^ 48 ∧
    (s.engine n).cursor + 1 < (s.engine n).tokens ∧
    (s.engine n).abort = false ∧
    (s.engine n).pause = false :=
  ⟨sx e2, 1, (by decide +kernel)⟩

theorem witness_EngineSteps_9 :
    ∃ (s : State) (n : Nat),
    (s.engine n).state = 2 ∧
    2 ≤ (s.engine n).phase ∧
    (s.engine n).what = EWhat.idle ∧
    (s.engine n).cursor < (s.engine n).tokens ∧
    (s.engine n).phase = 3 ∧
    ({ s.engine n with c := 0 } : Engine).entryVa 2 + 4 ≤ 2 ^ 48 ∧
    (s.engine n).cursor + 1 < (s.engine n).tokens ∧
    (s.engine n).abort = false ∧
    (s.engine n).pause = false :=
  ⟨sx { e2 with phase := 3 }, 1, (by decide +kernel)⟩

theorem witness_EngineSteps_10 :
    ∃ (s : State) (n : Nat),
    (s.engine n).state = 2 ∧
    2 ≤ (s.engine n).phase ∧
    (s.engine n).what = EWhat.idle ∧
    (s.engine n).tokens ≤ (s.engine n).cursor ∧
    (s.engine n).orphan = false ∧
    (s.engine n).abort = false ∧
    (s.engine n).rel = false ∧
    bitsOf ((s.engine n).w 4) 47 0 = 0 ∧
    bitsOf ((s.engine n).w 5) 47 0 = 0 :=
  ⟨sx { e2 with phase := 3, cursor := 1000000 }, 1, (by decide +kernel)⟩

theorem witness_EngineSteps_11 :
    ∃ (s : State) (n : Nat),
    (s.engine n).state = 2 ∧
    2 ≤ (s.engine n).phase ∧
    (s.engine n).what = EWhat.idle ∧
    (s.engine n).cursor < (s.engine n).tokens ∧
    (s.engine n).phase = 3 ∧
    ({ s.engine n with c := 0 } : Engine).entryVa 2 + 4 ≤ 2 ^ 48 ∧
    (s.engine n).cursor + 1 < (s.engine n).tokens ∧
    (s.engine n).abort = false ∧
    (s.engine n).pause = true :=
  ⟨sx { e2 with phase := 3, pause := true }, 1, (by decide +kernel)⟩

end T33

/-! Witnesses that the hypotheses of ErrorSteps, SuspensionSteps can be met. -/
namespace T34

def mapped : Machine.State := { s0 with map := [(1, { state := 1, n := 1, list := 0, gran := 12, size := 30, lbase := 0, base := 0 })], cubeList := [(0,0)], cubeSet := true }
def ei : ErrItem := { org := og, source := 2, code := 6, space := 1, addr := 0x1230, hcube := 3, local_ := 0x88, ident := 9, detail := 4 }
def sE (n : Nat) (rec : Nat) : Machine.State := { mapped with cores := [(0, { ctxs := [(0, { tx with errRec := BitVec.ofNat 64 rec, errn := n })] })], leaseNow := 77 }
def onq (v : Nat) (cons : Nat) (host : Nat) : Machine.State := { sE 5 (0x7000+2) with regs := { errqBase := 0x8000#64, errqCtl := BitVec.ofNat 64 (2^8*4 + 4), errqCtr := 0x9000#64, errqCons := BitVec.ofNat 64 cons, errLost := 6, hostCtl := BitVec.ofNat 64 host }, dense := [(0x9000, BitVec.ofNat 8 v)] }
def tg : Tag := { id := 5, pc := 0x1000#64, va := 0x12340, dkind := 0, dest := 7, width := 8, signed := false, latch := none, left := true, rid := none, ge := none, acq := none, bound := false, fcause := 0, finfo1 := 0, finfo2 := 0 }
def sm (op x : Nat) (g : Bool) (img : Nat) : SuspMsg := { who := ag, id := 5, op := op, core := 3, group := g, slot := x, image := img, space := 1, task := false, phase := 0 }
def sS (t : Ctx) : Machine.State := { mapped with cores := [(0, { ctxs := [(0, { tx with wait := .tag, tags := [(0, tg)] })] }), (3, { ctxs := [(4, t)] })] }
def sSu : Machine.State := sS { tx with cstate := .suspended, susp := some ⟨false, 0, 0, [], false⟩, serial := 9#16 }

theorem witness_ErrorSteps_1 :
    ∃ (s : State) (e : ErrItem),
    e.queue = false ∧
    e.org.ctx ≠ 99 ∧
    ((if 16 < fld (s.ctx (e.org.core % 256) e.org.ctx).errRec 4 0 then 0
  else fld (s.ctx (e.org.core % 256) e.org.ctx).errRec 4 0) ≠
  0) ∧
    ((s.ctx (e.org.core % 256) e.org.ctx).cstate ≠ CState.free ∧
  (s.ctx (e.org.core % 256) e.org.ctx).startNo.toNat = e.org.start) ∧
    (fld (s.ctx (e.org.core % 256) e.org.ctx).errRec 47 6 * 64 +
      64 *
        ((s.ctx (e.org.core % 256) e.org.ctx).errn %
          2 ^
            if 16 < fld (s.ctx (e.org.core % 256) e.org.ctx).errRec 4 0 then 0
            else fld (s.ctx (e.org.core % 256) e.org.ctx).errRec 4 0) +
    64 ≤
  2 ^ 48) :=
  ⟨sE 5 (0x7000 + 2), ei, (by decide +kernel)⟩

theorem witness_ErrorSteps_2 :
    ∃ (s : State) (e : ErrItem) (norec : Bool),
    ((e.queue = true ∨ e.org.ctx = 99) ∧ norec = false ∨
  e.queue = false ∧
    e.org.ctx ≠ 99 ∧
      norec = true ∧
        ((if 16 < fld (s.ctx (e.org.core % 256) e.org.ctx).errRec 4 0 then 0
            else fld (s.ctx (e.org.core % 256) e.org.ctx).errRec 4 0) =
            0 ∨
          ¬((s.ctx (e.org.core % 256) e.org.ctx).cstate ≠ CState.free ∧
                (s.ctx (e.org.core % 256) e.org.ctx).startNo.toNat = e.org.start) ∨
            2 ^ 48 <
              fld (s.ctx (e.org.core % 256) e.org.ctx).errRec 47 6 * 64 +
                  64 *
                    ((s.ctx (e.org.core % 256) e.org.ctx).errn %
                      2 ^
                        if 16 < fld (s.ctx (e.org.core % 256) e.org.ctx).errRec 4 0 then 0
                        else fld (s.ctx (e.org.core % 256) e.org.ctx).errRec 4 0) +
                64)) ∧
    ¬2 ∈ s.queueBusy ∧
    ((s.regs.queue 2).fst = 0 ∨ ∃ v, s.peek (s.regs.queue 2).snd.snd.fst = Peek.val v ∧ s.regs.queueFull 2 v = true) :=
  ⟨sE 5 0, ei, true, (by decide +kernel), (by decide +kernel), .inl (by decide +kernel)⟩

theorem witness_ErrorSteps_3 :
    ∃ (s : State) (e : ErrItem) (norec : Bool) (v : Nat),
    ((e.queue = true ∨ e.org.ctx = 99) ∧ norec = false ∨
  e.queue = false ∧
    e.org.ctx ≠ 99 ∧
      norec = true ∧
        ((if 16 < fld (s.ctx (e.org.core % 256) e.org.ctx).errRec 4 0 then 0
            else fld (s.ctx (e.org.core % 256) e.org.ctx).errRec 4 0) =
            0 ∨
          ¬((s.ctx (e.org.core % 256) e.org.ctx).cstate ≠ CState.free ∧
                (s.ctx (e.org.core % 256) e.org.ctx).startNo.toNat = e.org.start) ∨
            2 ^ 48 <
              fld (s.ctx (e.org.core % 256) e.org.ctx).errRec 47 6 * 64 +
                  64 *
                    ((s.ctx (e.org.core % 256) e.org.ctx).errn %
                      2 ^
                        if 16 < fld (s.ctx (e.org.core % 256) e.org.ctx).errRec 4 0 then 0
                        else fld (s.ctx (e.org.core % 256) e.org.ctx).errRec 4 0) +
                64)) ∧
    ¬2 ∈ s.queueBusy ∧
    (s.regs.queue 2).fst ≠ 0 ∧
    s.peek (s.regs.queue 2).snd.snd.fst = Peek.val v ∧
    s.regs.queueFull 2 v = false ∧
    bitOf (BitVec.toNat s.regs.hostCtl) 2 = true :=
  ⟨onq 5 3 4, { ei with queue := true }, false, 5, (by decide +kernel)⟩

theorem witness_ErrorSteps_4 :
    ∃ (s : State) (e : ErrItem) (norec : Bool) (v : Nat),
    ((e.queue = true ∨ e.org.ctx = 99) ∧ norec = false ∨
  e.queue = false ∧
    e.org.ctx ≠ 99 ∧
      norec = true ∧
        ((if 16 < fld (s.ctx (e.org.core % 256) e.org.ctx).errRec 4 0 then 0
            else fld (s.ctx (e.org.core % 256) e.org.ctx).errRec 4 0) =
            0 ∨
          ¬((s.ctx (e.org.core % 256) e.org.ctx).cstate ≠ CState.free ∧
                (s.ctx (e.org.core % 256) e.org.ctx).startNo.toNat = e.org.start) ∨
            2 ^ 48 <
              fld (s.ctx (e.org.core % 256) e.org.ctx).errRec 47 6 * 64 +
                  64 *
                    ((s.ctx (e.org.core % 256) e.org.ctx).errn %
                      2 ^
                        if 16 < fld (s.ctx (e.org.core % 256) e.org.ctx).errRec 4 0 then 0
                        else fld (s.ctx (e.org.core % 256) e.org.ctx).errRec 4 0) +
                64)) ∧
    ¬2 ∈ s.queueBusy ∧
    (s.regs.queue 2).fst ≠ 0 ∧
    s.peek (s.regs.queue 2).snd.snd.fst = Peek.val v ∧
    s.regs.queueFull 2 v = false :=
  ⟨onq 5 3 0, { ei with org := ⟨0, 0, 7⟩ }, true, 5, (by decide +kernel)⟩

theorem witness_ErrorSteps_5 :
    ∃ (s : State) (line : Nat),
    (List.filter (fun p => p.fst != line && decide (s.leaseNow < p.snd + 1024) && vaultOf p.fst == vaultOf line)
      s.svc.struck).length <
  15 :=
  ⟨{ mapped with leaseNow := 100 }, 0x8040/128, (by decide +kernel)⟩

theorem witness_ErrorSteps_6 :
    ∃ (s : State) (v : Nat),
    ¬v ∈ s.svc.failed :=
  ⟨mapped, 5, (by decide +kernel)⟩

theorem witness_SuspensionSteps_1 :
    ∃ (s : State) (m : SuspMsg) (c : Nat) (g : Tag),
    m.phase = 0 ∧
    m.who.core = s.gcore c ∧
    c < 256 ∧
    m.core < 256 ∧
    (s.ctx c m.who.idx).tag m.id = some g ∧
    (∀ (p : Nat × Tag), p ∈ (s.ctx c m.who.idx).tags → p.snd.fcause = 0) ∧
    g.dkind = 0 ∧
    g.dest < 16 ∧
    (s.susps.any fun j => sameTarget j.m m) = true :=
  ⟨{ sS tx with susps := [{ id := 3, m := sm 0 4 false 0 }] }, sm 1 4 false 0, 0, tg, (by decide +kernel)⟩

theorem witness_SuspensionSteps_2 :
    ∃ (s : State) (m : SuspMsg) (c : Nat) (g : Tag),
    m.phase = 0 ∧
    m.who.core = s.gcore c ∧
    c < 256 ∧
    m.core < 256 ∧
    (s.ctx c m.who.idx).tag m.id = some g ∧
    (∀ (p : Nat × Tag), p ∈ (s.ctx c m.who.idx).tags → p.snd.fcause = 0) ∧
    g.dkind = 0 ∧
    g.dest < 16 ∧
    s.susps = [] ∧
    s.suspRefusal m = 0 ∧
    m.group = false ∧
    m.op < 2 ∧
    (s.core m.core).suspended m.slot = false ∧
    s.midInstr m.core m.slot = false ∧
    (∀ (p : Nat × Tag),
  p ∈ (s.ctx m.core m.slot).tags →
    p.snd.left = true ∨ s.parked { kind := AKind.thread, core := s.gcore m.core, idx := m.slot } p.snd.id = true) ∧
    (s.core m.core).seq = none ∧
    s.serialClear m.core m.slot = true ∧
    (s.ctx m.core m.slot).bdue = 0 ∧
    m.op = 0 :=
  ⟨sS tx, sm 0 4 false 0, 0, tg, (by decide +kernel)⟩

theorem witness_SuspensionSteps_3 :
    ∃ (s : State) (m : SuspMsg) (c : Nat) (g : Tag),
    m.phase = 0 ∧
    m.who.core = s.gcore c ∧
    c < 256 ∧
    m.core < 256 ∧
    (s.ctx c m.who.idx).tag m.id = some g ∧
    (∀ (p : Nat × Tag), p ∈ (s.ctx c m.who.idx).tags → p.snd.fcause = 0) ∧
    g.dkind = 0 ∧
    g.dest < 16 ∧
    s.susps = [] ∧
    s.suspRefusal m = 0 ∧
    m.group = false ∧
    m.op < 2 ∧
    (s.core m.core).suspended m.slot = false ∧
    s.midInstr m.core m.slot = false ∧
    (∀ (p : Nat × Tag),
  p ∈ (s.ctx m.core m.slot).tags →
    p.snd.left = true ∨ s.parked { kind := AKind.thread, core := s.gcore m.core, idx := m.slot } p.snd.id = true) ∧
    (s.core m.core).seq = none ∧
    s.serialClear m.core m.slot = true ∧
    (s.ctx m.core m.slot).bdue = 0 ∧
    m.op = 1 ∧
    m.image < 2 ^ 48 :=
  ⟨sS tx, sm 1 4 false 0x5000, 0, tg, (by decide +kernel)⟩

theorem witness_SuspensionSteps_4 :
    ∃ (s : State) (m : SuspMsg) (c : Nat) (g : Tag),
    m.phase = 0 ∧
    m.who.core = s.gcore c ∧
    c < 256 ∧
    m.core < 256 ∧
    (s.ctx c m.who.idx).tag m.id = some g ∧
    (∀ (p : Nat × Tag), p ∈ (s.ctx c m.who.idx).tags → p.snd.fcause = 0) ∧
    g.dkind = 0 ∧
    g.dest < 16 ∧
    s.susps = [] :=
  ⟨sS tx, sm 1 4 false 0x5008, 0, tg, (by decide +kernel)⟩

theorem witness_SuspensionSteps_5 :
    ∃ (s : State) (m : SuspMsg) (c : Nat) (g : Tag) (code : Nat),
    m.phase = 0 ∧
    m.who.core = s.gcore c ∧
    c < 256 ∧
    m.core < 256 ∧
    (s.ctx c m.who.idx).tag m.id = some g ∧
    (∀ (p : Nat × Tag), p ∈ (s.ctx c m.who.idx).tags → p.snd.fcause = 0) ∧
    g.dkind = 0 ∧
    g.dest < 16 ∧
    s.susps = [] ∧
    s.suspRefusal m = code ∧
    code ≠ 0 :=
  ⟨sS tx, sm 1 4 false 0x5008, 0, tg, 2, (by decide +kernel)⟩

theorem witness_SuspensionSteps_6 :
    ∃ (s : State) (m : SuspMsg) (c : Nat) (g : Tag) (r : SuspRec),
    m.phase = 0 ∧
    m.who.core = s.gcore c ∧
    c < 256 ∧
    m.core < 256 ∧
    (s.ctx c m.who.idx).tag m.id = some g ∧
    (∀ (p : Nat × Tag), p ∈ (s.ctx c m.who.idx).tags → p.snd.fcause = 0) ∧
    g.dkind = 0 ∧
    g.dest < 16 ∧
    s.susps = [] ∧
    s.suspRefusal m = 0 ∧
    m.group = false ∧
    m.op = 2 ∧
    (s.ctx m.core m.slot).susp = some r ∧
    r.full = false ∧
    (s.ctx m.core m.slot).sdTrap = false ∧
    (∀ (p : Nat × Tag), p ∈ (s.ctx m.core m.slot).tags → p.snd.fcause = 0) :=
  ⟨sSu, sm 2 4 false 0x5008, 0, tg, ⟨false, 0, 0, [], false⟩, (by decide +kernel)⟩

theorem witness_SuspensionSteps_7 :
    ∃ (s : State) (m : SuspMsg) (c : Nat) (g : Tag),
    m.phase = 0 ∧
    m.who.core = s.gcore c ∧
    c < 256 ∧
    m.core < 256 ∧
    (s.ctx c m.who.idx).tag m.id = some g ∧
    (∀ (p : Nat × Tag), p ∈ (s.ctx c m.who.idx).tags → p.snd.fcause = 0) ∧
    g.dkind = 0 ∧
    g.dest < 16 ∧
    s.susps = [] ∧
    s.suspRefusal m = 0 ∧
    m.group = false :=
  ⟨sS { tx with cstate := .suspended, susp := some ⟨false, 0, 0, [], false⟩, serial := 9#16 }, sm 2 4 false 0x5008, 0, tg, (by decide +kernel)⟩

end T34

/-! Witnesses that the hypotheses of HostSteps, BootAndPower, Management can be met. -/
namespace T35

def mapped : Machine.State := { s0 with map := [(1, { state := 1, n := 1, list := 0, gran := 12, size := 30, lbase := 0, base := 0 })], cubeList := [(0,0)], cubeSet := true }
def hm (ctl size base : Nat) : Machine.State := { mapped with regs := { hostCtl := BitVec.ofNat 64 ctl, hwinSize := BitVec.ofNat 64 size, hwinBase := BitVec.ofNat 64 base } }
def d64 : List Byte := (List.range 64).map fun k => BitVec.ofNat 8 k
def cm : CohMsg := { agent := 5, host := true, space := 1, vline := 0x77, line := 0x8040/128, word := 16, writer := ag, wid := 5, home := 0 }
def rq := hr (.load 4 1 0)
def sn' (m : Msg) : Machine.State := { mapped with svc := { snoops := [⟨3, m⟩] } }
def hs (ctl : Nat) (h : HSlot) (o : List Out) : Machine.State := { hm ctl 28 0 with svc := { slots := [(4, h)] }, outs := o, tick := 9 }
def pS (n : Nat) : Machine.State := { s0 with regs := { pwrStat := BitVec.ofNat 64 n } }

theorem witness_HostSteps_1 :
    ∃ (s : State) (off : Nat) (data : List Byte) (dirty : Bool),
    s.svc.recovery = false ∧
    (bitOf (BitVec.toNat s.regs.hostCtl) 0 = true ∧
  28 ≤ fld s.regs.hwinSize 5 0 ∧
    fld s.regs.hwinSize 5 0 ≤ 52 ∧
      fld s.regs.hwinBase 51 28 * 2 ^ 28 % 2 ^ fld s.regs.hwinSize 5 0 = 0 ∧
        off / 64 * 64 < 2 ^ fld s.regs.hwinSize 5 0) ∧
    data.length = 64 :=
  ⟨hm 1 28 0x10000000, 0x1048, d64, true, (by decide +kernel)⟩

theorem witness_HostSteps_2 :
    ∃ (s : State) (off : Nat) (data : List Byte) (dirty : Bool),
    s.svc.recovery = false ∧
    (¬(bitOf (BitVec.toNat s.regs.hostCtl) 0 = true ∧
    28 ≤ fld s.regs.hwinSize 5 0 ∧
      fld s.regs.hwinSize 5 0 ≤ 52 ∧
        fld s.regs.hwinBase 51 28 * 2 ^ 28 % 2 ^ fld s.regs.hwinSize 5 0 = 0 ∧
          off / 64 * 64 < 2 ^ fld s.regs.hwinSize 5 0)) ∧
    data.length = 64 :=
  ⟨hm 1 28 0x10000000, 0x10001048, d64, true, (by decide +kernel)⟩

theorem witness_HostSteps_3 :
    ∃ (s : State) (q : Snoop) (m : CohMsg),
    s.svc.snoops = [q] ∧
    m.home = s.cubeId ∧
    q.msg = Msg.inv m :=
  ⟨sn' (.inv cm), ⟨3, .inv cm⟩, cm, (by decide +kernel)⟩

theorem witness_HostSteps_4 :
    ∃ (s : State) (q : Snoop) (m : CohMsg) (r : Req),
    s.svc.snoops = [q] ∧
    m.home = s.cubeId ∧
    (q.msg = Msg.fwdRead m r ∨ q.msg = Msg.fwdOwn m r) :=
  ⟨sn' (.fwdRead cm rq), ⟨3, .fwdRead cm rq⟩, cm, rq, (by decide +kernel)⟩

theorem witness_HostSteps_5 :
    ∃ (s : State) (q : Snoop) (m : CohMsg),
    s.svc.snoops = [q] ∧
    m.home = s.cubeId ∧
    q.msg = Msg.revoke m :=
  ⟨sn' (.revoke cm), ⟨3, .revoke cm⟩, cm, (by decide +kernel)⟩

theorem witness_HostSteps_6 :
    ∃ (s : State) (q : Snoop) (m : CohMsg),
    s.svc.snoops = [q] ∧
    m.home = s.cubeId ∧
    q.msg = Msg.revokeWb m :=
  ⟨sn' (.revokeWb cm), ⟨3, .revokeWb cm⟩, cm, (by decide +kernel)⟩

theorem witness_HostSteps_7 :
    ∃ (s : State) (k : Nat) (word : Nat) (value : Nat),
    k < 32 ∧
    s.svc.recovery = false ∧
    word < 16 ∧
    (s.hslot k).busy = false :=
  ⟨hs 6 {} [], 4, 3, 2^64+77, (by decide +kernel)⟩

theorem witness_HostSteps_8 :
    ∃ (s : State) (k : Nat) (word : Nat) (value : Nat),
    k < 32 ∧
    s.svc.recovery = false ∧
    word < 16 ∧
    (s.hslot k).busy = true :=
  ⟨hs 6 {busy := true} [], 4, 3, 2^64+77, (by decide +kernel)⟩

theorem witness_HostSteps_9 :
    ∃ (s : State) (k : Nat) (value : Nat),
    k < 32 ∧
    s.svc.recovery = false ∧
    (s.hslot k).busy = false ∧
    s.svc.bells = [] ∧
    (bitOf (BitVec.toNat s.regs.hostCtl) 1 = true ∧ (value = 1 ∨ value = 2)) ∧
    (¬∃ o, o ∈ s.outs ∧ o.id < s.tick ∧ o.purp = Purp.host 3) :=
  ⟨hs 6 {words := List.range 16} [], 4, 2, (by decide +kernel)⟩

theorem witness_HostSteps_10 :
    ∃ (s : State) (k : Nat) (value : Nat),
    k < 32 ∧
    s.svc.recovery = false ∧
    (s.hslot k).busy = false ∧
    s.svc.bells = [] ∧
    (¬(bitOf (BitVec.toNat s.regs.hostCtl) 1 = true ∧ (value = 1 ∨ value = 2))) :=
  ⟨hs 6 {words := List.range 16} [], 4, 3, (by decide +kernel)⟩

theorem witness_HostSteps_11 :
    ∃ (s : State) (k : Nat) (value : Nat),
    k < 32 ∧
    s.svc.recovery = false ∧
    (s.hslot k).busy = false ∧
    s.svc.bells = [] ∧
    (bitOf (BitVec.toNat s.regs.hostCtl) 1 = true ∧ (value = 1 ∨ value = 2)) ∧
    (∃ o, o ∈ s.outs ∧ o.id < s.tick ∧ o.purp = Purp.host 3) :=
  ⟨hs 6 {words := List.range 16} [{ id := 3, who := ag, req := rq, purp := .host 3 }], 4, 1, (by decide +kernel)⟩

theorem witness_BootAndPower_1 :
    ∃ (s : State),
    s.slotCode s.preferred ≠ 0 ∧
    s.slotCode (1 - s.preferred) ≠ 0 :=
  ⟨s0, (by decide +kernel)⟩

theorem witness_BootAndPower_2 :
    ∃ (s : State) (c : Nat),
    c < 16 :=
  ⟨{ s0 with svc := { boot := some 0x1000000, powered := 0 } }, 0, (by decide +kernel)⟩

theorem witness_BootAndPower_3 :
    ∃ (s : State) (c : Nat),
    c < 16 ∧
    (s.svc.boot = none ∨ c ≠ 0) :=
  ⟨{ s0 with svc := { boot := some 0x1000000, powered := 0 } }, 5, (by decide +kernel)⟩

theorem witness_BootAndPower_4 :
    ∃ (s : State) (watts : Nat) (stack : Nat) (logic : Nat),
    (List.foldl (fun x1 x2 => x1 + x2) 0 s.svc.draws ≤
  100 * if s.svc.draws.isEmpty = true then fld s.regs.pwrCap 9 0 else s.svc.cap) ∧
    (100 ≤
  (s.svc.draws ++
      [min watts
          ((100 * if s.svc.draws.isEmpty = true then fld s.regs.pwrCap 9 0 else s.svc.cap) -
            List.foldl (fun x1 x2 => x1 + x2) 0 s.svc.draws)]).length) :=
  ⟨{ s0 with svc := { draws := List.replicate 99 300, cap := 301 } }, 800, 50, 300, (by decide +kernel)⟩

theorem witness_BootAndPower_5 :
    ∃ (s : State) (watts : Nat) (stack : Nat) (logic : Nat),
    (List.foldl (fun x1 x2 => x1 + x2) 0 s.svc.draws ≤
  100 * if s.svc.draws.isEmpty = true then fld s.regs.pwrCap 9 0 else s.svc.cap) ∧
    ((s.svc.draws ++
      [min watts
          ((100 * if s.svc.draws.isEmpty = true then fld s.regs.pwrCap 9 0 else s.svc.cap) -
            List.foldl (fun x1 x2 => x1 + x2) 0 s.svc.draws)]).length <
  100) :=
  ⟨{ s0 with svc := {}, regs := { pwrCap := 500#64 } }, 60000, 50, 300, (by decide +kernel)⟩

theorem witness_BootAndPower_6 :
    ∃ (s : State) (stack : Nat) (logic : Nat),
    (100 ≤ logic ∨ 95 ≤ stack) ∧
    logic ≤ 105 ∧
    stack ≤ 95 ∧
    logic < 110 ∧
    stack < 100 ∧
    bitOf (BitVec.toNat s.regs.pwrStat) 1 = false :=
  ⟨pS 0, 95, 10, (by decide +kernel)⟩

theorem witness_BootAndPower_7 :
    ∃ (s : State) (stack : Nat) (logic : Nat),
    (100 ≤ logic ∨ 95 ≤ stack) ∧
    (95 < logic ∨ 90 < stack) ∧
    bitOf (BitVec.toNat s.regs.pwrStat) 0 = true ∧
    (105 < logic ∨ 95 < stack) ∧
    bitOf (BitVec.toNat s.regs.pwrStat) 1 = true :=
  ⟨pS 3, 91, 106, (by decide +kernel)⟩

theorem witness_BootAndPower_8 :
    ∃ (s : State) (stack : Nat) (logic : Nat),
    logic ≤ 95 ∧
    stack ≤ 90 ∧
    logic ≤ 105 ∧
    stack ≤ 95 :=
  ⟨pS 3, 90, 95, (by decide +kernel)⟩

theorem witness_BootAndPower_9 :
    ∃ (s : State) (stack : Nat) (logic : Nat),
    (100 ≤ logic ∨ 95 ≤ stack) ∧
    (95 < logic ∨ 90 < stack) ∧
    bitOf (BitVec.toNat s.regs.pwrStat) 0 = true ∧
    logic < 110 ∧
    stack < 100 ∧
    bitOf (BitVec.toNat s.regs.pwrStat) 1 = false :=
  ⟨pS 1, 96, 99, (by decide +kernel)⟩

theorem witness_BootAndPower_10 :
    ∃ (s : State) (stack : Nat) (logic : Nat),
    (100 ≤ logic ∨ 95 ≤ stack) ∧
    (95 < logic ∨ 90 < stack) ∧
    bitOf (BitVec.toNat s.regs.pwrStat) 0 = true ∧
    (110 ≤ logic ∨ 100 ≤ stack) :=
  ⟨pS 1, 100, 99, (by decide +kernel)⟩

theorem witness_BootAndPower_11 :
    ∃ (s : State) (stack : Nat) (logic : Nat),
    (100 ≤ logic ∨ 95 ≤ stack) ∧
    logic ≤ 105 ∧
    stack ≤ 95 :=
  ⟨pS 2, 95, 105, (by decide +kernel)⟩

theorem witness_Management_1 :
    ∃ (s : State) (body : List Byte),
    body = [] ∧
    body.length ≠ 32 ∧
    s.svc.recovery = false ∧
    body.length ≠ 2 ∧
    (body.length ≠ 1 ∨
  2 ≤ ofBytes (List.take 1 body) ∨
    s.svc.recovery = false ∧ ofBytes (List.take 1 body) = fld s.regs.bootStat 15 8) ∧
    (¬(8 ≤ body.length ∧
      ofBytes (List.take 3 (List.drop 1 body)) = 0 ∧
        ofBytes (List.take 4 (List.drop 4 body)) % 256 = 0 ∧
          256 ≤ (List.drop 8 body).length ∧
            (List.drop 8 body).length ≤ 4096 ∧
              (List.drop 8 body).length % 256 = 0 ∧
                ofBytes (List.take 4 (List.drop 4 body)) + (List.drop 8 body).length ≤ 16777216) ∨
  2 ≤ ofBytes (List.take 1 body) ∨
    s.svc.recovery = false ∧ ofBytes (List.take 1 body) = fld s.regs.bootStat 15 8) ∧
    (body.length ≠ 1 ∨ 2 ≤ ofBytes (List.take 1 body) ∨ s.slotCode (ofBytes (List.take 1 body)) ≠ 0) ∧
    (body.length ≠ 4 ∨ ofBytes body < s.svc.count - s.svc.records.length ∨ s.svc.count ≤ ofBytes body) :=
  ⟨s0, [], (by decide +kernel)⟩

theorem witness_Management_2 :
    ∃ (s : State) (body : List Byte),
    body ≠ [] ∧
    body.length ≠ 32 ∧
    s.svc.recovery = false ∧
    body.length ≠ 2 ∧
    (body.length ≠ 1 ∨
  2 ≤ ofBytes (List.take 1 body) ∨
    s.svc.recovery = false ∧ ofBytes (List.take 1 body) = fld s.regs.bootStat 15 8) ∧
    (¬(8 ≤ body.length ∧
      ofBytes (List.take 3 (List.drop 1 body)) = 0 ∧
        ofBytes (List.take 4 (List.drop 4 body)) % 256 = 0 ∧
          256 ≤ (List.drop 8 body).length ∧
            (List.drop 8 body).length ≤ 4096 ∧
              (List.drop 8 body).length % 256 = 0 ∧
                ofBytes (List.take 4 (List.drop 4 body)) + (List.drop 8 body).length ≤ 16777216) ∨
  2 ≤ ofBytes (List.take 1 body) ∨
    s.svc.recovery = false ∧ ofBytes (List.take 1 body) = fld s.regs.bootStat 15 8) ∧
    (body.length ≠ 1 ∨ 2 ≤ ofBytes (List.take 1 body) ∨ s.slotCode (ofBytes (List.take 1 body)) ≠ 0) ∧
    body.length = 4 ∧
    s.svc.count - s.svc.records.length ≤ ofBytes body ∧
    ofBytes body < s.svc.count :=
  ⟨{ s0 with svc := { s0.svc with records := [[1,2,3,4,5,6,7,8]], count := 5 } }, toBytes 4 4, (by decide +kernel)⟩

theorem witness_Management_3 :
    ∃ (s : State) (body : List Byte),
    body ≠ [] ∧
    body.length = 32 ∧
    s.svc.recovery = false ∧
    body.length ≠ 2 ∧
    (body.length ≠ 1 ∨
  2 ≤ ofBytes (List.take 1 body) ∨
    s.svc.recovery = false ∧ ofBytes (List.take 1 body) = fld s.regs.bootStat 15 8) ∧
    (¬(8 ≤ body.length ∧
      ofBytes (List.take 3 (List.drop 1 body)) = 0 ∧
        ofBytes (List.take 4 (List.drop 4 body)) % 256 = 0 ∧
          256 ≤ (List.drop 8 body).length ∧
            (List.drop 8 body).length ≤ 4096 ∧
              (List.drop 8 body).length % 256 = 0 ∧
                ofBytes (List.take 4 (List.drop 4 body)) + (List.drop 8 body).length ≤ 16777216) ∨
  2 ≤ ofBytes (List.take 1 body) ∨
    s.svc.recovery = false ∧ ofBytes (List.take 1 body) = fld s.regs.bootStat 15 8) ∧
    (body.length ≠ 1 ∨ 2 ≤ ofBytes (List.take 1 body) ∨ s.slotCode (ofBytes (List.take 1 body)) ≠ 0) ∧
    (body.length ≠ 4 ∨ ofBytes body < s.svc.count - s.svc.records.length ∨ s.svc.count ≤ ofBytes body) :=
  ⟨s0, List.replicate 32 3#8, (by decide +kernel)⟩

theorem witness_Management_4 :
    ∃ (s : State) (body : List Byte) (opcode : Nat),
    (s.svc.recovery = true ∨ 49152 ≤ opcode) :=
  ⟨s0, List.replicate 32 3#8, 0xC000, (by decide +kernel)⟩

theorem witness_Management_5 :
    ∃ (s : State) (body : List Byte),
    body ≠ [] ∧
    body.length ≠ 32 ∧
    s.svc.recovery = false ∧
    body.length = 2 ∧
    (body.length ≠ 1 ∨
  2 ≤ ofBytes (List.take 1 body) ∨
    s.svc.recovery = false ∧ ofBytes (List.take 1 body) = fld s.regs.bootStat 15 8) ∧
    (¬(8 ≤ body.length ∧
      ofBytes (List.take 3 (List.drop 1 body)) = 0 ∧
        ofBytes (List.take 4 (List.drop 4 body)) % 256 = 0 ∧
          256 ≤ (List.drop 8 body).length ∧
            (List.drop 8 body).length ≤ 4096 ∧
              (List.drop 8 body).length % 256 = 0 ∧
                ofBytes (List.take 4 (List.drop 4 body)) + (List.drop 8 body).length ≤ 16777216) ∨
  2 ≤ ofBytes (List.take 1 body) ∨
    s.svc.recovery = false ∧ ofBytes (List.take 1 body) = fld s.regs.bootStat 15 8) ∧
    (body.length ≠ 1 ∨ 2 ≤ ofBytes (List.take 1 body) ∨ s.slotCode (ofBytes (List.take 1 body)) ≠ 0) ∧
    (body.length ≠ 4 ∨ ofBytes body < s.svc.count - s.svc.records.length ∨ s.svc.count ≤ ofBytes body) :=
  ⟨s0, toBytes 1000 2, (by decide +kernel)⟩

theorem witness_Management_6 :
    ∃ (s : State) (body : List Byte),
    body ≠ [] ∧
    body.length ≠ 32 ∧
    s.svc.recovery = false ∧
    body.length ≠ 2 ∧
    body.length = 1 ∧
    ofBytes (List.take 1 body) < 2 ∧
    (¬(s.svc.recovery = false ∧ ofBytes (List.take 1 body) = fld s.regs.bootStat 15 8)) ∧
    (¬(8 ≤ body.length ∧
      ofBytes (List.take 3 (List.drop 1 body)) = 0 ∧
        ofBytes (List.take 4 (List.drop 4 body)) % 256 = 0 ∧
          256 ≤ (List.drop 8 body).length ∧
            (List.drop 8 body).length ≤ 4096 ∧
              (List.drop 8 body).length % 256 = 0 ∧
                ofBytes (List.take 4 (List.drop 4 body)) + (List.drop 8 body).length ≤ 16777216) ∨
  2 ≤ ofBytes (List.take 1 body) ∨
    s.svc.recovery = false ∧ ofBytes (List.take 1 body) = fld s.regs.bootStat 15 8) ∧
    (body.length ≠ 1 ∨ 2 ≤ ofBytes (List.take 1 body) ∨ s.slotCode (ofBytes (List.take 1 body)) ≠ 0) ∧
    (body.length ≠ 4 ∨ ofBytes body < s.svc.count - s.svc.records.length ∨ s.svc.count ≤ ofBytes body) :=
  ⟨s0, [1#8], (by decide +kernel)⟩

theorem witness_Management_7 :
    ∃ (s : State) (body : List Byte),
    body ≠ [] ∧
    body.length ≠ 32 ∧
    s.svc.recovery = false ∧
    body.length ≠ 2 ∧
    (body.length ≠ 1 ∨
  2 ≤ ofBytes (List.take 1 body) ∨
    s.svc.recovery = false ∧ ofBytes (List.take 1 body) = fld s.regs.bootStat 15 8) ∧
    (¬(8 ≤ body.length ∧
      ofBytes (List.take 3 (List.drop 1 body)) = 0 ∧
        ofBytes (List.take 4 (List.drop 4 body)) % 256 = 0 ∧
          256 ≤ (List.drop 8 body).length ∧
            (List.drop 8 body).length ≤ 4096 ∧
              (List.drop 8 body).length % 256 = 0 ∧
                ofBytes (List.take 4 (List.drop 4 body)) + (List.drop 8 body).length ≤ 16777216) ∨
  2 ≤ ofBytes (List.take 1 body) ∨
    s.svc.recovery = false ∧ ofBytes (List.take 1 body) = fld s.regs.bootStat 15 8) ∧
    (body.length ≠ 1 ∨ 2 ≤ ofBytes (List.take 1 body) ∨ s.slotCode (ofBytes (List.take 1 body)) ≠ 0) ∧
    (body.length ≠ 4 ∨ ofBytes body < s.svc.count - s.svc.records.length ∨ s.svc.count ≤ ofBytes body) :=
  ⟨s0, [0#8], (by decide +kernel)⟩

theorem witness_Management_8 :
    ∃ (s : State) (body : List Byte),
    body ≠ [] ∧
    body.length ≠ 32 ∧
    s.svc.recovery = true ∧
    body.length ≠ 2 ∧
    body.length = 1 ∧
    ofBytes (List.take 1 body) < 2 ∧
    (¬(s.svc.recovery = false ∧ ofBytes (List.take 1 body) = fld s.regs.bootStat 15 8)) ∧
    (¬(8 ≤ body.length ∧
      ofBytes (List.take 3 (List.drop 1 body)) = 0 ∧
        ofBytes (List.take 4 (List.drop 4 body)) % 256 = 0 ∧
          256 ≤ (List.drop 8 body).length ∧
            (List.drop 8 body).length ≤ 4096 ∧
              (List.drop 8 body).length % 256 = 0 ∧
                ofBytes (List.take 4 (List.drop 4 body)) + (List.drop 8 body).length ≤ 16777216) ∨
  2 ≤ ofBytes (List.take 1 body) ∨
    s.svc.recovery = false ∧ ofBytes (List.take 1 body) = fld s.regs.bootStat 15 8) ∧
    (body.length ≠ 1 ∨ 2 ≤ ofBytes (List.take 1 body) ∨ s.slotCode (ofBytes (List.take 1 body)) ≠ 0) ∧
    (body.length ≠ 4 ∨ ofBytes body < s.svc.count - s.svc.records.length ∨ s.svc.count ≤ ofBytes body) :=
  ⟨{ s0 with svc := { s0.svc with recovery := true } }, [0#8], (by decide +kernel)⟩

theorem witness_Management_9 :
    ∃ (s : State) (body : List Byte),
    body ≠ [] ∧
    body.length ≠ 32 ∧
    s.svc.recovery = false ∧
    body.length ≠ 2 ∧
    (body.length ≠ 1 ∨
  2 ≤ ofBytes (List.take 1 body) ∨
    s.svc.recovery = false ∧ ofBytes (List.take 1 body) = fld s.regs.bootStat 15 8) ∧
    (8 ≤ body.length ∧
  ofBytes (List.take 3 (List.drop 1 body)) = 0 ∧
    ofBytes (List.take 4 (List.drop 4 body)) % 256 = 0 ∧
      256 ≤ (List.drop 8 body).length ∧
        (List.drop 8 body).length ≤ 4096 ∧
          (List.drop 8 body).length % 256 = 0 ∧
            ofBytes (List.take 4 (List.drop 4 body)) + (List.drop 8 body).length ≤ 16777216) ∧
    ofBytes (List.take 1 body) < 2 ∧
    (¬(s.svc.recovery = false ∧ ofBytes (List.take 1 body) = fld s.regs.bootStat 15 8)) ∧
    (body.length ≠ 1 ∨ 2 ≤ ofBytes (List.take 1 body) ∨ s.slotCode (ofBytes (List.take 1 body)) ≠ 0) ∧
    (body.length ≠ 4 ∨ ofBytes body < s.svc.count - s.svc.records.length ∨ s.svc.count ≤ ofBytes body) :=
  ⟨s0, [1#8,0#8,0#8,0#8] ++ toBytes 0x100 4 ++ List.replicate 256 7#8, (by decide +kernel)⟩

theorem witness_Management_10 :
    ∃ (s : State) (body : List Byte),
    s.svc.recovery = true ∧
    body.length = 2 :=
  ⟨{ s0 with svc := { s0.svc with recovery := true } }, toBytes 1000 2, (by decide +kernel)⟩

end T35

/-! Witnesses that the hypotheses of PredicatedOffChangesOnlyPc can be met. -/
namespace T36

def ia : Instr := .add { h0 with pred := 2#3 } (.g 1) (.q 0) (.g 3)
def fa : Frame := (frameOf ia).getD { h := h0 }

theorem witness_PredicatedOffChangesOnlyPc_3 :
    ∃ (i : Instr) (f : Frame) (s : State),
    frameOf i = some f :=
  ⟨ia, fa, st {tx with preds := 7} q0, rfl⟩

end T36

namespace T37

/-! Witnesses at the values where clauses meet: a full table of watches, the sixteenth line of a vault, the thresholds of the
temperatures, a reserved predicate field, an operand of `pzero` with reserved bits, and an image whose signature verifies. -/

def full : Slice := { l2 := [⟨0x8040/128, false, 0, (List.replicate 64 0#8) ++ toBytes 100 8 ++ List.replicate 56 0#8⟩], watches := List.replicate 4096 ⟨0x8048, 1, ag, 5⟩ }

theorem witness_HomeAtomicsCountersAndRaces_watchesFull :
    ∃ (s : State) (r : Req) (l : Nat) (target : Nat) (lo : Nat) (hi : Nat),
    Accepted s r l ∧
    r.act = Act.watch target ∧
    s.word32 l = some lo ∧
    s.word32 (l + 4) = some hi ∧
    lo + 2 ^ 32 * hi < target ∧
    4096 ≤ (s.slice (sliceOf (l / 128))).watches.length :=
  ⟨shome full, hr (.watch 150), 0x8040, 150, 100, 0, (by unfold Accepted Placed; decide +kernel), (by decide +kernel)⟩

/-- Lines of the vault of line 0x100. -/
def vaultLines : List Nat := List.range 15

theorem witness_ErrorSteps_sixteenthLine :
    ∃ (s : State) (line : Nat),
    15 ≤ (List.filter (fun p => p.fst != line && decide (s.leaseNow < p.snd + 1024) && vaultOf p.fst == vaultOf line)
      s.svc.struck).length :=
  ⟨{ s0 with leaseNow := 100, svc := { struck := vaultLines.map fun n => (n, 90) } }, 0x100, (by decide +kernel)⟩

theorem witness_BootAndPower_cool :
    ∃ (s : State) (stack : Nat) (logic : Nat),
    logic < 100 ∧ stack < 95 ∧ bitOf (BitVec.toNat s.regs.pwrStat) 0 = false :=
  ⟨s0, 94, 99, (by decide +kernel)⟩

theorem witness_PredicatedOffChangesOnlyPc_reserved :
    ∃ (ws : List IWord) (w : IWord),
    ws.head? = some w ∧ w.getLsbD 11 = true ∧ w.extractLsb' 8 3 = 0#3 :=
  ⟨[0x00420804#32], 0x00420804#32, rfl, (by decide), (by decide)⟩

def badZero : Instr := .pzero h0 (.g 7) (.g 2) (.g 8)
def badState : State := st { tx with status := 0x0001400000000000#64 } {}

theorem witness_ManagementInstructions_badOperand :
    ∃ (h : Hd) (d : Opd) (a : Opd) (b : Opd) (s : State) (s1 : State) (v : Vals),
    Runs (Instr.pzero h d a b) s v s1 ∧
    (2 ^ 52 ≤ BitVec.toNat v.a ∨ BitVec.toNat v.a / 4 % 2 ^ 10 ≠ 0 ∨ BitVec.toNat v.a % 4 = 3 ∨
      BitVec.toNat v.a / 2 ^ 12 % 2 ^ 40 * 4096 % pageBytes (BitVec.toNat v.a % 4) ≠ 0 ∨ BitVec.toNat v.b % 8 ≠ 0) :=
  ⟨h0, .g 7, .g 2, .g 8, badState, s1 badZero badState, vs badZero badState, runs_of (by decide +kernel), (by decide +kernel)⟩

/-- The public key and the signature of the image below, whose secret key is 32 bytes of 5. -/
def imgKey : List Byte := toBytes 109168735203736040570091600089729457274069692750491760750232406020788429027950 32
def imgSig : List Byte := toBytes 165027589662917298701069239698125581635114460295507622532337702025245246229780604111289081182479074102229764319410532185815657060591315489445504404557228 64

/-- A walk image of 64 bytes and a configuration block. -/
def imgBody : List Byte := List.replicate 64 0#8 ++ toBytes 0x123 2 ++ toBytes 500 2 ++ toBytes 0 4 ++ toBytes 0x50000000 8 ++
  toBytes 30 8 ++ toBytes 7 8 ++ toBytes 0 32
/-- The header without its signature. -/
def imgHdr : List Byte := toBytes 0xCE960A1E00000001 8 ++ toBytes 1 4 ++ toBytes 7 4 ++ toBytes 128 8 ++ toBytes 0 8 ++
  toBytes 0x1000000 8 ++ toBytes 0 8 ++ toBytes 64 8 ++ toBytes 64 8 ++ toBytes 64 8 ++ List.replicate 56 0#8 ++ imgKey
def img : Image := { hdr := imgHdr ++ imgSig ++ List.replicate 32 0#8, body := imgBody }
def imgFlash : Tbl Byte :=
  ((List.range 384).zip ((img.hdr ++ img.body).map fun b => b ^^^ 0xFF#8)).filter fun c => c.2 != 0#8
def bootable : State := { s0 with svc := { flash := imgFlash } }

theorem bootable_image : bootable.imageOf 0 = img := by
  have h : (bootable.imageOf 0).hdr = img.hdr ∧ (bootable.imageOf 0).body = img.body := by decide +kernel
  cases hi : bootable.imageOf 0; cases hj : img; simp_all

theorem bootable_verifies : edVerify imgKey imgSig (sha512 (imgHdr ++ imgBody)) = true := by decide +kernel

/-- The slot passes on a cube whose fuses hold the hash of this key: the fused value is the only premise (17 R358). -/
theorem bootable_passes (fused : sha512 imgKey = fuse 1 ++ fuse 2) : bootable.slotCode 0 = 0 := by
  have hk : (img.hdr.drop 128).take 32 = imgKey ∧ (img.hdr.drop 160).take 64 = imgSig ∧
    img.hdr.take 160 ++ img.body = imgHdr ++ imgBody := by decide +kernel
  have hs : img.signed = true := by
    simp only [Image.signed, hk.1, hk.2.1, hk.2.2, fused, bootable_verifies, beq_self_eq_true, Bool.and_self]
  simp only [State.slotCode, bootable_image, hs]
  decide +kernel

theorem witness_BootAndPower_slotPasses (fused : sha512 imgKey = fuse 1 ++ fuse 2) :
    ∃ (s : State) (k : Nat), s.slotCode k = 0 ∧ (k = s.preferred ∨ (s.slotCode s.preferred ≠ 0 ∧ k = 1 - s.preferred)) :=
  ⟨bootable, 0, bootable_passes fused, .inl (by decide +kernel)⟩

/-- The same of an activation, whose slot passes. -/
theorem witness_Management_activates (fused : sha512 imgKey = fuse 1 ++ fuse 2) :
    ∃ (s : State) (body : List Byte), body.length = 1 ∧ ofBytes (body.take 1) < 2 ∧ s.slotCode (ofBytes (body.take 1)) = 0 :=
  ⟨bootable, [0#8], (by decide), (by decide), bootable_passes fused⟩

/-! The queue tests: an entry to take, an empty queue, a count and a look. -/

def twoEntries : State := st tx { queues := [(0, [⟨0, some 7#64⟩, ⟨0, some 8#64⟩])] }
def qt : Instr := .qtry h0 (.g 1) (.q 0) (.g 2)
def qc : Instr := .qcount h0 (.g 1) (.q 0)
def qp : Instr := .qpeek h0 (.g 1) (.q 0)

theorem witness_QueueTestsReadTheQueue_1 :
    ∃ (h : Hd) (k : BitVec 4) (a : Opd) (b : Opd) (q : Nat) (s : State) (s1 : State) (v : Vals),
    srcQueue a = some q ∧ noLink s.me a = none ∧ Runs (Instr.qtry h (Opd.g k) a b) s v s1 ∧
    ∃ e x r, (s1.core s.me).queue q = ⟨e, some x⟩ :: r :=
  ⟨h0, 1, (.q 0), (.g 2), 0, twoEntries, s1 qt twoEntries, vs qt twoEntries, (by decide +kernel), (by decide +kernel),
    runs_of (by decide +kernel), 0, 7#64, [⟨0, some 8#64⟩], (by decide +kernel)⟩

theorem witness_QueueTestsReadTheQueue_2 :
    ∃ (h : Hd) (k : BitVec 4) (a : Opd) (b : Opd) (q : Nat) (s : State) (s1 : State) (v : Vals),
    srcQueue a = some q ∧ noLink s.me a = none ∧ Runs (Instr.qtry h (Opd.g k) a b) s v s1 ∧
    readable ((s1.core s.me).queue q) = [] :=
  ⟨h0, 1, (.q 0), (.g 2), 0, s0, s1 qt s0, vs qt s0, (by decide +kernel), (by decide +kernel), runs_of (by decide +kernel),
    (by decide +kernel)⟩

theorem witness_QueueTestsReadTheQueue_3 :
    ∃ (h : Hd) (k : BitVec 4) (a : Opd) (q : Nat) (s : State) (s1 : State) (v : Vals),
    srcQueue a = some q ∧ noLink s.me a = none ∧ Runs (Instr.qcount h (Opd.g k) a) s v s1 :=
  ⟨h0, 1, (.q 0), 0, twoEntries, s1 qc twoEntries, vs qc twoEntries, (by decide +kernel), (by decide +kernel),
    runs_of (by decide +kernel)⟩

theorem witness_QueueTestsReadTheQueue_4 :
    ∃ (h : Hd) (k : BitVec 4) (a : Opd) (q : Nat) (s : State) (s1 : State) (v : Vals) (x : Word) (r : List Word),
    srcQueue a = some q ∧ noLink s.me a = none ∧ Runs (Instr.qpeek h (Opd.g k) a) s v s1 ∧
    (∀ w, w ∈ (s.core s.me).qwait → w.1 = q → w.2 = s.mx) ∧ readable ((s.core s.me).queue q) = x :: r :=
  ⟨h0, 1, (.q 0), 0, twoEntries, s1 qp twoEntries, vs qp twoEntries, 7#64, [8#64], (by decide +kernel), (by decide +kernel),
    runs_of (by decide +kernel), (by decide +kernel), (by decide +kernel)⟩

/-! Clauses whose premise names an unstated value or every instruction but two. -/

/-- A slice whose comparison comes out at `x`, whatever the drift is. -/
def drifted (x : Int) : State := { s0 with slices := [(0, { skew := x - Config.skewOf s0.tick })] }

theorem drifted_skew (x : Int) : x = ((drifted x).slice 0).skew + Config.skewOf (drifted x).tick := by
  show x = x - Config.skewOf s0.tick + Config.skewOf s0.tick
  omega

theorem witness_LeaseClockSteps_near :
    ∃ (s : State) (n : Nat) (x : Int), x = (s.slice n).skew + Config.skewOf s.tick ∧ (-1 ≤ x ∧ x ≤ 1) :=
  ⟨drifted 1, 0, 1, drifted_skew 1, (by decide)⟩

theorem witness_LeaseClockSteps_apart :
    ∃ (s : State) (n : Nat) (x : Int), x = (s.slice n).skew + Config.skewOf s.tick ∧ ¬ (-1 ≤ x ∧ x ≤ 1) :=
  ⟨drifted 2, 0, 2, drifted_skew 2, (by decide)⟩

def taskAdd : Instr := .add h0 (.g 1) (.g 2) (.g 3)

theorem witness_IssueTraps_taskMode :
    ∃ (i : Instr) (f : Frame) (t : Ctx), frameOf i = some f ∧ t.mode = 0 ∧
    (∀ h d na nb, i ≠ .sysrd h d na nb ∧ i ≠ .syswr h d na nb) :=
  ⟨taskAdd, (frameOf taskAdd).getD { h := h0 }, { status := 0#64 }, rfl, (by decide +kernel),
    by intro h d na nb; exact ⟨(fun e => by cases e), (fun e => by cases e)⟩⟩

end T37


/-! Every instruction runs somewhere: one well-formed instruction of each constructor, with the form that its statement names, in
a state in which all of them run. -/

/-- A system-mode thread of space 1 in group 1, whose group holds eight vector blocks and all accumulators; g2 = 0x40, g3 = 1. -/
def runCtx : Ctx :=
  { cstate := .active, g := [(2, 0x40#64), (3, 1#64)], pc := 0x1000#64, status := 0x0001440000000000#64 }
def runState : State :=
  { cores := [(0, { ctxs := [(0, runCtx)], groups := [(0, { members := [0], accs := 0xFF, blocks := 8 })] })] }

theorem each_runs {p : Instr → Bool} {l : List Instr} (h : (l.all fun i => p i && (i.wf && runsB i runState)) = true) :
    ∀ i, i ∈ l → p i = true ∧ i.wf = true ∧ Runs i runState (vs i runState) (s1 i runState) := by
  intro i hi
  have h1 := List.all_eq_true.mp h i hi
  simp only [Bool.and_eq_true] at h1
  exact ⟨h1.1, h1.2.1, runs_of h1.2.2⟩

def arithmeticInstrs : List Instr :=
  [.add h0 (.g 1) (.g 2) (.g 3),
    .sub h0 (.g 1) (.g 2) (.g 3),
    .mul h0 (.g 1) (.g 2) (.g 3),
    .mulhI64 h0 (.g 1) (.g 2) (.g 3),
    .mulhN64 h0 (.g 1) (.g 2) (.g 3),
    .divI64 h0 (.g 1) (.g 2) (.g 3),
    .divN64 h0 (.g 1) (.g 2) (.g 3),
    .remI64 h0 (.g 1) (.g 2) (.g 3),
    .remN64 h0 (.g 1) (.g 2) (.g 3),
    .minI64 h0 (.g 1) (.g 2) (.g 3),
    .minN64 h0 (.g 1) (.g 2) (.g 3),
    .maxI64 h0 (.g 1) (.g 2) (.g 3),
    .maxN64 h0 (.g 1) (.g 2) (.g 3),
    .addsX1 h0 (.g 1) (.g 2) (.g 3),
    .addsX2 h0 (.g 1) (.g 2) (.g 3),
    .addsX4 h0 (.g 1) (.g 2) (.g 3),
    .addsX8 h0 (.g 1) (.g 2) (.g 3),
    .add32 h0 false (.g 1) (.g 2) (.g 3),
    .sub32 h0 false (.g 1) (.g 2) (.g 3),
    .mul32 h0 false (.g 1) (.g 2) (.g 3),
    .mulhI32 h0 (.g 1) (.g 2) (.g 3),
    .mulhN32 h0 (.g 1) (.g 2) (.g 3),
    .divI32 h0 (.g 1) (.g 2) (.g 3),
    .divN32 h0 (.g 1) (.g 2) (.g 3),
    .remI32 h0 (.g 1) (.g 2) (.g 3),
    .remN32 h0 (.g 1) (.g 2) (.g 3),
    .minI32 h0 (.g 1) (.g 2) (.g 3),
    .minN32 h0 (.g 1) (.g 2) (.g 3),
    .maxI32 h0 (.g 1) (.g 2) (.g 3),
    .maxN32 h0 (.g 1) (.g 2) (.g 3)]

theorem witness_each_arithmetic : ∀ i, i ∈ arithmeticInstrs →
    ((alu64 i).isSome || (alu32 i).isSome) = true ∧ i.wf = true ∧ Runs i runState (vs i runState) (s1 i runState) :=
  each_runs (p := fun i => (alu64 i).isSome || (alu32 i).isSome) (by decide +kernel)

def logicInstrs : List Instr :=
  [.and h0 (.g 1) (.g 2) (.g 3),
    .or h0 (.g 1) (.g 2) (.g 3),
    .xor h0 (.g 1) (.g 2) (.g 3),
    .andn h0 (.g 1) (.g 2) (.g 3),
    .shl h0 (.g 1) (.g 2) (.g 3),
    .shr h0 (.g 1) (.g 2) (.g 3),
    .sha h0 (.g 1) (.g 2) (.g 3),
    .rol h0 (.g 1) (.g 2) (.g 3),
    .clz h0 (.g 1) (.g 2),
    .ctz h0 (.g 1) (.g 2),
    .popc h0 (.g 1) (.g 2),
    .mov h0 (.g 1) (.g 2),
    .bfx h0 (.g 1) (.g 2) (.g 3),
    .bfi h0 (.g 1) (.g 2) (.g 3),
    .sextI8 h0 (.g 1) (.g 2),
    .sextI16 h0 (.g 1) (.g 2),
    .sextI32 h0 (.g 1) (.g 2),
    .zextN8 h0 (.g 1) (.g 2),
    .zextN16 h0 (.g 1) (.g 2),
    .zextN32 h0 (.g 1) (.g 2),
    .sel h0 2 (.g 1) (.g 2) (.g 3),
    .addImm h0 (.g 1) (.g 2) 2,
    .andImm h0 (.g 1) (.g 2) 2,
    .orImm h0 (.g 1) (.g 2) 2,
    .xorImm h0 (.g 1) (.g 2) 2,
    .shlImm h0 (.g 1) (.g 2) 2,
    .shrImm h0 (.g 1) (.g 2) 2,
    .shaImm h0 (.g 1) (.g 2) 2,
    .li h0 (.g 1) 2]

theorem witness_each_logic : ∀ i, i ∈ logicInstrs →
    ((aluLogic i).isSome) = true ∧ i.wf = true ∧ Runs i runState (vs i runState) (s1 i runState) :=
  each_runs (p := fun i => (aluLogic i).isSome) (by decide +kernel)

def predicatesInstrs : List Instr :=
  [.cmpSigned h0 2 2 2 (.g 2) (.g 3),
    .cmpUnsigned h0 2 2 2 (.g 2) (.g 3),
    .cmpFloat h0 false 2 2 (.g 2) (.g 3),
    .pand h0 2 2 2,
    .por h0 2 2 2,
    .pxor h0 2 2 2,
    .pnot h0 2 2]

theorem witness_each_predicates : ∀ i, i ∈ predicatesInstrs →
    true = true ∧ i.wf = true ∧ Runs i runState (vs i runState) (s1 i runState) :=
  each_runs (p := fun _ => true) (by decide +kernel)

def controlInstrs : List Instr :=
  [.br h0 2,
    .callOffset h0 2,
    .loop h0 (.g 1) 2,
    .jmp h0 (.g 2),
    .callReg h0 (.g 1) (.g 2),
    .ret h0 (.g 2),
    .exit h0,
    .yield h0,
    .nop h0,
    .qtry h0 (.g 1) (.q 0) (.g 3),
    .qcount h0 (.g 1) (.q 0),
    .qpeek h0 (.g 1) (.q 0)]

theorem witness_each_control : ∀ i, i ∈ controlInstrs →
    (true) = true ∧ i.wf = true ∧ Runs i runState (vs i runState) (s1 i runState) :=
  each_runs (p := fun i => true) (by decide +kernel)

def memoryInstrs : List Instr :=
  [.ld h0 2 false 2 (.g 1) (.g 2) 2 none,
    .st h0 2 2 (.g 1) (.g 2) 2 none,
    .ldx h0 2 false 2 (.g 1) (.g 2) (.g 3) none,
    .stx h0 2 2 (.g 1) (.g 2) (.g 3) none]

theorem witness_each_memory : ∀ i, i ∈ memoryInstrs →
    ((loadForm i).isSome || (storeForm i).isSome) = true ∧ i.wf = true ∧ Runs i runState (vs i runState) (s1 i runState) :=
  each_runs (p := fun i => (loadForm i).isSome || (storeForm i).isSome) (by decide +kernel)

def atomicsInstrs : List Instr :=
  [.aadd h0 2 (.g 1) (.g 2) (.g 3) ⟨.i32, false, 0, 0, 0⟩,
    .amin h0 2 (.g 1) (.g 2) (.g 3) ⟨.i32, false, 0, 0, 0⟩,
    .amax h0 2 (.g 1) (.g 2) (.g 3) ⟨.i32, false, 0, 0, 0⟩,
    .aand h0 2 (.g 1) (.g 2) (.g 3) ⟨.i32, false, 0, 0, 0⟩,
    .aor h0 2 (.g 1) (.g 2) (.g 3) ⟨.i32, false, 0, 0, 0⟩,
    .axor h0 2 (.g 1) (.g 2) (.g 3) ⟨.i32, false, 0, 0, 0⟩,
    .aswap h0 2 (.g 1) (.g 2) (.g 3) ⟨.i32, false, 0, 0, 0⟩,
    .acas h0 0 (.g 1) (.g 2) (.g 3) ⟨.i32, false, 0, 0, 0⟩]

theorem witness_each_atomics : ∀ i, i ∈ atomicsInstrs →
    ((atomicForm i).isSome) = true ∧ i.wf = true ∧ Runs i runState (vs i runState) (s1 i runState) :=
  each_runs (p := fun i => (atomicForm i).isSome) (by decide +kernel)

def countersInstrs : List Instr :=
  [.cadd h0 2 (.lc 3) (.g 3),
    .cfadd h0 2 (.g 1) (.lc 3) (.g 3),
    .cwait h0 2 2 (.lc 3) (.g 3) none,
    .cpoll h0 2 2 (.lc 3) (.g 3),
    .cread h0 2 (.g 1) (.lc 3),
    .fenceAcq h0 2,
    .fenceRel h0 2,
    .fenceAr h0 2,
    .fenceSc h0 2,
    .clean h0 (.g 2) (.g 3),
    .inval h0 (.g 2) (.g 3),
    .flush h0 (.g 2) (.g 3),
    .pref h0 2 (.g 2) (.g 3),
    .ownrel h0 (.g 2) (.g 3)]

theorem witness_each_counters : ∀ i, i ∈ countersInstrs →
    (true) = true ∧ i.wf = true ∧ Runs i runState (vs i runState) (s1 i runState) :=
  each_runs (p := fun i => true) (by decide +kernel)

def systemInstrs : List Instr :=
  [.sysrd h0 (.g 1) 2 2,
    .syswr h0 (.g 1) 2 2,
    .svc h0 (.g 2),
    .brk h0 (.g 2),
    .eret h0,
    .suspendL h0 (.g 1) (.g 2),
    .suspendF h0 (.g 1) (.g 2) (.g 3),
    .resume h0 (.g 1) (.g 2) (.g 3),
    .leasewait h0 (.g 1) (.g 2),
    .rdclk h0 (.g 1),
    .ident h0 (.g 1) (.g 2),
    .ifence h0,
    .fltDone h0 (.g 1) (.g 2) (.g 3),
    .pmove h0 (.g 1) (.g 2),
    .pzero h0 (.g 1) (.g 2) (.g 3)]

theorem witness_each_system : ∀ i, i ∈ systemInstrs →
    (true) = true ∧ i.wf = true ∧ Runs i runState (vs i runState) (s1 i runState) :=
  each_runs (p := fun i => true) (by decide +kernel)

def elementsInstrs : List Instr :=
  [.vadd h0 (.g 0) ⟨1, 2, 3, 0, 0, .i8, 0, false, false, 0, 0, 0⟩,
    .vsub h0 (.g 0) ⟨1, 2, 3, 0, 0, .i8, 0, false, false, 0, 0, 0⟩,
    .vmul h0 (.g 0) ⟨1, 2, 3, 0, 0, .i8, 0, false, false, 0, 0, 0⟩,
    .vmin h0 (.g 0) ⟨1, 2, 3, 0, 0, .i8, 0, false, false, 0, 0, 0⟩,
    .vmax h0 (.g 0) ⟨1, 2, 3, 0, 0, .i8, 0, false, false, 0, 0, 0⟩,
    .vfma h0 (.g 0) ⟨1, 2, 3, 0, 0, .i8, 0, false, false, 0, 0, 0⟩,
    .vabs h0 ⟨1, 2, 0, 0, 0, .i8, 0, false, false, 0, 0, 0⟩,
    .vneg h0 ⟨1, 2, 0, 0, 0, .i8, 0, false, false, 0, 0, 0⟩,
    .vrcp h0 ⟨1, 2, 0, 0, 0, .f32, 0, false, false, 0, 0, 0⟩,
    .vrsqrt h0 ⟨1, 2, 0, 0, 0, .f32, 0, false, false, 0, 0, 0⟩,
    .vexp2 h0 ⟨1, 2, 0, 0, 0, .f32, 0, false, false, 0, 0, 0⟩,
    .vlog2 h0 ⟨1, 2, 0, 0, 0, .f32, 0, false, false, 0, 0, 0⟩,
    .vcvt h0 .f32 ⟨1, 2, 0, 0, 0, .i8, 0, false, false, 0, 0, 0⟩,
    .vand h0 (.g 0) ⟨1, 2, 3, 0, 0, .i8, 0, false, false, 0, 0, 0⟩,
    .vor h0 (.g 0) ⟨1, 2, 3, 0, 0, .i8, 0, false, false, 0, 0, 0⟩,
    .vxor h0 (.g 0) ⟨1, 2, 3, 0, 0, .i8, 0, false, false, 0, 0, 0⟩,
    .vshl h0 (.g 0) ⟨1, 2, 3, 0, 0, .i8, 0, false, false, 0, 0, 0⟩,
    .vshr h0 (.g 0) ⟨1, 2, 3, 0, 0, .i8, 0, false, false, 0, 0, 0⟩,
    .vsha h0 (.g 0) ⟨1, 2, 3, 0, 0, .i8, 0, false, false, 0, 0, 0⟩,
    .vsel h0 (.g 0) ⟨1, 2, 3, 0, 0, .i8, 0, false, false, 0, 0, 0⟩,
    .vscan h0 (.g 0) ⟨1, 2, 0, 0, 0, .i8, 0, false, false, 0, 0, 0⟩,
    .vperm h0 ⟨1, 2, 3, 0, 0, .i8, 0, false, false, 0, 0, 0⟩,
    .vbcast h0 (.g 0) ⟨1, 0, 0, 0, 0, .i8, 0, false, false, 0, 0, 0⟩,
    .vins h0 (.g 0) (.g 3) ⟨1, 0, 0, 0, 0, .i8, 0, false, false, 0, 0, 0⟩,
    .vcb h0 ⟨1, 2, 3, 0, 0, .i8, 0, false, false, 0, 0, 0⟩]

theorem witness_each_elements : ∀ i, i ∈ elementsInstrs →
    (match vecForm i with | some r => r.regs.all fun k => decide (k < 64) | none => false) = true ∧ i.wf = true ∧ Runs i runState (vs i runState) (s1 i runState) :=
  each_runs (p := fun i => match vecForm i with | some r => r.regs.all fun k => decide (k < 64) | none => false) (by decide +kernel)

def vectorsInstrs : List Instr :=
  [.vcmp h0 2 (.g 0) ⟨1, 2, 3, 0, 0, .i8, 0, false, false, 0, 0, 0⟩,
    .vredAdd h0 (.g 1) ⟨0, 2, 0, 0, 0, .i8, 0, false, false, 0, 0, 0⟩,
    .vredMax h0 (.g 1) ⟨0, 2, 0, 0, 0, .i8, 0, false, false, 0, 0, 0⟩,
    .vredMin h0 (.g 1) ⟨0, 2, 0, 0, 0, .i8, 0, false, false, 0, 0, 0⟩,
    .vext h0 (.g 1) (.g 3) ⟨0, 2, 0, 0, 0, .i8, 0, false, false, 0, 0, 0⟩,
    .vldT h0 (.g 0) (.g 3) ⟨1, 2, 0, 0, 0, .i8, 0, false, false, 0, 0, 0⟩,
    .vstT h0 (.g 0) (.g 3) ⟨1, 2, 0, 0, 0, .i8, 0, false, false, 0, 0, 0⟩,
    .vld h0 (.g 0) (.g 3) ⟨1, 0, 0, 0, 0, .i8, 0, false, false, 0, 0, 0⟩,
    .vst h0 (.g 0) (.g 3) ⟨1, 0, 0, 0, 0, .i8, 0, false, false, 0, 0, 0⟩,
    .vgath h0 (.g 0) ⟨1, 0, 3, 0, 0, .i8, 0, false, false, 0, 0, 0⟩,
    .vscat h0 (.g 0) ⟨1, 0, 3, 0, 0, .i8, 0, false, false, 0, 0, 0⟩,
    .vclaim h0 (.g 2),
    .vtry h0 (.g 2),
    .vyield h0 (.g 2)]

theorem witness_each_vectors : ∀ i, i ∈ vectorsInstrs →
    (true) = true ∧ i.wf = true ∧ Runs i runState (vs i runState) (s1 i runState) :=
  each_runs (p := fun i => true) (by decide +kernel)

def tilesInstrs : List Instr :=
  [.talloc h0 (.g 1) (.g 2) 2,
    .tfree h0 2,
    .tinfo h0 (.g 1) (.g 3) 2,
    .tzero h0 (.g 2) (.g 3) 2,
    .tempty h0 (.g 2) (.g 3) 2,
    .rpush h0 (.g 1) 2,
    .rpop h0 (.g 1) 2,
    .rwait h0 (.g 3) (.g 3) 2,
    .rstate h0 (.g 1) 2,
    .mmaBf16 h0 (.g 2) (.g 3) ⟨2, 1, 2, 0, .bf16, false, false, false, 0, 0⟩,
    .mmaI8 h0 (.g 2) (.g 3) ⟨2, 1, 2, 0, .i8, false, false, false, 0, 0⟩,
    .mmaCb h0 (.g 2) (.g 3) ⟨2, 1, 2, 0, .c4, false, false, false, 0, 0⟩,
    .mmaSp h0 (.g 2) (.g 3) ⟨2, 1, 2, 0, .bf16, false, false, false, 0, 0⟩,
    .azero h0 ⟨2, 0, .i8, 0, false, false⟩,
    .aload h0 (.g 2) ⟨2, 1, .bf16, 0, false, false⟩,
    .astore h0 (.g 2) ⟨2, 1, .bf16, 0, false, false⟩,
    .adrain h0 (.g 2) (.g 3) ⟨2, 1, .bf16, 0, false, false⟩,
    .kload h0 (.g 2) (.g 3) ⟨2, 1, .bf16, true⟩]

theorem witness_each_tiles : ∀ i, i ∈ tilesInstrs →
    (true) = true ∧ i.wf = true ∧ Runs i runState (vs i runState) (s1 i runState) :=
  each_runs (p := fun i => true) (by decide +kernel)

def commandsInstrs : List Instr :=
  [.cpy h0 (.g 1) (.g 2) none,
    .cpyMma h0 (.g 1) (.g 2) none,
    .cpyr h0 (.g 1) (.g 2) none,
    .cpystat h0 (.g 1) (.g 2),
    .spawn h0 (.g 1) (.g 2) none,
    .job h0 (.g 1) (.g 2) (.g 3) none,
    .launch h0 (.g 1) (.g 2) none,
    .send h0 (.g 2) (.g 3) ⟨false, false, 0⟩ false 2 2,
    .replay h0 (.g 2),
    .mpop h0 (.g 1) (.g 2),
    .roam h0 (.g 1) (.g 2),
    .migrate h0 (.g 1) (.g 2),
    .nmcast h0 (.g 2) (.g 3) ⟨false, false, 0⟩ 2 2,
    .nred h0 (.g 2) ⟨false, false, 0⟩ 2 0 2 2,
    .nbComb h0 (.g 2) none,
    .nbFill h0 (.g 2) none,
    .nbRed h0 (.g 2) none,
    .nbStat h0 (.g 1) (.g 2),
    .xcfg h0 (.g 1) (.g 2) (.g 3),
    .xroute h0 (.g 1) (.g 2) (.g 3) none,
    .xcombine h0 (.g 1) (.g 2) (.g 3) none,
    .xstat h0 (.g 1) (.g 2) (.g 3),
    .xresume h0 (.g 1) (.g 2),
    .xabort h0 (.g 1) (.g 2)]

theorem witness_each_commands : ∀ i, i ∈ commandsInstrs →
    (true) = true ∧ i.wf = true ∧ Runs i runState (vs i runState) (s1 i runState) :=
  each_runs (p := fun i => true) (by decide +kernel)

/-! Words of the examples of 10 R215, 11 R229 and R230, 12 R245 and 15 Table 15.2, against the instructions that the spec says they are. -/

/-- `ld.d g1, [g4 + 16]`. -/
theorem test_decode_ld_d : decodeTableWord 32 0xC0881060 = some (.ld h0 3 false 0 (.g 1) (.g 4) 2 none) := by decide +kernel

/-- `(!c3) add g2, g2, 5`. -/
theorem test_decode_add_imm : decodeTableWord 32 0x1442B20 = some (.addImm { h0 with pneg := true, pred := 3 } (.g 2) (.g 2) 5) := by decide +kernel

/-- `li g3, 0x123456789ABC`. -/
theorem test_decode_mov_literal : decodeTableWord 96 0x123456789ABC583A300D = some (.mov { h0 with lit := some 0x123456789ABC#64 } (.g 3) .lit) := by decide +kernel

/-- `(c2) br 12 bytes back`. -/
theorem test_decode_br : decodeTableWord 32 0xFFFFD250 = some (.br { h0 with pred := 2 } 0xFFFFD) := by decide +kernel

/-- `vadd.f32 v2, v0, v1`. -/
theorem test_decode_vadd : decodeTableWord 96 0x800400800000082 = some (.vadd h0 (.g 0) ⟨2, 0, 1, 0, 0, .f32, 0, false, false, 0, 0, 0⟩) := by decide +kernel

/-- `nop`. -/
theorem test_decode_nop : decodeTableWord 32 0x2800005C = some (.nop h0) := by decide +kernel

/-- `xcfg g1, [g4], g2`. -/
theorem test_decode_xcfg : decodeTableWord 32 0x8810F0 = some (.xcfg h0 (.g 1) (.g 4) (.g 2)) := by decide +kernel

/-- `xroute.acq.rel.sys g1, [g4], z`. -/
theorem test_decode_xroute : decodeTableWord 96 0xF000000000F0810F2 = some (.xroute h0 (.g 1) (.g 4) .z (some ⟨true, true, 3⟩)) := by decide +kernel

/-- `xcombine.rel.cube g3, [g5], g2`. -/
theorem test_decode_xcombine : decodeTableWord 96 0xA00000000108A30F2 = some (.xcombine h0 (.g 3) (.g 5) (.g 2) (some ⟨false, true, 2⟩)) := by decide +kernel

/-- `xstat g2, g1, 0x1005`. -/
theorem test_decode_xstat : decodeTableWord 96 0x10051F4220F1 = some (.xstat { h0 with lit := some 0x1005#64 } (.g 2) (.g 1) .lit) := by decide +kernel

/-- `xabort z, g2`. -/
theorem test_decode_xabort : decodeTableWord 32 0x2805C0F0 = some (.xabort h0 .z (.g 2)) := by decide +kernel

/-- `mulh.n64 g3, g4, g5`. -/
theorem test_decode_mulh : decodeTableWord 32 0x21483004 = some (.mulhN64 h0 (.g 3) (.g 4) (.g 5)) := by decide +kernel

/-- `div.i32 g1, g2, g3`. -/
theorem test_decode_div32 : decodeTableWord 32 0x28C41008 = some (.divI32 h0 (.g 1) (.g 2) (.g 3)) := by decide +kernel

/-- `shl g2, g3, 7`. -/
theorem test_decode_shl_imm : decodeTableWord 32 0x1C62030 = some (.shlImm h0 (.g 2) (.g 3) 7) := by decide +kernel

/-- `sel g8, c3, g1, g2`. -/
theorem test_decode_sel : decodeTableWord 32 0xD882800C = some (.sel h0 3 (.g 8) (.g 1) (.g 2)) := by decide +kernel

/-- `cmp.lt.n32 c2, g6, g7`. -/
theorem test_decode_cmp : decodeTableWord 32 0x91CC2044 = some (.cmpUnsigned h0 2 2 2 (.g 6) (.g 7)) := by decide +kernel

/-- `pnot c4, c2`. -/
theorem test_decode_pnot : decodeTableWord 32 0x1804404C = some (.pnot h0 4 2) := by decide +kernel

/-- `call 64 bytes on`. -/
theorem test_decode_call : decodeTableWord 32 0x10054 = some (.callOffset h0 16) := by decide +kernel

/-- `qtry g1, q2, z`. -/
theorem test_decode_qtry : decodeTableWord 32 0x3724105C = some (.qtry h0 (.g 1) (.q 2) .z) := by decide +kernel

/-- `sysrd g1, FPFLAGS`. -/
theorem test_decode_sysrd : decodeTableWord 32 0x2107C = some (.sysrd h0 (.g 1) 1 0) := by decide +kernel

/-- `syswr MAP_CMD, g4`. -/
theorem test_decode_syswr : decodeTableWord 32 0x908407C = some (.syswr h0 (.g 4) 4 4) := by decide +kernel

/-- `ldx.w.sx g3, [g4 + g5 * 4]`. -/
theorem test_decode_ldx : decodeTableWord 32 0xA1483068 = some (.ldx h0 2 true 0 (.g 3) (.g 4) (.g 5) none) := by decide +kernel

/-- `st.w.own [g4 + 8], g6`. -/
theorem test_decode_st : decodeTableWord 32 0x98886064 = some (.st h0 2 3 (.g 6) (.g 4) 2 none) := by decide +kernel

/-- `fence.rel.cube`. -/
theorem test_decode_fence : decodeTableWord 32 0x30000078 = some (.fenceRel h0 2) := by decide +kernel

/-- `clean g4, g5`. -/
theorem test_decode_clean : decodeTableWord 32 0x81480078 = some (.clean h0 (.g 4) (.g 5)) := by decide +kernel

/-- `cadd.core lc3, g2`. -/
theorem test_decode_cadd : decodeTableWord 32 0xA60074 = some (.cadd h0 0 (.lc 3) (.g 2)) := by decide +kernel

/-- `cwait.sys [g8], 1, 4`. -/
theorem test_decode_cwait : decodeTableWord 96 0x1D7504075 = some (.cwait { h0 with lit := some 1#64 } 3 4 (.mem 8) .lit none) := by decide +kernel

/-- `aadd.ret.n64 g2, [g4], g5`. -/
theorem test_decode_aadd : decodeTableWord 96 0x741482072 = some (.aadd h0 1 (.g 2) (.g 4) (.g 5) ⟨.n64, false, 0, 0, 0⟩) := by decide +kernel

/-! WellFormed refuses an ill-formed term of each of its checks (10 R202 to R210; the ILLEGAL_ENCODING rules of 11 to 15). -/

def illFormed : List Instr := [
  .add { h0 with pneg := true } (.g 1) (.g 2) (.g 3),
  .add { h0 with lit := some 5#64 } (.g 1) (.g 2) (.g 3),
  .li { h0 with lit := some 5#64 } (.g 1) 0,
  .sysrd h0 (.g 1) 12 0,
  .qtry h0 (.q 1) (.q 0) (.g 2),
  .qpeek h0 (.g 1) (.g 2),
  .qtry h0 (.g 1) (.q 0) (.q 1),
  .sel h0 0 (.g 1) (.g 2) (.g 3),
  .cmpSigned h0 0 6 1 (.g 2) (.g 3),
  .ld h0 3 true 0 (.g 1) (.g 2) 0 none,
  .cwait h0 0 3 (.lc 1) (.g 2) (some 5),
  .cwait { h0 with pneg := true } 0 0 (.lc 1) (.g 2) none,
  .aadd h0 0 (.g 1) (.g 2) (.g 3) ⟨.i32, false, 0, 0, 0⟩,
  .aand h0 0 (.g 0) (.g 2) (.g 3) ⟨.f32, false, 0, 0, 0⟩,
  .acas h0 2 (.g 1) (.g 2) (.g 3) ⟨.i32, false, 0, 0, 0⟩,
  .vadd h0 (.g 1) ⟨1, 2, 3, 0, 0, .f32, 0, false, false, 0, 0, 0⟩,
  .vadd h0 (.g 1) ⟨1, 2, 3, 0, 0, .f32, 0, true, false, 0, 0, 0⟩,
  .vadd h0 (.g 0) ⟨1, 2, 3, 0, 0, .f32, 0, false, true, 0, 0, 0⟩,
  .vadd h0 (.g 0) ⟨1, 2, 3, 0, 0, .i32, 1, false, false, 0, 0, 0⟩,
  .vadd h0 (.g 0) ⟨1, 2, 3, 4, 0, .i32, 0, false, false, 0, 0, 0⟩,
  .vmin h0 (.g 0) ⟨1, 2, 3, 0, 0, .f32, 1, false, false, 0, 0, 0⟩,
  .vabs h0 ⟨1, 2, 3, 0, 0, .f32, 0, false, false, 0, 0, 0⟩,
  .vrcp h0 ⟨1, 2, 0, 0, 0, .i32, 0, false, false, 0, 0, 0⟩,
  .vcvt h0 .f32 ⟨1, 2, 0, 0, 0, .f32, 0, false, false, 0, 0, 0⟩,
  .vand h0 (.g 0) ⟨1, 2, 3, 0, 0, .f32, 0, false, false, 0, 0, 0⟩,
  .vcmp h0 6 (.g 0) ⟨1, 2, 3, 0, 0, .i8, 0, false, false, 0, 0, 0⟩,
  .vcmp h0 1 (.g 0) ⟨8, 2, 3, 0, 0, .i8, 0, false, false, 0, 0, 0⟩,
  .vsel h0 (.g 0) ⟨1, 2, 3, 8, 0, .i8, 0, false, false, 0, 0, 0⟩,
  .vredAdd h0 (.g 1) ⟨1, 2, 0, 0, 0, .i8, 0, false, false, 0, 0, 0⟩,
  .vscan h0 (.g 1) ⟨1, 2, 3, 0, 0, .i8, 0, false, false, 0, 0, 0⟩,
  .vperm h0 ⟨1, 2, 3, 4, 0, .i8, 0, false, false, 0, 0, 0⟩,
  .vbcast h0 (.g 1) ⟨1, 2, 0, 0, 0, .i8, 0, false, false, 0, 0, 0⟩,
  .vext h0 (.g 1) (.g 2) ⟨0, 2, 0, 0, 1, .i8, 0, false, false, 0, 0, 0⟩,
  .vins h0 (.g 1) (.g 2) ⟨1, 2, 0, 0, 0, .i8, 0, false, false, 0, 0, 0⟩,
  .vldT h0 (.g 1) (.g 2) ⟨1, 2, 3, 0, 0, .i8, 0, false, false, 0, 0, 0⟩,
  .vld h0 (.g 1) (.g 2) ⟨1, 2, 0, 0, 0, .i8, 0, false, false, 0, 0, 0⟩,
  .vgath h0 (.g 1) ⟨1, 2, 3, 0, 0, .i8, 0, false, false, 0, 0, 0⟩,
  .vcb h0 ⟨1, 2, 8, 0, 0, .bf16, 0, false, false, 0, 0, 0⟩,
  .vcb h0 ⟨1, 2, 3, 0, 0, .f32, 0, false, false, 0, 0, 0⟩,
  .mmaBf16 h0 (.g 1) (.g 2) ⟨8, 1, 2, 0, .bf16, false, false, false, 0, 0⟩,
  .mmaBf16 h0 (.g 1) (.g 2) ⟨2, 1, 2, 0, .bf16, false, false, false, 3, 0⟩,
  .mmaI8 h0 (.g 1) (.g 2) ⟨2, 1, 2, 0, .i8, false, true, false, 3, 0⟩,
  .mmaCb h0 (.g 1) (.g 2) ⟨2, 1, 2, 0, .bf16, false, false, false, 0, 0⟩,
  .mmaSp h0 (.g 1) (.g 2) ⟨2, 1, 2, 1, .bf16, false, false, false, 0, 0⟩,
  .azero h0 ⟨8, 0, .i8, 0, false, false⟩,
  .aload h0 (.g 1) ⟨1, 2, .n8, 0, false, false⟩,
  .astore h0 (.g 1) ⟨1, 2, .f32, 0, true, false⟩,
  .adrain h0 (.g 1) (.g 2) ⟨1, 2, .i64, 0, false, false⟩,
  .kload h0 (.g 1) (.g 2) ⟨8, 2, .bf16, true⟩,
  .nred h0 (.g 1) ⟨false, false, 0⟩ 1 7 0 0]

theorem test_wf_refuses : ∀ i, i ∈ illFormed → i.wf = false :=
  fun i hi => by simpa using List.all_eq_true.mp (show (illFormed.all fun i => !i.wf) = true by decide +kernel) i hi

theorem test_wf_accepts : (Instr.add h0 (.g 1) (.g 2) (.g 3)).wf = true := by decide

/-! Results of the spec's examples: 11 R220, R222, R223; 09 R182. -/

/-- The value of g1 after an instruction on g2 = `a`, g3 = `b`. -/
def resultOf (i : Instr) (a b : Word) : Option Word :=
  match exec i { cores := [(0, { ctxs := [(0, { runCtx with g := [(2, a), (3, b)] })] })] } with
  | .next t => some (t.cx.getG 1)
  | _ => none


theorem test_mulh_i64 : resultOf (.mulhI64 h0 (.g 1) (.g 2) (.g 3)) 0xFFFFFFFFFFFFFFFF#64 2#64 = some 0xFFFFFFFFFFFFFFFF#64 := by decide +kernel

theorem test_mulh_n64 : resultOf (.mulhN64 h0 (.g 1) (.g 2) (.g 3)) 0xFFFFFFFFFFFFFFFF#64 2#64 = some 1#64 := by decide +kernel

theorem test_add_i32 : resultOf (.add32 h0 false (.g 1) (.g 2) (.g 3)) 0x7FFFFFFF#64 1#64 = some 0xFFFFFFFF80000000#64 := by decide +kernel

theorem test_add_n32 : resultOf (.add32 h0 true (.g 1) (.g 2) (.g 3)) 0xFFFFFFFF#64 1#64 = some 0#64 := by decide +kernel

theorem test_div_i32 : resultOf (.divI32 h0 (.g 1) (.g 2) (.g 3)) 0x180000000#64 0xFFFFFFFF#64 = some 0xFFFFFFFF80000000#64 := by decide +kernel

theorem test_div_n32 : resultOf (.divN32 h0 (.g 1) (.g 2) (.g 3)) 0x80000000#64 0#64 = some 0xFFFFFFFF#64 := by decide +kernel

theorem test_rem_i32 : resultOf (.remI32 h0 (.g 1) (.g 2) (.g 3)) 0x80000000#64 0#64 = some 0xFFFFFFFF80000000#64 := by decide +kernel

theorem test_div_i64 : resultOf (.divI64 h0 (.g 1) (.g 2) (.g 3)) 0xFFFFFFFFFFFFFFF9#64 2#64 = some 0xFFFFFFFFFFFFFFFD#64 := by decide +kernel

theorem test_rem_i64 : resultOf (.remI64 h0 (.g 1) (.g 2) (.g 3)) 0xFFFFFFFFFFFFFFF9#64 2#64 = some 0xFFFFFFFFFFFFFFFF#64 := by decide +kernel

theorem test_rem_n32 : resultOf (.remN32 h0 (.g 1) (.g 2) (.g 3)) 5#64 0#64 = some 5#64 := by decide +kernel

theorem test_bfx : resultOf (.bfx h0 (.g 1) (.g 2) (.g 3)) 0xF0A0#64 0x2208#64 = some 0xFFFFFFFFFFFFFFF0#64 := by decide +kernel

theorem test_bfx_unsigned : resultOf (.bfx h0 (.g 1) (.g 2) (.g 3)) 0xF0A0#64 0x0208#64 = some 0xF0#64 := by decide +kernel

theorem test_sha : resultOf (.sha h0 (.g 1) (.g 2) (.g 3)) 0x8000000000000000#64 65#64 = some 0xC000000000000000#64 := by decide +kernel

/-! Witnesses of the statements about decoding, steps and reset. -/

theorem witness_DecodeOfEncode_1 :
    ∃ i : Instr, i.wf = true ∧ encode i ≠ [] := ⟨.nop h0, by decide, by decide⟩

theorem witness_DecodedWordsAreTheEncoding_1 :
    ∃ (ws : List IWord) (w : IWord) (i : Instr), ws.head? = some w ∧ wordBytes w ≤ 4 * ws.length ∧ (decode ws).toOption = some i :=
  ⟨[0x2800005C#32], 0x2800005C#32, .nop h0, by decide +kernel⟩

/-- The next state of an outcome. -/
def nextOf (o : Host.Outcome State Fault Refusal) : State :=
  match o with
  | .next t => t
  | _ => State.reset

theorem next_of {o : Host.Outcome State Fault Refusal} (h : (match o with | .next _ => true | _ => false) = true) :
    o = .next (nextOf o) := by
  cases o with
  | next t => rfl
  | fault f => cases h
  | refused r => cases h

/-- The machine after reset with a `nop` where it fetches next. -/
def nopState : State := State.reset.withFetchWord 32 0x2800005C
def nopReady : State := (({ nopState.wakeTimers with cur := (0, 0), next := none } : State).descReady 0 0).getD State.reset
def nopWords : List IWord := ((nopReady.core 0).fetch (nopReady.ctx 0 0)).toOption.getD []

theorem ok_of {ε α : Type} {x : Except ε α} {d : α} (h : x.toOption.isSome = true) : x = .ok (x.toOption.getD d) := by
  cases x with
  | ok a => rfl
  | error e => cases h

theorem witness_StepRunsDecoded_1 :
    ∃ (s : State) (c x : Nat) (s1 : State) (ws : List IWord) (i : Instr) (t : State), s.next = some (c, x) ∧
      ({ s.wakeTimers with cur := (c, x), next := none } : State).descReady c x = some s1 ∧ (s1.ctx c x).cstate = .active ∧
      ((s.ctx c x).skew = none ∨ (s.ctx c x).held = true ∨ (s.ctx c x).got ≠ []) ∧ (s1.core c).fetch (s1.ctx c x) = .ok ws ∧
      (decode ws).toOption = some i ∧ exec i { s1 with ev := none } = .next t :=
  ⟨nopState, 0, 0, nopReady, nopWords, .nop h0, nextOf (exec (.nop h0) { nopReady with ev := none }), by decide +kernel,
    some_getD (by decide +kernel), by decide +kernel, by decide +kernel, ok_of (by decide +kernel), by decide +kernel,
    next_of (by decide +kernel)⟩

/-- The same with a word that encodes nothing. -/
def badState : State := State.reset.withFetchWord 32 0
def badReady : State := (({ badState.wakeTimers with cur := (0, 0), next := none } : State).descReady 0 0).getD State.reset
def badWords : List IWord := ((badReady.core 0).fetch (badReady.ctx 0 0)).toOption.getD []
def badDue : State := badReady.due (.illegalEncoding (nthD badWords 0 0#32) (nthD badWords 1 0#32) (nthD badWords 2 0#32))

theorem witness_StepRunsDecoded_2 :
    ∃ (s : State) (c x : Nat) (s1 : State) (ws : List IWord) (t : State), s.next = some (c, x) ∧
      ({ s.wakeTimers with cur := (c, x), next := none } : State).descReady c x = some s1 ∧ (s1.ctx c x).cstate = .active ∧
      ((s.ctx c x).skew = none ∨ (s.ctx c x).held = true ∨ (s.ctx c x).got ≠ []) ∧ (s1.core c).fetch (s1.ctx c x) = .ok ws ∧
      (decode ws).toOption = none ∧
      exec .illegalEncoding (s1.due (.illegalEncoding (nthD ws 0 0#32) (nthD ws 1 0#32) (nthD ws 2 0#32))) = .next t :=
  ⟨badState, 0, 0, badReady, badWords, nextOf (exec .illegalEncoding badDue), by decide +kernel, some_getD (by decide +kernel),
    by decide +kernel, by decide +kernel, ok_of (by decide +kernel), by decide +kernel, next_of (by decide +kernel)⟩

/-- A machine in which one step is due and no thread can issue: it would start again the walks that wait. -/
def dueState : State := { events := [.migrationDecay] }

/-- What a step that is due first runs. -/
def dueTurn (s : State) (e : Ev) : Ev × List Ev × State := s.wakeTimers.homeTurn e s.wakeTimers.events.tail

theorem witness_StepRunsDecoded_3 :
    ∃ (s : State) (e : Ev) (r : List Ev) (t : State), s.next = none ∧ s.events = e :: r ∧ s.wakeTimers.tripped = false ∧
      s.wakeTimers.choices = [] ∧ s.wakeTimers.homeArrival e = none ∧
      exec (dueTurn s e).1.instr { (dueTurn s e).2.2 with events := (dueTurn s e).2.1, ev := some (dueTurn s e).1 } = .next t :=
  ⟨dueState, .migrationDecay, [], nextOf (exec .migrationDecay { dueState with events := [], ev := some .migrationDecay }),
    by decide +kernel, by decide +kernel, by decide +kernel, by decide +kernel, by decide +kernel, next_of (by decide +kernel)⟩

/-- A machine in which a request has arrived at its home. -/
def arrived : State := { s0 with cubeSet := true, map := sb.map, cubeList := sb.cubeList, events := [.req (hr (.load 4 1 0))], cores := [] }

theorem witness_StepRunsDecoded_5 :
    ∃ (s : State) (e : Ev) (r : List Ev) (x : Nat × Nat), s.next = none ∧ s.events = e :: r ∧ s.wakeTimers.tripped = false ∧
      s.wakeTimers.choices = [] ∧ s.wakeTimers.homeArrival e = some x :=
  ⟨arrived, .req (hr (.load 4 1 0)), [], (arrived.wakeTimers.homeArrival (.req (hr (.load 4 1 0)))).getD (0, 0),
    by decide +kernel, by decide +kernel, by decide +kernel, by decide +kernel, some_getD (by decide +kernel)⟩

/-- A machine in which one thread can issue and no step is due. -/
def oneThread : State := { cores := [(0, { ctxs := [(0, { cstate := .active, status := setFld 0#64 47 46 2 })] })] }
def onePick : Nat × State := (oneThread.wakeTimers.issueSlot 0 0).getD (0, State.reset)

theorem witness_StepRunsDecoded_4 :
    ∃ (s : State) (p : Nat × Nat) (x : Nat) (s1 t : State), s.next = none ∧ s.wakeTimers.firstDue = none ∧
      s.wakeTimers.choices = [p] ∧ s.wakeTimers.issueSlot p.1 p.2 = some (x, s1) ∧ s1.issueThread p.1 x = .next t :=
  ⟨oneThread, (0, 0), onePick.1, onePick.2, nextOf (onePick.2.issueThread 0 onePick.1), by decide +kernel, by decide +kernel,
    by decide +kernel, some_getD (d := (0, State.reset)) (by decide +kernel), next_of (by decide +kernel)⟩

theorem witness_StepKeepsMemoryCanonical_1 :
    ∃ s : State, s.wf = true ∧ s.dense ≠ [] := ⟨{ dense := [(7, 1#8)] }, by decide +kernel, by decide⟩

/-- The machine fetches and decodes the instruction placed (the form that the host asks). -/
theorem test_fetch_placed : nopWords.head? = some 0x2800005C#32 := by decide +kernel

end Slice0
end

section
/-! SUPPORT. What a message that leaves a unit changes, and what a home line, its entries and the slots of the map hold after the
operations of 01 and 04 on them. -/

namespace Sys2Proof

theorem memRead_getElem (m : Tbl Byte) (a n k : Nat) (h : k < (memRead m a n).length) : (memRead m a n)[k] = memGet m (a + k) := by
  induction n generalizing a k with
  | zero => simp [memRead] at h
  | succ n ih =>
    cases k with
    | zero => rfl
    | succ k =>
      simp only [memRead, List.getElem_cons_succ, ih]
      congr 1; omega

/-- Bytes written are read back. -/
theorem memRead_memWrite (m : Tbl Byte) (a : Nat) (d : List Byte) : memRead (memWrite m a d) a d.length = d := by
  apply List.ext_getElem (by simp)
  intro k _ hk
  rw [memRead_getElem, memGet_memWrite m a k d hk]

end Sys2Proof

namespace Sys2Proof.Machine

/-! Messages. -/

/-- A message sent to another cube changes the router, the due steps and the timers. -/
theorem State.sendTracked_eq (s : State) (o : E2EOut) :
    ∃ f es ts, s.sendTracked o = { s with fabric := f, events := es, timers := ts } := by
  unfold State.sendTracked
  split
  · exact ⟨_, s.events, s.timers, rfl⟩
  · exact ⟨_, _, _, rfl⟩

/-- A message, whoever it is for, changes the router, the due steps and the timers. -/
theorem State.post_eq (s : State) (cube : Nat) (who : Agent) (id : Nat) (m : Msg) :
    ∃ f es ts, s.post cube who id m = { s with fabric := f, events := es, timers := ts } := by
  unfold State.post
  split
  · split
    · exact ⟨s.fabric, _, s.timers, rfl⟩
    · exact ⟨s.fabric, s.events, s.timers, rfl⟩
  · split
    · exact ⟨_, _, s.timers, rfl⟩
    · exact s.sendTracked_eq _

/-- A message to a unit of this cube is a due step there. -/
theorem State.mem_events_post_here (s : State) (who : Agent) (id : Nat) (m : Msg) (e : Ev) (he : msgEvent m = some e) :
    e ∈ (s.post s.cubeId who id m).events := by
  simp [State.post, he]

/-! What the homes of the cube hold. -/

/-- The homes of `t` hold what those of `s` hold: levels, entries, dense tier, poison and stubs. -/
structure HomesKept (s t : State) : Prop where
  slices : t.slices = s.slices
  dense : t.dense = s.dense
  poison : t.poison = s.poison
  stubs : t.stubs = s.stubs

theorem HomesKept.refl (s : State) : HomesKept s s := ⟨rfl, rfl, rfl, rfl⟩

theorem HomesKept.trans {s t u : State} (h : HomesKept s t) (h' : HomesKept t u) : HomesKept s u :=
  ⟨h'.slices.trans h.slices, h'.dense.trans h.dense, h'.poison.trans h.poison, h'.stubs.trans h.stubs⟩

theorem State.slice_of_slices {s t : State} (h : t.slices = s.slices) (k : Nat) : t.slice k = s.slice k := by
  rw [State.slice, State.slice, h]

theorem HomesKept.slice {s t : State} (h : HomesKept s t) (k : Nat) : t.slice k = s.slice k := State.slice_of_slices h.slices k

theorem HomesKept.homeLine {s t : State} (h : HomesKept s t) (line : Nat) : t.homeLine line = s.homeLine line := by
  unfold State.homeLine State.denseLine; rw [h.slice, h.slice, h.dense]

theorem State.post_homesKept (s : State) (cube : Nat) (who : Agent) (id : Nat) (m : Msg) :
    HomesKept s (s.post cube who id m) := by
  obtain ⟨f, es, ts, h⟩ := s.post_eq cube who id m
  rw [h]
  exact ⟨rfl, rfl, rfl, rfl⟩

theorem State.tagFrees_homesKept (s : State) (line : Nat) (l : List Nat) : HomesKept s (s.tagFrees line l) := by
  induction l generalizing s with
  | nil => exact .refl s
  | cons t r ih => exact (s.post_homesKept ..).trans (ih _)

theorem homesKept_foldl {α : Type} (f : State → α → State) (hf : ∀ s a, HomesKept s (f s a)) (l : List α) (s : State) :
    HomesKept s (l.foldl f s) := by
  induction l generalizing s with
  | nil => exact .refl s
  | cons a r ih => exact (hf s a).trans (ih _)

theorem State.endHold_homesKept (s : State) (line : Nat) : HomesKept s (s.endHold line) := by
  unfold State.endHold
  split
  · exact .refl s
  · exact ⟨rfl, rfl, rfl, rfl⟩

theorem State.dropJob_homesKept (s : State) (id : Nat) : HomesKept s (s.dropJob id) := ⟨rfl, rfl, rfl, rfl⟩

theorem State.updJob_homesKept (s : State) (id : Nat) (f : FrameJob → FrameJob) : HomesKept s (s.updJob id f) :=
  ⟨rfl, rfl, rfl, rfl⟩

theorem State.serveWatches_homesKept (s : State) (k : Nat) : HomesKept s (s.serveWatches k) := by
  unfold State.serveWatches
  split
  · exact .refl s
  · exact ⟨rfl, rfl, rfl, rfl⟩

/-! Slices and lines. -/

@[simp] theorem State.slice_updSlice (s : State) (k : Nat) (f : Slice → Slice) : (s.updSlice k f).slice k = f (s.slice k) := by
  simp [State.slice]

theorem State.slice_updSlice_ite (s : State) (k j : Nat) (f : Slice → Slice) :
    (s.updSlice k f).slice j = if j = k then f (s.slice k) else s.slice j := by
  simp [State.slice, tblGet_tblSet]

/-- Neither the L2 nor the fast tier has a copy of the line. -/
structure State.Uncached (s : State) (line : Nat) : Prop where
  l2 : ∀ c ∈ (s.slice (sliceOf line)).l2, c.line ≠ line
  fast : ∀ c ∈ (s.slice (vaultOf line)).fast, c.line ≠ line

/-- A line in no level is read in the dense tier (02 R31). -/
theorem State.Uncached.homeLine {s : State} {line : Nat} (h : s.Uncached line) : s.homeLine line = s.denseLine line := by
  have h2 : (s.slice (sliceOf line)).l2.find? (fun c => c.line == line) = none := by simpa using h.l2
  have hf : (s.slice (vaultOf line)).fast.find? (fun c => c.line == line) = none := by simpa using h.fast
  simp only [State.homeLine, h2, hf]

theorem State.Uncached.of_slices {s t : State} {line : Nat} (h : s.Uncached line) (hs : t.slices = s.slices) : t.Uncached line := by
  have hk := State.slice_of_slices hs
  exact ⟨by rw [hk]; exact h.l2, by rw [hk]; exact h.fast⟩

theorem State.Uncached.updSlice {s : State} {line : Nat} (h : s.Uncached line) (f : Slice → Slice) (h2 : ∀ k, (f k).l2 = k.l2)
    (hf : ∀ k, (f k).fast = k.fast) : (s.updSlice (sliceOf line) f).Uncached line := by
  refine ⟨by rw [State.slice_updSlice, h2]; exact h.l2, ?_⟩
  rw [State.slice_updSlice_ite]
  split
  · next hv => rw [hf, ← hv]; exact h.fast
  · exact h.fast

theorem State.dropLine_l2 (s : State) (line : Nat) :
    ((s.dropLine line).slice (sliceOf line)).l2 = (s.slice (sliceOf line)).l2.filter fun c => c.line != line := by
  rw [State.dropLine, State.slice_updSlice_ite]
  split
  · next hv => rw [← hv, State.slice_updSlice]
  · rw [State.slice_updSlice]

theorem State.dropLine_fast (s : State) (line : Nat) :
    ((s.dropLine line).slice (vaultOf line)).fast = (s.slice (vaultOf line)).fast.filter fun c => c.line != line := by
  rw [State.dropLine, State.slice_updSlice, State.slice_updSlice_ite]
  split
  · next hv => rw [hv]
  · rfl

theorem State.dropLine_uncached (s : State) (line : Nat) : (s.dropLine line).Uncached line :=
  ⟨by simp [State.dropLine_l2], by simp [State.dropLine_fast]⟩

/-- A line of the dense tier over which 128 bytes have been written holds them. -/
theorem State.denseLine_of_dense {t : State} {m : Tbl Byte} {line : Nat} {d : List Byte}
    (ht : t.dense = memWrite m (line * 128) d) (hd : d.length = 128) : t.denseLine line = d := by
  rw [State.denseLine, ht, ← hd, memRead_memWrite]

/-- A line in no level, written in the dense tier, holds the bytes written. -/
theorem State.Uncached.homeLine_setDenseLine {s : State} {line : Nat} (h : s.Uncached line) (d : List Byte)
    (hd : d.length = 128) : (s.setDenseLine line d).homeLine line = d := by
  have hu : (s.setDenseLine line d).Uncached line := h.of_slices rfl
  rw [hu.homeLine, State.denseLine_of_dense rfl hd]

theorem State.poisoned_of_mask (s : State) (line : Nat) (h : tblGet s.poison line 0 ≠ 0) : s.poisoned line = true := by
  simp [State.poisoned, h]

/-! Entries of a line that leave its home, and that arrive at one. -/

/-- What `takeEntries` leaves in the slice of the line: all but the line's own entries (01 R22, 04 R93). -/
theorem State.takeEntries_homesKept (s : State) (line : Nat) :
    HomesKept (s.updSlice (sliceOf line) fun k =>
      { k with races := k.races.filter fun e => e.line != line, watches := k.watches.filter fun w => w.local_ / 128 != line })
      (s.takeEntries line).2.2 := by
  simp only [State.takeEntries]
  split
  · exact .refl _
  · exact State.serveWatches_homesKept ..

theorem State.takeEntries_watches (s : State) (line : Nat) :
    ∀ w ∈ ((s.takeEntries line).2.2.slice (sliceOf line)).watches, w.local_ / 128 ≠ line := by
  rw [(s.takeEntries_homesKept line).slice, State.slice_updSlice]
  simp

theorem State.Uncached.takeEntries {s : State} {line : Nat} (h : s.Uncached line) : (s.takeEntries line).2.2.Uncached line := by
  refine State.Uncached.of_slices ?_ (s.takeEntries_homesKept line).slices
  exact h.updSlice _ (fun _ => rfl) (fun _ => rfl)

/-- With every entry of a message installed, the watches at its line are those there before and those sent, each at its offset
in the new line (01 R22). -/
theorem State.installEntries_watches (s : State) (line : Nat) (m : LineMove)
    (hdone : moveDone (s.installEntries line m).1 = true) :
    ((s.installEntries line m).2.slice (sliceOf line)).watches =
      (s.slice (sliceOf line)).watches ++ m.watches.map fun w => { w with local_ := line * 128 + w.local_ % 128 } := by
  have hlen : m.watches.length ≤ 4096 - (s.slice (sliceOf line)).watches.length := by
    simp only [moveDone, State.installEntries, Bool.and_eq_true, List.isEmpty_iff, List.drop_eq_nil_iff] at hdone
    exact hdone.2
  simp only [State.installEntries, State.slice_updSlice]
  rw [List.take_of_length_le (by simpa using hlen)]

/-! A line that is zeroed (02 R56). -/

/-- The line zeroed, before its watchers and the readers and writers of its entries are told. -/
def State.zeroed (s : State) (line : Nat) : State :=
  let t := ((s.dropLine line).takeEntries line).2.2
  { t with
    dense := memWrite t.dense (line * 128) (List.replicate 128 0#8)
    stubs := tblDel t.stubs line
    poison := tblDel t.poison line }

theorem State.zeroed_slices (s : State) (line : Nat) :
    (s.zeroed line).slices = ((s.dropLine line).takeEntries line).2.2.slices := by
  simp only [State.zeroed]

theorem State.zeroed_dense (s : State) (line : Nat) :
    (s.zeroed line).dense =
      memWrite ((s.dropLine line).takeEntries line).2.2.dense (line * 128) (List.replicate 128 0#8) := by
  simp only [State.zeroed]

theorem State.zeroed_homeLine (s : State) (line : Nat) : (s.zeroed line).homeLine line = List.replicate 128 0#8 := by
  have hu := (s.dropLine_uncached line).takeEntries.of_slices (s.zeroed_slices line)
  rw [hu.homeLine, State.denseLine_of_dense (s.zeroed_dense line) (by simp)]

theorem State.zeroLine_homesKept (s : State) (line : Nat) : HomesKept (s.zeroed line) (s.zeroLine line) := by
  unfold State.zeroLine
  refine HomesKept.trans ?_ (homesKept_foldl _ (fun _ _ => State.post_homesKept ..) _ _)
  exact State.tagFrees_homesKept ..

theorem State.zeroLine_homeLine (s : State) (line : Nat) : (s.zeroLine line).homeLine line = List.replicate 128 0#8 := by
  rw [(s.zeroLine_homesKept line).homeLine, s.zeroed_homeLine]

theorem State.zeroLine_watches (s : State) (line : Nat) :
    ∀ w ∈ ((s.zeroLine line).slice (sliceOf line)).watches, w.local_ / 128 ≠ line := by
  rw [(s.zeroLine_homesKept line).slice, State.slice_of_slices (s.zeroed_slices line)]
  exact (s.dropLine line).takeEntries_watches line

/-! Slots of the map. -/

@[simp] theorem State.slot_setSlot (s : State) (k : Nat) (d : Slot) : (s.setSlot k d).slot k = d := by
  simp [State.slot, State.setSlot]

theorem State.slot_setSlot_other (s : State) (k j : Nat) (d : Slot) (h : j ≠ k) : (s.setSlot k d).slot j = s.slot j := by
  simp [State.slot, State.setSlot, tblGet_tblSet_other _ _ _ _ _ h]

@[simp] theorem State.slot_mapErr (s : State) (e k : Nat) : (s.mapErr e).slot k = s.slot k := rfl

/-- A slot operation at an index below 64 is performed. -/
theorem State.slotOp_of_lt (s : State) (f : Nat → State) (hk : s.mapIndex < 64) : s.slotOp f = f s.mapIndex := if_pos hk

/-! What each command of the map does when its conditions hold (01 Table 1.3, R13, R15, R22). -/

theorem doMapRead_eq (s : State) (hk : s.mapIndex < 64) :
    doMapRead s = (s.setStage (s.slot s.mapIndex).words).mapErr 0 := s.slotOp_of_lt _ hk

theorem doMapWrite_eq (s : State) (hk : s.mapIndex < 64) (hd : (s.slot s.mapIndex).state < 2)
    (hg : s.staged.state = 0 ∨
      (s.staged.state = 1 ∧ s.staged.refusal = 0 ∧ s.overlapsAny s.staged s.mapIndex s.mapIndex = false)) :
    doMapWrite s = (s.setSlot s.mapIndex s.staged).mapErr 0 := by
  have hfree : ¬ 2 ≤ (s.slot s.mapIndex).state := Nat.not_le.mpr hd
  rw [doMapWrite, s.slotOp_of_lt _ hk]
  rcases hg with h0 | ⟨h1, hr, ho⟩
  · simp [h0, hfree]
  · simp [h1, hr, ho, hfree]

theorem doMapBegin_eq (s : State) (hk : s.mapIndex < 64) (hd : (s.slot s.mapIndex).state = 0)
    (hne : s.staged.partner ≠ s.mapIndex) (hp : (s.slot s.staged.partner).state = 1)
    (hbase : (s.slot s.staged.partner).base = s.staged.base) (hsize : (s.slot s.staged.partner).size = s.staged.size)
    (hr : s.staged.refusal = 0) (ho : s.overlapsAny s.staged s.mapIndex s.staged.partner = false) :
    doMapBegin s = ((s.setSlot s.staged.partner { s.slot s.staged.partner with state := 3 }).setSlot s.mapIndex
      { s.staged with
        state := 2, version := ((s.slot s.staged.partner).version + 1) % 16, wmark := 0, moving := false }).mapErr 0 := by
  rw [doMapBegin, s.slotOp_of_lt _ hk]
  simp [hd, hne, hp, hbase, hsize, hr, ho]

/-- A hold of lines that hold something goes on as due steps; the slot is MOVING in any case. -/
theorem doMapHold_eq (s : State) (hk : s.mapIndex < 64) (hd : (s.slot s.mapIndex).state = 2)
    (hw : (s.slot s.mapIndex).wmark ≠ (s.slot s.mapIndex).granules) :
    ∃ h es, doMapHold s =
      { (s.setSlot s.mapIndex { s.slot s.mapIndex with moving := true }).mapErr 0 with hold := h, events := es } := by
  rw [doMapHold, s.slotOp_of_lt _ hk]
  simp only [hd, hw, bne_self_eq_false, Bool.false_or, decide_false, Bool.false_eq_true, if_false]
  split
  · exact ⟨s.hold, s.events, rfl⟩
  · exact ⟨_, _, rfl⟩

theorem doMapStep_eq (s : State) (hk : s.mapIndex < 64) (hd : (s.slot s.mapIndex).state = 2)
    (hw : (s.slot s.mapIndex).wmark ≠ (s.slot s.mapIndex).granules) (hh : s.hold = []) :
    doMapStep s = (s.setSlot s.mapIndex
      { s.slot s.mapIndex with wmark := (s.slot s.mapIndex).wmark + 1, moving := false }).mapErr 0 := by
  rw [doMapStep, s.slotOp_of_lt _ hk]
  simp [hd, hw, hh]

theorem doMapFinish_eq (s : State) (hk : s.mapIndex < 64) (hd : (s.slot s.mapIndex).state = 2)
    (hw : (s.slot s.mapIndex).granules ≤ (s.slot s.mapIndex).wmark) (hm : (s.slot s.mapIndex).moving = false) :
    doMapFinish s =
      ((s.setSlot (s.slot s.mapIndex).partner { s.slot (s.slot s.mapIndex).partner with state := 0 }).setSlot s.mapIndex
        { s.slot s.mapIndex with state := 1, version := ((s.slot s.mapIndex).version + 1) % 16 }).mapErr 0 := by
  rw [doMapFinish, s.slotOp_of_lt _ hk]
  simp [hd, hm, Nat.not_lt.mpr hw]

/-- An entry of the cube list that no slot in use lists is written. -/
theorem doMapListWrite_eq (s : State)
    (hfree : ∀ e, e ∈ s.map → e.2.state ≠ 0 → s.mapIndex < e.2.list ∨ e.2.list + e.2.n ≤ s.mapIndex) :
    doMapListWrite s =
      State.mapErr { s with cubeList := tblSet s.cubeList s.mapIndex (s.regs.mapD0.toNat % 2 ^ 12) } 0 := by
  have hno : (s.map.any fun e => e.2.state != 0 && decide (e.2.list ≤ s.mapIndex) &&
      decide (s.mapIndex < e.2.list + e.2.n)) = false := by
    simp only [List.any_eq_false, Bool.and_eq_true, bne_iff_ne, decide_eq_true_eq]
    rintro e he ⟨⟨hs, hl⟩, hn⟩
    have := hfree e he hs
    omega
  simp only [doMapListWrite, hno, Bool.false_eq_true, if_false, bitsOf, Nat.pow_zero, Nat.div_one]

/-! The slots after a command that succeeds. -/

/-- MAP_STAT reports success, and the cores and memory stay. -/
def MapSuccess (s t : State) : Prop := t.regs.mapErr = 0 ∧ t.cores = s.cores ∧ t.dense = s.dense

/-- Every slot but `k` and `q` stays. -/
def OtherSlotsKept (s t : State) (k q : Nat) : Prop := ∀ j, j ≠ k → j ≠ q → t.slot j = s.slot j

theorem slotWritten (s : State) (k : Nat) (d : Slot) :
    let t := (s.setSlot k d).mapErr 0
    MapSuccess s t ∧ t.slot k = d ∧ OtherSlotsKept s t k k :=
  ⟨⟨rfl, rfl, rfl⟩, by simp, fun j hk _ => by simp [State.slot_setSlot_other _ _ _ _ hk]⟩

theorem slotAndPartnerWritten (s : State) (k q : Nat) (d e : Slot) (hne : q ≠ k) :
    let t := ((s.setSlot q e).setSlot k d).mapErr 0
    MapSuccess s t ∧ t.slot k = d ∧ t.slot q = e ∧ OtherSlotsKept s t k q :=
  ⟨⟨rfl, rfl, rfl⟩, by simp, by simp [State.slot_setSlot_other _ _ _ _ hne],
    fun j hk hq => by simp [State.slot_setSlot_other _ _ _ _ hk, State.slot_setSlot_other _ _ _ _ hq]⟩

/-! What each step of a move of home lines leaves (01 R22, 02 R56, 04 R93). -/

/-- Entries that fit are confirmed to the cube that sent them. -/
theorem doHoldTransferInstall_eq (m : LineMove) (s : State) (hdone : moveDone (s.installEntries m.to_ m).1 = true) :
    doHoldTransferInstall m s = (s.installEntries m.to_ m).2.post m.src (s.homeAgent m.to_) 0
      (.holdComplete { job := m.job, part := m.from_ * 4 + 1, ok := true }) := if_pos hdone

theorem mem_watches_doHoldTransferInstall (m : LineMove) (s : State) (hdone : moveDone (s.installEntries m.to_ m).1 = true)
    (w : Watch) : w ∈ ((doHoldTransferInstall m s).slice (sliceOf m.to_)).watches ↔
      w ∈ (s.slice (sliceOf m.to_)).watches ∨ ∃ v, v ∈ m.watches ∧ w = { v with local_ := m.to_ * 128 + v.local_ % 128 } := by
  rw [doHoldTransferInstall_eq m s hdone, (State.post_homesKept ..).slice, s.installEntries_watches _ m hdone, List.mem_append,
    List.mem_map]
  simp only [eq_comm]

/-- The confirmation is a due step of this cube when the sender is this cube. -/
theorem holdComplete_mem_events_doHoldTransferInstall (m : LineMove) (s : State) (hsrc : m.src = s.cubeId)
    (hdone : moveDone (s.installEntries m.to_ m).1 = true) :
    .holdComplete { job := m.job, part := m.from_ * 4 + 1, ok := true } ∈ (doHoldTransferInstall m s).events := by
  rw [doHoldTransferInstall_eq m s hdone, hsrc]
  exact State.mem_events_post_here (s.installEntries m.to_ m).2 _ _ _ _ rfl

/-- The holds without those of a slot, and with what is left of its own. -/
theorem doHoldComplete_hold (r : Report) (s : State) (g : HoldXfer) (hpart : r.part % 4 = 1)
    (hg : s.hold.find? (fun h => h.slot == r.job) = some g) :
    (doHoldComplete r s).hold = (s.hold.filter fun x => x.slot != g.slot) ++
      if g.left ≤ 1 then [] else [{ g with left := g.left - 1 }] := by
  have hcall : r.part % 4 ≠ 2 := by omega
  have hquiet : r.part % 4 ≠ 0 := by omega
  simp only [doHoldComplete, hg, hcall, hquiet, if_false]
  split
  · exact (List.append_nil _).symm
  · rfl

theorem mem_hold_doHoldComplete_other (r : Report) (s : State) (g h : HoldXfer) (hpart : r.part % 4 = 1)
    (hg : s.hold.find? (fun h => h.slot == r.job) = some g) (hne : h.slot ≠ g.slot) :
    h ∈ (doHoldComplete r s).hold ↔ h ∈ s.hold := by
  have hnew : h ≠ { g with left := g.left - 1 } := by
    rintro rfl
    exact hne rfl
  rw [doHoldComplete_hold r s g hpart hg]
  split <;> simp [hne, hnew]

theorem mem_hold_doHoldComplete_same (r : Report) (s : State) (g h : HoldXfer) (hpart : r.part % 4 = 1)
    (hg : s.hold.find? (fun h => h.slot == r.job) = some g) (he : h.slot = g.slot) :
    h ∈ (doHoldComplete r s).hold ↔ 1 < g.left ∧ h = { g with left := g.left - 1 } := by
  rw [doHoldComplete_hold r s g hpart hg]
  split
  · next hlast => simp [he, Nat.not_lt.mpr hlast]
  · next hmore => simp [he, Nat.not_le.mp hmore]

theorem doPmoveLineInstall_eq (m : LineMove) (s : State) (p : Place) (hp : s.layout (m.to_ * 128) = some p)
    (hdone : moveDone (s.installEntries (p.local_ / 128) m).1 = true) :
    let t := ((s.installEntries (p.local_ / 128) m).2.dropLine (p.local_ / 128)).setDenseLine (p.local_ / 128) m.data
    doPmoveLineInstall m s = (if m.poison then t.setPoison (p.local_ / 128) else t).post m.src (s.homeAgent (p.local_ / 128)) 0
      (.lineConfirm { job := m.job, part := 1, ok := true }) := by
  simp only [doPmoveLineInstall, hp, hdone, if_true]

theorem doPmoveLineInstall_homeLine (m : LineMove) (s : State) (p : Place) (hp : s.layout (m.to_ * 128) = some p)
    (hdone : moveDone (s.installEntries (p.local_ / 128) m).1 = true) (hlen : m.data.length = 128) :
    (doPmoveLineInstall m s).homeLine (p.local_ / 128) = m.data := by
  have hline := ((s.installEntries (p.local_ / 128) m).2.dropLine_uncached (p.local_ / 128)).homeLine_setDenseLine m.data hlen
  rw [doPmoveLineInstall_eq m s p hp hdone, (State.post_homesKept ..).homeLine]
  split <;> exact hline

theorem doPmoveLineInstall_poisoned (m : LineMove) (s : State) (p : Place) (hp : s.layout (m.to_ * 128) = some p)
    (hdone : moveDone (s.installEntries (p.local_ / 128) m).1 = true) (hpoison : m.poison = true) :
    (doPmoveLineInstall m s).poisoned (p.local_ / 128) = true := by
  apply State.poisoned_of_mask
  rw [doPmoveLineInstall_eq m s p hp hdone, (State.post_homesKept ..).poison, if_pos hpoison]
  simp [State.setPoison]

/-- The old home of a line that its new home has installed answers with a stub (04 R93). -/
theorem doPmoveLineConfirm_stub (r : Report) (s : State) (j : FrameJob) (p : Place) (hj : s.job r.job = some j)
    (hpart : r.part = 1) (hok : r.ok = true) (hp : s.layout j.frame = some p) :
    tblGet (doPmoveLineConfirm r s).stubs (p.local_ / 128) 0 = j.dest / 128 + 1 := by
  simp only [doPmoveLineConfirm, hj, hpart, hok, hp]
  have hkept (u : State) (line id c w i m) : HomesKept u (((u.endHold line).dropJob id).post c w i m) :=
    ((u.endHold_homesKept line).trans (State.dropJob_homesKept ..)).trans (State.post_homesKept ..)
  simp [(hkept ..).stubs]

/-- A line called back for a zeroing is zeroed; what follows changes jobs and sends a report. -/
theorem doFrameZeroReport_homesKept (r : Report) (s : State) (j : FrameJob) (hj : s.job r.job = some j) (hkind : j.kind = 2)
    (hpart : r.part % 2 = 0) : HomesKept (s.zeroLine (r.part / 2)) (doFrameZeroReport r s) := by
  simp only [doFrameZeroReport, hj, hkind, hpart, if_true]
  split
  · contradiction
  · split
    · exact (State.dropJob_homesKept ..).trans (State.post_homesKept ..)
    · exact State.updJob_homesKept ..

/-- Settles O36: each command of the map by its equation, each move of home lines by what it leaves in the homes. -/
theorem mapAndHomeMoves : Obligations.MapAndHomeMoves := by
  refine ⟨fun s => ⟨fun hk => ⟨?read, ?write, ?begin, fun hd hw => ⟨?hold, ?step⟩, ?finish⟩, ?listRead, ?listWrite⟩,
    fun s => ⟨?transfer, ?confirm, ?install, ?stub, ?zero⟩⟩
  case read =>
    exact ⟨_, congrArg Host.Outcome.next (doMapRead_eq (s.due _) hk), ⟨rfl, rfl, rfl⟩, rfl, rfl, rfl, rfl⟩
  case write =>
    exact fun hd hg => ⟨_, congrArg Host.Outcome.next (doMapWrite_eq (s.due _) hk hd hg), slotWritten (s.due _) _ _⟩
  case begin =>
    exact fun hd hne hp hbase hsize hr ho =>
      ⟨_, congrArg Host.Outcome.next (doMapBegin_eq (s.due _) hk hd hne hp hbase hsize hr ho),
        slotAndPartnerWritten (s.due _) _ _ _ _ hne⟩
  case hold =>
    obtain ⟨h, es, heq⟩ := doMapHold_eq (s.due .mapHold) hk hd hw
    exact ⟨_, congrArg Host.Outcome.next heq, slotWritten (s.due _) _ _⟩
  case step =>
    exact fun hh => ⟨_, congrArg Host.Outcome.next (doMapStep_eq (s.due _) hk hd hw hh), slotWritten (s.due _) _ _⟩
  case finish =>
    intro hd hw hm hne
    obtain ⟨hok, hslot, hpartner, hothers⟩ := slotAndPartnerWritten (s.due .mapFinish) s.mapIndex (s.slot s.mapIndex).partner
      { s.slot s.mapIndex with state := 1, version := ((s.slot s.mapIndex).version + 1) % 16 }
      { s.slot (s.slot s.mapIndex).partner with state := 0 } hne
    exact ⟨_, congrArg Host.Outcome.next (doMapFinish_eq (s.due .mapFinish) hk hd hw hm), hok, hslot,
      congrArg Slot.state hpartner, hothers⟩
  case listRead => exact ⟨_, rfl, ⟨rfl, rfl, rfl⟩, rfl⟩
  case listWrite =>
    exact fun hfree => ⟨_, congrArg Host.Outcome.next (doMapListWrite_eq (s.due _) hfree), ⟨rfl, rfl, rfl⟩,
      tblGet_tblSet_same .., fun _ hj => tblGet_tblSet_other _ _ _ _ _ hj⟩
  case transfer =>
    exact fun m hsrc hdone => ⟨_, rfl, mem_watches_doHoldTransferInstall m (s.due _) hdone,
      holdComplete_mem_events_doHoldTransferInstall m (s.due _) hsrc hdone⟩
  case confirm =>
    exact fun r g hpart hg => ⟨_, rfl, fun h => mem_hold_doHoldComplete_other r (s.due _) g h hpart hg,
      fun h => mem_hold_doHoldComplete_same r (s.due _) g h hpart hg⟩
  case install =>
    exact fun m p hp hdone hlen => ⟨_, rfl, doPmoveLineInstall_homeLine m (s.due _) p hp hdone hlen,
      doPmoveLineInstall_poisoned m (s.due _) p hp hdone⟩
  case stub =>
    exact fun r j p hj hpart hok hp => ⟨_, rfl, doPmoveLineConfirm_stub r (s.due _) j p hj hpart hok hp⟩
  case zero =>
    intro r j hj hkind hpart
    have hkept := doFrameZeroReport_homesKept r (s.due (.frameZeroReport r)) j hj hkind hpart
    refine ⟨_, rfl, (hkept.homeLine _).trans (State.zeroLine_homeLine ..), ?_⟩
    rw [hkept.slice]
    exact State.zeroLine_watches _ _

end Sys2Proof.Machine
end

section
/-! SUPPORT. What the acquire half of a synchronising event changes (03 R61), and a fence run once for its four kinds (04 Table 4.3). -/

namespace Sys2Proof.Machine

theorem SameCore.near {k k' : Core} (h : SameCore k k') : k'.near = k.near := by rw [h]

/-! An acquire. -/

theorem State.acquire_near (s : State) (c scope : Nat) : ((s.acquire c scope).core c).near =
    if scope = 0 then (s.core c).near else (s.core c).near.map fun l => { l with v := l.v &&& l.o } := by
  unfold State.acquire
  split
  · rfl
  · rw [State.core_updCore]

theorem State.acquire_core_other (s : State) (c d scope : Nat) (h : d ≠ c) : (s.acquire c scope).core d = s.core d := by
  unfold State.acquire
  split
  · rfl
  · exact State.core_updCore_other _ _ _ _ h

@[simp] theorem State.acquire_ctx (s : State) (c scope d y : Nat) : (s.acquire c scope).ctx d y = s.ctx d y := by
  by_cases h : d = c
  · subst d
    unfold State.acquire State.ctx
    split
    · rfl
    · rw [State.core_updCore]; rfl
  · unfold State.ctx; rw [s.acquire_core_other c d scope h]

@[simp] theorem State.acquire_cur (s : State) (c scope : Nat) : (s.acquire c scope).cur = s.cur := by
  unfold State.acquire; split <;> rfl

@[simp] theorem State.acquire_cx (s : State) (c scope : Nat) : (s.acquire c scope).cx = s.cx := by
  simp [State.cx]

theorem sameCube_acquire (s : State) (c scope : Nat) : SameCube s (s.acquire c scope) := by
  unfold State.acquire; split <;> rfl

/-! A fence. -/

theorem Runs.me {i : Instr} {s : State} {v : Vals} {s1 : State} (h : Runs i s v s1) : s1.me = s.me := congrArg Prod.fst h.cur

/-- Taking the operands of an instruction changes nothing that a boundary waits for (04 R83, R87). -/
theorem Runs.passes {i : Instr} {s : State} {v : Vals} {s1 : State} (h : Runs i s v s1) (hp : Passes s) : Passes s1 := by
  have houts : s1.outs = s.outs := by rw [h.sameCube]
  have hcube : s1.cubeId = s.cubeId := by rw [h.sameCube]
  have hblocked : s1.cx.serialBlocked = s.cx.serialBlocked := by rw [h.cx]; rfl
  unfold Passes State.serialClear State.gcore at *
  unfold State.cx at hblocked
  unfold State.me State.mx at *
  rw [hblocked, houts, hcube, h.cur]
  exact hp

/-- The state behind a fence of `n` bytes that completes, with its release and acquire meaning; an acquire at scope core (0)
changes nothing. -/
def State.fenced (s : State) (n : Nat) (scope : BitVec 2) (rel acq : Bool) : State :=
  ((s.acquire s.me (if acq then scope.toNat else 0)).updCx fun t =>
    { t with relScope := if rel then scope.toNat else 0 }).retireBoundary n

/-- A fence whose boundary may retire waits for what its release meaning, or the fence of all engines, asks, and else completes
(04 R81, Table 4.3). -/
theorem fence_runs {i : Instr} {h : Hd} {s s1 : State} {v : Vals} (hr : Runs i s v s1) (hf : frameOf i = some { h := h })
    (hp : Passes s) (scope : BitVec 2) (rel acq sc : Bool) : fence i h scope rel acq sc s =
      .next (if rel && !s.cx.released scope.toNat then s1.block .acks
        else if sc && !(s.cx.engOut == 0 && s.cx.nbPend == 0) then s1.block .acks
        else s1.fenced i.bytes scope rel acq) := by
  have hpass : s1.serialClear s1.me s1.mx = true := hr.passes hp
  unfold fence
  refine (runs_issue hr hf _).trans ?_
  rw [State.atBoundary, if_pos hpass, hr.cx]
  cases acq <;> rfl

theorem State.fenced_cx (s : State) (n : Nat) (scope : BitVec 2) (rel acq : Bool) : (s.fenced n scope rel acq).cx =
    { s.cx with relScope := if rel then scope.toNat else 0, serial := s.cx.serial + 1#16, pc := s.cx.pc + BitVec.ofNat 64 n,
                latch := none, got := [], wait := .none, waitAt := 0, cw := none, noticed := none, migrations := 0,
                pend := none } := by
  simp [State.fenced, State.retireBoundary, Ctx.boundary]

/-- The near caches are as the acquire leaves them. -/
theorem State.fenced_near_acquire (s : State) (n : Nat) (scope : BitVec 2) (rel acq : Bool) (c : Nat) :
    ((s.fenced n scope rel acq).core c).near = ((s.acquire s.me (if acq then scope.toNat else 0)).core c).near :=
  (((sameCore_updCx _ c _).trans (sameCore_updCx _ c _)).trans (sameCore_updCx _ c _)).near

theorem State.fenced_near (s : State) (n : Nat) (scope : BitVec 2) (rel acq : Bool) :
    ((s.fenced n scope rel acq).core s.me).near = if acq = false ∨ scope = 0#2 then (s.core s.me).near
      else (s.core s.me).near.map fun l => { l with v := l.v &&& l.o } := by
  rw [s.fenced_near_acquire, s.acquire_near]
  cases acq <;> simp [BitVec.toNat_eq]

theorem State.fenced_near_other (s : State) (n : Nat) (scope : BitVec 2) (rel acq : Bool) (c : Nat) (hc : c ≠ s.me) :
    ((s.fenced n scope rel acq).core c).near = (s.core c).near := by
  rw [s.fenced_near_acquire, s.acquire_core_other _ _ _ hc]

theorem State.fenced_other (s : State) (n : Nat) (scope : BitVec 2) (rel acq : Bool) (c y : Nat) (h : (c, y) ≠ s.cur) :
    (s.fenced n scope rel acq).ctx c y = s.ctx c y := by
  have hcur : (c, y) ≠ (s.acquire s.me (if acq then scope.toNat else 0)).cur := by rwa [s.acquire_cur]
  calc (s.fenced n scope rel acq).ctx c y
      _ = _ := updCx_other _ _ c y hcur
      _ = _ := retire_other _ n c y hcur
      _ = (s.acquire s.me (if acq then scope.toNat else 0)).ctx c y := updCx_other _ _ c y hcur
      _ = s.ctx c y := s.acquire_ctx ..

theorem sameCube_fenced (s : State) (n : Nat) (scope : BitVec 2) (rel acq : Bool) : SameCube s (s.fenced n scope rel acq) :=
  (sameCube_acquire ..).trans rfl

/-- The four fences are one, by what each is not: `fence.acq` has no release meaning, `fence.rel` no acquire meaning, and
`fence.sc` alone waits for the engines (04 Table 4.3). -/
theorem exec_eq_fence {h : Hd} {scope : BitVec 2} {i : Instr}
    (hi : i = .fenceAcq h scope ∨ i = .fenceRel h scope ∨ i = .fenceAr h scope ∨ i = .fenceSc h scope) :
    frameOf i = some { h := h } ∧ ∀ s, exec i s =
      fence i h scope (decide (i ≠ .fenceAcq h scope)) (decide (i ≠ .fenceRel h scope)) (decide (i = .fenceSc h scope)) s := by
  rcases hi with rfl | rfl | rfl | rfl
  all_goals
    refine ⟨rfl, fun s => ?_⟩
    simp only [ne_eq, reduceCtorEq, not_true_eq_false, not_false_eq_true, decide_true, decide_false]
    rfl

/-- Settles O10: the four kinds run as one fence, which completes or waits. -/
theorem fenceCompletesOrWaits : Obligations.FenceCompletesOrWaits := by
  intro h scope i s s1 v hr hp hi
  obtain ⟨hf, he⟩ := exec_eq_fence hi
  refine ⟨fun hrel hsc => ?completes, fun hne hwait => ?waits⟩
  case waits =>
    rw [he, fence_runs hr hf hp]
    simp [hne, hwait]
  case completes =>
    have hnear (c : Nat) := (hr.sameCore c).near
    refine ⟨s1.fenced i.bytes scope (decide (i ≠ .fenceAcq h scope)) (decide (i ≠ .fenceRel h scope)),
      ?next, ?ctx, ?near, fun c y hy => ?others, fun c hc => ?otherNears, hr.sameCube.trans (sameCube_fenced ..)⟩
    case next => rw [he, fence_runs hr hf hp, if_neg (by simpa using hrel), if_neg (by simpa using hsc)]
    case ctx =>
      rw [State.fenced_cx, hr.cx]
      simp [GoesOn]
    case near =>
      rw [← hr.me, State.fenced_near, hr.me, hnear]
      simp
    case others => rw [State.fenced_other _ _ _ _ _ _ _ (hr.cur ▸ hy), hr.other c y hy]
    case otherNears => rw [State.fenced_near_other _ _ _ _ _ _ (hr.me ▸ hc), hnear]

end Sys2Proof.Machine
end

section
/-! SUPPORT. What a request, the section of a page and the end of a walk change, and the steps of translation (05 R95 to R104, R118). -/

namespace Sys2Proof.Machine

/-! Requests by physical address. -/

/-- A request sent again changes the end-to-end unit, the due steps and the timers. -/
theorem State.resendAs_eq (s : State) (dst cls seq : Nat) (timed : Bool) (m : Msg) :
    ∃ f es ts, s.resendAs dst cls seq timed m = { s with fabric := f, events := es, timers := ts } := by
  unfold State.resendAs
  dsimp only
  split
  · split
    · exact ⟨_, _, _, rfl⟩
    · exact ⟨_, _, s.timers, rfl⟩
  · exact ⟨s.fabric, s.events, s.timers, rfl⟩

/-- So does a request sent to its home, whichever way it goes. -/
theorem State.toHome_eq (s : State) (r : Req) :
    ∃ f es ts, s.toHome r = { s with fabric := f, events := es, timers := ts } := by
  unfold State.toHome
  split
  · exact ⟨s.fabric, _, s.timers, rfl⟩
  · dsimp only
    split
    · split
      · exact s.resendAs_eq ..
      · next dst cls seq _ _ =>
        obtain ⟨f, es, ts, h⟩ := State.post_eq { s with fabric := { s.fabric with
          outs := s.fabric.outs.filter fun (o : E2EOut) => !o.hit dst cls seq } } _ r.who r.id _
        exact ⟨f, es, ts, h⟩
    · exact s.post_eq ..

/-- A unit's request changes these and the list of what is outstanding. -/
theorem State.requestPa_eq (s : State) (r : Req) (p : Purp) : ∃ os f es ts, s.requestPa r p =
    { s with outs := os, fabric := f, events := es, timers := ts, tick := s.tick + 1 } := by
  obtain ⟨f, es, ts, h⟩ := State.toHome_eq (s.newOut r p).2 (s.newOut r p).1
  exact ⟨_, f, es, ts, h⟩

@[simp] theorem State.fetchWord_walks (s : State) (who : Agent) (pa n : Nat) (p : Purp) :
    (s.fetchWord who pa n p).walks = s.walks := by
  obtain ⟨os, f, es, ts, h⟩ := s.requestPa_eq { unitReq who pa (.load n 1 0) with va := pa, words := wordMask pa n, at_ := s.leaseNow } p
  rw [State.fetchWord, h]

/-! A miss of a section (05 R97). -/

/-- The section of `r` is not to take a new walk for it: it has 64, or others wait there before it. -/
def State.sectionClosed (s : State) (r : Req) : Prop :=
  64 ≤ (s.walks.filter fun w => w.sect == sectionOf r.space r.va).length ∨
    (r.turn = false ∧ (s.slice (sectionOf r.space r.va)).sectWait ≠ [])

theorem State.startWalk_closed (s : State) (r : Req) (bypass : Bool) (h : s.sectionClosed r) :
    s.startWalk r bypass = s.updSlice (sectionOf r.space r.va) fun sl =>
      { sl with sectWait := if r.turn then r :: sl.sectWait else sl.sectWait ++ [r] } :=
  if_pos (by simpa [State.sectionClosed] using h)

theorem State.startWalk_open (s : State) (r : Req) (bypass : Bool) (h : ¬ s.sectionClosed r) :
    s.startWalk r bypass = s.newWalk { r with turn := false } bypass r.noInstall :=
  if_neg (by simpa [State.sectionClosed] using h)

/-- A section serves nobody, or looks up the one that has waited longest. -/
theorem State.serveSection_cases (s : State) (k : Nat) : s.serveSection k = s ∨ ∃ (r : Req) (rest : List Req), s.serveSection k =
    (s.updSlice k fun sl => { sl with sectWait := rest }).emitFirst [.sectionLookup { r with turn := true }] := by
  unfold State.serveSection
  split
  · exact .inl rfl
  · split
    · exact .inl rfl
    · exact .inr ⟨_, _, rfl⟩

@[simp] theorem State.serveSection_walks (s : State) (k : Nat) : (s.serveSection k).walks = s.walks := by
  obtain h | ⟨r, rest, h⟩ := s.serveSection_cases k
  · rw [h]
  · rw [h]; rfl

theorem State.serveSection_events (s : State) (k : Nat) : s.events ⊆ (s.serveSection k).events := by
  obtain h | ⟨r, rest, h⟩ := s.serveSection_cases k
  · rw [h]; exact List.Subset.refl _
  · rw [h]; exact List.subset_append_right ..

theorem State.serveSection_sect (s : State) (k j : Nat) : ((s.serveSection k).slice j).sect = (s.slice j).sect := by
  obtain h | ⟨r, rest, h⟩ := s.serveSection_cases k
  · rw [h]
  · rw [h]
    show ((s.updSlice k fun sl => { sl with sectWait := rest }).slice j).sect = _
    rw [State.slice_updSlice_ite]
    split
    · next hj => rw [hj]
    · rfl

/-- With 64 walks outstanding at a section, none of those that wait there is looked up again. -/
theorem State.serveSection_full (s : State) (k : Nat) (h : 64 ≤ (s.walks.filter fun w => w.sect == k).length) :
    s.serveSection k = s := by
  unfold State.serveSection
  split
  · rfl
  · exact if_pos h

/-- No entry of its section and no walk of its page serves the access. -/
structure SectionMiss (s : State) (r : Req) : Prop where
  notFresh : r.fresh = false
  noEntry : s.sectHit (sectionOf r.space r.va) r.space r.va = none
  noWalk : ∀ w, w ∈ s.walks → ¬ (w.sect = sectionOf r.space r.va ∧ w.space = r.space ∧ w.vpn = r.va / 4096 % 2 ^ 36 ∧
    w.bypass = false ∧ w.noInstall = false)

/-- Its lookup is a walk started, or awaited, at its section. -/
theorem SectionMiss.doSectionLookup {s : State} {r : Req} (h : SectionMiss s r) : doSectionLookup r s =
    if r.turn then (s.startWalk r false).serveSection (sectionOf r.space r.va) else s.startWalk r false := by
  have hnone : s.walks.find? (fun w => w.sect == sectionOf r.space r.va && w.space == r.space && w.vpn == bitsOf r.va 47 12
      && !w.bypass && !w.noInstall) = none := by
    rw [List.find?_eq_none]
    intro w hw hm
    apply h.noWalk w hw
    simpa [bitsOf, and_assoc] using hm
  simp only [Machine.doSectionLookup, h.notFresh, h.noEntry, hnone, Option.filter_none, Bool.false_eq_true, if_false]

/-- The walk of a miss: for its page, with its access alone, and not begun. -/
def State.missWalk (s : State) (r : Req) : Walk :=
  { id := s.tick, sect := sectionOf r.space r.va, space := r.space, vpn := bitsOf r.va 47 12, cls := r.act.cls,
    accs := [{ r with turn := false }], noInstall := r.noInstall, bypass := false, hart := none, start := 0, restarts := 0, begun := 0 }

theorem State.startWalk_open_walks (s : State) (r : Req) (h : ¬ s.sectionClosed r) :
    (s.startWalk r false).walks = s.walks ++ [s.missWalk r] ∧ (s.startWalk r false).events = s.events ++ [.walkDispatch] := by
  rw [s.startWalk_open r false h]
  exact ⟨rfl, rfl⟩

theorem SectionMiss.starts {s : State} {r : Req} (hm : SectionMiss s r) (h : ¬ s.sectionClosed r) :
    (Machine.doSectionLookup r s).walks = s.walks ++ [s.missWalk r] ∧ .walkDispatch ∈ (Machine.doSectionLookup r s).events ∧
      (r.turn = false → (Machine.doSectionLookup r s).events = s.events ++ [.walkDispatch]) := by
  obtain ⟨hwalks, hevents⟩ := s.startWalk_open_walks r h
  have hmem : Ev.walkDispatch ∈ (s.startWalk r false).events := by simp [hevents]
  rw [hm.doSectionLookup]
  split
  · next hturn =>
    exact ⟨by rw [State.serveSection_walks, hwalks], State.serveSection_events _ _ hmem, fun h => absurd hturn (by simp [h])⟩
  · exact ⟨hwalks, hmem, fun _ => hevents⟩

theorem SectionMiss.waits {s : State} {r : Req} (hm : SectionMiss s r) (h : s.sectionClosed r) :
    Machine.doSectionLookup r s = s.updSlice (sectionOf r.space r.va) fun sl =>
      { sl with sectWait := if r.turn then r :: sl.sectWait else sl.sectWait ++ [r] } := by
  rw [hm.doSectionLookup, s.startWalk_closed r false h]
  split
  · next hturn =>
    have hfull := h.resolve_right fun hw => absurd hturn (by simp [hw.1])
    exact State.serveSection_full _ _ hfull
  · rfl

/-! The walk that takes a context (05 R102). -/

/-- A walk goes on with no change but to its record of the descriptor's first word. -/
theorem State.runWalk_walks (s : State) (w : Walk) :
    (s.runWalk w).walks = (s.updWalk w.id fun x => { x with sd0 := (s.walkResult w).1 }).walks := by
  unfold State.runWalk
  dsimp only
  split
  case h_5 => exact State.fetchWord_walks ..
  all_goals rfl

theorem State.mem_updWalk (s : State) (w : Walk) (f : Walk → Walk) (h : w ∈ s.walks) : f w ∈ (s.updWalk w.id f).walks :=
  List.mem_map.mpr ⟨w, h, if_pos rfl⟩

theorem State.mem_runWalk (s : State) (w : Walk) (h : w ∈ s.walks) :
    { w with sd0 := (s.walkResult w).1 } ∈ (s.runWalk w).walks := by
  rw [State.runWalk_walks]
  exact s.mem_updWalk w _ h

/-- The oldest walk that waits has begun, in a free context, with the accesses it had. -/
theorem doWalkDispatch_begins (s : State) (w : Walk) (h : Nat) (hw : s.walks.find? (fun w => w.begun == 0) = some w)
    (hh : s.freeHart = some h) :
    ∃ w', w' ∈ (doWalkDispatch s).walks ∧ w'.id = w.id ∧ w'.begun = 1 ∧ w'.hart = some h ∧ w'.accs = w.accs := by
  simp only [doWalkDispatch, hw, hh]
  generalize tblSet s.harts h _ = hs
  have hbegun := State.mem_updWalk { s with harts := hs } w
    (fun _ => { w with begun := 1, hart := some h, start := s.sliceNow w.sect, known := [], sd0 := 0 }) (List.mem_of_find?_eq_some hw)
  have hruns := State.mem_runWalk _ _ hbegun
  split <;> exact ⟨_, hruns, rfl, rfl, rfl, rfl⟩

/-! The end of a walk (05 R104, R107). -/

theorem State.endFaultTurn_eq (s : State) (id : Nat) :
    ∃ ft es, s.endFaultTurn id = { s with faultTurn := ft, events := s.events ++ es } := by
  unfold State.endFaultTurn
  split
  · split
    · exact ⟨none, [], by rw [List.append_nil]⟩
    · exact ⟨none, [_], rfl⟩
  · exact ⟨s.faultTurn, [], by rw [List.append_nil]⟩

/-- An access that its walk fails is answered, and nothing but the due steps and the turn of faults changes. -/
theorem State.serveBad_eq (s : State) (i1 kind : Nat) (r : Req) : ∃ ft es, s.serveBad i1 kind r =
    { s with faultTurn := ft, events := s.events ++ es ++ [.data (r.fail .accessError i1 kind)] } := by
  obtain ⟨ft, es, h⟩ := s.endFaultTurn_eq r.id
  exact ⟨ft, es, by rw [State.serveBad, h]; rfl⟩

theorem State.serveBad_foldl_walks (i1 kind : Nat) (l : List Req) (s : State) :
    (l.foldl (fun s r => s.serveBad i1 kind r) s).walks = s.walks := by
  induction l generalizing s with
  | nil => rfl
  | cons r l ih =>
    obtain ⟨ft, es, h⟩ := s.serveBad_eq i1 kind r
    rw [List.foldl_cons, ih, h]

theorem State.serveBad_foldl_events (i1 kind : Nat) (l : List Req) (s : State) :
    s.events ⊆ (l.foldl (fun s r => s.serveBad i1 kind r) s).events := by
  induction l generalizing s with
  | nil => exact List.Subset.refl _
  | cons r l ih =>
    obtain ⟨ft, es, h⟩ := s.serveBad_eq i1 kind r
    rw [List.foldl_cons, h]
    refine List.Subset.trans ?_ (ih _)
    rw [List.append_assoc]
    exact List.subset_append_left ..

theorem State.mem_events_serveBad_foldl (i1 kind : Nat) (l : List Req) (s : State) :
    ∀ r ∈ l, .data (r.fail .accessError i1 kind) ∈ (l.foldl (fun s r => s.serveBad i1 kind r) s).events := by
  induction l generalizing s with
  | nil => simp
  | cons r l ih =>
    intro q hq
    obtain rfl | hq := List.mem_cons.mp hq
    · obtain ⟨ft, es, h⟩ := s.serveBad_eq i1 kind q
      rw [List.foldl_cons, h]
      exact State.serveBad_foldl_events _ _ _ _ (List.mem_append_right _ List.mem_cons_self)
    · exact ih _ q hq

@[simp] theorem State.endWalk_walks (s : State) (w : Walk) : (s.endWalk w).walks = s.walks.filter fun x => x.id != w.id := by
  unfold State.endWalk
  rw [State.serveSection_walks, apply_ite State.walks]
  exact ite_self _

theorem State.endWalk_sect (s : State) (w : Walk) (j : Nat) : ((s.endWalk w).slice j).sect = (s.slice j).sect := by
  unfold State.endWalk
  rw [State.serveSection_sect, apply_ite fun t : State => (t.slice j).sect]
  exact ite_self _

theorem State.endWalk_gone (s : State) (w : Walk) : ∀ x ∈ (s.endWalk w).walks, x.id ≠ w.id := by simp

theorem State.walkBad_walks (s : State) (w : Walk) : (s.walkBad w).walks = (s.endWalk w).walks :=
  State.serveBad_foldl_walks ..

/-- A walk that ends MALFORMED answers each of its accesses with ACCESS_ERROR. -/
theorem State.mem_events_walkBad (s : State) (w : Walk) :
    ∀ r ∈ w.accs, .data (r.fail .accessError 1 1) ∈ (s.walkBad w).events :=
  fun r hr => List.mem_append_left _ (State.mem_events_serveBad_foldl 1 1 w.accs (s.endWalk w) r hr)

theorem Slice.mem_sect_install (k : Slice) (now : Nat) (e : SEnt) : e ∈ (k.install now e).sect := by
  unfold Slice.install
  dsimp only
  split <;> exact List.mem_cons_self

/-- The entry that a walk installs for its leaf: under the least of the leaf's lease, LMAX and MAXC, from the walk's start (05
R107). -/
def State.leafEntry (s : State) (w : Walk) (need size : Nat) : SEnt :=
  { size := size, g := bitOf need 5, space := w.space, vpn := pageVpn size (w.vpn * 4096)
    exp := (w.start + leaseCounts (min (bitsOf need 63 60) (min (bitsOf w.sd0 57 54) (fld s.regs.leaseCtl 3 0)))) % 2 ^ 32
    pte := BitVec.ofNat 64 need }

/-- A walk without accesses that ends MAPPED under a lease leaves its entry in its section. -/
theorem State.mem_sect_walkMapped (s : State) (w : Walk) (need size : Nat) (haccs : w.accs = []) (hinst : w.noInstall = false)
    (href : s.regs.refLost = false)
    (hlease : min (bitsOf need 63 60) (min (bitsOf w.sd0 57 54) (fld s.regs.leaseCtl 3 0)) ≠ 0) :
    s.leafEntry w need size ∈ ((s.walkMapped w need size).slice w.sect).sect := by
  simp only [State.walkMapped, haccs, hinst, href, hlease, List.foldl_nil, State.endWalk_sect, Bool.false_eq_true, if_false,
    decide_false, Bool.or_self, State.slice_updSlice]
  exact Slice.mem_sect_install ..

theorem State.walkMapped_gone (s : State) (w : Walk) (need size : Nat) (haccs : w.accs = []) :
    ∀ x ∈ (s.walkMapped w need size).walks, x.id ≠ w.id := by
  simp only [State.walkMapped, haccs, List.foldl_nil]
  exact State.endWalk_gone _ w

theorem State.walk_id {s : State} {n : Nat} {w : Walk} (h : s.walk n = some w) : w.id = n := by
  simpa using List.find?_some h

/-- A leaf with A set, and D where the walk's class asks for it, is installed as it stands (05 R104). -/
theorem doNwdone_mapped (n pte size info level : Nat) (s : State) (w : Walk) (hw : s.walk n = some w) (hsize : size < 3)
    (hv : bitOf pte 0 = true) (ha : bitOf pte 6 = true) (hleaf : pteRWX pte ≠ 0) (hbad : pteBad pte size = false)
    (hd : w.cls = 1 → bitOf pte 2 = true → bitOf pte 7 = true) :
    doNwdone n 0 pte 0 size info level s = s.walkMapped w pte size := by
  have hneed : (if w.cls = 1 && bitOf pte 2 && !bitOf pte 7 then pte + 2 ^ 7 else pte) = pte := by
    refine if_neg fun h => ?_
    simp only [Bool.and_eq_true, decide_eq_true_eq, Bool.not_eq_true'] at h
    simp [hd h.1.1 h.1.2] at h
  simp only [doNwdone, hw, hv, ha, hleaf, hbad, if_true, hneed]
  simp [Nat.not_le.mpr hsize]

theorem doNwdone_malformed (n : Nat) (s : State) (w : Walk) (hw : s.walk n = some w) :
    doNwdone n 2 0 0 0 0 0 s = s.walkBad w := by
  simp [doNwdone, hw]

theorem doWalkTimeout_running (n : Nat) (s : State) (w : Walk) (hw : s.walk n = some w) (hb : w.begun = 1) :
    doWalkTimeout n s = s.emit (.nwdone n 2 0 0 0 0 0) := by
  simp [doWalkTimeout, hw, hb]

theorem doFaultWaitRetry_first (s : State) (r : Req) (rest : List Req) (ht : s.faultTurn = none) (hq : s.faultWait = r :: rest) :
    doFaultWaitRetry s = { s with faultTurn := some r.id, faultWait := rest }.emit (.sectionLookup r) := by
  simp [doFaultWaitRetry, ht, hq]

/-! One instruction of a walk routine (05 R102, R103). -/

theorem HartCtx.get_set (h : HartCtx) (i v : Nat) : (h.set i v).get i = if i = 0 then 0 else v % 2 ^ 64 := by
  unfold HartCtx.get HartCtx.set
  split <;> simp

/-- `add`: the sum goes to its register, and the routine goes on with the next instruction. -/
theorem State.hartExec_add (s : State) (known : List (Nat × Option Nat)) (fw : Bool) (x : HartCtx) (w len : Nat)
    (hop : w % 2 ^ 7 = 0x33) (hf3 : w / 2 ^ 12 % 8 = 0) (hf7 : w / 2 ^ 25 = 0) :
    s.hartExec known fw x w len = .go { x.set (w / 2 ^ 7 % 32) (x.get (w / 2 ^ 15 % 32) + x.get (w / 2 ^ 20 % 32)) with
      pc := BitVec.ofNat 64 (x.pc.toNat + len) } s.walkStore := by
  have h0 : bitsOf w 6 0 = 0x33 := by simpa [bitsOf] using hop
  have h3 : bitsOf w 14 12 = 0 := by simpa [bitsOf] using hf3
  have h7 : bitsOf w 31 25 = 0 := by simp only [bitsOf, hf7, Nat.zero_mod]
  simp only [State.hartExec, h0, h3, h7]
  rfl

/-- A context whose instruction goes on has it executed, and its next one is due. -/
theorem doWalkerHartInstruction_go (n w len : Nat) (s : State) (x y : HartCtx) (wk : Walk) (m : Tbl Byte)
    (hx : s.harts.find? (fun p => p.1 == n) = some (n, x)) (hwk : s.walk x.walk = some wk) (hfetch : s.hartFetch x = some (w, len))
    (hgo : s.hartExec wk.known (s.hartFirmware wk) x w len = .go y m) :
    doWalkerHartInstruction n s = ({ s with harts := tblSet s.harts n y, walkStore := m }.updWalk x.walk fun w =>
      { w with known := [] }).emit (.walkerHartInstruction n) := by
  simp only [doWalkerHartInstruction, hx, hwk, hfetch, hgo]

/-- Settles O37: each constructor by the lemma that says what its step does. -/
theorem translationSteps : Obligations.TranslationSteps := by
  intro s
  refine ⟨fun r hfresh hhit hwalks => ⟨fun hroom hturn => ?starts, fun hfull => ?waits⟩, fun w h hw hh => ?dispatch,
    fun n pte size info level w hw haccs hinst hsize hv ha hleaf hbad hd href hlease => ?mapped,
    fun n w hw => ⟨?malformed, fun hb => ?timeout⟩, fun r rest ht hq => ?retry,
    fun n w x wk hx hwk hfetch hop hf3 hf7 _ => ?hart⟩
  case starts =>
    have hm : SectionMiss (s.due (.sectionLookup r)) r := ⟨hfresh, hhit, hwalks⟩
    have hopen : ¬ (s.due (.sectionLookup r)).sectionClosed r :=
      not_or.mpr ⟨hroom, fun h => hturn.elim (by simp [h.1]) h.2⟩
    obtain ⟨hw, hmem, hev⟩ := hm.starts hopen
    exact ⟨_, _, rfl, hw, rfl, rfl, rfl, rfl, hmem, hev⟩
  case waits =>
    have hm : SectionMiss (s.due (.sectionLookup r)) r := ⟨hfresh, hhit, hwalks⟩
    refine ⟨_, congrArg Host.Outcome.next (hm.waits hfull), rfl, rfl, ?_⟩
    rw [State.slice_updSlice]
    split <;> rfl
  case dispatch =>
    obtain ⟨w', hw'⟩ := doWalkDispatch_begins (s.due .walkDispatch) w h hw hh
    exact ⟨_, w', rfl, hw'⟩
  case mapped =>
    have heq := doNwdone_mapped n pte size info level (s.due (.nwdone n 0 pte 0 size info level)) w hw hsize hv ha hleaf hbad hd
    refine ⟨_, _, congrArg Host.Outcome.next heq, ?_, State.mem_sect_walkMapped _ w pte size haccs hinst href hlease,
      rfl, rfl, rfl, rfl, rfl⟩
    rw [← State.walk_id hw]
    exact State.walkMapped_gone _ w pte size haccs
  case malformed =>
    refine ⟨_, congrArg Host.Outcome.next (doNwdone_malformed n (s.due _) w hw), ?_, State.mem_events_walkBad _ w⟩
    rw [← State.walk_id hw, State.walkBad_walks]
    exact State.endWalk_gone _ w
  case timeout => exact ⟨_, congrArg Host.Outcome.next (doWalkTimeout_running n (s.due _) w hw hb), rfl⟩
  case retry => exact ⟨_, congrArg Host.Outcome.next (doFaultWaitRetry_first (s.due _) r rest ht hq), rfl, rfl, rfl⟩
  case hart =>
    have hgo := (s.due (.walkerHartInstruction n)).hartExec_add wk.known ((s.due (.walkerHartInstruction n)).hartFirmware wk)
      x w 4 hop hf3 hf7
    refine ⟨_, _, congrArg Host.Outcome.next (doWalkerHartInstruction_go n w 4 (s.due _) x _ wk _ hx hwk hfetch hgo),
      tblGet_tblSet_same .., ?_, HartCtx.get_set .., rfl, List.mem_append_right _ List.mem_cons_self⟩
    show BitVec.ofNat 64 (x.pc.toNat + 4) = x.pc + 4#64
    simp [BitVec.ofNat_add]

end Sys2Proof.Machine
end

section
/-! SUPPORT. What giving up an instruction and taking a trap leave of a context, and the steps of the lease clock (05 R106, R113;
16 R335, R339, R340). -/

namespace Sys2Proof

/-- An entry of a table whose values have been changed key by key. -/
theorem tblGet_map {α : Type} (f : Nat → α → α) (m : Tbl α) (k : Nat) (d : α) :
    tblGet (m.map fun p => (p.1, f p.1 p.2)) k (f k d) = f k (tblGet m k d) := by
  induction m with
  | nil => rfl
  | cons p m ih =>
    obtain ⟨a, b⟩ := p
    simp only [List.map_cons, tblGet, ih]
    split
    · next h => rw [h]
    · rfl

end Sys2Proof

namespace Sys2Proof.Machine

/-! Slices, all changed at once, and HEALTH. -/

theorem State.slice_map (s : State) (f : Slice → Slice) (hf : f {} = {}) (k : Nat) :
    State.slice { s with slices := s.slices.map fun p => (p.1, f p.2) } k = f (s.slice k) := by
  have h := tblGet_map (fun _ => f) s.slices k {}
  rwa [hf] at h

/-- A cause of HEALTH changes that register and the messages to the host. -/
theorem State.setReplace_eq (s : State) (bit : Nat) :
    ∃ h m, s.setReplace bit = { s with regs := { s.regs with health := h, msix := m } } := by
  unfold State.setReplace State.setHealth
  split
  · exact ⟨s.regs.health, s.regs.msix, rfl⟩
  · unfold State.sendMsix
    split
    · exact ⟨_, _, rfl⟩
    · exact ⟨_, s.regs.msix, rfl⟩

theorem State.setReplace_slices (s : State) (bit : Nat) : (s.setReplace bit).slices = s.slices := by
  obtain ⟨h, m, e⟩ := s.setReplace_eq bit
  rw [e]

theorem State.setReplace_skews (s : State) (bit : Nat) : (s.setReplace bit).regs.skews = s.regs.skews := by
  obtain ⟨h, m, e⟩ := s.setReplace_eq bit
  rw [e]

/-! Contexts that an operation leaves as they are, or wakes. -/

theorem State.ctx_of_cores {s t : State} (h : t.cores = s.cores) (c x : Nat) : t.ctx c x = s.ctx c x := by
  rw [State.ctx, State.ctx, State.core, State.core, h]

/-- A change of a core that leaves its contexts leaves every context. -/
theorem State.ctx_updCore (s : State) (e : Nat) (f : Core → Core) (hf : ∀ k, (f k).ctxs = k.ctxs) (c x : Nat) :
    (s.updCore e f).ctx c x = s.ctx c x := by
  by_cases h : c = e
  · subst h
    rw [State.ctx, State.core_updCore, Core.ctx, hf]; rfl
  · rw [State.ctx, State.core_updCore_other _ _ _ _ h]; rfl

/-- The context is as it was, or no longer waits. -/
def KeptOrWoken (t u : Ctx) : Prop := u = t ∨ u = { t with wait := .none }

theorem KeptOrWoken.trans {t u v : Ctx} (h : KeptOrWoken t u) (h' : KeptOrWoken u v) : KeptOrWoken t v := by
  rcases h with rfl | rfl
  · exact h'
  · rcases h' with rfl | rfl
    · exact .inr rfl
    · exact .inr rfl

theorem Ctx.wakeAcks_keptOrWoken (t : Ctx) : KeptOrWoken t t.wakeAcks := by
  unfold Ctx.wakeAcks
  split
  · exact .inr rfl
  · exact .inl rfl

theorem State.releaseFwds_ctx (s : State) (e c x : Nat) : (s.releaseFwds e).ctx c x = s.ctx c x := by
  unfold State.releaseFwds
  split
  · rfl
  · exact s.ctx_updCore e (fun k => { k with fwds := [] }) (fun _ => rfl) c x

/-- The acknowledgements that contexts of a core wait for are looked at again. -/
theorem State.wakeAll_ctx (s : State) (e c x : Nat) : KeptOrWoken (s.ctx c x)
    ((s.updCore e fun k => { k with ctxs := k.ctxs.map fun p => (p.1, p.2.wakeAcks) }).ctx c x) := by
  unfold State.ctx
  by_cases h : c = e
  · subst h
    rw [State.core_updCore]
    have hmap : _ = ((s.core c).ctx x).wakeAcks := tblGet_map (fun _ => Ctx.wakeAcks) (s.core c).ctxs x {}
    exact (congrArg (KeptOrWoken _) hmap).mpr (Ctx.wakeAcks_keptOrWoken _)
  · rw [State.core_updCore_other _ _ _ _ h]
    exact .inl rfl

theorem State.endReq_ctx (s : State) (o : Out) (c x : Nat) : KeptOrWoken (s.ctx c x) ((s.endReq o).ctx c x) := by
  have hrel : ((s.dropOut o.id).releaseFwds (o.who.core % 256)).ctx c x = s.ctx c x := State.releaseFwds_ctx ..
  unfold State.endReq
  extract_lets e s1 s2 mine s3
  have hwoken : KeptOrWoken (s.ctx c x) (s2.ctx c x) := by
    rw [← hrel]
    unfold s2
    split
    · exact State.wakeAll_ctx ..
    · exact .inl rfl
  have hreqs : s3.ctx c x = s2.ctx c x := by
    unfold s3
    split <;> rfl
  rw [← hreqs] at hwoken
  split <;> exact hwoken

theorem State.endFaultTurn_cores (s : State) (id : Nat) : (s.endFaultTurn id).cores = s.cores := by
  obtain ⟨ft, es, h⟩ := s.endFaultTurn_eq id
  rw [h]

theorem State.detach_cores (s : State) (who : Agent) (id : Nat) : (s.detach who id).cores = s.cores := by
  unfold State.detach
  dsimp only
  split
  · rfl
  · exact State.endFaultTurn_cores ..

theorem State.forget_ctx (s : State) (who : Agent) (id c x : Nat) : KeptOrWoken (s.ctx c x) ((s.forget who id).ctx c x) := by
  rw [← State.ctx_of_cores (s.detach_cores who id) c x]
  unfold State.forget
  split
  · exact State.endReq_ctx ..
  · exact .inl rfl

theorem State.requestPa_ctx (s : State) (r : Req) (p : Purp) (c x : Nat) : (s.requestPa r p).ctx c x = s.ctx c x := by
  obtain ⟨os, f, es, ts, h⟩ := s.requestPa_eq r p
  rw [h]; rfl

/-- A watch of a thread is cancelled: contexts keep all but their waits. -/
theorem State.cancelWatch_ctx (s : State) (e y c x : Nat) : KeptOrWoken (s.ctx c x) ((s.cancelWatch e y).ctx c x) := by
  unfold State.cancelWatch
  dsimp only
  generalize hu : s.updCore e (fun k => { k with lcWatch := k.lcWatch.filter fun w => w.1 != y }) = u
  have hlc : u.ctx c x = s.ctx c x := hu ▸ s.ctx_updCore e _ (by intro; rfl) c x
  split
  · exact .inl rfl
  · rw [← hlc]
    split
    · exact .inl rfl
    · split
      · rw [State.requestPa_ctx]; exact State.forget_ctx ..
      · exact State.forget_ctx ..

/-! An instruction given up (16 R340). -/

theorem queuesOnly_foldl {α : Type} (f : State → α → State) (hf : ∀ s a, QueuesOnly s (f s a)) (l : List α) (s : State) :
    QueuesOnly s (l.foldl f s) := by
  induction l generalizing s with
  | nil => exact .refl s
  | cons a l ih => exact (hf s a).trans (ih _)

theorem queuesOnly_unpop (s : State) (c : Nat) (pops : List (Nat × Word)) : QueuesOnly s (s.unpop c pops) := by
  unfold State.unpop
  induction pops with
  | nil => exact .refl s
  | cons p pops ih =>
    exact (ih.trans (queuesOnly_updCore _ _ _ fun _ => rfl)).trans (queuesOnly_queueChanged ..)

theorem queuesOnly_withdraw (s : State) (rid c : Nat) : QueuesOnly s (s.withdraw rid c) :=
  queuesOnly_foldl _ (fun _ _ => (queuesOnly_updCore _ _ _ fun _ => rfl).trans (queuesOnly_queueChanged ..)) _ s

theorem queuesOnly_returnLatch (s : State) (c : Nat) (l : Latch) : QueuesOnly s (s.returnLatch c l) := by
  unfold State.returnLatch
  split
  · exact queuesOnly_unpop ..
  · exact (queuesOnly_unpop ..).trans (queuesOnly_foldl _ (fun s n => queuesOnly_withdraw s _ n) _ _)

theorem State.leaveWaits_ctx (s : State) (e y c x : Nat) : (s.leaveWaits e y).ctx c x = s.ctx c x := by
  unfold State.leaveWaits
  extract_lets claims s1
  have hleft : s1.ctx c x = s.ctx c x :=
    ((queuesOnly_leaveQueues _ e y).ctx c x).trans (s.ctx_updCore e _ (by intro; rfl) c x)
  split <;> exact hleft

/-- The context whose claim ends keeps the rest. -/
theorem Core.ctx_endPend (k : Core) (x : Nat) : ∃ p, (k.endPend x).ctx x = { k.ctx x with pend := p } := by
  unfold Core.endPend
  split
  · exact ⟨_, rfl⟩
  · have h := tblGet_map (fun y t => if y = x then { t with pend := none } else if t.wait = .vreg then { t with wait := .none } else t)
      k.ctxs x ({} : Ctx)
    simp only [if_true] at h
    exact ⟨none, h⟩

/-- An abandoned instruction's context keeps all but what it held for the instruction. -/
theorem State.abandon_ctx (s : State) (c x : Nat) : ∃ w p, (s.abandon c x).ctx c x =
    { s.ctx c x with latch := none, got := [], wait := w, waitAt := 0, cw := none, pend := p } := by
  unfold State.abandon
  extract_lets t s1 s2
  have h1 : s1.ctx c x = s.ctx c x := by
    unfold s1
    split
    · rfl
    · exact (queuesOnly_returnLatch ..).ctx c x
  obtain ⟨p, hp⟩ := (s1.core c).ctx_endPend x
  have h2 : s2.ctx c x = { s.ctx c x with
      latch := none, got := [], wait := if (s.ctx c x).bdue = 0 then .none else .serial, waitAt := 0, cw := none, pend := p } := by
    rw [← h1]
    unfold s2
    rw [State.ctx_updCtx, State.ctx, State.core_updCore, hp]
    rfl
  refine ⟨if (s.ctx c x).bdue = 0 then .none else .serial, p, ?_⟩
  rw [State.leaveWaits_ctx, State.ctx_updCore _ _ _ (by intro; rfl), h2]

/-! A boundary reached, and a trap taken (04 R76; 16 R335). -/

theorem State.payBoundaries_ctx (s : State) (c x n : Nat) : ∃ sn b w, (s.payBoundaries c x n).ctx c x =
    { s.ctx c x with serial := sn, bdue := b, wait := w } := by
  induction n generalizing s with
  | zero => exact ⟨_, _, _, rfl⟩
  | succ n ih =>
    unfold State.payBoundaries
    split
    · obtain ⟨sn, b, w, h⟩ := ih (s.updCtx c x _)
      rw [State.ctx_updCtx] at h
      exact ⟨sn, b, w, h⟩
    · exact ⟨_, _, _, rfl⟩

theorem State.reachBoundary_ctx (s : State) (c x : Nat) : ∃ sn b w, (s.reachBoundary c x).ctx c x =
    { s.ctx c x with serial := sn, bdue := b, wait := w } := by
  unfold State.reachBoundary
  extract_lets s1
  obtain ⟨sn, b, w, h⟩ := s1.payBoundaries_ctx c x (s1.ctx c x).bdue
  rw [h]
  exact ⟨sn, b, w, by rw [State.ctx_updCtx]⟩

/-- A thread whose space has a trap entry takes its first trap: the cause and its information are recorded, and what is pending
stays. -/
theorem State.trapAt_ctx (s : State) (c x : Nat) (cause : Cause) (pc : Word) (i0 i1 i2 : Nat)
    (hheld : (s.ctx c x).held = false) (hva : (s.ctx c x).trapVa ≠ 0) :
    ((s.trapAt c x cause pc i0 i1 i2).ctx c x).trapCause = BitVec.ofNat 64 (256 + cause.code) ∧
    ((s.trapAt c x cause pc i0 i1 i2).ctx c x).info0 = BitVec.ofNat 64 i0 ∧
    ((s.trapAt c x cause pc i0 i1 i2).ctx c x).skew = (s.ctx c x).skew := by
  obtain ⟨w, p, ha⟩ := s.abandon_ctx c x
  have hheld' : ((s.abandon c x).ctx c x).held = false := by rw [ha]; exact hheld
  have hva' : ((s.abandon c x).ctx c x).trapVa ≠ 0 := by rw [ha]; exact hva
  have hskew : ((s.abandon c x).ctx c x).skew = (s.ctx c x).skew := by rw [ha]
  unfold State.trapAt
  extract_lets u t t1 s1
  rw [if_neg (by simp [t, u, hheld']), if_neg (by simp [t, u, hva'])]
  obtain ⟨sn, b, w', hb⟩ := (u.setCtx c x t1).reachBoundary_ctx c x
  rw [hb, State.ctx_setCtx]
  exact ⟨rfl, rfl, hskew⟩

/-! The delivery of LEASE_SKEW (16 R339). -/

/-- A thread without requests, blocked on no access, gives up its instruction: its trap state stays. -/
theorem State.interrupt_ctx (s : State) (c x : Nat) (htags : (s.ctx c x).tags = []) (hwait : ∀ id, (s.ctx c x).wait ≠ .access id) :
    ((s.interrupt c x).ctx c x).trapCause = (s.ctx c x).trapCause ∧ ((s.interrupt c x).ctx c x).trapVa = (s.ctx c x).trapVa := by
  have hcancel := s.cancelWatch_ctx c x c x
  unfold State.interrupt
  extract_lets who s1 s2
  have hs1 : KeptOrWoken (s.ctx c x) (s1.ctx c x) := hcancel
  have hunsent : (s1.ctx c x).unsent = none := by
    rcases hs1 with h | h <;> simp [h, Ctx.unsent, Ctx.oldest, htags]
  have hidle : ∀ id, (s1.ctx c x).wait ≠ .access id := by
    rcases hs1 with h | h
    · rw [h]; exact hwait
    · rw [h]; nofun
  have hs2 : s2 = s1 := by
    unfold s2
    rw [hunsent]
    split
    · contradiction
    · next h => exact absurd h (hidle _)
    · rfl
  obtain ⟨w, p, ha⟩ := s2.abandon_ctx c x
  rw [ha, hs2]
  rcases hs1 with h | h
  · rw [h]; exact ⟨rfl, rfl⟩
  · rw [h]; exact ⟨rfl, rfl⟩

theorem doLeaseSkewDelivery_free (c x : Nat) (s : State) (h : (s.ctx c x).cstate = .free) :
    doLeaseSkewDelivery c x s = s.updCtx c x fun t => { t with skew := none } := if_pos h

/-- An active thread that has taken no trap and waits for a queue takes a pending LEASE_SKEW. -/
theorem doLeaseSkewDelivery_taken (c x : Nat) (s : State) (hact : (s.ctx c x).cstate = .active) (hheld : (s.ctx c x).held = false)
    (hwait : (s.ctx c x).wait = .queue 0) (htags : (s.ctx c x).tags = []) : doLeaseSkewDelivery c x s = s.takeSkew c x := by
  have hgive : s.canAbandon c x = true := by simp [State.canAbandon, htags, hwait]
  simp [doLeaseSkewDelivery, hact, hheld, hwait, hgive]

theorem State.takeSkew_ctx (s : State) (c x k now : Nat) (hheld : (s.ctx c x).held = false) (htags : (s.ctx c x).tags = [])
    (hwait : ∀ id, (s.ctx c x).wait ≠ .access id) (hskew : (s.ctx c x).skew = some (k, now)) (hva : (s.ctx c x).trapVa ≠ 0) :
    ((s.takeSkew c x).ctx c x).skew = none ∧
    ((s.takeSkew c x).ctx c x).trapCause = BitVec.ofNat 64 (256 + Cause.leaseSkew.code) ∧
    ((s.takeSkew c x).ctx c x).info0 = BitVec.ofNat 64 k := by
  obtain ⟨hcause, hentry⟩ := s.interrupt_ctx c x htags hwait
  simp only [State.takeSkew, hskew]
  generalize hu : ((s.interrupt c x).updCtx c x fun t => { t with skew := none }) = u
  have hctx : u.ctx c x = { (s.interrupt c x).ctx c x with skew := none } := by rw [← hu, State.ctx_updCtx]
  obtain ⟨ht, hi, hs⟩ := u.trapAt_ctx c x .leaseSkew (u.ctx c x).pc k now s.regs.skews
    (by rw [hctx]; simpa [Ctx.held, hcause] using hheld) (by rw [hctx]; simpa [hentry] using hva)
  exact ⟨hs.trans (by rw [hctx]), ht, hi⟩

/-! The lease clock (05 R106, R113). -/

theorem doLeaseSkewCheck_within (n : Nat) (s : State)
    (h : -1 ≤ (s.slice n).skew + Config.skewOf s.tick ∧ (s.slice n).skew + Config.skewOf s.tick ≤ 1) :
    doLeaseSkewCheck n s = (s.later 1024 (.leaseSkewCheck n)).updSlice n fun k =>
      { k with skew := (s.slice n).skew + Config.skewOf s.tick } := if_pos h

/-- A copy of the lease clock that has drifted starts again with an empty section; the event is counted, and its delivery is
due. -/
theorem doLeaseSkewCheck_apart (n : Nat) (s : State)
    (h : ¬ (-1 ≤ (s.slice n).skew + Config.skewOf s.tick ∧ (s.slice n).skew + Config.skewOf s.tick ≤ 1)) :
    ((doLeaseSkewCheck n s).slice n).sect = [] ∧ ((doLeaseSkewCheck n s).slice n).skew = 0 ∧
    (doLeaseSkewCheck n s).regs.skews = (s.regs.skews + 1) % 2 ^ 32 ∧
    .leaseSkewDelivery (fld s.regs.leaseCtl 31 24) (fld s.regs.leaseCtl 20 16) ∈ (doLeaseSkewCheck n s).events := by
  unfold doLeaseSkewCheck
  extract_lets k skew s0 g times skews s1 s2 lim s3 c x s4
  rw [if_neg h]
  have h3 : s3.slices = s2.slices ∧ s3.regs.skews = s2.regs.skews := by
    unfold s3
    split
    · exact ⟨s2.setReplace_slices 1, s2.setReplace_skews 1⟩
    · exact ⟨rfl, rfl⟩
  have h4 : s4.slices = s3.slices ∧ s4.regs.skews = s3.regs.skews := by
    unfold s4
    split <;> exact ⟨rfl, rfl⟩
  clear_value s4 s3
  have hslice : s4.slice n = { s1.slice n with sect := [], sds := [], skew := 0 } :=
    (State.slice_of_slices (h4.1.trans h3.1) n).trans (State.slice_updSlice ..)
  have hskews : s4.regs.skews = skews := h4.2.trans h3.2
  exact ⟨congrArg Slice.sect hslice, congrArg Slice.skew hslice, hskews, List.mem_append_right _ List.mem_cons_self⟩

theorem doReferenceLost_drops (s : State) (n : Nat) : (doReferenceLost s).regs.refLost = true ∧
    ((doReferenceLost s).slice n).sect = [] ∧ (doReferenceLost s).dense = s.dense := by
  unfold doReferenceLost
  generalize hu : ({ s with
    regs := { s.regs with refLost := true }
    slices := s.slices.map fun (p : Nat × Slice) => (p.1, { p.2 with sect := [], sds := [] }) } : State) = u
  obtain ⟨hl, m, h⟩ := u.setReplace_eq 2
  have hslice : u.slice n = { s.slice n with sect := [], sds := [] } := by
    rw [← hu]
    exact s.slice_map (fun k => { k with sect := [], sds := [] }) rfl n
  rw [h]
  refine ⟨?_, ?_, ?_⟩
  · rw [← hu]
  · show (u.slice n).sect = []
    rw [hslice]
  · rw [← hu]

/-- The decay of the counts of pages, when its period is not 0, and the timer of the next. -/
theorem doMigrationDecay_halves (s : State) (hd : fld s.regs.migCtl 31 16 ≠ 0) : doMigrationDecay s =
    State.later { s with slices := s.slices.map fun p =>
      (p.1, { p.2 with migs := p.2.migs.map fun e => { e with cnt0 := e.cnt0 / 2, cnt1 := e.cnt1 / 2 } }) }
      (1024 * fld s.regs.migCtl 31 16) .migrationDecay := by
  simp only [doMigrationDecay, hd, if_false]

/-- Settles O38: each constructor by the lemma that says what its step does; a LEASE_SKEW that is taken by what an interrupted
instruction and a trap leave of the context. -/
theorem leaseClockSteps : Obligations.LeaseClockSteps := by
  intro s n
  refine ⟨?check, ?lost, ⟨_, rfl, rfl, rfl⟩, fun hd => ?decay, fun c x hfree => ?dropped,
    fun c x k now hact hheld hwait htags hskew hva => ?taken⟩
  case check =>
    rintro _ rfl
    refine ⟨fun h => ?within, fun h => ⟨_, rfl, doLeaseSkewCheck_apart n (s.due (.leaseSkewCheck n)) h⟩⟩
    refine ⟨_, congrArg Host.Outcome.next (doLeaseSkewCheck_within n (s.due _) h), ?_, ?_,
      List.mem_append_right _ List.mem_cons_self⟩
    · rw [State.slice_updSlice]; rfl
    · rw [State.slice_updSlice]; rfl
  case lost => exact ⟨_, rfl, doReferenceLost_drops (s.due .referenceLost) n⟩
  case decay =>
    refine ⟨_, congrArg Host.Outcome.next (doMigrationDecay_halves (s.due _) hd), ?_, List.mem_append_right _ List.mem_cons_self⟩
    exact congrArg Slice.migs (s.slice_map (fun k =>
      { k with migs := k.migs.map fun e => { e with cnt0 := e.cnt0 / 2, cnt1 := e.cnt1 / 2 } }) rfl n)
  case dropped =>
    exact ⟨_, congrArg Host.Outcome.next (doLeaseSkewDelivery_free c x (s.due _) hfree), by rw [State.ctx_updCtx], rfl⟩
  case taken =>
    exact ⟨_, congrArg Host.Outcome.next (doLeaseSkewDelivery_taken c x (s.due _) hact hheld hwait htags),
      State.takeSkew_ctx (s.due _) c x k now hheld htags (fun id h => by cases hwait.symm.trans h) hskew hva⟩

end Sys2Proof.Machine
end

section
/-! SUPPORT. What one step of the machine performs: a settled issue, the step that is due, or the slot that can issue (07 R151; 10
R200, R209; 16 R339). -/

namespace Sys2Proof.Machine

/-! The turn of a home slice's ports (03 R70). -/

theorem State.homeTurn_of_none (s : State) (e : Ev) (rest : List Ev) (h : s.homeArrival e = none) :
    s.homeTurn e rest = (e, rest, s) := by
  rw [State.homeTurn, h]

/-- The step whose turn it is, of those due, is the first one or brings a request for the same line; the others stay due. -/
theorem State.homeTurn_of_some (s : State) (e : Ev) (rest : List Ev) (l p : Nat) (h : s.homeArrival e = some (l, p)) :
    ∃ x u, s.homeTurn e rest = (x, (e :: rest).erase x, u) ∧ x ∈ e :: rest ∧
      (x = e ∨ ∃ p', s.homeArrival x = some (l, p')) := by
  unfold State.homeTurn
  simp only [h]
  generalize hdue : (e :: rest).filterMap _ = due
  refine ⟨_, _, rfl, ?_⟩
  cases hf : due.find? _ with
  | none => exact ⟨List.mem_cons_self, .inl rfl⟩
  | some d =>
    have hd := List.mem_of_find?_eq_some hf
    rw [← hdue] at hd
    obtain ⟨x, hx, hxd⟩ := List.mem_filterMap.mp hd
    split at hxd
    · next a ha =>
      obtain ⟨hline, hd⟩ := Option.ite_none_right_eq_some.mp hxd
      cases hd
      exact ⟨hx, .inr ⟨a.2, by rw [← hline]; exact ha⟩⟩
    · cases hxd

/-! What happens in a step, by what is settled, due or ready (00 R9). -/

theorem State.act_of_next (s : State) (c x : Nat) (h : s.next = some (c, x)) : s.act = s.issueThread c x := by
  rw [State.act, h]

theorem State.act_of_due (s : State) (e : Ev) (r : List Ev) (hnext : s.next = none) (hdue : s.firstDue = some (e, r))
    (hchoices : s.choices = []) : s.act = s.perform e r := by
  rw [State.act, hnext, hdue, hchoices]

theorem State.act_of_slot (s : State) (p : Nat × Nat) (hnext : s.next = none) (hdue : s.firstDue = none)
    (hchoices : s.choices = [p]) : s.act = s.runSlot p := by
  have hfirst : nthD [p] (Config.turn s.tick % [p].length) p = p := by simp [Nat.mod_one, nthD]
  rw [State.act, hnext, hdue, hchoices]
  exact congrArg s.runSlot hfirst

/-- Without TRIP, the step that is due first is the first in the list (17 R363). -/
theorem State.firstDue_untripped (s : State) (e : Ev) (r : List Ev) (ht : s.tripped = false) (he : s.events = e :: r) :
    s.firstDue = some (e, r) := by
  simp [State.firstDue, ht, he]

/-- A slot that picks a thread issues its instruction, and is not taken when the thread turns out to be blocked. -/
theorem State.runSlot_picked {s s1 t : State} {p : Nat × Nat} {x : Nat} (hpick : s.issueSlot p.1 p.2 = some (x, s1))
    (h : s1.issueThread p.1 x = .next t) : s.runSlot p = .next (t.untaken s p.1 x) := by
  rw [State.runSlot, hpick]
  simp only [h]

/-- A step ends with the passing of time. -/
theorem step_of_act {s t : State} (h : s.wakeTimers.act = .next t) : step s = .next t.pass := by
  rw [step, h]

/-! The instruction that a thread issues. -/

/-- A thread that has its space descriptor, no LEASE_SKEW to take and its line fetched runs the words at its PC. -/
theorem State.issueThread_fetched {s s1 t : State} {c x : Nat} {ws : List IWord}
    (hdesc : State.descReady { s with cur := (c, x), next := none } c x = some s1) (hact : (s1.ctx c x).cstate = .active)
    (hskew : (s.ctx c x).skew = none ∨ (s.ctx c x).held = true ∨ (s.ctx c x).got ≠ [])
    (hfetch : (s1.core c).fetch (s1.ctx c x) = .ok ws) (h : s1.execWords ws = .next t) :
    s.issueThread c x = .next (t.logUndo s1 c x) := by
  have htake : ((s.ctx c x).skew.isSome && !(s.ctx c x).held && (s.ctx c x).got.isEmpty) = false := by
    rcases hskew with h | h | h <;> simp [h]
  unfold State.issueThread
  extract_lets s0 t0
  have ht0 : t0 = s.ctx c x := rfl
  rw [hdesc]
  simp [hact, ht0, htake, hfetch, h]

theorem State.execWords_decoded {s : State} {ws : List IWord} {i : Instr} (h : decode ws = .ok i) :
    s.execWords ws = exec i { s with ev := none } := by
  rw [State.execWords, h]

theorem State.execWords_illegal {s : State} {ws : List IWord} {e : Reject} (h : decode ws = .error e) :
    s.execWords ws = exec .illegalEncoding
      (s.due (.illegalEncoding (nthD ws 0 0#32) (nthD ws 1 0#32) (nthD ws 2 0#32))) := by
  rw [State.execWords, h]; rfl

/-! What is noted with outstanding requests, and a slot that is not taken. -/

theorem State.logUndo_of_no_tags (s old : State) (c x : Nat) (h : (old.ctx c x).tags = []) : s.logUndo old c x = s := by
  simp [State.logUndo, h]

theorem State.logUndo_eq (s old : State) (c x : Nat) : ∃ l, s.logUndo old c x = { s with cores := l } := by
  unfold State.logUndo
  split
  · exact ⟨s.cores, rfl⟩
  · exact ⟨_, rfl⟩

theorem State.untaken_of_not_blocked (s old : State) (c x : Nat) (h : s.blocked c x = false) : s.untaken old c x = s := by
  simp [State.untaken, h]

/-- Settles O58: each kind of step by what `act` does in it. -/
theorem stepRunsDecoded : Obligations.StepRunsDecoded := by
  intro s s0
  refine ⟨fun c x s1 ws hnext hdesc hact hskew hfetch => ⟨fun i t hdec hex => ?decoded, fun e t hdec hex => ?illegal⟩,
    fun e r t hnext hev htrip hch => ?due, fun p x s1 t hnext hdue hch hpick hissue => ⟨?slot, t.untaken_of_not_blocked s0 p.1 x⟩,
    fun old t c x => ⟨t.logUndo_of_no_tags old c x, t.logUndo_eq old c x⟩, fun t => rfl⟩
  case decoded =>
    rw [← State.execWords_decoded hdec] at hex
    exact step_of_act ((s0.act_of_next c x hnext).trans (State.issueThread_fetched hdesc hact hskew hfetch hex))
  case illegal =>
    rw [← State.execWords_illegal hdec] at hex
    exact step_of_act ((s0.act_of_next c x hnext).trans (State.issueThread_fetched hdesc hact hskew hfetch hex))
  case due =>
    have hdue : s0.events = e :: s0.events.tail := by
      simp [s0, State.wakeTimers, hev]
    refine ⟨fun hex => ?_, s0.homeTurn_of_none e _, fun l p ha => ?_⟩
    · exact step_of_act ((s0.act_of_due e _ hnext (s0.firstDue_untripped e _ htrip hdue) hch).trans hex)
    · obtain ⟨y, u, hq, hmem, hline⟩ := s0.homeTurn_of_some e s0.events.tail l p ha
      rw [hq, hdue]
      exact ⟨hmem, rfl, hline⟩
  case slot =>
    exact step_of_act ((s0.act_of_slot p hnext hdue hch).trans (State.runSlot_picked hpick hissue))

end Sys2Proof.Machine
end

section
/-! SUPPORT. What the exit of a thread leaves of its core: its context, its group and its tiles (07 R152, R154). -/

namespace Sys2Proof

theorem tblDel_eq_filter {α : Type} (m : Tbl α) (k : Nat) : tblDel m k = m.filter fun p => p.1 != k := by
  induction m with
  | nil => rfl
  | cons p r ih =>
    rw [tblDel, ih]
    split
    · next h => simp [← h]
    · next h => simp [Ne.symm h]

theorem mem_tblDel {α : Type} (m : Tbl α) (k : Nat) (q : Nat × α) : q ∈ tblDel m k ↔ q ∈ m ∧ q.1 ≠ k := by
  simp [tblDel_eq_filter]

theorem mem_countUp {i n k : Nat} : k ∈ countUp i n ↔ i ≤ k ∧ k < i + n := by
  induction n generalizing i with
  | zero => simp [countUp]
  | succ n ih => rw [countUp, List.mem_cons, ih]; omega

/-- What one element of a list makes true, and every element keeps, holds at the end of the fold. -/
theorem foldl_of_mem {σ α : Type} {f : σ → α → σ} {P : σ → Prop} {l : List α} {a : α} (ha : a ∈ l) (hmake : ∀ s, P (f s a))
    (hkeep : ∀ s b, P s → P (f s b)) (s : σ) : P (l.foldl f s) := by
  obtain ⟨l1, l2, rfl⟩ := List.append_of_mem ha
  rw [List.foldl_append, List.foldl_cons]
  exact List.foldlRecOn l2 f (hmake _) fun s hs b _ => hkeep s b hs

end Sys2Proof

namespace Sys2Proof.Machine

/-! Operations that free tiles. -/

/-- The thread that issues, memory and the contexts of every core are the same. -/
structure ThreadsKept (s t : State) : Prop where
  cur : t.cur = s.cur
  dense : t.dense = s.dense
  ctxs : ∀ c, (t.core c).ctxs = (s.core c).ctxs

theorem ThreadsKept.trans {s t u : State} (h : ThreadsKept s t) (h' : ThreadsKept t u) : ThreadsKept s u :=
  ⟨h'.cur.trans h.cur, h'.dense.trans h.dense, fun c => (h'.ctxs c).trans (h.ctxs c)⟩

theorem ThreadsKept.ctx {s t : State} (h : ThreadsKept s t) (c x : Nat) : t.ctx c x = s.ctx c x := by
  rw [State.ctx, Core.ctx, h.ctxs]; rfl

theorem threadsKept_updCore (s : State) (e : Nat) (f : Core → Core) (hctxs : ∀ k, (f k).ctxs = k.ctxs) :
    ThreadsKept s (s.updCore e f) := by
  refine ⟨rfl, rfl, fun c => ?_⟩
  by_cases h : c = e
  · subst h; rw [State.core_updCore, hctxs]
  · rw [State.core_updCore_other _ _ _ _ h]

/-- The groups of every core are the same as well; tiles of cores may have been freed. -/
structure TilesFreed (s t : State) : Prop extends ThreadsKept s t where
  groups : ∀ c, (t.core c).groups = (s.core c).groups
  tiles : ∀ c, (t.core c).tiles ⊆ (s.core c).tiles

theorem TilesFreed.refl (s : State) : TilesFreed s s := ⟨⟨rfl, rfl, fun _ => rfl⟩, fun _ => rfl, fun _ _ h => h⟩

theorem TilesFreed.trans {s t u : State} (h : TilesFreed s t) (h' : TilesFreed t u) : TilesFreed s u :=
  ⟨h.toThreadsKept.trans h'.toThreadsKept, fun c => (h'.groups c).trans (h.groups c),
    fun c => List.Subset.trans (h'.tiles c) (h.tiles c)⟩

/-- An operation that changes no core. -/
theorem tilesFreed_of_cores {s t : State} (hcores : t.cores = s.cores) (hcur : t.cur = s.cur) (hdense : t.dense = s.dense) :
    TilesFreed s t := by
  have hcore : ∀ c, t.core c = s.core c := fun c => by rw [State.core, State.core, hcores]
  exact ⟨⟨hcur, hdense, fun c => by rw [hcore]⟩, fun c => by rw [hcore], fun c => by rw [hcore]; exact List.Subset.refl _⟩

theorem tilesFreed_updCore (s : State) (e : Nat) (f : Core → Core) (hctxs : ∀ k, (f k).ctxs = k.ctxs)
    (hgroups : ∀ k, (f k).groups = k.groups) (htiles : ∀ k, (f k).tiles ⊆ k.tiles) : TilesFreed s (s.updCore e f) := by
  refine ⟨threadsKept_updCore s e f hctxs, fun c => ?_, fun c => ?_⟩
  all_goals by_cases h : c = e
  · subst h; rw [State.core_updCore, hgroups]
  · rw [State.core_updCore_other _ _ _ _ h]
  · subst h; rw [State.core_updCore]; exact htiles _
  · rw [State.core_updCore_other _ _ _ _ h]; exact List.Subset.refl _

theorem tilesFreed_foldl {α : Type} (f : State → α → State) (hf : ∀ s a, TilesFreed s (f s a)) (l : List α) (s : State) :
    TilesFreed s (l.foldl f s) :=
  List.foldlRecOn l f (.refl s) fun t ht a _ => ht.trans (hf t a)

theorem tilesFreed_delTile (s : State) (e h : Nat) : TilesFreed s (s.updCore e fun k => { k with tiles := tblDel k.tiles h }) :=
  tilesFreed_updCore s e _ (fun _ => rfl) (fun _ => rfl) fun k q hq => ((mem_tblDel k.tiles h q).mp hq).1

theorem State.freeTile_tilesFreed (s : State) (c h : Nat) : TilesFreed s (s.freeTile c h) := by
  unfold State.freeTile
  split
  · exact .refl s
  · exact (tilesFreed_foldl _ (fun s e => tilesFreed_delTile s e h) _ s).trans (tilesFreed_of_cores rfl rfl rfl)

theorem State.freeTiles_tilesFreed (s : State) (c : Nat) (p : Nat → Tile → Bool) : TilesFreed s (s.freeTiles c p) :=
  tilesFreed_foldl (fun s (e : Nat × Tile) => s.freeTile c e.1) (fun s e => s.freeTile_tilesFreed c e.1) _ s

/-- An entry lies on its own core. -/
theorem mem_tileCores (level c : Nat) : c ∈ tileCores level c := by
  unfold tileCores
  split
  · exact List.mem_cons_self
  · exact mem_countUp.mpr ⟨by omega, by omega⟩

/-- A handle that has been freed has no valid entry. -/
theorem State.freeTile_gone (s : State) (c h : Nat) (q : Nat × Tile) (hq : q ∈ ((s.freeTile c h).core c).tiles) (hh : q.1 = h) :
    q.2.kind = 2 := by
  unfold State.freeTile at hq
  split at hq
  · next hnone =>
    simp only [Core.tile, Option.map_eq_none_iff, List.find?_eq_none] at hnone
    have := hnone q hq
    simpa [hh] using this
  · next t _ =>
    have hdel : ∀ r ∈ (((tileCores t.level c).foldl (fun s e => s.updCore e fun k => { k with tiles := tblDel k.tiles h }) s).core
        c).tiles, r.1 ≠ h :=
      foldl_of_mem (P := fun u : State => ∀ r ∈ (u.core c).tiles, r.1 ≠ h) (mem_tileCores t.level c)
        (fun u r hr => by rw [State.core_updCore] at hr; exact ((mem_tblDel _ _ _).mp hr).2)
        (fun u e hu r hr => hu r ((tilesFreed_delTile u e h).tiles c hr)) s
    exact absurd hh (hdel q hq)

/-- No valid entry with the property is left. -/
theorem State.freeTiles_gone (s : State) (c : Nat) (p : Nat → Tile → Bool) (q : Nat × Tile)
    (hq : q ∈ ((s.freeTiles c p).core c).tiles) (hkind : q.2.kind ≠ 2) : p q.1 q.2 = false := by
  refine Bool.eq_false_iff.mpr fun hp => ?_
  have hmem : q ∈ (s.core c).tiles.filter fun e => e.2.kind != 2 && p e.1 e.2 := by
    simpa [hkind, hp] using (s.freeTiles_tilesFreed c p).tiles c hq
  have hgone : q ∈ ((s.freeTiles c p).core c).tiles → q.2.kind = 2 :=
    foldl_of_mem (P := fun u : State => q ∈ (u.core c).tiles → q.2.kind = 2) hmem
      (fun u hu => u.freeTile_gone c q.1 q hu rfl)
      (fun u e hu hq => hu ((u.freeTile_tilesFreed c e.1).tiles c hq)) s
  exact hkind (hgone hq)

/-! The work of a thread that ends (07 R152). -/

theorem State.taskEnd_tilesFreed (s : State) (c seq : Nat) : TilesFreed s (s.taskEnd c seq) := by
  unfold State.taskEnd
  split
  · exact .refl s
  · extract_lets w s1 tu s2 add
    have hadd : ∀ i u, TilesFreed u (add i u) := by
      intro i u
      unfold add
      split <;> exact tilesFreed_of_cores rfl rfl rfl
    have h1 : TilesFreed s s1 := s.freeTiles_tilesFreed ..
    have h2 : TilesFreed s1 s2 := tilesFreed_of_cores rfl rfl rfl
    exact ((h1.trans h2).trans (hadd 0 s2)).trans (hadd 1 _)

theorem State.complete_tilesFreed (s : State) (c : Nat) (r : StartRec) : TilesFreed s (s.complete c r) := by
  have hlaunches : ∀ f : Core → List LaunchRec, TilesFreed s (s.updCore c fun k => { k with launches := f k }) := fun f =>
    tilesFreed_updCore s c _ (fun _ => rfl) (fun _ => rfl) fun _ => List.Subset.refl _
  unfold State.complete
  split
  · next key =>
    split
    · exact .refl s
    · split
      · exact (hlaunches fun k => k.launches.filter fun l => l.key != key).trans (tilesFreed_of_cores rfl rfl rfl)
      · exact hlaunches _
  · exact s.taskEnd_tilesFreed ..
  · exact tilesFreed_of_cores rfl rfl rfl
  all_goals exact .refl s

theorem State.post_tilesFreed (s : State) (cube : Nat) (who : Agent) (id : Nat) (m : Msg) :
    TilesFreed s (s.post cube who id m) := by
  obtain ⟨f, es, ts, h⟩ := s.post_eq cube who id m
  rw [h]
  exact tilesFreed_of_cores rfl rfl rfl

/-! The group that a thread leaves (07 R154). -/

theorem State.emit_emits (s : State) (es : List Ev) (e : Ev) : (s.emits es).emit e = s.emits (es ++ [e]) := by
  simp [State.emits, State.emit]

/-- The end of a group frees tiles and removes the group; other steps may become due. -/
theorem State.endGroup_eq (s : State) (c g : Nat) : ∃ u es, TilesFreed s u ∧ s.endGroup c g =
    (u.updCore c fun k => { k with groups := tblDel k.groups g, claims := k.claims.filter fun q => q.group != g }).emits es := by
  unfold State.endGroup
  extract_lets s1 s2 s3
  have h1 : TilesFreed s s1 := (s.freeTiles_tilesFreed c _).trans (tilesFreed_of_cores rfl rfl rfl)
  obtain ⟨es, h3⟩ : ∃ es, s3 = s2.emits es := by
    unfold s3
    split
    · exact ⟨[], by simp [State.emits]⟩
    · exact ⟨_, rfl⟩
  rw [h3]
  split
  · exact ⟨s1, es, h1, rfl⟩
  · exact ⟨s1, es ++ [.followOnMma c none], h1, s2.emit_emits es _⟩

theorem State.leaveGroup_threadsKept (s : State) (c x g : Nat) : ThreadsKept s (s.leaveGroup c x g) := by
  unfold State.leaveGroup
  dsimp only
  split
  · obtain ⟨u, es, hu, h⟩ := s.endGroup_eq c g
    rw [h]
    have hdel := threadsKept_updCore u c
      (fun k => { k with groups := tblDel k.groups g, claims := k.claims.filter fun q => q.group != g }) fun _ => rfl
    exact hu.toThreadsKept.trans ⟨hdel.cur, hdel.dense, hdel.ctxs⟩
  · exact threadsKept_updCore _ _ _ fun _ => rfl

/-- The last member's leaving ends the group. -/
theorem State.leaveGroup_last (s : State) (c x g : Nat) (h : ((s.core c).group g).members.erase x = []) :
    ∀ p ∈ ((s.leaveGroup c x g).core c).groups, p.1 ≠ g := by
  obtain ⟨u, es, -, he⟩ := s.endGroup_eq c g
  intro p hp
  simp only [State.leaveGroup, h, List.isEmpty_nil, if_true, he, State.core_emits, State.core_updCore] at hp
  exact ((mem_tblDel _ _ _).mp hp).2

theorem State.leaveGroup_members (s : State) (c x g : Nat) (h : ((s.core c).group g).members.erase x ≠ []) :
    (((s.leaveGroup c x g).core c).group g).members = ((s.core c).group g).members.erase x := by
  have hleft : (((s.core c).group g).members.erase x).isEmpty = false := List.isEmpty_eq_false_iff.mpr h
  simp only [State.leaveGroup, hleft, Bool.false_eq_true, if_false, State.core_updCore]
  rw [Core.updGroup, Core.group, tblGet_tblSet_same]

/-! The exit. -/

/-- The state in which a thread that exits has left its group, or its own tiles and engines have been freed. -/
def State.leftBy (s : State) (c x : Nat) : State :=
  if (s.ctx c x).gv then s.leaveGroup c x (s.ctx c x).group
  else (s.freeTiles c fun _ e => e.ownk == 1 && e.ownid == x).ownerEnds c false x

/-- Then its completion work is done, its context freed, and who waits for it looks again. -/
theorem State.exitThread_eq (s : State) (c x : Nat) : ∃ u es, TilesFreed (s.leftBy c x) u ∧
    s.exitThread c x = (u.updCtx c x fun t => t.boundary.freed).emits es := by
  unfold State.exitThread
  extract_lets t s1 s2 s3
  have h2 : TilesFreed s1 s2 := by
    unfold s2
    split
    · exact s1.complete_tilesFreed ..
    · exact s1.post_tilesFreed ..
  obtain ⟨es, h3⟩ : ∃ es, s3 = (s2.updCtx c x fun t => t.boundary.freed).emits es := ⟨_, rfl⟩
  rw [h3]
  split
  · exact ⟨s2, es ++ [.spillWake c], h2, State.emit_emits _ es _⟩
  · exact ⟨s2, es, h2, rfl⟩

theorem State.leftBy_of_gv (s : State) (c x : Nat) (h : (s.ctx c x).gv = true) :
    s.leftBy c x = s.leaveGroup c x (s.ctx c x).group := if_pos h

/-- Without a group, no valid entry of a tile of its own is left. -/
theorem State.leftBy_no_own_tile (s : State) (c x : Nat) (h : (s.ctx c x).gv = false) (q : Nat × Tile)
    (hq : q ∈ ((s.leftBy c x).core c).tiles) (hkind : q.2.kind ≠ 2) (hown : q.2.ownk = 1) : q.2.ownid ≠ x := by
  rw [State.leftBy, h] at hq
  simpa [hown] using s.freeTiles_gone _ _ q hq hkind

theorem State.leftBy_threadsKept (s : State) (c x : Nat) : ThreadsKept s (s.leftBy c x) := by
  unfold State.leftBy
  split
  · exact s.leaveGroup_threadsKept ..
  · have h := s.freeTiles_tilesFreed c fun _ e => e.ownk == 1 && e.ownid == x
    exact ⟨h.cur, h.dense, h.ctxs⟩

/-- What the exit leaves. -/
structure Exited (s t : State) (c x : Nat) : Prop where
  cur : t.cur = s.cur
  dense : t.dense = s.dense
  ctx : t.ctx c x = (s.ctx c x).boundary.freed
  groups : (t.core c).groups = ((s.leftBy c x).core c).groups
  tiles : (t.core c).tiles ⊆ ((s.leftBy c x).core c).tiles

theorem State.exitThread_exited (s : State) (c x : Nat) : Exited s (s.exitThread c x) c x := by
  obtain ⟨u, es, hu, h⟩ := s.exitThread_eq c x
  have hk := (s.leftBy_threadsKept c x).trans hu.toThreadsKept
  rw [h]
  refine ⟨hk.cur, hk.dense, ?_, ?_, ?_⟩
  · rw [State.ctx_emits, State.ctx_updCtx, hk.ctx]
  · rw [State.core_emits, State.updCtx, State.core_setCtx, Core.setCtx_groups, hu.groups]
  · rw [State.core_emits, State.updCtx, State.core_setCtx, Core.setCtx_tiles]
    exact hu.tiles c

theorem Exited.group {s t : State} {c x : Nat} (h : Exited s t c x) (g : Nat) :
    (t.core c).group g = ((s.leftBy c x).core c).group g := by
  rw [Core.group, Core.group, h.groups]

/-- `exit` at a boundary, its accesses performed, is the exit of the thread. -/
theorem exec_exit {h : Hd} {s s1 : State} {v : Vals} (hr : Runs (.exit h) s v s1) (hp : Passes s) (hs : Settled s) :
    exec (.exit h) s = .next (s1.exitThread s1.me s1.mx) := by
  have hpass : s1.serialClear s1.me s1.mx = true := hr.passes hp
  have hrel : s1.cx.released (max 3 s1.cx.relScope) = true := by rw [hr.cx]; exact hs
  rw [hr.next rfl (body := fun _ s => s.atBoundary fun s => s.afterRelease 3 fun s => s.exitThread s.me s.mx) rfl]
  rw [State.atBoundary, if_pos hpass, State.afterRelease, if_pos hrel]

theorem Core.mem_tiles_of_tile {k : Core} {n : Nat} {e : Tile} (h : k.tile n = some e) : ∃ p ∈ k.tiles, p.2 = e := by
  obtain ⟨p, hp, rfl⟩ := Option.map_eq_some_iff.mp h
  exact ⟨p, List.mem_of_find?_eq_some hp, rfl⟩

/-- Settles O35: the instruction is `exitThread`, whose context is freed and whose core is as its group, or its tiles, leave it. -/
theorem exitFreesContext : Obligations.ExitFreesContext := by
  intro h s s1 v hr hp hs
  have he := s1.exitThread_exited s1.me s1.mx
  refine ⟨_, exec_exit hr hp hs, ?_⟩
  generalize s1.exitThread s1.me s1.mx = t at he
  have hcx : s1.ctx s1.me s1.mx = { s.cx with latch := s1.cx.latch } := hr.cx
  have hmx : s1.mx = s.mx := congrArg Prod.snd hr.cur
  have hgv : (s1.ctx s1.me s1.mx).gv = s.cx.gv := by rw [hcx]; rfl
  have hgroup : (s1.ctx s1.me s1.mx).group = s.cx.group := by rw [hcx]; rfl
  have hmembers : ((s.core s.me).group s.cx.group).members = ((s1.core s1.me).group s.cx.group).members := by
    rw [hr.me, Core.group, Core.group, hr.sameCore]
  rw [hmembers, ← hr.me, ← hmx, ← hgroup, ← hgv]
  refine ⟨?ctx, fun hin => ⟨?ends, ?goesOn⟩, fun hout n e htile hkind hown => ?tiles, he.dense.trans (by rw [hr.sameCube])⟩
  case ctx =>
    rw [State.cx, he.cur]
    refine he.ctx.trans ?_
    rw [hcx]; rfl
  case ends =>
    rw [he.groups, s1.leftBy_of_gv _ _ hin]
    exact s1.leaveGroup_last _ _ _
  case goesOn =>
    rw [he.group, s1.leftBy_of_gv _ _ hin]
    exact s1.leaveGroup_members _ _ _
  case tiles =>
    obtain ⟨q, hq, rfl⟩ := Core.mem_tiles_of_tile htile
    exact s1.leftBy_no_own_tile _ _ hout q (he.tiles hq) hkind hown

end Sys2Proof.Machine
end

section
/-! SUPPORT. A state in which an arrival takes an inbox slot, yet the inbox does not end as it was with the arrival behind (07 R160,
R164; 14 R309; 16 R340). -/

namespace Sys2Proof.Machine

/-- An outstanding request of a thread, number `id`, whose instruction has no result; it has failed with cause `code`, or not
(0). -/
def plainTag (id code : Nat) : Tag :=
  { id := id, pc := 0#64, dkind := 3, dest := 0, rid := none, width := 0, signed := false, ge := none, acq := none, va := 0,
    left := true, bound := false, latch := none, fcause := code, finfo1 := 0, finfo2 := 0 }

/-- An arrival that a `replay` of context 0 waits for under request number 1. -/
def replayedArrival : Arrival :=
  { kind := 1, src := 0, par := true, len := 0, tag := 0, hnd := 0, space := 0, tile := 0, body := [], acq := none,
    org := ⟨0, 0, 0⟩, ident := 0, mig := none, waiter := some (0, 1) }

/-- Context 0 of core 0 has the arrival `replayedArrival` half written out by an `mpop`, and two requests outstanding: 1, and 2,
which has failed and traps when 1 has ended. -/
def popAndReplay : State :=
  { cores := [(0, { ctxs := [(0, { cstate := .active, tags := [(0, plainTag 1 0), (1, plainTag 2 6)] })],
                    popping := [(0, replayedArrival)] })] }

/-- The slot that the arrival takes ends request 1, the trap of request 2 gives up the `mpop`, and its arrival returns to the front
of the inbox. -/
theorem doInboxArrival_popAndReplay :
    ((doInboxArrival 0 replayedArrival (popAndReplay.due (.inboxArrival 0 replayedArrival))).core 0).inbox =
      [replayedArrival, replayedArrival] := by
  decide

/-- Refutes O45: the slot that an arrival takes can end a request of the thread that replayed it, whose next request then traps. The
`mpop` that this thread has under way is given up, and the inbox is not what it was with the arrival behind. No premise of the
clause excludes such a state, though a thread issues no `mpop` while requests of it are outstanding (11 R219). -/
theorem not_startsAndTasks : ¬ Obligations.StartsAndTasks := by
  intro h
  obtain ⟨_, hcore, _⟩ := h
  obtain ⟨_, _, harrival, _⟩ := hcore popAndReplay 0
  obtain ⟨t, ht, htaken⟩ := harrival replayedArrival (by decide)
  cases ht
  rw [if_pos (by decide)] at htaken
  obtain ⟨hinbox, _⟩ := htaken
  rw [doInboxArrival_popAndReplay] at hinbox
  exact absurd (congrArg List.length hinbox) (by decide)

end Sys2Proof.Machine
end
